-- ==== Sys2Proof/Word.lean ====
section
/-!
DEFINITION. The word types of the GH9620 model and the plain containers every layer uses: bytes, byte strings,
a sorted table keyed by numbers, and a byte memory in one canonical form.
-/
namespace Sys2Proof

/-- One octet. -/
abbrev Byte := BitVec 8

/-- A byte string, first byte first. -/
abbrev Bytes := List Byte

/-- A 16-bit quantity of the register map or the command envelope. -/
abbrev Word16 := BitVec 16

/-- A 32-bit register. -/
abbrev Word := BitVec 32

/-- A 64-bit register, host address or wrapping counter. -/
abbrev Word64 := BitVec 64

/-- Sparse data by key: the keys rise strictly, and a key that is not listed holds the default its reader names. -/
abbrev Tab (α : Type) := List (Nat × α)

/-- A byte memory: `fill` is what an unlisted address reads as, and `cells` lists, by strictly rising address, the
bytes that differ from it. -/
structure Mem where
  fill : Byte
  cells : List (Nat × Byte)
deriving DecidableEq, Repr

end Sys2Proof
end

