-- ==== Sys2Proof/Syntax.lean ====
section
/-!
DEFINITION. The commands of the GH9620 as a block: one constructor per row of the operation table (opcode_table.json),
with the operands the row's sender gives.  An opcode row's operand is the command's source; an event row's operands are
what the outside presents with the event.
-/
namespace Sys2Proof

/-- A port number of Table 0.6 (R15): 0–27 external, 28 HP, 29 MP, 30 GW, 31 RP. -/
abbrev Port := Fin 32

/-- The view through which the direct window is reached (R298): PCIe functions F0 to F3, or XSPI-H. -/
inductive View
  | f0 | f1 | f2 | f3 | xspi
deriving DecidableEq, Repr

/-- A command as it stands in the envelope of Table 2.2, its OPCODE apart (R41).  `transported` is the length the
transport carried, header included, which check 1 of R57 compares with LENGTH. -/
structure Packet where
  tag : Word16
  flags : Word16
  length : Word16
  cred : Word
  sequence : Word
  auth : Bytes
  payload : Bytes
  transported : Nat
deriving DecidableEq, Repr

/-- How a command reached the device, with what its transport needs for the reply (R48, R51, R53). -/
inductive Via
  /-- Command ring of F0 or F1: descriptor index, REPLY_MAX and REPLY_ADDR of Table 2.6. -/
  | ring (f : Fin 2) (descIndex : Nat) (replyMax : Nat) (replyAddr : Word64)
  /-- The XSPI-H mailbox. -/
  | mailbox
  /-- A frame at MP: the port it came in by, its source address and its VLAN tag where it carried one. -/
  | inBand (inPort : Port) (src : Nat) (vlan : Option Word16)
deriving DecidableEq, Repr

/-- Where the command of an opcode row stands: it arrives now on a transport, or a doorbell has already had it accepted
and the row begins it. -/
inductive CmdSource
  | arriving (via : Via) (p : Packet)
  | accepted (tag : Word16)
deriving DecidableEq, Repr

/-- What the fetch of one submission descriptor brought (R48, R50). -/
inductive SqFetch
  /-- A PCIe error while the descriptor was read. -/
  | descError
  /-- The 32 descriptor bytes, and the command bytes read for it: none where a PCIe error fell in that read. -/
  | read (desc : Bytes) (command : Option Bytes)
deriving DecidableEq, Repr

/-- The strap levels sampled at the end of a reset episode (R361). -/
structure Straps where
  boot : BitVec 3
  profile : BitVec 2
  secondary : Bool
  clkSel : Bool
deriving DecidableEq, Repr

/-- The supplies that carry a monitor (Table 19.6). -/
inductive Supply
  | vddCore | vddPhy | vddSrds | vdda18 | vddio18 | vddMram | vddio33 | vbkp
deriving DecidableEq, Repr

/-- The timing content of a one-step Sync or of a Follow_Up (Table 8.3): preciseOriginTimestamp, correctionField in
units of 2^-16 ns, and the rateRatio as its offset from 1 in units of 2^-44. -/
structure TimeInfo where
  originSec : Nat
  originNs : Nat
  correction : Int
  rateOffset : Int
deriving DecidableEq, Repr

/-- A received Sync: `info` is present in a one-step Sync (R227). -/
structure SyncMessage where
  domainNumber : Byte
  sequenceId : Word16
  correction : Int
  info : Option TimeInfo
deriving DecidableEq, Repr

/-- A received Follow_Up (R227). -/
structure FollowUpMessage where
  domainNumber : Byte
  sequenceId : Word16
  info : TimeInfo
deriving DecidableEq, Repr

/-- A received message of the Common Mean Link Delay Service (R227).  Times are in units of 2^-16 ns. -/
inductive PdelayMessage
  /-- Pdelay_Req. -/
  | req (sequenceId : Word16)
  /-- Pdelay_Resp: the peer's receive instant t2. -/
  | resp (sequenceId : Word16) (t2 : Int)
  /-- Pdelay_Resp_Follow_Up: the peer's transmit instant t3. -/
  | respFollowUp (sequenceId : Word16) (t3 : Int)
deriving DecidableEq, Repr

/-- What a read of one Basin row shows (R169–R173): the frame whose cell the row holds, the lanes with a single-bit error,
with a double-bit error, and with an error the inner code did not see; and how many copies of its link word or queue
entry read uncorrectable. -/
structure CellError where
  cell : Nat
  frame : Option Nat
  single : List (Fin 36)
  double : List (Fin 36)
  silent : List (Fin 36)
  links : Fin 3
deriving DecidableEq, Repr

/-- What a lane pass meets in the memories it reads, and what the checker finds (R120, R137, R398): single-bit errors
corrected, an uncorrectable rule-bank entry, an uncorrectable connection entry, and a re-derived decision that differs. -/
structure LaneFaults where
  corrected : Nat
  bankError : Bool
  connError : Bool
  checkerDiffers : Bool
deriving DecidableEq, Repr

/-- A frame as a legacy bus carries it (Table 9.9): format code, identifier, flags, XL SDT and VCID, FlexRay channels and
cycle count, and the content. -/
structure LegacyFrame where
  fmt : Nat
  ext : Bool
  rtr : Bool
  esi : Bool
  id : Nat
  chA : Bool
  chB : Bool
  cycle : Nat
  sdt : Nat
  vcid : Nat
  data : Bytes
deriving DecidableEq, Repr

/-- How a frame on a CAN bus ended: the frame, how many ns ago its SOF was, and whether it ended with an error (R141, R255). -/
structure CanRx where
  frame : LegacyFrame
  ago : Nat
  failed : Bool
deriving DecidableEq, Repr

/-- A LIN header that came: its identifier, and how many ns ago its break began (R251, R255). -/
structure LinHeader where
  id : Fin 64
  ago : Nat
deriving DecidableEq, Repr

/-- What a FlexRay slot brought: its data, none for a syntax or content error, and how many ns ago its TSS was (R255, R268). -/
structure FrRx where
  data : Option Bytes
  ago : Nat
deriving DecidableEq, Repr

/-- What the reads of a transmit ring brought: the descriptors fetched, and the frame of the oldest descriptor without one, none
where that read failed (R304). -/
structure HpTxRead where
  fetched : List Bytes
  data : Option Bytes
deriving DecidableEq, Repr

/-- A command-journal record as SYNC and DARN carry it (Table 14.6). -/
structure JournalRec where
  tag : Word16
  opcode : Nat
  flags : Word16
  committed : Bool
  payload : Bytes
deriving DecidableEq, Repr

/-- Servo state of one domain as SYNC and DARN carry it (Table 14.6): state code, anchor, local clock of the anchor,
rate, acc and step used. -/
structure Servo where
  domain : Nat
  state : Nat
  anchor : Int
  localClock : Nat
  rate : Int
  acc : Int
  stepUsed : Bool
deriving DecidableEq, Repr

/-- A connection-table delta (Table 14.6): the entry's key, its state and expiry, or its removal by a flush. -/
structure CtDelta where
  key : Bytes
  state : Nat
  expiry : Nat
  removed : Bool
deriving DecidableEq, Repr

/-- A FRER recovery record of one entry and port (Table 14.6). -/
structure FrerRec where
  entry : Nat
  port : Nat
  recovSeq : Nat
  history : Nat
  takeAny : Bool
deriving DecidableEq, Repr

/-- A PSFP meter's buckets, in units of 2^-16 of a byte (Table 14.6). -/
structure MeterRec where
  meter : Nat
  committed : Int
  excess : Int
deriving DecidableEq, Repr

/-- A patch as DARN carries it (R404). -/
structure PatchRec where
  sectionId : Nat
  offset : Nat
  data : Bytes
  crc : Nat
deriving DecidableEq, Repr

/-- Content of a CONTROL frame (Table 14.4): PAIR_ROLE, mode code, pair state code, management role, PAIR_SET_ID and
health bit of its sender. -/
structure ControlFrame where
  secondary : Bool
  mode : Nat
  pairState : Nat
  standby : Bool
  pairSetId : Nat
  health : Bool
deriving DecidableEq, Repr

/-- Content of a cycle's SYNC (Table 14.6).  `cluster` is absent while the sender's cluster restarts; `complete` is
false when the cycle's changes exceeded the SYNC share (R397). -/
structure SyncFrame where
  cycle : Nat
  cluster : Option (List JournalRec × List Servo)
  ct : List CtDelta
  generators : List (Nat × Nat)
  recoveries : List FrerRec
  meters : List MeterRec
  counters : List (Nat × Nat)
  complete : Bool
deriving DecidableEq, Repr

/-- A decision record of Table 14.7. -/
structure DigestRec where
  handle : Nat
  seq : Nat
  byte4 : Nat
  byte5 : Nat
deriving DecidableEq, Repr

/-- Content of a DIGEST (R399). -/
structure DigestFrame where
  cycle : Nat
  records : List DigestRec
  disagreements : Nat
deriving DecidableEq, Repr

/-- A part of a darning copy (R404); `last` marks the part that completes it. -/
structure DarnPart where
  ct : List CtDelta
  generators : List (Nat × Nat)
  recoveries : List FrerRec
  meters : List MeterRec
  servo : List Servo
  journal : List JournalRec
  counters : List (Nat × Nat)
  patches : List PatchRec
  last : Bool
deriving DecidableEq, Repr

/-- A ROLE frame: a role-change request or its grant (Table 14.4). -/
inductive RoleFrame
  | request
  | grant
deriving DecidableEq, Repr

/-- Kind of a peer-bridge access (R318–R320). -/
inductive PbKind
  | read | write | lockingRead | unlockingWrite
deriving DecidableEq, Repr

/-- A peer-bridge access the cluster issues (R317–R320). -/
structure PbAccess where
  addr : Nat
  size : Nat
  kind : PbKind
  data : Bytes
  world : Fin 4
deriving DecidableEq, Repr

/-- A peer-bridge request that arrives from the peer (R319, R320): its number at the peer, the far address, and the
range of the window it came through. -/
structure PbInbound where
  id : Nat
  addr : Nat
  size : Nat
  kind : PbKind
  posted : Bool
  data : Bytes
  world : Fin 4
  rangeBase : Nat
  rangeSize : Nat
deriving DecidableEq, Repr

/-- The commands and events of the block. -/
inductive Instr
  /-- SYS_GET_INFO (R476): Returns the boot nonce, revision, mode, life-cycle and identity values captured at one instant. -/
  | sysGetInfo (c : CmdSource)
  /-- SYS_ABORT (R64): Withdraws a named in-flight command if it has not reached its commit point, otherwise replies TOO_LATE. -/
  | sysAbort (c : CmdSource)
  /-- SYS_SET_MODE (R34): Requests a transition to AUTONOMOUS, SAFE or RECOVERY. -/
  | sysSetMode (c : CmdSource)
  /-- SYS_SET_AUTH_POLICY (R47): Writes the authentication policy for PCIe and XSPI-H into the system area. -/
  | sysSetAuthPolicy (c : CmdSource)
  /-- IMG_BEGIN (R72): Claims the inactive MRAM run image bank and opens a staging session for the sending transport. -/
  | imgBegin (c : CmdSource)
  /-- IMG_CHUNK (R73): Writes run image data at an offset in the claimed bank. -/
  | imgChunk (c : CmdSource)
  /-- IMG_VERIFY (R74): Applies the verification checks to the staged image and writes the verified mark. -/
  | imgVerify (c : CmdSource)
  /-- IMG_STAGE (R75): Loads the verified image into the shadow banks and writes the staged mark. -/
  | imgStage (c : CmdSource)
  /-- IMG_ACTIVATE (R78): Arms activation of the staged image at a cycle-boundary instant. -/
  | imgActivate (c : CmdSource)
  /-- IMG_STATUS (R76): Returns the run image, staging and pace status. -/
  | imgStatus (c : CmdSource)
  /-- IMG_PATCH (R84): Checks a patch of a patchable section, journals it, appends it to the patch log and loads it into the shadow bank. -/
  | imgPatch (c : CmdSource)
  /-- PRS_BANK_SWAP (R118): Rebuilds the non-live rule bank from the image and patch log and arms its swap. -/
  | prsBankSwap (c : CmdSource)
  /-- PRS_LANE_STATUS (R121): Returns epoch, bank state and per-lane counters. -/
  | prsLaneStatus (c : CmdSource)
  /-- FWL_STATUS (R151): Returns the firewall counters and state. -/
  | fwlStatus (c : CmdSource)
  /-- FWL_CONN_LIST (R138): Lists connection-tracking entries from a start index. -/
  | fwlConnList (c : CmdSource)
  /-- FWL_CONN_FLUSH (R138): Journals the flush and removes the connection entries in scope. -/
  | fwlConnFlush (c : CmdSource)
  /-- BSN_STATUS (R184): Returns Basin pool, error-correction and per-port counters. -/
  | bsnStatus (c : CmdSource)
  /-- EGR_STATUS (R216): Returns egress port or stream status and counters. -/
  | egrStatus (c : CmdSource)
  /-- EGR_FRER_STATUS (R217): Returns FRER generation and recovery state of an entry. -/
  | egrFrerStatus (c : CmdSource)
  /-- TIME_STATUS (R245): Returns the local clock, working clock and per-domain state. -/
  | timeStatus (c : CmdSource)
  /-- TIME_RESTEP (R226): Writes a TIME_RESTEP record and steps a time domain onto its source or to a given value. -/
  | timeRestep (c : CmdSource)
  /-- LEG_STATUS (R277): Returns status and counters of a legacy channel or of the Seam engines. -/
  | legStatus (c : CmdSource)
  /-- LEG_CHANNEL_CTL (R276): Recovers, stops or starts a legacy channel. -/
  | legChannelCtl (c : CmdSource)
  /-- PORT_STATUS (R296): Returns the status and counters of an external port. -/
  | portStatus (c : CmdSource)
  /-- PORT_LINK_CTL (R295): Takes a port down or up, retrains it, or performs an MDIO read or write. -/
  | portLinkCtl (c : CmdSource)
  /-- MSEC_SA_INSTALL (R289): Installs, enables or removes a MACsec SA from a key slot. -/
  | msecSaInstall (c : CmdSource)
  /-- MSEC_SA_STATUS (R291): Returns the state and counters of a MACsec SA. -/
  | msecSaStatus (c : CmdSource)
  /-- HST_RING_CTL (R302): Changes the owner, class or queue mask of one DMA ring. -/
  | hstRingCtl (c : CmdSource)
  /-- PB_WINDOW_SET (R317): Sets one of peer-bridge windows 4 to 15. -/
  | pbWindowSet (c : CmdSource)
  /-- WAKE_SLEEP_REQUEST (R345): Initiates a Dusk ring round and replies when the round ends. -/
  | wakeSleepRequest (c : CmdSource)
  /-- WAKE_STATUS (R347): Returns ring, wake cause, segment and hold status. -/
  | wakeStatus (c : CmdSource)
  /-- WAKE_SEGMENT (R346): Wakes, sleeps, holds or releases a segment or the device. -/
  | wakeSegment (c : CmdSource)
  /-- UPD_BEGIN (R371): Claims and erases the inactive flash bank for an update session. -/
  | updBegin (c : CmdSource)
  /-- UPD_CHUNK (R372): Programs update data at an offset of the claimed bank. -/
  | updChunk (c : CmdSource)
  /-- UPD_VERIFY (R373): Applies the manifest checks to the bank and writes the verified mark. -/
  | updVerify (c : CmdSource)
  /-- UPD_STAGE (R373): Writes the staged mark of a verified bank. -/
  | updStage (c : CmdSource)
  /-- UPD_ACTIVATE (R369): Writes a bank-pointer slot that starts a trial of the staged bank at the next boot. -/
  | updActivate (c : CmdSource)
  /-- UPD_CONFIRM (R370): Makes the trial bank ACTIVE and raises the stored rollback counters. -/
  | updConfirm (c : CmdSource)
  /-- UPD_STATUS (R374): Returns bank, trial and session status. -/
  | updStatus (c : CmdSource)
  /-- RST_BLOCK (R357): Asserts the reset of one idle block. -/
  | rstBlock (c : CmdSource)
  /-- RST_GLOBAL (R358): Asserts reset source RST_GLOBAL with the requested reach. -/
  | rstGlobal (c : CmdSource)
  /-- PAIR_STATUS (R407): Returns the pair state, counters and the last failover journal list. -/
  | pairStatus (c : CmdSource)
  /-- PAIR_SWITCHOVER (R392): Requests that the pair exchange management roles at the next sync point. -/
  | pairSwitchover (c : CmdSource)
  /-- KEY_DERIVE (R419): Derives, imports, sets, deletes a key slot or writes the certificate chain. -/
  | keyDerive (c : CmdSource)
  /-- KEY_SLOT_INFO (R424): Reports a key slot's attribute record, check value or public data. -/
  | keySlotInfo (c : CmdSource)
  /-- ATTEST_QUOTE (R423): Captures and signs a quote body, or returns a part of the last quote. -/
  | attestQuote (c : CmdSource)
  /-- LC_TRANSITION (R412): Blows the OTP cell of a permitted life-cycle transition. -/
  | lcTransition (c : CmdSource)
  /-- CNT_SNAPSHOT_AT (R434): Arms a counter snapshot at a working-clock instant, optionally with DMA. -/
  | cntSnapshotAt (c : CmdSource)
  /-- CNT_SELECT (R430): Sets, clears, clears flags or restores the default of counters of a unit. -/
  | cntSelect (c : CmdSource)
  /-- EVR_READ (R440): Captures HEAD_SEQ and returns whole records from a start sequence. -/
  | evrRead (c : CmdSource)
  /-- EVR_CLEAR (R441): Issues a clear nonce, or verifies a signed clear statement and begins the clear. -/
  | evrClear (c : CmdSource)
  /-- DBG_ACCESS (R383): Performs a debug read, write, halt, resume or single step. -/
  | dbgAccess (c : CmdSource)
  /-- CMD_SQ_TAIL_WRITE (R48): Submission doorbell: the device fetches descriptors and commands up to the new tail. -/
  | cmdSqTailWrite (f : Fin 2) (tail : Word) (fetched : List SqFetch)
  /-- CMD_CQ_HEAD_WRITE (R49): Host consumes completion entries, letting held completions be written. -/
  | cmdCqHeadWrite (f : Fin 2) (head : Word)
  /-- CMD_RING_CFG_WRITE (R50): Enables or disables a command ring, resetting its pointers when enabled. -/
  | cmdRingCfgWrite (f : Fin 2) (v : Word)
  /-- CMD_MB_DB_SUBMIT (R51): Mailbox doorbell: the device copies the command out of the request buffer. -/
  | cmdMbDbSubmit (v : Word)
  /-- MAILBOX_POP (R52): A read including byte 0x903F returns the current reply block and advances to the next. -/
  | mailboxPop
  /-- REGISTER_WRITE (R444): Write to a direct-window register without behaviour of its own, admitted or refused by world. -/
  | registerWrite (view : View) (off : Word16) (v : Word)
  /-- INT_STAT_CLEAR (R445): W1C write to INT_STAT, with a same-period raise prevailing. -/
  | intStatClear (view : View) (v : Word) (raised : List (Fin 11))
  /-- CNT_OVF_READ (R446): Read of CNT_OVFw reports and clears the OVF transitions. -/
  | cntOvfRead (view : View) (w : Fin 12)
  /-- TIM_LATCH (R447): Captures the local clock and W in one REF period. -/
  | timLatch (view : View) (v : Word)
  /-- TIM_TS_POP (R448): Read removes the head entry of a TSYNC capture FIFO. -/
  | timTsPop (view : View) (n : Fin 4)
  /-- SAF_WDT_KICK (R389): Firmware write that services the safety watchdog, or expires it when wrong or mistimed. -/
  | safWdtKick (v : Word16)
  /-- MSIX_UNMASK (R301): Unmasking a vector sends its pending message. -/
  | msixUnmask (f : Fin 4) (vec : Fin 64)
  /-- MSIX_HOLDOFF_END (R301): The 1 us spacing of a vector ends and a message covering later write-backs is sent. -/
  | msixHoldoffEnd (f : Fin 4) (vec : Fin 64)
  /-- XSPI_READ (R310): XSPI-H READ access of the direct window, with prefetch, side-effect and replay handling. -/
  | xspiRead (addr : Word) (words : Nat) (late : Bool)
  /-- XSPI_WRITE (R314): XSPI-H WRITE access posted through LB. -/
  | xspiWrite (addr : Word) (words : List Word)
  /-- XSPI_BAD_COMMAND (R309): A command whose bytes are not complementary is ignored and sets CMD_ERR. -/
  | xspiBadCommand (first second : Byte)
  /-- XSPIH_CS_RISE (R312): Host ends an access early and the fetched side-effect block is kept in the replay buffer. -/
  | xspihCsRise (taken : Nat)
  /-- LB_WRITE_APPLY (R314): A posted LB write takes effect at its registers. -/
  | lbWriteApply
  /-- PCIE_FLR (R300): Function Level Reset disables the function's command and DMA rings. -/
  | pcieFlr (f : Fin 4)
  /-- PCIE_BME_CLEAR (R300): Clearing Bus Master Enable disables the function's rings. -/
  | pcieBmeClear (f : Fin 4)
  /-- PCIE_HOT_RESET (R300): Hot reset or link loss resets the PCIe core and acts as FLR of all functions. -/
  | pcieHotReset
  /-- PCIE_READY (R300): The endpoint becomes ready after reset and stops returning retry status. -/
  | pcieReady
  /-- HST_TX_TAIL_WRITE (R304): Transmit ring doorbell: descriptors up to the tail are fetched. -/
  | hstTxTailWrite (f : Fin 4) (ring : Fin 16) (v : Word) (fetched : List Bytes)
  /-- HST_RX_TAIL_WRITE (R307): Receive ring doorbell posts empty descriptors and may release a held queue. -/
  | hstRxTailWrite (f : Fin 4) (ring : Fin 16) (v : Word) (fetched : List Bytes)
  /-- HST_TX_CFG_WRITE (R303): Enables or disables a transmit ring. -/
  | hstTxCfgWrite (f : Fin 4) (ring : Fin 16) (v : Word)
  /-- HST_RX_CFG_WRITE (R303): Enables or disables a receive ring. -/
  | hstRxCfgWrite (f : Fin 4) (ring : Fin 16) (v : Word)
  /-- HP_TX_FRAME_READ (R304): A fetched transmit descriptor's frame is read from host memory and entered at HP. -/
  | hpTxFrameRead (ring : Fin 16) (x : HpTxRead)
  /-- DMA_FETCH_ERROR (R308): A descriptor fetch fails; the ring is disabled and ERR set. -/
  | dmaFetchError (receive : Bool) (ring : Fin 16)
  /-- TX_WRITEBACK (R305): A transmit descriptor is written back once its frame is read or transmitted everywhere. -/
  | txWriteback (ring : Fin 16)
  /-- HP_RX_DELIVERY (R306): A frame released to HP is written to each function's receive ring with write-backs. -/
  | hpRxDelivery (frame : Nat)
  /-- FRAME_START (R159): First byte of a frame reaches an ingress MAC; back-pressure state is taken and cells charged. -/
  | frameStart (port : Port) (content : Bytes) (gen : Option (Fin 2048))
  /-- FRAME_END (R281): Last byte of a frame arrives; FCS, length and MACsec checks, learning and end-of-data checks. -/
  | frameEnd (frame : Nat) (fcsOk : Bool)
  /-- LANE_PASS_BEGIN (R93): A lane begins a first pass once 64 bytes have arrived and its slot is free. -/
  | lanePassBegin (frame : Nat)
  /-- LANE_RESULT (R92): A pass result leaves the reorder stage and is judged by firewall and PSFP, then written to the Basin. -/
  | laneResult (frame : Nat) (faults : LaneFaults)
  /-- RINSE_DISPATCH (R90): RP releases its first frame to a lane able to take a rinse pass. -/
  | rinseDispatch
  /-- PRESS_ARRIVAL (R176): A frame reaches its Press and is released, held or discarded, then enters its transmit queue. -/
  | pressArrival (port : Port) (frame : Nat)
  /-- HOLE_NOTICE (R176): A hole notice reaches a Press and its number is consumed or noted. -/
  | holeNotice (port : Port) (input : Port) (cls : Fin 8) (number : Word)
  /-- PRESS_SKIP (R177): A triple's 2 us wait expires and E skips to the lowest held number. -/
  | pressSkip (port : Port) (input : Port) (cls : Fin 8)
  /-- EGRESS_SELECT (R188): The MAC can begin a frame and starts the first eligible one. -/
  | egressSelect (port : Port) (reads : List CellError)
  /-- EGRESS_TX_END (R197): A frame finishes transmission; counters, stamps, latency check and cell release. -/
  | egressTxEnd (port : Port)
  /-- GATE_ENTRY_CHANGE (R191): A port's gate control list moves to its next entry. -/
  | gateEntryChange (port : Port)
  /-- LAUNCH_MISSED (R204): A launch-time frame not eligible by T + 8 ns + LT_LATE_NS is discarded. -/
  | launchMissed (port : Port) (frame : Nat)
  /-- PFC_RX (R189): A received PFC or PAUSE frame stops the named classes for its pause time. -/
  | pfcRx (port : Port) (frame : Bytes)
  /-- PAUSE_EXPIRY (R189): A received pause time runs out and the class may start again. -/
  | pauseExpiry (port : Port) (cls : Option (Fin 8))
  /-- PFC_REFRESH (R165): Half the pause time has passed with the class raised, so a new PFC or PAUSE frame is sent. -/
  | pfcRefresh (port : Port) (cls : Fin 8)
  /-- PFC_STUCK (R167): A partner has held a class or port paused for 100 ms. -/
  | pfcStuck (port : Port) (cls : Option (Fin 8))
  /-- PLCA_HOLD_EXPIRY (R166): The PLCA hold of HOLD_US ends and one cycle is released. -/
  | plcaHoldExpiry (port : Port)
  /-- LINK_UP (R282): A port's PHY or PCS reports the link usable. -/
  | linkUp (port : Port) (rate : Byte)
  /-- LINK_DOWN (R168): A port's link is lost; its queues are emptied and learned entries flushed. -/
  | linkDown (port : Port)
  /-- PHY_COEFF_STALE (R283): An MG link is not up 30 ms after enable from stored coefficients, which are discarded. -/
  | phyCoeffStale (port : Port)
  /-- XS_MODE_SEARCH (R294): In AUTONOMOUS an XS port's 500 ms mode trial expires and the next mode is tried. -/
  | xsModeSearch (port : Port)
  /-- MDIO_POLL (R287): The 10 ms poll reads the link status of each external PHY. -/
  | mdioPoll (port : Port) (linkUp : Option Bool)
  /-- PLCA_BEACON_RX (R286): A PLCA BEACON is received, resuming PLCA or counting a duplicate coordinator. -/
  | plcaBeaconRx (port : Port)
  /-- PLCA_LOST (R286): No BEACON for 4 ms; the node falls back to CSMA/CD. -/
  | plcaLost (port : Port)
  /-- PREEMPT_VERIFY (R201): The verify timer sends a verify attempt or ends verification as failed. -/
  | preemptVerify (port : Port)
  /-- PREEMPT_RESPONSE_RX (R201): A verify response makes preemption active. -/
  | preemptResponseRx (port : Port)
  /-- TC10_SLEEP_REQUEST_RX (R285): A partner's TC10 sleep request is accepted or rejected. -/
  | tc10SleepRequestRx (port : Port)
  /-- TC10_SLEEP_RESPONSE_RX (R285): A partner accepts or rejects the device's TC10 sleep request. -/
  | tc10SleepResponseRx (port : Port) (accepted : Bool)
  /-- TC10_WAKE (R285): A TC10 wake-up pulse or request is received on a port. -/
  | tc10Wake (port : Port)
  /-- PACE_READING (R21): Every 10 us the pace monitors are read and compared with the certificate threshold. -/
  | paceReading (m0 m1 m2 m3 : Nat)
  /-- BASIN_SCRUB (R173): Every 1 us the patrol scrub corrects and rewrites one Basin row. -/
  | basinScrub (row : CellError)
  /-- FWL_SCRUB_PASS (R147): Every 1 ms a scrub pass checks the CRC-64 of the firewall sections. -/
  | fwlScrubPass (read3 read4 : Option Word64)
  /-- FWL_REVERT_COMPLETE (R148): Reloaded signed sections swap in, the patch log empties and crossings are judged again. -/
  | fwlRevertComplete
  /-- CT_EXPIRY (R134): A connection entry's timeout expires and it is removed. -/
  | ctExpiry (entry : Nat)
  /-- LEARN_AGEING (R154): A learned address without a matching source for AGEING_S expires. -/
  | learnAgeing (vid : Nat) (mac : Nat)
  /-- RULE_BANK_RELEASE (R116): The non-live epoch's frame count reaches zero and its bank is released. -/
  | ruleBankRelease
  /-- RULE_BANK_REFRESH (R120): The device refreshes the live rule content once the non-live bank is released. -/
  | ruleBankRefresh
  /-- TIMED_HANDOVER (R63): 50 us before its instant an armed command is handed to the time-triggered unit and commits. -/
  | timedHandover (tag : Word16)
  /-- AT_TIME_EXECUTE (R61): A timed command takes effect at its working-clock instant. -/
  | atTimeExecute (tag : Word16)
  /-- IMAGE_SWITCH (R80): At the activation instant every data-path table switches to its shadow bank. -/
  | imageSwitch
  /-- PATCH_SWAP (R85): A committed patch's bank swaps at its cycle boundary and its final reply is sent. -/
  | patchSwap
  /-- RULE_BANK_SWAP (R118): A PRS_BANK_SWAP or refresh swap takes place at its cycle boundary. -/
  | ruleBankSwap
  /-- AUTONOMOUS_SWITCH (R33): SYS_SET_MODE to AUTONOMOUS takes effect at the next cycle boundary. -/
  | autonomousSwitch
  /-- SNAPSHOT_LATCH (R431): All counters and statistics latch at a snapshot instant. -/
  | snapshotLatch
  /-- AUTO_SNAPSHOT (R435): An automatic snapshot at a cycle boundary that is a multiple of AUTO_PERIOD. -/
  | autoSnapshot
  /-- SNAPSHOT_COMPLETE (R432): The latched values are in the bank, STATE becomes 2, DMA and reply follow. -/
  | snapshotComplete
  /-- EVR_RECORD_WRITE (R437): The writer takes a queued event and writes its record. -/
  | evrRecordWrite
  /-- EVR_CLEAR_COMPLETE (R442): The erased partition receives EVR_CLEARED and the final reply is sent. -/
  | evrClearComplete
  /-- CLEAR_NONCE_EXPIRY (R441): The clear nonce is consumed after 600 s. -/
  | clearNonceExpiry
  /-- SESSION_IDLE_EXPIRY (R55): An in-band session binding ends after 60 s with no tag in flight. -/
  | sessionIdleExpiry (session : Fin 16)
  /-- GPTP_SYNC_RX (R223): A Sync gives a measurement of its domain and is relayed on master ports. -/
  | gptpSyncRx (port : Port) (m : SyncMessage)
  /-- GPTP_FOLLOW_UP_RX (R227): A Follow_Up completes a two-step Sync measurement. -/
  | gptpFollowUpRx (port : Port) (m : FollowUpMessage)
  /-- ANNOUNCE_RX (R227): A received Announce is counted and its grandmaster kept. -/
  | announceRx (port : Port) (domainNumber : Byte) (gmIdentity : Word64)
  /-- ANNOUNCE_TIMER (R227): Every 1 s Announce is sent on master ports. -/
  | announceTimer
  /-- PDELAY_TIMER (R227): Link delay measurement runs every 2^LOG_PDELAY_INTERVAL s. -/
  | pdelayTimer
  /-- SYNC_ORIGINATE (R228): A LOCAL_GM or PPS_IN_GM domain originates Sync each interval. -/
  | syncOriginate (d : Fin 4)
  /-- SOURCE_LOST (R228): No valid measurement within the source timeout; the domain enters HOLDOVER. -/
  | sourceLost (d : Fin 4)
  /-- PPS_IN_EDGE (R241): A rising PPS_IN edge is stamped and accepted or counted as a glitch. -/
  | ppsInEdge (highNs : Nat)
  /-- PPS_OUT_EDGE (R240): PPS_OUT rises at a whole second and falls after its width. -/
  | ppsOutEdge (rising : Bool)
  /-- TSYNC_CAPTURE (R242): A selected TSYNC input edge is captured into the pin's FIFO. -/
  | tsyncCapture (n : Fin 4) (rising : Bool)
  /-- TSYNC_OUTPUT_EDGE (R243): A periodic TSYNC output rises or falls at its instant. -/
  | tsyncOutputEdge (n : Fin 4) (rising : Bool)
  /-- SLEW_COMPLETE (R235): W reaches TD0 during SLEW and enters FOLLOW_TD0. -/
  | slewComplete
  /-- TIME_W_MISMATCH (R236): The two working-clock units disagree and a safety escalation is raised. -/
  | timeWMismatch (thirdAgreesWithA : Bool)
  /-- OPERATING_SECONDS_TICK (R31): The backup domain's operating-seconds tick advances once per second. -/
  | operatingSecondsTick
  /-- CAN_FRAME_RX (R141): A CAN frame received whole is checked for identifier and rate and queued for routes and mappings. -/
  | canFrameRx (ch : Fin 16) (x : CanRx)
  /-- SEAM_EVENT_SERVE (R254): A Seam engine takes its next route, translation or GW event and starts a handler. -/
  | seamEventServe (engine : Fin 4)
  /-- END (R256): Ends the handler and sends the output. -/
  | seamEnd (engine : Fin 4)
  /-- DROP (R255): Ends the handler without output. -/
  | seamDrop (engine : Fin 4)
  /-- LDI (R255): Loads an immediate. -/
  | seamLdi (engine : Fin 4)
  /-- LUI (R255): Loads the upper register bits. -/
  | seamLui (engine : Fin 4)
  /-- MOV (R255): Copies a register. -/
  | seamMov (engine : Fin 4)
  /-- ADD (R255): Adds two registers. -/
  | seamAdd (engine : Fin 4)
  /-- ADDI (R255): Adds a signed immediate. -/
  | seamAddi (engine : Fin 4)
  /-- SUB (R255): Subtracts a register. -/
  | seamSub (engine : Fin 4)
  /-- AND (R255): Bitwise and. -/
  | seamAnd (engine : Fin 4)
  /-- OR (R255): Bitwise or. -/
  | seamOr (engine : Fin 4)
  /-- XOR (R255): Bitwise exclusive or. -/
  | seamXor (engine : Fin 4)
  /-- SHL (R255): Shifts left. -/
  | seamShl (engine : Fin 4)
  /-- SHR (R255): Shifts right logically. -/
  | seamShr (engine : Fin 4)
  /-- SAR (R255): Shifts right arithmetically. -/
  | seamSar (engine : Fin 4)
  /-- MULQ (R255): Signed multiply shifted right by 16. -/
  | seamMulq (engine : Fin 4)
  /-- BSWAP (R255): Reverses the lowest bytes of a register. -/
  | seamBswap (engine : Fin 4)
  /-- GETF (R255): Reads a bit field of the input buffer. -/
  | seamGetf (engine : Fin 4)
  /-- PUTF (R255): Writes a bit field of the output buffer. -/
  | seamPutf (engine : Fin 4)
  /-- LDC (R255): Loads a constant word. -/
  | seamLdc (engine : Fin 4)
  /-- TIME (R255): Reads nanoseconds or seconds of W. -/
  | seamTime (engine : Fin 4)
  /-- BEQ (R255): Skips forward if equal. -/
  | seamBeq (engine : Fin 4)
  /-- BNE (R255): Skips forward if not equal. -/
  | seamBne (engine : Fin 4)
  /-- BLTU (R255): Skips forward if less, unsigned. -/
  | seamBltu (engine : Fin 4)
  /-- BLT (R255): Skips forward if less, signed. -/
  | seamBlt (engine : Fin 4)
  /-- JMP (R255): Skips the next instructions. -/
  | seamJmp (engine : Fin 4)
  /-- BUNDLE_TIMEOUT (R259): BUNDLE_US passes and a mapping's collected messages are sent as one frame. -/
  | bundleTimeout (mapping : Nat)
  /-- GW_FRAME_TO_SEAM (R260): A frame from GW is delivered to the engines of its destination channels. -/
  | gwFrameToSeam (frame : Nat)
  /-- CAN_TX_DONE (R250): A CAN frame's transmission succeeds and it leaves its queue place. -/
  | canTxDone (ch : Fin 16)
  /-- LEG_BUS_OFF (R270): A CAN channel enters bus-off and discards its queued frames. -/
  | legBusOff (ch : Fin 16)
  /-- LEG_RECOVER (R270): A channel returns to error active after recovery. -/
  | legRecover (ch : Fin 16)
  /-- LEGACY_AGE_EXPIRY (R269): A waiting legacy frame exceeds MAX_AGE_US and is removed as STALE. -/
  | legacyAgeExpiry (ch : Fin 25) (index : Nat)
  /-- CAN_RATE_SEARCH (R275): In AUTONOMOUS a CAN channel's 100 ms rate trial expires and the next rate is tried. -/
  | canRateSearch (ch : Fin 16)
  /-- LIN_SLOT_START (R251): A LIN master sends the header of its next schedule entry. -/
  | linSlotStart (ch : Fin 8)
  /-- LIN_HEADER_RX (R251): A LIN header is received and answered or subscribed. -/
  | linHeaderRx (ch : Fin 8) (x : LinHeader)
  /-- LIN_BUS_STUCK (R271): A LIN bus held dominant for 100 ms is treated as bus-off. -/
  | linBusStuck (ch : Fin 8)
  /-- FR_CYCLE_START (R252): A FlexRay cycle begins, is stamped and its static buffers are sent. -/
  | frCycleStart (cycle : Fin 64)
  /-- FR_POC_HALT (R271): The FlexRay controller reaches halt and is treated as bus-off. -/
  | frPocHalt
  /-- FR_HALT_RESTART (R271): 100 ms after halt with AUTO_RECOVER, integration restarts. -/
  | frHaltRestart
  /-- LEG_ENGINE_FAULT (R272): An engine fault stops the engine and moves its channels to fallbacks. -/
  | legEngineFault (engine : Fin 4)
  /-- FRER_RESET_TIMER (R213): RESET_MS passes without a passed frame and the instance returns to take_any. -/
  | frerResetTimer (entry : Nat) (port : Port)
  /-- FRER_LATENT_TIMER (R214): The latent error test period ends and the test is run. -/
  | frerLatentTimer (entry : Nat) (port : Port)
  /-- WAKE_IN_DETECT (R324): WAKE_IN held high past its filter is detected. -/
  | wakeInDetect (high : Bool)
  /-- LWAKE_DETECT (R324): An LWAKE input held high past its filter is detected. -/
  | lwakeDetect (n : Fin 4) (high : Bool)
  /-- CAN_WAKE_PATTERN (R324): The CAN wake-up pattern is detected on a listening channel. -/
  | canWakePattern (ch : Fin 16)
  /-- WAKE_OUT_END (R343): WAKE_OUT_MS passes and WAKE_OUT is released. -/
  | wakeOutEnd
  /-- HOLD_EXPIRY (R346): A WAKE_SEGMENT hold on a segment or the device expires. -/
  | holdExpiry (segment : Option (Fin 32))
  /-- WAKE_REQUEST_EXPIRY (R330): The stay-awake condition of a wake request ends after RING_TIMEOUT_MS. -/
  | wakeRequestExpiry
  /-- DUSK_TOKEN (R329): A TOKEN is received and consented to, NAKed, or closes an initiator's round. -/
  | duskToken (frame : Bytes)
  /-- DUSK_NAK (R329): A NAK of the current round returns the node to AWAKE. -/
  | duskNak (frame : Bytes)
  /-- DUSK_COMMIT (R329): A COMMIT of the current round puts the node in QUIET. -/
  | duskCommit (frame : Bytes)
  /-- DAWN (R329): A DAWN aborts a node's QUIET and returns it to AWAKE. -/
  | dawn (frame : Bytes)
  /-- RING_TIMEOUT (R329): RING_TIMEOUT_MS passes for an initiator or consenter and it returns to AWAKE. -/
  | ringTimeout
  /-- IDLE_INITIATE (R331): IDLE_INITIATE_S passes with no stay-awake condition and the device initiates a round. -/
  | idleInitiate
  /-- QUIET_WINDOW_END (R335): The commit-quiet window ends and power-down runs. -/
  | quietWindowEnd
  /-- STANDBY_TIMEOUT (R335): Main supplies still present 50 ms after INH release; the core is held in reset. -/
  | standbyTimeout
  /-- SEGMENT_IDLE (R337): IDLE_S passes without traffic on a segment and it begins to sleep. -/
  | segmentIdle (segment : Fin 32)
  /-- SEGMENT_DRAIN_TIMEOUT (R337): 10 ms into a segment's sleep, still queued frames are dropped and channels stop. -/
  | segmentDrainTimeout (segment : Fin 32)
  /-- SAFE_REQ_N_LOW (R33): SAFE_REQ_N held low for 2 us triggers SAFE. -/
  | safeReqNLow (lowNs : Nat)
  /-- FAULT_IN (R393): FAULT_IN_N low for 2 us is recorded and may escalate to SAFE. -/
  | faultIn (lowNs : Nat)
  /-- ESM_REQ_RISE (R388): ESM_REQ rises and ESM_ACK answers with the health bit. -/
  | esmReqRise
  /-- ESM_REQ_FALL (R388): ESM_REQ falls and ESM_ACK falls. -/
  | esmReqFall
  /-- SUPPLY_INVALID (R464): A supply monitor reports its supply invalid. -/
  | supplyInvalid (supply : Supply)
  /-- SUPPLY_VALID (R464): A supply monitor reports its supply valid. -/
  | supplyValid (supply : Supply)
  /-- PORST_N_LOW (R349): An accepted low phase on PORST_N asserts an L1 reset source. -/
  | porstNLow (lowNs : Nat)
  /-- SYSRST_N_LOW (R349): An accepted low phase on SYSRST_N asserts its reset source. -/
  | sysrstNLow (lowNs : Nat)
  /-- TRST_N_LOW (R349): An accepted low phase on TRST_N resets the TAP or asserts L1. -/
  | trstNLow (lowNs : Nat)
  /-- MGMT_WDT (R350): The management watchdog expires after 100 ms unserviced. -/
  | mgmtWdt
  /-- SAFETY_WDT (R389): The safety watchdog expires for a late or missing service. -/
  | safetyWdt
  /-- RESET_EPISODE_WIDEN (R354): A reset source asserts and begins or widens a reset episode, applying its states. -/
  | resetEpisodeWiden (source : Fin 16)
  /-- RESET_SOURCE_RELEASE (R354): A reset source stops asserting; the release of the last ends the episode and starts its exit. -/
  | resetSourceRelease (source : Fin 16) (straps : Straps) (badLanes : List (Fin 36))
  /-- BOOT_ACTIVATION (R83): The loaded image activates at the first cycle boundary 50 us after loading. -/
  | bootActivation
  /-- FIRMWARE_START (R65): After an L4 episode the cluster restarts and answers every journalled command. -/
  | firmwareStart
  /-- IDENTITY_KEYGEN_COMPLETE (R420): Generation of the identity keys completes and they are cached. -/
  | identityKeygenComplete
  /-- RST_BLOCK_RELEASE (R357): A block reset is released and RST_BLOCK gives its final reply. -/
  | rstBlockRelease
  /-- UPD_RESET_NOW (R369): 1 ms after UPD_ACTIVATE's reply with RESET_NOW, an L1 RST_GLOBAL asserts. -/
  | updResetNow
  /-- LC_RESET (R412): 1 ms after LC_TRANSITION's reply, an L1 RST_GLOBAL asserts. -/
  | lcReset
  /-- VOTER_DISAGREEMENT (R378): A core's copy disagrees with the majority and the core is masked and self-tested. -/
  | voterDisagreement (core : Option (Fin 3))
  /-- SIGNATURE_WINDOW_END (R379): A 256-period window ends and the core signatures are compared. -/
  | signatureWindowEnd (s0 s1 s2 : Word64)
  /-- CORE_SELF_TEST_DONE (R380): A masked core's self-test ends and it is reintegrated or retired. -/
  | coreSelfTestDone (core : Fin 3) (pass : Bool)
  /-- VOTER_FAULT (R380): Voters A and B disagree and source VOTER asserts. -/
  | voterFault
  /-- HEARTBEAT_MISSED (R382): Under SPLIT a heartbeat is missed for 5 ms and core 2 asserts VOTER. -/
  | heartbeatMissed (core : Fin 2)
  /-- SPLIT_SELF_TEST (R382): Every 100 ms core 2 runs its self-test. -/
  | splitSelfTest (pass : Bool)
  /-- JTAG_HALT_REQUEST (R384): A JTAG halt request stops all cores at one instruction boundary. -/
  | jtagHaltRequest
  /-- PEER_HLTH_TOGGLE (R323): Every 5 us PEER_HLTH_OUT inverts while the health bit is good. -/
  | peerHlthToggle
  /-- PEER_HLTH_CHANGE (R323): PEER_HLTH_IN becomes active or inactive. -/
  | peerHlthChange (active : Bool)
  /-- PEER_INT_PULSE (R323): A high phase on PEER_INT_IN is classed as attention, reset request or glitch. -/
  | peerIntPulse (highNs : Nat)
  /-- CONTROL_TX (R390): Every 10 us a CONTROL frame is sent on ML. -/
  | controlTx
  /-- ML_CONTROL_RX (R390): A CONTROL frame is received and roles are taken or changed. -/
  | mlControlRx (m : ControlFrame)
  /-- ML_GOING_DOWN_RX (R401): A GOING_DOWN frame announces the peer's reset. -/
  | mlGoingDownRx
  /-- ML_LINK_LOST (R394): No valid ML frame for 50 us or block lock lost. -/
  | mlLinkLost
  /-- PARTITION (R403): ML lost and PEER_HLTH_IN inactive for 1 ms; each device acts by its strap. -/
  | partition
  /-- CYCLE_BOUNDARY_SYNC (R395): At each cycle boundary the ACTIVE sends SYNC and each device sends its DIGEST. -/
  | cycleBoundarySync
  /-- ML_SYNC_RX (R395): The STANDBY applies a SYNC and returns SYNC_ACK. -/
  | mlSyncRx (m : SyncFrame)
  /-- ML_SYNC_ACK_RX (R391): The ACTIVE reaches a sync point and relayed commands take effect. -/
  | mlSyncAckRx (cycle : Word)
  /-- ML_DIGEST_RX (R400): A peer DIGEST is matched with own records and conclusions drawn. -/
  | mlDigestRx (m : DigestFrame)
  /-- ML_DARN_RX (R404): A DARN part is loaded into the receiver's state. -/
  | mlDarnRx (m : DarnPart)
  /-- ML_ROLE_RX (R392): A role-change request or grant is received. -/
  | mlRoleRx (m : RoleFrame)
  /-- TAKEOVER_TIMEOUT (R401): The ACTIVE's cluster parts or good health absent for TAKEOVER_MS. -/
  | takeoverTimeout
  /-- PB_REQUEST (R318): The cluster issues a peer-bridge access through a window. -/
  | pbRequest (r : PbAccess)
  /-- PB_INBOUND_REQUEST (R320): A peer's PB request is judged and performed at this device. -/
  | pbInboundRequest (r : PbInbound)
  /-- PB_RESPONSE_RX (R319): A PB response completes an open transaction. -/
  | pbResponseRx (id : Nat) (code : Fin 8) (data : Bytes)
  /-- PB_POSTED_ERR (R319): An error notice for a posted write is received and recorded. -/
  | pbPostedErr (id : Nat) (code : Fin 8)
  /-- PB_TIMEOUT (R319): An open PB transaction receives no response within 100 us. -/
  | pbTimeout (id : Nat)
  /-- PB_LOCK_BROKEN (R320): A lock held 10 us is released by the far device. -/
  | pbLockBroken
  /-- PB_BACKOFF_RESEND (R321): The SECONDARY resends withdrawn PB requests after a collision back-off. -/
  | pbBackoffResend
  /-- BAD_OPCODE_COMMAND (R57): A command arrives whose opcode is not in Table 2.12 and is answered BAD_OPCODE. -/
  | badOpcodeCommand (opcode : Word16) (via : Via) (p : Packet)
  /-- SET_AND_HOLD_MAC (R203): HOLD_ADVANCE_NS before a Set-And-Hold-MAC entry, the preemptible MAC is held and preempts its frame in progress. -/
  | setAndHoldMac (port : Port)
  /-- PDELAY_MESSAGE_RX (R227): A Pdelay_Req, Pdelay_Resp or Pdelay_Resp_Follow_Up is received, answered or completing the port's link delay and neighborRateRatio measurement. -/
  | pdelayMessageRx (port : Port) (m : PdelayMessage)
  /-- VMON_OK (R348): The external VMON_OK input falls or rises, asserting MAIN_POR or starting its 2 ms release. -/
  | vmonOk (high : Bool)
  /-- LEG_ERROR_PASSIVE (R270): A CAN channel's error counters make it error passive, and a LEG_ERROR_PASSIVE record is written. -/
  | legErrorPassive (ch : Fin 16) (tec recv : Nat)
  /-- FR_FRAME_RX (R268): A FlexRay frame is received whole into its RX buffer entry, replacing an older one and feeding its DIR 0 mapping. -/
  | frFrameRx (slot : Nat) (cycle : Fin 64) (channel : Fin 2) (x : FrRx)
  /-- LIN_RESPONSE_RX (R251): The response of a subscribed LIN frame is received whole, or fails with a checksum, framing or no-response error.
  It brings the data and the checksum that follows, or nothing on a framing or no-response error. -/
  | linResponseRx (ch : Fin 8) (id : Fin 64) (data : Option (Bytes × Byte))
deriving DecidableEq, Repr

end Sys2Proof
end

