-- ==== Sys2Proof/Config.lean ====
section
/-!
DEFINITION. What one device or one implementation fixes and the spec leaves open, as constants without a body: no proof
can see a value of them, so a claim holds whatever they are.  Each one is named in the assumption log.
-/
namespace Sys2Proof.Config

/-- A free byte: the n-th draw of the TRNG or of an open value (log 1). -/
opaque freeByte : Nat → Byte

/-- A free number: the n-th choice the spec leaves to the device (log 1). -/
opaque freeNat : Nat → Nat

/-- The integer a servo term `num / den` is held as (log 8). -/
opaque servoRound : Int → Int → Int

/-- How the payload of SYS_SET_AUTH_POLICY names the policy: the mask of
transports that require authentication of W2 and the relaxing of W1, or none where it is out of range (log 7). -/
opaque authPolicyOf : Bytes → Option (BitVec 3 × Bool)

/-- The Seam engine that serves a channel in AUTONOMOUS, which the spec does not name, under the channel's endpoint number
(log 19). -/
opaque romEngine : Nat → Nat

/-- The scrub reference of the ROM zone map and diagram, whose bytes the spec does not give, under a profile (log 47). -/
opaque romScrubRef : Nat → BitVec 64

/-- Whether a FlexRay block's parameters lie in the ranges of ISO 17458-2, which the spec cites and does not give (log 24). -/
opaque frParamsPermitted : Bytes → Bool

/-- Whether a handler whose code addresses its output through a register keeps its output on the mapping's channel: the spec
names the condition and not how it is judged (log 25). -/
opaque handlerStays : Bytes → Nat → Bool

/-- A byte at an offset of a frame that the lane does not hold: past the end of the frame or of its parse window (log 127). -/
opaque pastEnd : Bytes → Nat → Byte

/-- What lies at an address of the 40-bit internal address space, as far as a rule tells it apart. -/
inductive Region
  /-- Memory or a register no rule names. -/
  | memory
  /-- The direct window, at this offset. -/
  | direct (off : Nat)
  /-- The protection set-up (R144). -/
  | protection
  /-- Slot key material and the rest of the key store (R421). -/
  | keys
  /-- The root secret (R410). -/
  | root
  /-- XSPI-F (R313). -/
  | flash
  /-- The MRAM, at this offset of Table 1.5 (R30). -/
  | mram (off : Nat)
  /-- The fuse word RST_REACH (R353). -/
  | rstReach
  /-- The link word of a frame's cell in the Basin (Table 6.6). -/
  | link (frame cell : Nat)
  /-- The queue entry of a frame at an egress port (Table 6.7). -/
  | entry (port frame : Nat)
  /-- A target that reports an uncorrectable or bus error (Table 11.10). -/
  | faulty
deriving DecidableEq, Repr, Inhabited

/-- The octets of a gPTP message of IEEE 802.1AS-2020 after the Ethernet header: kind, domainNumber, sequenceId and its fields; the
spec cites the standard and does not give them (log 137). -/
opaque gptpOctets : Nat → Nat → Nat → List Int → Bytes

/-- GPTP_QUEUE in AUTONOMOUS, which the spec does not give (log 137). -/
opaque autoGptpQueue : Nat

/-- CRC-32 of a stored coefficient set, whose polynomial the spec does not give (log 142). -/
opaque coeffCrc : Bytes → BitVec 32

/-- The coefficients that a full training ends with, the n-th choice of the line (log 142). -/
opaque coeffSet : Nat → Bytes

/-- The wake time from low-power idle of a mode, in ns, which IEEE 802.3ch gives and the spec does not (log 143). -/
opaque eeeWake : Nat → Nat

/-- Index of the Basin cell that a frame's cell `k` takes (log 134). -/
opaque cellIndex : Nat → Nat → BitVec 16

/-- Index of a frame's queue entry at an egress port (log 134). -/
opaque entryIndex : Nat → Nat → BitVec 17

/-- Index of a frame's ingress time stamp (log 134). -/
opaque stampIndex : Nat → BitVec 16

/-- The internal address map, which the spec does not give (log 28). -/
opaque internalMap : Nat → Region

/-- The 512-byte RSA-4096 modulus generated from a seed (log 12). -/
opaque rsaModulus : Bytes → Bytes

/-- RSASSA-PSS signing by the identity key of the given seed, the last argument standing for the random salt (log 12). -/
opaque rsaSign : Bytes → Bytes → Nat → Bytes

end Sys2Proof.Config
end

