-- ==== Sys2Proof/Machine/Bytes.lean ====
section
/-!
DEFINITION. Byte-order, bit-field and container helpers: little-endian and big-endian numbers (R11), fields of a byte
string, tables keyed by numbers, and reads and writes of the canonical byte memory.
-/
namespace Sys2Proof.Machine

/-- The `n` low bytes of `v`, least significant first (R11). -/
def leBytes : Nat → Nat → Bytes
  | 0, _ => []
  | n + 1, v => BitVec.ofNat 8 v :: leBytes n (v / 256)

/-- The number whose little-endian bytes are `b`. -/
def ofLe : Bytes → Nat
  | [] => 0
  | b :: bs => b.toNat + 256 * ofLe bs

/-- The `n` low bytes of `v`, most significant first (network byte order). -/
def beBytes (n v : Nat) : Bytes := (leBytes n v).reverse

/-- The number whose big-endian bytes are `b`. -/
def ofBe (b : Bytes) : Nat := ofLe b.reverse

/-- The low `n` bytes of a signed number in two's complement, little-endian. -/
def leInt (n : Nat) (v : Int) : Bytes := leBytes n (v % (2 ^ (8 * n) : Nat)).toNat

/-- A number of `n` bytes read as two's complement. -/
def signed (n : Nat) (v : Nat) : Int :=
  if v < 2 ^ (8 * n - 1) then (v : Int) else (v : Int) - (2 ^ (8 * n) : Nat)

/-- Byte `i` of `b`; 0 beyond the end. -/
def byteAt (b : Bytes) (i : Nat) : Nat := ((b.getD i 0).toNat)

/-- Bytes `off` to `off + n - 1` of `b`, fewer where `b` ends. -/
def slice (b : Bytes) (off n : Nat) : Bytes := (b.drop off).take n

/-- The little-endian field of `n` bytes at `off`. -/
def fieldLe (b : Bytes) (off n : Nat) : Nat := ofLe (slice b off n)

/-- The big-endian field of `n` bytes at `off`. -/
def fieldBe (b : Bytes) (off n : Nat) : Nat := ofBe (slice b off n)

/-- Bits `lo` to `lo + n - 1` of `v`. -/
def bits (v lo n : Nat) : Nat := (v / 2 ^ lo) % 2 ^ n

/-- Bit `i` of `v`. -/
def bit (v i : Nat) : Bool := (v / 2 ^ i) % 2 == 1

/-- 1 for true, 0 for false. -/
def b2n (b : Bool) : Nat := if b then 1 else 0

/-- A flag shifted to bit `i`. -/
def flagBit (b : Bool) (i : Nat) : Nat := if b then 2 ^ i else 0

/-- `b` cut or padded with zeros to exactly `n` bytes. -/
def fit (n : Nat) (b : Bytes) : Bytes := b.take n ++ List.replicate (n - b.length) 0

/-- Every byte of `b` is zero. -/
def allZero (b : Bytes) : Bool := b.all (· == 0)

/-- `b` padded with zeros to a multiple of `n` bytes. -/
def padTo (n : Nat) (b : Bytes) : Bytes := b ++ List.replicate ((n - b.length % n) % n) 0

/-- Replaces bytes of `b` from `off` by `w`, extending with zeros where `b` is shorter. -/
def patchAt (b : Bytes) (off : Nat) (w : Bytes) : Bytes :=
  fit off b ++ w ++ b.drop (off + w.length)

/-- ASCII characters as bytes. -/
def ascii (s : List Char) : Bytes := s.map (fun c => BitVec.ofNat 8 c.toNat)

/-- Value of key `k`, or `d` where `k` is not listed. -/
def Tab.get {α : Type} (t : Tab α) (k : Nat) (d : α) : α :=
  match t with
  | [] => d
  | (k', v) :: t' => if k' = k then v else Tab.get t' k d

/-- Sets key `k`, keeping the keys in rising order. -/
def Tab.set {α : Type} (t : Tab α) (k : Nat) (v : α) : Tab α :=
  match t with
  | [] => [(k, v)]
  | (k', v') :: t' =>
    if k < k' then (k, v) :: (k', v') :: t'
    else if k' = k then (k, v) :: t'
    else (k', v') :: Tab.set t' k v

/-- Removes key `k`. -/
def Tab.del {α : Type} (t : Tab α) (k : Nat) : Tab α := t.filter (fun e => e.1 != k)

/-- Whether key `k` is listed. -/
def Tab.has {α : Type} (t : Tab α) (k : Nat) : Bool := t.any (fun e => e.1 == k)

/-- Applies `f` to the value of key `k`, `d` standing for an unlisted one. -/
def Tab.upd {α : Type} (t : Tab α) (k : Nat) (d : α) (f : α → α) : Tab α := Tab.set t k (f (Tab.get t k d))

/-- The keys rise strictly. -/
def Tab.sorted {α : Type} : Tab α → Bool
  | [] => true
  | [_] => true
  | (a, _) :: (b, v) :: t => decide (a < b) && Tab.sorted ((b, v) :: t)

/-- One byte of a memory. -/
def Mem.read (m : Mem) (a : Nat) : Byte := Tab.get m.cells a m.fill

/-- Writes one byte, keeping the canonical form: the value an unlisted address reads as removes the cell. -/
def Mem.write (m : Mem) (a : Nat) (v : Byte) : Mem :=
  { m with cells := if v = m.fill then Tab.del m.cells a else Tab.set m.cells a v }

/-- Writes consecutive bytes from `a`. -/
def Mem.writeAll (m : Mem) (a : Nat) : Bytes → Mem
  | [] => m
  | b :: bs => Mem.writeAll (Mem.write m a b) (a + 1) bs

/-- Reads `n` consecutive bytes from `a`. -/
def Mem.readAll (m : Mem) (a : Nat) : Nat → Bytes
  | 0 => []
  | n + 1 => Mem.read m a :: Mem.readAll m (a + 1) n

/-- The canonical form: addresses rise strictly and no cell holds what an unlisted address reads as. -/
def Mem.wf (m : Mem) : Bool := Tab.sorted m.cells && m.cells.all (fun c => c.2 != m.fill)

/-- A memory in which every byte reads `fill`. -/
def Mem.blank (fill : Byte) : Mem := { fill := fill, cells := [] }

/-- The last byte address listed plus one; 0 where nothing is listed. -/
def Mem.extent (m : Mem) : Nat := m.cells.foldl (fun e c => Nat.max e (c.1 + 1)) 0

/-- Sum of `f` over a list. -/
def sumBy {α : Type} (f : α → Nat) (l : List α) : Nat := l.foldl (fun n x => n + f x) 0

/-- Saturating addition below `2 ^ w`. -/
def satAdd (w a b : Nat) : Nat := Nat.min (a + b) (2 ^ w - 1)

/-- Splits a list into blocks of `n`, at most `fuel` of them. -/
def blocks (n : Nat) : Nat → Bytes → List Bytes
  | 0, _ => []
  | fuel + 1, b => if b.isEmpty then [] else b.take n :: blocks n fuel (b.drop n)

end Sys2Proof.Machine
end

