-- ==== Sys2Proof/Machine/Crypto.lean ====
section
/-!
DEFINITION. The cryptographic functions the spec names: SHA-512, HMAC-SHA-512, the KDF of R418, RSASSA-PSS verification
(R70), and the CRC-64 of R84.  Their algorithms are those of the standards the spec cites (log 11); the
RSA identity key stays a free function of Config (log 12).
-/
namespace Sys2Proof.Machine

/-- Round constants 0–39 of SHA-512. -/
def sha512K0 : List Word64 :=
  [0x428A2F98D728AE22, 0x7137449123EF65CD, 0xB5C0FBCFEC4D3B2F, 0xE9B5DBA58189DBBC,
   0x3956C25BF348B538, 0x59F111F1B605D019, 0x923F82A4AF194F9B, 0xAB1C5ED5DA6D8118,
   0xD807AA98A3030242, 0x12835B0145706FBE, 0x243185BE4EE4B28C, 0x550C7DC3D5FFB4E2,
   0x72BE5D74F27B896F, 0x80DEB1FE3B1696B1, 0x9BDC06A725C71235, 0xC19BF174CF692694,
   0xE49B69C19EF14AD2, 0xEFBE4786384F25E3, 0x0FC19DC68B8CD5B5, 0x240CA1CC77AC9C65,
   0x2DE92C6F592B0275, 0x4A7484AA6EA6E483, 0x5CB0A9DCBD41FBD4, 0x76F988DA831153B5,
   0x983E5152EE66DFAB, 0xA831C66D2DB43210, 0xB00327C898FB213F, 0xBF597FC7BEEF0EE4,
   0xC6E00BF33DA88FC2, 0xD5A79147930AA725, 0x06CA6351E003826F, 0x142929670A0E6E70,
   0x27B70A8546D22FFC, 0x2E1B21385C26C926, 0x4D2C6DFC5AC42AED, 0x53380D139D95B3DF,
   0x650A73548BAF63DE, 0x766A0ABB3C77B2A8, 0x81C2C92E47EDAEE6, 0x92722C851482353B]

/-- Round constants 40–79 of SHA-512. -/
def sha512K1 : List Word64 :=
  [0xA2BFE8A14CF10364, 0xA81A664BBC423001, 0xC24B8B70D0F89791, 0xC76C51A30654BE30,
   0xD192E819D6EF5218, 0xD69906245565A910, 0xF40E35855771202A, 0x106AA07032BBD1B8,
   0x19A4C116B8D2D0C8, 0x1E376C085141AB53, 0x2748774CDF8EEB99, 0x34B0BCB5E19B48A8,
   0x391C0CB3C5C95A63, 0x4ED8AA4AE3418ACB, 0x5B9CCA4F7763E373, 0x682E6FF3D6B2B8A3,
   0x748F82EE5DEFB2FC, 0x78A5636F43172F60, 0x84C87814A1F0AB72, 0x8CC702081A6439EC,
   0x90BEFFFA23631E28, 0xA4506CEBDE82BDE9, 0xBEF9A3F7B2C67915, 0xC67178F2E372532B,
   0xCA273ECEEA26619C, 0xD186B8C721C0C207, 0xEADA7DD6CDE0EB1E, 0xF57D4F7FEE6ED178,
   0x06F067AA72176FBA, 0x0A637DC5A2C898A6, 0x113F9804BEF90DAE, 0x1B710B35131C471B,
   0x28DB77F523047D84, 0x32CAAB7B40C72493, 0x3C9EBE0A15C9BEBC, 0x431D67C49C100D4C,
   0x4CC5D4BECB3E42B6, 0x597F299CFC657E2A, 0x5FCB6FAB3AD6FAEC, 0x6C44198C4A475817]

/-- Initial hash value of SHA-512. -/
def sha512Init : List Word64 :=
  [0x6A09E667F3BCC908, 0xBB67AE8584CAA73B, 0x3C6EF372FE94F82B, 0xA54FF53A5F1D36F1,
   0x510E527FADE682D1, 0x9B05688C2B3E6C1F, 0x1F83D9ABFB41BD6B, 0x5BE0CD19137E2179]

/-- Big-endian 64-bit words of a byte string, `n` of them. -/
def beWords : Nat → Bytes → List Word64
  | 0, _ => []
  | n + 1, b => BitVec.ofNat 64 (ofBe (b.take 8)) :: beWords n (b.drop 8)

/-- Extends the message schedule, kept newest first, by `n` words. -/
def shaExtend : Nat → List Word64 → List Word64
  | 0, w => w
  | n + 1, w =>
    let x := w.getD 1 0
    let y := w.getD 14 0
    let s1 := (x.rotateRight 19) ^^^ (x.rotateRight 61) ^^^ (x >>> 6)
    let s0 := (y.rotateRight 1) ^^^ (y.rotateRight 8) ^^^ (y >>> 7)
    shaExtend n ((s1 + w.getD 6 0 + s0 + w.getD 15 0) :: w)

/-- One round of SHA-512 on the eight working variables. -/
def shaRound (v : List Word64) (k w : Word64) : List Word64 :=
  let a := v.getD 0 0
  let b := v.getD 1 0
  let c := v.getD 2 0
  let e := v.getD 4 0
  let f := v.getD 5 0
  let g := v.getD 6 0
  let s1 := (e.rotateRight 14) ^^^ (e.rotateRight 18) ^^^ (e.rotateRight 41)
  let ch := (e &&& f) ^^^ ((~~~ e) &&& g)
  let t1 := v.getD 7 0 + s1 + ch + k + w
  let s0 := (a.rotateRight 28) ^^^ (a.rotateRight 34) ^^^ (a.rotateRight 39)
  let mj := (a &&& b) ^^^ (a &&& c) ^^^ (b &&& c)
  [t1 + s0 + mj, a, b, c, v.getD 3 0 + t1, e, f, g]

/-- The compression of one 128-byte block. -/
def shaBlock (h : List Word64) (blk : Bytes) : List Word64 :=
  let w := (shaExtend 64 (beWords 16 blk).reverse).reverse
  let v := (List.zip (sha512K0 ++ sha512K1) w).foldl (fun v kw => shaRound v kw.1 kw.2) h
  List.zipWith (· + ·) h v

/-- SHA-512 of a byte string. -/
def sha512 (m : Bytes) : Bytes :=
  let zeros := (128 - (m.length + 17) % 128) % 128
  let padded := m ++ [0x80] ++ List.replicate zeros 0 ++ beBytes 16 (8 * m.length)
  let h := (blocks 128 (padded.length / 128) padded).foldl shaBlock sha512Init
  (h.map (fun w => beBytes 8 w.toNat)).flatten

/-- Byte-wise exclusive or. -/
def xorBytes (a b : Bytes) : Bytes := List.zipWith (· ^^^ ·) a b

/-- HMAC-SHA-512. -/
def hmac512 (key m : Bytes) : Bytes :=
  let k := fit 128 (if key.length > 128 then sha512 key else key)
  sha512 (xorBytes k (List.replicate 128 0x5C) ++ sha512 (xorBytes k (List.replicate 128 0x36) ++ m))

/-- The KDF in counter mode of R418: `bytes` octets from `key`, LABEL and CONTEXT. -/
def kdf (key label context : Bytes) (bytes : Nat) : Bytes :=
  let n := (bytes + 63) / 64
  (((List.range n).map (fun i =>
    hmac512 key (beBytes 4 (i + 1) ++ label ++ [0] ++ context ++ beBytes 4 (8 * bytes)))).flatten).take bytes

/-- MGF1 with SHA-512. -/
def mgf1 (seed : Bytes) (bytes : Nat) : Bytes :=
  (((List.range ((bytes + 63) / 64)).map (fun i => sha512 (seed ++ beBytes 4 i))).flatten).take bytes

/-- `b ^ e mod n` by repeated squaring over the low `fuel` bits of `e`. -/
def powMod (n : Nat) : Nat → Nat → Nat → Nat
  | 0, _, _ => 1 % n
  | fuel + 1, b, e =>
    let r := powMod n fuel (b * b % n) (e / 2)
    if e % 2 = 1 then r * b % n else r

/-- RSASSA-PSS verification with SHA-512, MGF1 with SHA-512, a 64-byte salt and a 4,096-bit modulus (R70).
The modulus and the signature are 512 big-endian bytes. -/
def rsaPssVerify (e : Nat) (modulus sig m : Bytes) : Bool :=
  let n := ofBe modulus
  let s := ofBe sig
  if n = 0 ∨ s ≥ n then false else
  let em := beBytes 512 (powMod n 32 s e)
  let h := slice em 447 64
  let db0 := xorBytes (em.take 447) (mgf1 h 447)
  let db := (db0.take 1).map (· &&& 0x7F) ++ db0.drop 1
  let salt := db.drop 383
  byteAt em 511 == 0xBC && (byteAt em 0 < 128) && allZero (db.take 382) && byteAt db 382 == 1
    && (h == sha512 (List.replicate 8 0 ++ sha512 m ++ salt))

/-- One byte of the CRC-64 of R84: polynomial 0x42F0_E1EB_A9EA_3693, no reflection. -/
def crc64Byte (crc : Word64) (b : Byte) : Word64 :=
  let step := fun (c : Word64) (_ : Nat) => if c.msb then (c <<< 1) ^^^ 0x42F0E1EBA9EA3693 else c <<< 1
  (List.range 8).foldl step (crc ^^^ (BitVec.ofNat 64 b.toNat <<< 56))

/-- The CRC-64 of R84 over bytes in order: initial value 0, no final exclusive or. -/
def crc64 (b : Bytes) : Nat := (b.foldl crc64Byte 0).toNat

end Sys2Proof.Machine
end

