-- ==== Sys2Proof/Machine/Aes.lean ====
section
/-!
DEFINITION. AES (FIPS 197), the key unwrapping AES-KW of SP 800-38F (R419), GCM of SP 800-38D, and the protection and
validation of user data of IEEE 802.1AE that rest on it (R288).  The algorithms are those of the standards the spec
cites (log 11).
-/
namespace Sys2Proof.Machine

/-! The field GF(2^8) and the S-box. -/

/-- Multiplication by x. -/
def aesTimes2 (b : Byte) : Byte := (b <<< 1) ^^^ (if b.getLsbD 7 then 0x1B else 0)

/-- Multiplication in GF(2^8). -/
def aesMul (a b : Byte) : Byte :=
  ((List.range 8).foldl (fun (p : Byte × Byte) i => (if b.getLsbD i then p.1 ^^^ p.2 else p.1, aesTimes2 p.2)) (0, a)).1

/-- The inverse, 0 for 0: the 254th power. -/
def aesInv (a : Byte) : Byte :=
  ((List.range 7).foldl (fun (p : Byte × Byte) _ => let sq := aesMul p.2 p.2; (aesMul p.1 sq, sq)) (1, a)).1

/-- SubBytes of one byte. -/
def aesSub (a : Byte) : Byte :=
  let x := aesInv a
  x ^^^ x.rotateLeft 1 ^^^ x.rotateLeft 2 ^^^ x.rotateLeft 3 ^^^ x.rotateLeft 4 ^^^ 0x63

/-- InvSubBytes of one byte. -/
def aesUnsub (a : Byte) : Byte := aesInv (a.rotateLeft 1 ^^^ a.rotateLeft 3 ^^^ a.rotateLeft 6 ^^^ 0x05)

/-! The cipher.  The state is 16 bytes, byte `r + 4 c` of row `r` and column `c`. -/

/-- The expanded key of `n` words beyond those listed, `nk` words of the key; the words are kept newest first. -/
def aesExpand (nk : Nat) : Nat → Byte → List Bytes → List Bytes
  | 0, _, w => w
  | n + 1, rcon, w =>
    let i := w.length
    let t := w.getD 0 []
    let t := if i % nk = 0 then xorBytes ((t.drop 1 ++ t.take 1).map aesSub) [rcon, 0, 0, 0]
      else if nk > 6 ∧ i % nk = 4 then t.map aesSub else t
    aesExpand nk n (if i % nk = 0 then aesTimes2 rcon else rcon) (xorBytes (w.getD (nk - 1) []) t :: w)

/-- The round keys of a key of 16 or 32 bytes. -/
def aesRoundKeys (key : Bytes) : List Bytes :=
  let nk := key.length / 4
  let w := (aesExpand nk (4 * (nk + 7) - nk) 1 (blocks 4 nk key).reverse).reverse
  blocks 16 (nk + 7) w.flatten

/-- ShiftRows. -/
def aesShift (b : Bytes) : Bytes := (List.range 16).map (fun i => b.getD ((i + 4 * (i % 4)) % 16) 0)

/-- InvShiftRows. -/
def aesUnshift (b : Bytes) : Bytes := (List.range 16).map (fun i => b.getD ((i + 12 * (i % 4)) % 16) 0)

/-- A column times the circulant matrix whose first row is given. -/
def aesMix (row : Bytes) (b : Bytes) : Bytes :=
  (List.range 16).map (fun i => (List.range 4).foldl (fun r k =>
    r ^^^ aesMul (row.getD ((k + 4 - i % 4) % 4) 0) (b.getD (i / 4 * 4 + k) 0)) 0)

/-- AES on one block. -/
def aesEncrypt (key b : Bytes) : Bytes :=
  match aesRoundKeys key with
  | [] => b
  | k :: ks =>
    let b := (ks.dropLast).foldl (fun b k => xorBytes (aesMix [2, 3, 1, 1] (aesShift (b.map aesSub))) k) (xorBytes b k)
    xorBytes (aesShift (b.map aesSub)) (ks.getLastD [])

/-- Inverse AES on one block. -/
def aesDecrypt (key b : Bytes) : Bytes :=
  match (aesRoundKeys key).reverse with
  | [] => b
  | k :: ks =>
    let b := (ks.dropLast).foldl (fun b k => aesMix [14, 11, 13, 9] (xorBytes ((aesUnshift b).map aesUnsub) k)) (xorBytes b k)
    xorBytes ((aesUnshift b).map aesUnsub) (ks.getLastD [])

/-! AES-KW. -/

/-- The steps of W^-1 numbered `t` down to 1, on the integrity register and the other semiblocks. -/
def kwSteps (key : Bytes) : Nat → Bytes × List Bytes → Bytes × List Bytes
  | 0, p => p
  | t + 1, p =>
    let i := t % p.2.length
    let b := aesDecrypt key (xorBytes p.1 (beBytes 8 (t + 1)) ++ p.2.getD i [])
    kwSteps key t (b.take 8, p.2.set i (b.drop 8))

/-- AES-KW unwrapping (KW-AD of SP 800-38F): wrapping key, wrapped data; none where the integrity check fails (R419). -/
def aesKwUnwrap (key data : Bytes) : Option Bytes :=
  let n := data.length / 8 - 1
  if data.length % 8 ≠ 0 ∨ n < 2 then none
  else
    let p := kwSteps key (6 * n) (data.take 8, blocks 8 n (data.drop 8))
    if p.1 = List.replicate 8 0xA6 then some p.2.flatten else none

/-! GCM with a 96-bit initialisation vector. -/

/-- Multiplication in GF(2^128), bit 0 of GCM being the most significant bit. -/
def gcmMul (x y : BitVec 128) : BitVec 128 :=
  ((List.range 128).foldl (fun (p : BitVec 128 × BitVec 128) i =>
    (if x.getMsbD i then p.1 ^^^ p.2 else p.1,
      (p.2 >>> 1) ^^^ (if p.2.getLsbD 0 then 0xE1000000000000000000000000000000 else 0))) (0, y)).1

/-- GHASH of a byte string whose last block is filled with zeros. -/
def ghash (h start : BitVec 128) (b : Bytes) : BitVec 128 :=
  (blocks 16 (b.length / 16 + 1) b).foldl (fun y x => gcmMul (y ^^^ BitVec.ofNat 128 (ofBe (fit 16 x))) h) start

/-- The counter mode of GCM from counter 2 on. -/
def gctr (key iv b : Bytes) : Bytes :=
  let l := blocks 16 (b.length / 16 + 1) b
  ((List.zip (List.range l.length) l).map (fun p => xorBytes p.2 (aesEncrypt key (iv ++ beBytes 4 (p.1 + 2))))).flatten

/-- The 16-byte tag of GCM over associated data and ciphertext. -/
def gcmTag (key iv aad c : Bytes) : Bytes :=
  let h := BitVec.ofNat 128 (ofBe (aesEncrypt key (List.replicate 16 0)))
  let y := ghash h (ghash h 0 aad) c
  let y := gcmMul (y ^^^ BitVec.ofNat 128 (8 * aad.length * 2 ^ 64 + 8 * c.length)) h
  xorBytes (beBytes 16 y.toNat) (aesEncrypt key (iv ++ beBytes 4 1))

/-! MACsec. -/

/-- The inputs of MACsec protection and validation: cipher of Table 10.3, key, salt, SSCI, SCI, packet number,
confidentiality and its offset, and the associated data. -/
structure MacsecIn where
  cipher : Nat
  key : Bytes
  salt : Bytes
  ssci : Nat
  sci : Bytes
  pn : Nat
  conf : Bool
  offset : Nat
  aad : Bytes

/-- The initialisation vector: SCI and packet number, or for XPN the salt with SSCI and packet number. -/
def macsecIv (m : MacsecIn) : Bytes :=
  if m.cipher = 3 ∨ m.cipher = 4 then xorBytes (fit 12 m.salt) (beBytes 4 m.ssci ++ beBytes 8 m.pn)
  else fit 8 m.sci ++ beBytes 4 m.pn

/-- The key of the cipher's length. -/
def macsecKey (m : MacsecIn) : Bytes := fit (if m.cipher = 1 ∨ m.cipher = 3 then 16 else 32) m.key

/-- How many bytes of user data stay in the clear. -/
def macsecClear (m : MacsecIn) (user : Bytes) : Nat := if m.conf then Nat.min m.offset user.length else user.length

/-- MACsec protection of user data: the secure data and ICV that leave (R288). -/
def macsecSeal (m : MacsecIn) (user : Bytes) : Bytes :=
  let n := macsecClear m user
  let c := gctr (macsecKey m) (macsecIv m) (user.drop n)
  user.take n ++ c ++ gcmTag (macsecKey m) (macsecIv m) (m.aad ++ user.take n) c

/-- MACsec validation of secure data and ICV: the user data, or none where the ICV does not match (R288). -/
def macsecOpen (m : MacsecIn) (b : Bytes) : Option Bytes :=
  let data := b.take (b.length - 16)
  let n := macsecClear m data
  if b.length ≥ 16 ∧ b.drop (b.length - 16) = gcmTag (macsecKey m) (macsecIv m) (m.aad ++ data.take n) (data.drop n) then
    some (data.take n ++ gctr (macsecKey m) (macsecIv m) (data.drop n))
  else none

end Sys2Proof.Machine
end

