-- ==== Sys2Proof/Machine/MlDsa.lean ====
section
/-!
DEFINITION. ML-DSA-87 of FIPS 204 with the SHAKE functions it rests on: the public key of a seed, signing and verification,
in pure mode with an empty context string (R70, R420, R423).  The algorithm is that of the standard the spec cites (log 11).
-/
namespace Sys2Proof.Machine

/-! Keccak-f[1600] and SHAKE.  The state is 25 lanes, lane `x + 5 y`. -/

/-- The round constants of Keccak-f[1600]. -/
def keccakRounds : List Word64 :=
  [0x0000000000000001, 0x0000000000008082, 0x800000000000808A, 0x8000000080008000,
   0x000000000000808B, 0x0000000080000001, 0x8000000080008081, 0x8000000000008009,
   0x000000000000008A, 0x0000000000000088, 0x0000000080008009, 0x000000008000000A,
   0x000000008000808B, 0x800000000000008B, 0x8000000000008089, 0x8000000000008003,
   0x8000000000008002, 0x8000000000000080, 0x000000000000800A, 0x800000008000000A,
   0x8000000080008081, 0x8000000000008080, 0x0000000080000001, 0x8000000080008008]

/-- The rotation of each lane. -/
def keccakShifts : List Nat :=
  [0, 1, 62, 28, 27, 36, 44, 6, 55, 20, 3, 10, 43, 25, 39, 41, 45, 15, 21, 8, 18, 2, 61, 56, 14]

/-- One round: θ, ρ, π, χ and ι. -/
def keccakRound (a : List Word64) (rc : Word64) : List Word64 :=
  let c := (List.range 5).map (fun x =>
    a.getD x 0 ^^^ a.getD (x + 5) 0 ^^^ a.getD (x + 10) 0 ^^^ a.getD (x + 15) 0 ^^^ a.getD (x + 20) 0)
  let d := (List.range 5).map (fun x => c.getD ((x + 4) % 5) 0 ^^^ (c.getD ((x + 1) % 5) 0).rotateLeft 1)
  let r := (List.range 25).map (fun i => (a.getD i 0 ^^^ d.getD (i % 5) 0).rotateLeft (keccakShifts.getD i 0))
  let b := (List.range 25).map (fun i => r.getD ((i % 5 + 3 * (i / 5)) % 5 + 5 * (i % 5)) 0)
  let e := (List.range 25).map (fun i =>
    b.getD i 0 ^^^ (~~~ (b.getD ((i + 1) % 5 + 5 * (i / 5)) 0) &&& b.getD ((i + 2) % 5 + 5 * (i / 5)) 0))
  (e.getD 0 0 ^^^ rc) :: e.drop 1

/-- Keccak-f[1600]. -/
def keccak (a : List Word64) : List Word64 := keccakRounds.foldl keccakRound a

/-- Absorbs one block of `8 n` bytes, given as its lanes. -/
def keccakAbsorb (a b : List Word64) : List Word64 := keccak (List.zipWith (· ^^^ ·) a (b ++ List.replicate (25 - b.length) 0))

/-- The first `n` lanes of each of `blocks` outputs of the sponge. -/
def keccakSqueeze (n : Nat) : Nat → List Word64 → List Word64
  | 0, _ => []
  | blocks + 1, a => a.take n ++ keccakSqueeze n blocks (keccak a)

/-- Little-endian 64-bit lanes of a byte string, `n` of them. -/
def leLanes : Nat → Bytes → List Word64
  | 0, _ => []
  | n + 1, b => BitVec.ofNat 64 (ofLe (b.take 8)) :: leLanes n (b.drop 8)

/-- SHAKE with a rate of `8 lanes` bytes: 21 lanes for SHAKE128, 17 for SHAKE256. -/
def shake (lanes : Nat) (m : Bytes) (bytes : Nat) : Bytes :=
  let rate := 8 * lanes
  let n := m.length / rate + 1
  let all := if m.length % rate = rate - 1 then m ++ [0x9F] else fit (n * rate - 1) (m ++ [0x1F]) ++ [0x80]
  let st := (blocks rate n all).foldl (fun a b => keccakAbsorb a (leLanes lanes b)) (List.replicate 25 0)
  (((keccakSqueeze lanes ((bytes + rate - 1) / rate) st).map (fun w => leBytes 8 w.toNat)).flatten).take bytes

/-- SHAKE256, the H of FIPS 204. -/
def shake256 (m : Bytes) (bytes : Nat) : Bytes := shake 17 m bytes

/-- SHAKE128, the G of FIPS 204. -/
def shake128 (m : Bytes) (bytes : Nat) : Bytes := shake 21 m bytes

/-! The ring Z_q[X]/(X^256 + 1).  A polynomial is its 256 coefficients modulo q. -/

/-- The modulus q. -/
def mlQ : Nat := 8380417

/-- A polynomial, or its transform. -/
abbrev Poly := List Nat

/-- A number modulo q. -/
def ofInt (v : Int) : Nat := (v % (mlQ : Int)).toNat

/-- The representative of least magnitude. -/
def centred (v : Nat) : Int := if v ≤ mlQ / 2 then (v : Int) else (v : Int) - mlQ

/-- Sum, difference and product coefficient by coefficient. -/
def polyAdd (a b : Poly) : Poly := List.zipWith (fun x y => (x + y) % mlQ) a b
def polySub (a b : Poly) : Poly := List.zipWith (fun x y => (x + mlQ - y) % mlQ) a b
def polyMul (a b : Poly) : Poly := List.zipWith (fun x y => x * y % mlQ) a b

/-- `zeta ^ e`, with zeta = 1753. -/
def zetaPow (e : Nat) : Nat := (List.range 9).foldl (fun r i =>
  if bit e (8 - i) then r * r % mlQ * 1753 % mlQ else r * r % mlQ) 1

/-- The eight bits of a number in reverse order. -/
def bitRev8 (m : Nat) : Nat := ((List.range 8).map (fun i => flagBit (bit m i) (7 - i))).sum

/-- The exponent of the root of X^256 + 1 at which entry `i` of a transform is the value of the polynomial. -/
def rootExp (i : Nat) : Nat := bitRev8 (128 + i / 2) + 256 * (i % 2)

/-- The roots of X^256 + 1 in the order of the transform. -/
def mlRoots : List Nat := (List.range 256).map (fun i => zetaPow (rootExp i))

/-- The value of a polynomial at a root. -/
def polyAt (a : Poly) (x : Nat) : Nat := a.foldr (fun c r => (c + x * r) % mlQ) 0

/-- NTT: the values at the 256 roots. -/
def ntt (a : Poly) : Poly := mlRoots.map (polyAt a)

/-- Sum over the roots of the transform's entry times the entries of a list. -/
def dotQ (a b : List Nat) : Nat := (List.zipWith (· * ·) a b).sum % mlQ

/-- The inverse transform: coefficient `j` is 256^-1 times the sum of the entries by the roots to the power `-j`. -/
def nttInv (a : Poly) : Poly :=
  let inverse := mlRoots.map (fun x => polyAt (List.replicate 255 0 ++ [mlQ - 1]) x)
  ((List.range 256).foldl (fun (p : List Nat × List Nat) _ =>
    (8347681 * dotQ a p.2 % mlQ :: p.1, List.zipWith (fun x y => x * y % mlQ) p.2 inverse)) ([], List.replicate 256 1)).1.reverse

/-! Rounding (FIPS 204, algorithms 35 to 40), with d = 13 and γ2 = (q - 1)/32. -/

/-- γ2. -/
def mlGamma2 : Nat := 261888

/-- Power2Round: the high part and the low part in (-2^12, 2^12]. -/
def power2Round (r : Nat) : Nat × Int :=
  let low : Int := if r % 8192 ≤ 4096 then (r % 8192 : Nat) else ((r % 8192 : Nat) : Int) - 8192
  (((r : Int) - low).toNat / 8192, low)

/-- Decompose: the high part below 16 and the low part in (-γ2, γ2]. -/
def decompose (r : Nat) : Nat × Int :=
  let a := 2 * mlGamma2
  let low : Int := if r % a ≤ mlGamma2 then (r % a : Nat) else ((r % a : Nat) : Int) - a
  if (r : Int) - low = mlQ - 1 then (0, low - 1) else (((r : Int) - low).toNat / a, low)

/-- UseHint: the high part, moved by one towards the low part's side where the hint is set. -/
def applyHint (h r : Nat) : Nat :=
  let x := decompose r
  if h = 0 then x.1 else if x.2 > 0 then (x.1 + 1) % 16 else (x.1 + 15) % 16

/-- MakeHint: adding `z` changes the high part of `r`. -/
def hintOf (z r : Nat) : Nat := if (decompose r).1 = (decompose ((r + z) % mlQ)).1 then 0 else 1

/-- The largest magnitude of the coefficients. -/
def normOf (l : List Poly) : Nat := (l.flatten.map (fun v => (centred v).natAbs)).foldl Nat.max 0

/-! Encodings (algorithms 16 to 28). -/

/-- Numbers of `w` bits each, least significant first, as bytes. -/
def packBits (w : Nat) (l : List Nat) : Bytes := leBytes (w * l.length / 8) (l.foldr (fun v r => v + 2 ^ w * r) 0)

/-- `n` numbers of `w` bits each out of bytes. -/
def unpackBits (w n : Nat) (b : Bytes) : List Nat :=
  let v := ofLe b
  (List.range n).map (fun i => bits v (w * i) w)

/-- `k` polynomials of 256 numbers of `w` bits. -/
def unpackPolys (w k : Nat) (b : Bytes) : List Poly := (blocks (32 * w) k b).map (unpackBits w 256)

/-- HintBitPack: for each of eight polynomials the places that are set, and where each polynomial's places end. -/
def packHints (h : List Poly) : Bytes :=
  let places := h.map (fun p => (List.range 256).filter (fun i => p.getD i 0 != 0))
  let ends := (List.range 8).map (fun i => ((places.take (i + 1)).map List.length).sum)
  fit 75 (places.flatten.map (BitVec.ofNat 8)) ++ ends.map (BitVec.ofNat 8)

/-- The numbers rise strictly. -/
def risingStrictly : List Nat → Bool
  | a :: b :: l => decide (a < b) && risingStrictly (b :: l)
  | _ => true

/-- HintBitUnpack: none where the ends fall or pass 75, the places of a polynomial do not rise, or an unused place is not zero. -/
def unpackHints (b : Bytes) : Option (List Poly) :=
  let ends := (b.drop 75).map BitVec.toNat
  let places := (List.range 8).map (fun i =>
    let from_ := if i = 0 then 0 else ends.getD (i - 1) 0
    ((b.drop from_).take (ends.getD i 0 - from_)).map BitVec.toNat)
  if (List.range 8).all (fun i => decide (ends.getD i 0 ≤ 75) && (i == 0 || decide (ends.getD (i - 1) 0 ≤ ends.getD i 0)))
      && places.all risingStrictly && allZero ((b.take 75).drop (ends.getD 7 0)) then
    some (places.map (fun l => (List.range 256).map (fun i => if l.contains i then 1 else 0)))
  else none

/-- w1Encode. -/
def packHigh (w : List Poly) : Bytes := (w.map (packBits 4)).flatten

/-! Sampling (algorithms 29 to 34), with the output lengths of FIPS 204 Appendix C. -/

/-- The first 256 numbers below q among groups of three bytes, bit 23 left out. -/
def rejNtt (b : Bytes) : Poly :=
  (((blocks 3 (b.length / 3) b).map (fun x => ofLe x % 2 ^ 23)).filter (fun v => decide (v < mlQ))).take 256

/-- ExpandA: eight rows of seven transforms. -/
def expandA (rho : Bytes) : List (List Poly) :=
  (List.range 8).map (fun r => (List.range 7).map (fun s =>
    rejNtt (shake128 (rho ++ [BitVec.ofNat 8 s, BitVec.ofNat 8 r]) 894)))

/-- RejBoundedPoly: coefficients in -2 to 2 from half bytes below 15. -/
def rejBounded (b : Bytes) : Poly :=
  ((((b.map (fun x => [x.toNat % 16, x.toNat / 16])).flatten).filter (fun v => decide (v < 15))).take 256).map
    (fun v => ofInt (2 - ((v % 5 : Nat) : Int)))

/-- ExpandS: entries `lo` to `lo + n - 1` of the secret vectors. -/
def expandS (rho : Bytes) (lo n : Nat) : List Poly :=
  (List.range n).map (fun r => rejBounded (shake256 (rho ++ leBytes 2 (lo + r)) 481))

/-- ExpandMask: seven polynomials with coefficients in -γ1 + 1 to γ1, γ1 = 2^19. -/
def expandMask (rho : Bytes) (kappa : Nat) : List Poly :=
  (List.range 7).map (fun r =>
    (unpackBits 20 256 (shake256 (rho ++ leBytes 2 (kappa + r)) 640)).map (fun v => ofInt (2 ^ 19 - (v : Int))))

/-- The next byte not above `i`, and the bytes after it. -/
def drawUpTo (i : Nat) : Bytes → Nat × Bytes
  | [] => (0, [])
  | b :: l => if b.toNat ≤ i then (b.toNat, l) else drawUpTo i l

/-- SampleInBall: 60 coefficients are 1 or -1. -/
def sampleInBall (seed : Bytes) : Poly :=
  let out := shake256 seed 229
  let signs := ofLe (out.take 8)
  ((List.range 60).foldl (fun (p : Poly × Bytes) k =>
    let i := 196 + k
    let x := drawUpTo i p.2
    let c := (p.1.set i (p.1.getD x.1 0)).set x.1 (if bit signs k then mlQ - 1 else 1)
    (c, x.2)) (List.replicate 256 0, out.drop 8)).1

/-! The scheme. -/

/-- A row of transforms times a vector of transforms. -/
def rowTimes (row v : List Poly) : Poly := (List.zipWith polyMul row v).foldl polyAdd (List.replicate 256 0)

/-- The matrix times a vector of transforms, transformed back. -/
def matTimes (a : List (List Poly)) (v : List Poly) : List Poly := a.map (fun row => nttInv (rowTimes row v))

/-- A polynomial, given by its transform, times each of a vector. -/
def polyTimes (c : Poly) (v : List Poly) : List Poly := v.map (fun p => nttInv (polyMul c (ntt p)))

/-- The key pair of ML-DSA.KeyGen_internal: rho, K, s1, s2, the high and the low part of t. -/
structure MlDsaKey where
  rho : Bytes
  secret : Bytes
  s1 : List Poly
  s2 : List Poly
  t1 : List Poly
  t0 : List Poly

/-- ML-DSA.KeyGen_internal of the seed ξ (R420). -/
def mldsaKeyGen (seed : Bytes) : MlDsaKey :=
  let h := shake256 (seed ++ [8, 7]) 128
  let rho' := slice h 32 64
  let s1 := expandS rho' 0 7
  let s2 := expandS rho' 7 8
  let t := List.zipWith polyAdd (matTimes (expandA (h.take 32)) (s1.map ntt)) s2
  { rho := h.take 32, secret := h.drop 96, s1 := s1, s2 := s2
    t1 := t.map (fun p => p.map (fun v => (power2Round v).1)), t0 := t.map (fun p => p.map (fun v => ofInt (power2Round v).2)) }

/-- pkEncode. -/
def mldsaKeyBytes (k : MlDsaKey) : Bytes := k.rho ++ (k.t1.map (packBits 10)).flatten

/-- The ML-DSA-87 public key generated from a seed, in its FIPS 204 encoding (R420). -/
def mldsaPublic (seed : Bytes) : Bytes := mldsaKeyBytes (mldsaKeyGen seed)

/-- The message as pure mode with an empty context string forms it: 0, the length 0 of the context, the message. -/
def mldsaPure (m : Bytes) : Bytes := [0, 0] ++ m

/-- μ: the digest of a message under a public key. -/
def mldsaMu (pk m : Bytes) : Bytes := shake256 (shake256 pk 64 ++ mldsaPure m) 64

/-- One attempt to sign with the mask of counter `kappa`; none where the attempt is rejected. -/
def mldsaAttempt (k : MlDsaKey) (a : List (List Poly)) (mu rho'' : Bytes) (kappa : Nat) : Option Bytes :=
  let y := expandMask rho'' kappa
  let w := matTimes a (y.map ntt)
  let high := w.map (fun p => p.map (fun v => (decompose v).1))
  let tilde := shake256 (mu ++ packHigh high) 64
  let c := ntt (sampleInBall tilde)
  let z := List.zipWith polyAdd y (polyTimes c k.s1)
  let r := List.zipWith polySub w (polyTimes c k.s2)
  let ct0 := polyTimes c k.t0
  let low := r.map (fun p => p.map (fun v => ofInt (decompose v).2))
  let hints := List.zipWith (fun p q => List.zipWith (fun u v => hintOf (mlQ - u) ((v + u) % mlQ)) p q) ct0 r
  if normOf z ≥ 2 ^ 19 - 120 ∨ normOf low ≥ mlGamma2 - 120 ∨ normOf ct0 ≥ mlGamma2 ∨ hints.flatten.sum > 75 then none
  else some (tilde ++ (z.map (fun p => packBits 20 (p.map (fun v => (2 ^ 19 - centred v).toNat)))).flatten ++ packHints hints)

/-- The first attempt that is not rejected, in at most `fuel` attempts. -/
def mldsaAttempts (k : MlDsaKey) (a : List (List Poly)) (mu rho'' : Bytes) : Nat → Nat → Bytes
  | 0, _ => []
  | fuel + 1, kappa =>
    match mldsaAttempt k a mu rho'' kappa with
    | some sig => sig
    | none => mldsaAttempts k a mu rho'' fuel (kappa + 7)

/-- ML-DSA-87 signing in pure mode with an empty context by the key of a seed, with 32 bytes of randomness (R423).  The number of
attempts is bounded as FIPS 204 Appendix C allows. -/
def mldsaSign (seed m rnd : Bytes) : Bytes :=
  let k := mldsaKeyGen seed
  let mu := mldsaMu (mldsaKeyBytes k) m
  mldsaAttempts k (expandA k.rho) mu (shake256 (k.secret ++ rnd ++ mu) 64) 814 0

/-- ML-DSA-87 verification in pure mode with an empty context: public key, message, signature (R70). -/
def mldsaVerify (pk m sig : Bytes) : Bool :=
  match unpackHints (slice sig 4544 83) with
  | none => false
  | some h =>
    let tilde := sig.take 64
    let z := (unpackPolys 20 7 (slice sig 64 4480)).map (fun p => p.map (fun v => ofInt (2 ^ 19 - (v : Int))))
    let t1 := (unpackPolys 10 8 (slice pk 32 2560)).map (fun p => ntt (p.map (fun v => v * 8192 % mlQ)))
    let c := ntt (sampleInBall tilde)
    let az := (expandA (pk.take 32)).map (fun row => rowTimes row (z.map ntt))
    let w := List.zipWith (fun u t => nttInv (polySub u (polyMul c t))) az t1
    let high := List.zipWith (fun hs p => List.zipWith applyHint hs p) h w
    decide (normOf z < 2 ^ 19 - 120) && tilde == shake256 (mldsaMu pk m ++ packHigh high) 64
      && pk.length == 2592 && sig.length == 4627

end Sys2Proof.Machine
end

