-- ==== Sys2Proof/Machine/State.lean ====
section
/-!
DEFINITION. The state of the machine: every register, table, queue, counter, mode and pin the spec gives the block, as
plain data, each with the rule that names it and where its reset value comes from; the queue of waiting commands; the
faults and refusals; and the state right after reset.
-/
namespace Sys2Proof.Machine

/-- The operating modes of Table 1.7 (R33). -/
inductive Mode
  | backup | standby | boot | recovery | autonomous | configured | partialNet | safe
deriving DecidableEq, Repr

/-- The life-cycle states of Table 0.4 (R7). -/
inductive LifeCycle
  | test | manufacture | field | service | retired
deriving DecidableEq, Repr

/-- What has left the block, in the order it left: the observable side of every command's effect. -/
inductive Out
  /-- A posted write of the device into host memory through HB (R315). -/
  | hostWrite (f : Nat) (addr : Nat) (data : Bytes)
  /-- An MSI-X message of a function's vector, written to the address its table entry holds (R301). -/
  | msix (f : Nat) (vec : Nat)
  /-- Data returned by a read of the direct window, the mailbox or BAR2. -/
  | readData (view : View) (off : Nat) (data : Bytes)
  /-- A frame handed to an egress MAC, without its FCS; `good` tells whether the FCS appended is correct. -/
  | frame (port : Nat) (content : Bytes) (good : Bool)
  /-- A PFC or PAUSE frame of a port with its content (R165). -/
  | pauseFrame (port : Nat) (content : Bytes)
  /-- A frame sent on the mirror link with its TYPE of Table 14.4. -/
  | ml (frameType : Nat) (content : Bytes)
  /-- A frame driven on a CAN channel, or the response on a LIN channel with its checksum last (endpoint 48–71). -/
  | legacy (endpoint : Nat) (header : Nat) (data : Bytes)
  /-- A CAN channel acknowledges a frame it received (R247). -/
  | canAck (endpoint : Nat)
  /-- A LIN master sends the header of an identifier (R251). -/
  | linHeader (endpoint : Nat) (id : Nat)
  /-- A FlexRay frame: slot, cycle, channels [0] A [1] B, indicators [0] payload preamble [1] null frame [2] sync [3] startup (R252). -/
  | flexray (slot cycle channels indicators : Nat) (data : Bytes)
  /-- A change of a pin's level: the signal's name of chapter 18 and its new level. -/
  | pin (name : String) (high : Bool)
  /-- A pulse on PEER_INT_OUT of the given length in ns (R323). -/
  | peerPulse (ns : Nat)
  /-- A verify or respond frame of frame preemption (R201). -/
  | preempt (port : Nat) (respond : Bool)
  /-- A TC10 signal of a port: 0 sleep request, 1 accept, 2 reject, 3 wake-up (R285). -/
  | tc10 (port : Nat) (signal : Nat)
  /-- What the gPTP message of the frame just sent on a port says: kind 0 Sync, 1 Follow_Up, 2 Announce, 3 Pdelay_Req, 4 Pdelay_Resp,
  5 Pdelay_Resp_Follow_Up; its domainNumber, sequence and timing fields (R227). -/
  | gptp (port : Nat) (kind : Nat) (domainNumber : Nat) (sequence : Nat) (fields : List Int)
  /-- An MDIO transaction with an external PHY: port, MDIO_ADDR, register, and the value of a write (R287). -/
  | mdio (port : Nat) (addr : Nat) (reg : Nat) (value : Option Nat)
  /-- A PLCA coordinator sends the BEACON that begins a cycle (R286). -/
  | beacon (port : Nat)
deriving DecidableEq, Repr

/-- Mode, straps, fuses of the system, and the cluster's condition. -/
structure Sys where
  /-- Operating mode, SYS_MODE.MODE (R33, Table 17.4). Reset: R33. -/
  mode : Mode := .boot
  /-- SYS_SCRATCH (Table 17.3). Reset: given. -/
  scratch : Word := 0
  /-- SYS_FW_VER (Table 17.3). Reset: given. -/
  fwVersion : Word := 0
  /-- The straps in force: PROFILE since the last load in AUTONOMOUS, the others since the last boot (R361). Reset: log 3. -/
  straps : Straps := { boot := 0, profile := 0, secondary := false, clkSel := false }
  /-- SYS_STRAPS as sampled at the last episode's end (R361). Reset: log 3. -/
  sampled : Straps := { boot := 0, profile := 0, secondary := false, clkSel := false }
  /-- The cluster runs in SPLIT (R29). Reset: log 3. -/
  split : Bool := false
  /-- Only the ROM runs (R375, R476). Reset: R362. -/
  romOnly : Bool := true
  /-- The cluster runs, in ROM or firmware, and executes commands (R28). Reset: R351. -/
  clusterUp : Bool := false
  /-- The cluster is halted (R384). Reset: R351. -/
  halted : Bool := false
  /-- Power-cycle count of the system area (R436). Reset: log 3. -/
  powerCycles : Nat := 0
  /-- Operating time of the system area in seconds (R31). Reset: log 3. -/
  opSeconds : Nat := 0
  /-- The recovery request flag of the system area (R376). Reset: log 3. -/
  recoveryRequest : Bool := false
  /-- Tag of the SYS_SET_MODE to AUTONOMOUS that waits for the next cycle boundary (R33). Reset: R351. -/
  autonomousTag : Option Word16 := none
  /-- The cycle boundary, in 2^-60 ns of W, at which that command takes effect (R33). Reset: R351. -/
  autonomousAt : Int := 0
deriving DecidableEq, Repr

/-- OTP fuses. -/
structure Otp where
  /-- The 32 cells of LC_COUNT, three fuses each (R411). Reset: log 3. -/
  lcCells : List (BitVec 3) := List.replicate 32 0
  /-- The RETIRED cell (R411). Reset: log 3. -/
  retiredCell : BitVec 3 := 0
  /-- Life-cycle state as read at the last boot step 1 (R411). Reset: log 3. -/
  lcState : LifeCycle := .test
  /-- LC_COUNT as read at the last boot step 1 (R411). Reset: log 3. -/
  lcCount : Nat := 0
  /-- Device ID (Table 15.8). Reset: log 3. -/
  deviceId : Word64 := 0
  /-- PCIe vendor ID (R297). Reset: log 3. -/
  vendorId : Word16 := 0
  /-- PCIe subsystem vendor ID (R297). Reset: log 3. -/
  subsysVendorId : Word16 := 0
  /-- PCIe subsystem ID (R297). Reset: log 3. -/
  subsysId : Word16 := 0
  /-- MP unicast address (R53). Reset: log 3. -/
  mpAddress : Nat := 0
  /-- PQ_REQUIRED fuse (R71). Reset: log 3. -/
  pqRequired : Bool := false
  /-- RST_REACH fuse word (R353). Reset: log 3. -/
  rstReach : Word := 0
  /-- RST_REACH as read at the last episode of reach L2 or wider (R353). Reset: log 3. -/
  rstReachRead : Word := 0
  /-- OTP field ROOT_A (R409). Reset: log 3. -/
  rootA : Bytes := []
  /-- ROOT_A_VALID (R409). Reset: log 3. -/
  rootAValid : Bool := false
  /-- OTP field ROOT_B (R409). Reset: log 3. -/
  rootB : Bytes := []
  /-- ROOT_B_VALID (R409). Reset: log 3. -/
  rootBValid : Bool := false
deriving DecidableEq, Repr

/-- One key slot: its attribute record (Table 15.3) and its material. -/
structure KeySlot where
  /-- KIND (R415). Reset: log 3. -/
  kind : Nat := 0
  /-- KEY_LEN (R415). Reset: log 3. -/
  keyLen : Nat := 0
  /-- Usage bits 0–9 (R415). Reset: log 3. -/
  usage : Nat := 0
  /-- WORLDS (R415). Reset: log 3. -/
  worlds : Nat := 0
  /-- LC (R415). Reset: log 3. -/
  lc : Nat := 0
  /-- MASTERS (R415). Reset: log 3. -/
  masters : Nat := 0
  /-- GENERATION (R415). Reset: log 3. -/
  generation : Nat := 0
  /-- The key or digest bytes (R414). Reset: log 3. -/
  material : Bytes := []
deriving DecidableEq, Repr

/-- The last quote of a transport (R423). -/
structure Quote where
  /-- QUOTE_BODY (R423). -/
  body : Bytes := []
  /-- The ML-DSA signature (R423). -/
  mldsaSig : Bytes := []
  /-- The certificate chain as the quote captured it (R423). -/
  chain : Bytes := []
deriving DecidableEq, Repr

/-- Key slots, identity and attestation. -/
structure Keys where
  /-- Slots 0–63 (R414). Reset: log 3. -/
  slots : Tab KeySlot := []
  /-- Chain area length TOTAL_LEN (R419). Reset: log 3. -/
  chainLen : Nat := 0
  /-- Chain bytes (R419). Reset: log 3. -/
  chain : Bytes := []
  /-- The identity keys are generated and cached (R420). Reset: log 3. -/
  identityReady : Bool := false
  /-- Last quote of each transport (R423). Reset: R351. -/
  quotes : Tab Quote := []
deriving DecidableEq, Repr

/-- How far a command has come (R39, R58, R63). -/
inductive CmdPhase
  /-- Accepted; its row has not begun it. -/
  | waiting
  /-- Begun and waiting for an instant it was armed for; not yet committed. -/
  | armed
  /-- Past its commit point; the final reply is owed. -/
  | committed
  /-- Finally replied; the reply is not yet delivered. -/
  | replied
deriving DecidableEq, Repr

/-- One command in flight: an entry of the command journal (R65). -/
structure InFlight where
  /-- OPCODE (Table 2.2). -/
  opcode : Nat
  /-- Transport it came by and where its reply goes (R38). -/
  via : Via
  /-- The packet as it was submitted (Table 2.2). -/
  packet : Packet
  /-- How far it has come (R63). -/
  phase : CmdPhase
  /-- Instant on W, in 2^-60 ns, of a timed command (R61). -/
  instant : Option Int := none
  /-- The key its acceptance check used, kept for the reply's tag (R417). -/
  key : Bytes := []
  /-- Local clock at acceptance. -/
  acceptedAt : Nat := 0
  /-- The reply is discarded: its function was reset or its bus mastering ended (R300). -/
  discard : Bool := false
  /-- Values the command captured at its commit point, for its final reply. -/
  aux : List Nat := []
deriving DecidableEq, Repr

/-- A reply that waits for room in its completion ring (R49): where it goes, its descriptor index and bytes, and whether
its delivery frees the tag. -/
structure Completion where
  /-- Reply buffer address in host memory (Table 2.6). -/
  addr : Nat
  /-- DESC_INDEX of its completion entry (R49). -/
  index : Nat
  /-- The reply (R49). -/
  bytes : Bytes
  /-- TAG of its command (R49). -/
  tag : Word16
  /-- Its delivery frees the tag (R39). -/
  frees : Bool
deriving DecidableEq, Repr

/-- The CMD registers of one PCIe function (Table 2.8). -/
structure CmdRing where
  /-- CMD_SQ_BASE_LO and _HI (Table 2.8). Reset: given. -/
  sqBase : Word64 := 0
  /-- CMD_CQ_BASE_LO and _HI (Table 2.8). Reset: given. -/
  cqBase : Word64 := 0
  /-- CMD_RING_CFG.ENABLE (Table 2.9). Reset: given. -/
  enable : Bool := false
  /-- CMD_RING_CFG.MSIX_VEC (Table 2.9). Reset: given. -/
  msixVec : Nat := 0
  /-- CMD_RING_CFG.SQ_SIZE (Table 2.9). Reset: given. -/
  sqSize : Nat := 0
  /-- CMD_SQ_TAIL (Table 2.8). Reset: given. -/
  sqTail : Nat := 0
  /-- CMD_SQ_HEAD (Table 2.8). Reset: given. -/
  sqHead : Nat := 0
  /-- CMD_CQ_HEAD (Table 2.8). Reset: given. -/
  cqHead : Nat := 0
  /-- CMD_CQ_TAIL (Table 2.8). Reset: given. -/
  cqTail : Nat := 0
  /-- CMD_STAT.DESC_ERR (R50). Reset: given. -/
  descErr : Bool := false
  /-- CMD_STAT.FETCH_ERR (R50). Reset: given. -/
  fetchErr : Bool := false
  /-- CMD_STAT.DB_ERR (R50). Reset: given. -/
  dbErr : Bool := false
  /-- PHASE of the next completion entry (R49). Reset: R49. -/
  phase : Bool := true
  /-- Completions not yet written, oldest first (R49). Reset: R50. -/
  held : List Completion := []
  /-- What the fetch of the descriptors from CMD_SQ_HEAD on brings, as the doorbell row told it, while the cluster does not take the
  command of the first (R65, log 44). Reset: R50. -/
  offered : List SqFetch := []
deriving DecidableEq, Repr

/-- A queued mailbox reply (R52): its tag, the whole reply kept by the journal (R65), and the blocks not yet popped. -/
structure MbReply where
  /-- TAG of its command (R52). -/
  tag : Word16
  /-- It is the final reply, not an interim one (R52). -/
  final : Bool
  /-- The whole reply (R65). -/
  whole : Bytes
  /-- The bytes not yet popped (R52). -/
  left : Bytes
deriving DecidableEq, Repr

/-- The binding of an in-band session (R55). -/
structure Session where
  /-- MAC address the session is bound to (R55). -/
  src : Nat
  /-- Key slot the session is bound to (R55). -/
  slot : Nat
  /-- Local clock of its last accepted command (R55). -/
  lastActive : Nat
deriving DecidableEq, Repr

/-- The last command accepted on an in-band tag, for the duplicate test of R56. -/
structure LastInBand where
  /-- SEQUENCE of that command (R56). -/
  sequence : Word
  /-- Its AUTH (R56). -/
  auth : Bytes
  /-- Its final reply once it has been sent (R56). -/
  reply : Option Bytes
deriving DecidableEq, Repr

/-- The authentication policy of R47: whether each of F0, F1 and XSPI-H requires authentication of W2, and whether it
relaxes the requirement of W1 in TEST and MANUFACTURE. -/
structure AuthPolicy where
  /-- W2 must authenticate on F0, F1, XSPI-H: bits 0 to 2 (R47). -/
  w2Required : BitVec 3
  /-- W1 need not authenticate in TEST and MANUFACTURE (R47). -/
  w1Relaxed : Bool
deriving DecidableEq, Repr

/-- Command transports and the command journal. -/
structure Cmd where
  /-- CMD registers of F0 and F1 (Table 2.8). Reset: given. -/
  rings : Tab CmdRing := []
  /-- Request buffer of the mailbox, 4 KiB (R51). Reset: log 4. -/
  request : Mem := { fill := 0, cells := [] }
  /-- CMD_MB_STAT.REQ_BUSY (Table 2.10). Reset: given. -/
  reqBusy : Bool := false
  /-- CMD_MB_STAT.DB_ERR (Table 2.10). Reset: given. -/
  mbDbErr : Bool := false
  /-- Mailbox replies in issue order (R52). Reset: given. -/
  replies : List MbReply := []
  /-- Commands in flight in acceptance order: the command journal of the system area (R65). Reset: log 3. -/
  inflight : List InFlight := []
  /-- Sequence high-water marks by transport and slot, key transport × 64 + slot (R46). Reset: R46. -/
  marks : Tab Nat := []
  /-- Boot nonce (R44). Reset: log 5. -/
  nonce : Bytes := List.replicate 16 0
  /-- In-band sessions 0–15 (R55). Reset: R55. -/
  sessions : Tab Session := []
  /-- Last command and reply of each in-band tag (R56). Reset: R56. -/
  lastInBand : Tab LastInBand := []
  /-- Authentication policy of the system area (R47). Reset: log 7. -/
  policy : AuthPolicy := { w2Required := 0, w1Relaxed := true }
  /-- Commands in flight that an episode of reach L0 to L2 lost: tag, opcode, committed (R359). Reset: R359. -/
  lost : Option (List (Word16 × Nat × Bool)) := none
  /-- Final replies owed while the cluster restarts: tag, status, DETAIL and result (R28, R65). Reset: R351. -/
  owed : List (Word16 × Nat × Nat × Bytes) := []
deriving DecidableEq, Repr

/-- INT block (Table 17.5). -/
structure Intr where
  /-- INT_STAT (Table 17.5). Reset: given. -/
  stat : Word := 0
  /-- INT_ROUTE_0 to INT_ROUTE_10 (R445). Reset: given. -/
  routes : Tab Word := []
  /-- Sources raised during an episode of reach L3 or L4 whose messages are pending (R445). Reset: given. -/
  deferred : List Nat := []
deriving DecidableEq, Repr

/-- One MSI-X table entry and its sending state (R301). -/
structure Vector where
  /-- Message address, low and high, of the table entry (R298). Reset: log 6. -/
  addr : Word64 := 0
  /-- Message data (R298). Reset: log 6. -/
  data : Word := 0
  /-- Mask bit (R301). Reset: log 6. -/
  masked : Bool := true
  /-- Pending bit (R301). Reset: log 6. -/
  pending : Bool := false
  /-- A message left less than 1 us ago (R301). Reset: R301. -/
  holdoff : Bool := false
  /-- A message is owed once the spacing ends (R301). Reset: R301. -/
  again : Bool := false
deriving DecidableEq, Repr

/-- A descriptor the device has fetched from a transmit ring and not yet written back (R304, R305). -/
structure TxDesc where
  /-- Its place in the ring (R304). -/
  index : Nat
  /-- The descriptor as fetched (Table 11.4). -/
  bytes : Bytes
  /-- The frame's number once it entered at HP. -/
  frame : Option Nat := none
  /-- WB_STATUS once it is decided (Table 11.5). -/
  status : Option Nat := none
  /-- TX_STAMP (Table 11.5). -/
  stamp : Bytes := List.replicate 12 0
  /-- OUTCOME (Table 11.5). -/
  outcome : Nat := 0xFF
  /-- TX_PORT (Table 11.5). -/
  txPort : Nat := 0xFF
deriving DecidableEq, Repr

/-- A DMA ring (Tables 11.2, 11.3). -/
structure HstRing where
  /-- Owning function (R302). Reset: R302. -/
  owner : Option Nat := none
  /-- Ring class of a transmit ring, queue mask of a receive ring (R302). Reset: R302. -/
  sel : Nat := 0
  /-- BASE_LO and BASE_HI (Table 11.2). Reset: given. -/
  base : Word64 := 0
  /-- TAIL (Table 11.2). Reset: given. -/
  tail : Nat := 0
  /-- ENABLE (Table 11.3). Reset: given. -/
  enable : Bool := false
  /-- ERR (Table 11.3). Reset: given. -/
  err : Bool := false
  /-- MSIX_VEC (Table 11.3). Reset: given. -/
  vec : Nat := 0
  /-- SIZE (Table 11.3). Reset: given. -/
  size : Nat := 0
  /-- HEAD (Table 11.3). Reset: given. -/
  head : Nat := 0
  /-- PHASE of the next write-back (R303). Reset: R303. -/
  phase : Bool := true
  /-- Next descriptor to fetch (R304, R307). Reset: R303. -/
  fetchAt : Nat := 0
  /-- Fetched transmit descriptors not yet written back, oldest first (R305). Reset: R303. -/
  work : List TxDesc := []
  /-- Posted empty receive descriptors, oldest first (R307). Reset: R303. -/
  posted : List Bytes := []
deriving DecidableEq, Repr

/-- What each PCIe function holds of its own. -/
structure PciFn where
  /-- MSI-X table and pending bits (R298). Reset: log 6. -/
  msix : Tab Vector := []
  /-- HST_ACC_STAT.SIZE_ERR (Table 17.7). Reset: given. -/
  sizeErr : Bool := false
  /-- HST_ACC_STAT.DB_ERR (Table 17.7). Reset: given. -/
  dbErr : Bool := false
  /-- HST_ACC_STAT.OWN_ERR (Table 17.7). Reset: given. -/
  ownErr : Bool := false
  /-- HST_ACC_STAT.WORLD_ERR (Table 17.7). Reset: given. -/
  worldErr : Bool := false
deriving DecidableEq, Repr

/-- The block of a side-effect window that a burst fetched (R312). -/
structure XspiBurst where
  /-- First fetched offset. -/
  base : Nat
  /-- The words fetched, in order. -/
  words : List Word
  /-- Offset at which the access in progress began. -/
  start : Nat
deriving DecidableEq, Repr

/-- XSPI-H and LB (R309–R314). -/
structure Xspi where
  /-- HST_XSPI_CTL.INT_EN (Table 11.8). Reset: given. -/
  intEn : Bool := false
  /-- HST_XSPI_CTL.BURST_THROUGH (Table 11.8). Reset: given. -/
  burstThrough : Bool := false
  /-- HST_XSPI_STAT.REPLAY (Table 11.9). Reset: given. -/
  replayed : Bool := false
  /-- HST_XSPI_STAT.SE_CLIP (Table 11.9). Reset: given. -/
  seClip : Bool := false
  /-- HST_XSPI_STAT.ALIGN_ERR (Table 11.9). Reset: given. -/
  alignErr : Bool := false
  /-- HST_XSPI_STAT.CMD_ERR (Table 11.9). Reset: given. -/
  cmdErr : Bool := false
  /-- HST_XSPI_STAT.LATE (Table 11.9). Reset: given. -/
  late : Bool := false
  /-- HST_XSPI_STAT.WR_OVF (Table 11.9). Reset: given. -/
  wrOvf : Bool := false
  /-- HST_XSPI_STAT.WR_ERR (Table 11.9). Reset: given. -/
  wrErr : Bool := false
  /-- Replay buffer; REPLAY_PEND is its presence (R312). Reset: given. -/
  replay : Option XspiBurst := none
  /-- The burst of the access in progress (R312). Reset: given. -/
  current : Option XspiBurst := none
  /-- Posted writes that have not taken effect: address and words (R314). Reset: R351. -/
  posted : List (Nat × List Word) := []
deriving DecidableEq, Repr

/-- Host ports: PCIe, DMA rings, XSPI-H. -/
structure Hst where
  /-- The PCIe endpoint is ready (R300). Reset: R300. -/
  ready : Bool := false
  /-- Per-function state (R297). Reset: given. -/
  fns : Tab PciFn := []
  /-- Transmit rings 0–15 (R302). Reset: R302. -/
  tx : Tab HstRing := []
  /-- Receive rings 0–15 (R302). Reset: R302. -/
  rx : Tab HstRing := []
  /-- XSPI-H and LB (R309). -/
  xspi : Xspi := {}
deriving DecidableEq, Repr

/-- One unit counter (R426, R429). -/
structure Counter where
  /-- VALUE (Table 16.2). Reset: R351. -/
  value : Nat := 0
  /-- OVF (Table 16.2). Reset: R351. -/
  ovf : Bool := false
  /-- SAT (Table 16.2). Reset: R351. -/
  sat : Bool := false
  /-- CHANGED (Table 16.2). Reset: R351. -/
  changed : Bool := false
  /-- Default configuration, SOURCE and MODE (R428). Reset: R428. -/
  dflt : Nat × Nat := (0, 0)
  /-- Override of CNT_SELECT (R429). Reset: R429. -/
  override : Option (Nat × Nat) := none
  /-- An image activated since the counter was configured does not define its object, and it counts nothing (R429).
  Reset: R429. -/
  void : Bool := false
deriving DecidableEq, Repr

/-- One snapshot bank (Table 16.5). -/
structure SnapBank where
  /-- SEQ (Table 16.5). -/
  seq : Nat := 0
  /-- STATE: 0 empty, 1 writing, 2 complete (Table 16.5). -/
  state : Nat := 0
  /-- TRIGGER: 0 command, 1 automatic, 2 both (Table 16.5). -/
  trigger : Nat := 0
  /-- W at the latch (Table 16.5). -/
  w : Bytes := List.replicate 12 0
  /-- Local clock at the latch (Table 16.5). -/
  local_ : Bytes := List.replicate 12 0
  /-- TAG of the first command served (Table 16.5). -/
  tag : Nat := 0
  /-- Unit counters as latched (R431). -/
  counters : Tab Counter := []
  /-- Statistics as latched (R431). -/
  stats : Tab Word64 := []
deriving DecidableEq, Repr

/-- A snapshot that is armed or in progress (R434). -/
structure Snapshot where
  /-- Instant on W in 2^-60 ns. -/
  instant : Int
  /-- It is one of AUTO_PERIOD (R435). -/
  automatic : Bool
  /-- Tags of the commands it serves, in order. -/
  tags : List Word16
deriving DecidableEq, Repr

/-- Statistics, unit counters and snapshots. -/
structure Cnt where
  /-- Statistics, key 32 × port + index (R425). Reset: R425. -/
  stats : Tab Word64 := []
  /-- Unit counters 0–383 (R426). Reset: R351. -/
  units : Tab Counter := []
  /-- AUTO_PERIOD in force (R428). Reset: R428. -/
  autoPeriod : Nat := 0
  /-- CNT_OVF0 to CNT_OVF11 (Table 17.6). Reset: given. -/
  ovf : Tab Word := []
  /-- Snapshot sequence: the number the next snapshot takes (R432). Reset: R432. -/
  nextSeq : Nat := 1
  /-- Snapshot banks 0 and 1 (R432). Reset: R432. -/
  banks : Tab SnapBank := []
  /-- CNT_SNAP_SEQ (Table 17.6). Reset: given. -/
  snapSeq : Word := 0
  /-- CNT_SNAP_STAT.ANY (Table 17.6). Reset: given. -/
  snapAny : Bool := false
  /-- CNT_SNAP_STAT bank (Table 17.6). Reset: given. -/
  snapBank : Nat := 0
  /-- Armed snapshots (R434). Reset: R351. -/
  armed : List Snapshot := []
  /-- The snapshot being written into its bank (R432). Reset: R432. -/
  writing : Option Snapshot := none
  /-- Cycle index of the last automatic snapshot (R435). Reset: R351. -/
  lastAuto : Option Int := none
deriving DecidableEq, Repr

/-- The event recorder. -/
structure Rec where
  /-- The 4 MiB recorder partition (R436). Reset: log 3. -/
  mem : Mem := { fill := 0xFF, cells := [] }
  /-- Offset at which the next record goes (R437). Reset: log 3. -/
  head : Nat := 0
  /-- SEQUENCE of the last record written (R437). Reset: log 3. -/
  lastSeq : Nat := 0
  /-- SEQUENCE of the log's first record (R440). Reset: log 3. -/
  firstSeq : Nat := 0
  /-- Firmware has found the head, so the EVR registers read (Table 17.6). Reset: given. -/
  found : Bool := false
  /-- RECORDER_FULL is present (R438). Reset: log 3. -/
  full : Bool := false
  /-- Event queue of 512 entries: TYPE and body (R437). Reset: R439. -/
  queue : List (Nat × Bytes) := []
  /-- Clear nonce and the local clock at which it was drawn (R441). Reset: R441. -/
  nonce : Option (Bytes × Nat) := none
  /-- Log descriptor of a clear in progress: the body of EVR_CLEARED, its SEQUENCE, the count and the tag (R442). Reset: log 3. -/
  clearing : Option (Bytes × Nat × Nat × Option Word16) := none
  /-- Records written since the last checkpoint (R437). Reset: log 3. -/
  sinceCheckpoint : Nat := 0
  /-- Offset the checkpoint of the system area names (R437). Reset: log 3. -/
  checkpoint : Nat := 0
  /-- Last second in which a limited record of a kind and object was written (R478). Reset: R218. -/
  limitAt : Tab Nat := []
  /-- Events since the last such record (R478). Reset: R218. -/
  limitCount : Tab Nat := []
deriving DecidableEq, Repr

/-- The backup domain (Table 1.6). -/
structure Backup where
  /-- Latched wake cause, 16 bits (R31). Reset: R351. -/
  wakeCause : Word16 := 0
  /-- Reset-episode count (R356). Reset: R356. -/
  episodes : Nat := 0
  /-- Count per reset source (R356). Reset: R356. -/
  sourceCounts : Tab Nat := []
  /-- Last-cause word (Table 13.4). Reset: R356. -/
  lastCause : Word16 := 0
  /-- Operating-seconds tick (R31). Reset: R351. -/
  opTick : Word := 0
  /-- Unrecorded-events count (R439). Reset: R439. -/
  unrecorded : Nat := 0
deriving DecidableEq, Repr

/-- Domain states of Table 8.2 (R221). -/
inductive DomState
  | free | locked | holdover | disabled
deriving DecidableEq, Repr

/-- Working-clock modes of Table 8.7 (R233). -/
inductive WMode
  | followTd0 | followTd1 | freeRun | slew
deriving DecidableEq, Repr

/-- A time domain (R220, R221). Values are in units of 2^-60 ns. -/
structure Domain where
  /-- State (Table 8.2). Reset: R221. -/
  st : DomState := .free
  /-- Anchor A (R220). Reset: R221. -/
  a : Int := 0
  /-- Local clock at the anchor (R220). Reset: R221. -/
  la : Nat := 0
  /-- Rate r in units of 2^-44 (R220). Reset: R221. -/
  r : Int := 0
  /-- Servo accumulator acc in units of 2^-44 (R223). Reset: R223. -/
  acc : Int := 0
  /-- The step has been used since the local clock started (R225). Reset: R351. -/
  stepUsed : Bool := false
  /-- Last offset e in units of 2^-60 ns (R245). Reset: R245. -/
  lastE : Int := 0
  /-- Source rate q of the last measurement (R223). Reset: R223. -/
  lastQ : Int := 0
  /-- Local clock of the last valid measurement (R228). Reset: R228. -/
  lastValid : Option Nat := none
  /-- Valid measurements (Table 8.11). Reset: R245. -/
  valid : Word64 := 0
  /-- HOLDOVER entries (Table 8.11). Reset: R245. -/
  holdovers : Word64 := 0
  /-- RATE_CLAMP (Table 8.11). Reset: R245. -/
  clamps : Word64 := 0
  /-- Grandmaster identity of the last Announce (R227). Reset: R227. -/
  gmId : Word64 := 0
  /-- Offsets of the last consecutive valid measurements, newest first, at most four (R222). Reset: R222. -/
  window : List Int := []
  /-- Local clocks of the last consecutive accepted PPS_IN edges, newest first, at most four (R222). Reset: R222. -/
  edges : List Nat := []
  /-- A two-step Sync waiting for its Follow_Up: sequence, port, stamp, correction (R227). Reset: R227. -/
  pendingSync : Option (Nat × Nat × Nat × Int) := none
  /-- Slave port taken in AUTONOMOUS (R230). Reset: R230. -/
  autoSlave : Option Nat := none
  /-- The source is lost: no Sync of the domain is sent until a valid measurement returns (R228). Reset: R228. -/
  lost : Bool := false
  /-- A frozen SECONDARY takes this domain's measurements from FALLBACK_PORT (R231). Reset: R231. -/
  fallback : Bool := false
  /-- A measurement in HOLDOVER lay more than 1 ms away: only a TIME_RESTEP ends the HOLDOVER (R224). Reset: R224. -/
  heldOut : Bool := false
  /-- Local clock, anchor, its local clock, rate and accumulator before the first lock, while a TIME_RESTEP of the same REF period may
  still overtake it (R221). Reset: R221. -/
  beforeLock : Option (Nat × Int × Nat × Int × Int) := none
  /-- sequenceId of the next Sync the device sends (R227). Reset: log 137. -/
  syncSeq : Nat := 0
  /-- sequenceId of the next Announce (R227). Reset: log 137. -/
  announceSeq : Nat := 0
  /-- Local clock at which a Sync was last originated (R228). Reset: R228. -/
  syncAt : Option Nat := none
deriving DecidableEq, Repr

/-- The working clock (R233). -/
structure WClock where
  /-- Mode (Table 8.7). Reset: R233. -/
  mode : WMode := .followTd0
  /-- Own anchor outside FOLLOW_TD0, 2^-60 ns (R234). Reset: R233. -/
  a : Int := 0
  /-- Local clock at that anchor (R234). Reset: R233. -/
  la : Nat := 0
  /-- Own rate outside FOLLOW_TD0 (R234). Reset: R233. -/
  r : Int := 0
  /-- Rate at the moment W left FOLLOW_TD0 (R234). Reset: R233. -/
  leftRate : Int := 0
  /-- Difference from TD1 held in FOLLOW_TD1 (R234). Reset: R233. -/
  offset : Int := 0
  /-- W_CLIP count (R234). Reset: R245. -/
  clips : Word64 := 0
  /-- The unit ignored after TIME_W_MISMATCH: 0 none, 1 unit A, 2 unit B (R236). Reset: R236. -/
  ignored : Nat := 0
deriving DecidableEq, Repr

/-- Link delay of a port (R227). -/
structure PortDelay where
  /-- The mean link delay in 2^-16 ns once measured since the link came up (R228). Reset: R228. -/
  delay : Option Int := none
  /-- neighborRateRatio minus 1 in units of 2^-44 (R227). Reset: R227. -/
  nrr : Int := 0
  /-- Sequence of the last Pdelay_Req sent (R227). Reset: log 9. -/
  seq : Nat := 0
  /-- t1 of that request in 2^-16 ns (R227). Reset: R227. -/
  t1 : Option Int := none
  /-- t4 and t2 of its response (R227). Reset: R227. -/
  resp : Option (Int × Int) := none
  /-- The previous exchange's t3 and t4, for the rate ratio (R227). Reset: R227. -/
  prev : Option (Int × Int) := none
deriving DecidableEq, Repr

/-- One TSYNC pin (R242, R243). -/
structure Tsync where
  /-- Captures held, oldest first, at most 16 (R242). Reset: R448. -/
  fifo : List Bytes := []
  /-- TSYNC_OVERRUN count (R242). Reset: R245. -/
  overruns : Word64 := 0
  /-- Local clock of the last captured edge (R242). Reset: R242. -/
  last : Option Nat := none
  /-- Level of a periodic output (R243). Reset: R360. -/
  high : Bool := false
  /-- Value of its timeline at the rise, moved with the timeline's later steps (R243). Reset: R360. -/
  rose : Int := 0
deriving DecidableEq, Repr

/-- Time domains, working clock and timing pins. -/
structure Time where
  /-- TD0 to TD3 (R220). Reset: R221; TD0 alone is enabled before an image is active (R230). -/
  doms : Tab Domain := [(0, {}), (1, { st := .disabled }), (2, { st := .disabled }), (3, { st := .disabled })]
  /-- The working clock (R233). -/
  w : WClock := {}
  /-- Link delays by port (R227). Reset: R228. -/
  delays : Tab PortDelay := []
  /-- TSYNC[3:0] (R242). Reset: R448. -/
  tsync : Tab Tsync := []
  /-- TIM_LOCAL (Table 17.9). Reset: given. -/
  latchLocal : Bytes := List.replicate 12 0
  /-- TIM_W (Table 17.9). Reset: given. -/
  latchW : Bytes := List.replicate 12 0
  /-- TIM_PPS_IN (Table 17.9). Reset: given. -/
  ppsIn : Bytes := List.replicate 12 0
  /-- Local clocks of the last two accepted PPS_IN edges, newest first (Table 8.3, R241). Reset: R241. -/
  ppsEdges : List Nat := []
  /-- TIM_PPS_CNT (Table 17.9). Reset: given. -/
  ppsCnt : Word := 0
  /-- PPS_IN_GLITCH (R241). Reset: R245. -/
  ppsGlitches : Word64 := 0
  /-- Level of PPS_OUT (R240). Reset: R360. -/
  ppsOut : Bool := false
  /-- Value of its timeline at which PPS_OUT rose, moved with the timeline's later steps (R240). Reset: R360. -/
  ppsRose : Int := 0
  /-- Received Announce messages (R227). Reset: R245. -/
  announces : Word64 := 0
  /-- Section 0x000F that the cluster goes on with while an L3 episode reloads the data path (R218, R228). Reset: R351. -/
  kept : Option Bytes := none
  /-- Local clock at which Pdelay_Req was last sent (R227). Reset: R227. -/
  pdelayAt : Option Nat := none
  /-- Local clock at which Announce was last sent (R227). Reset: R227. -/
  announceAt : Option Nat := none
deriving DecidableEq, Repr

/-- A run image as loaded into the data path: its header, its sections after the patches applied, and its digest (R68, R70). -/
structure RunImage where
  /-- The 128-byte header (Table 3.1). -/
  header : Bytes
  /-- Section contents by SECTION_ID (Table 3.3). -/
  sections : Tab Bytes
  /-- PATCHABLE sections by SECTION_ID (Table 3.2). -/
  patchable : List Nat
  /-- Image digest (R70). -/
  digest : Bytes
deriving DecidableEq, Repr

/-- A staging session (R72). -/
structure ImgSession where
  /-- Transport that owns it (R72). -/
  owner : Nat
  /-- MRAM bank it writes (R72). -/
  bank : Nat
  /-- IMAGE_LEN (R72). -/
  len : Nat
  /-- Byte ranges written by IMG_CHUNK, start and end, in rising order without overlap (R73, Table 3.6 check 1). -/
  written : List (Nat × Nat)
  /-- IMG_VERIFY has passed it (R74). -/
  verified : Bool
  /-- IMG_STAGE has staged it (R75). -/
  staged : Bool
deriving DecidableEq, Repr

/-- A patch: section, offset, replacement bytes and RESULT_CRC (Table 3.7). -/
structure Patch where
  /-- SECTION_ID (Table 3.7). -/
  section_ : Nat
  /-- OFFSET (Table 3.7). -/
  offset : Nat
  /-- Replacement bytes (Table 3.7). -/
  data : Bytes
  /-- RESULT_CRC (Table 3.7). -/
  crc : Nat
deriving DecidableEq, Repr

/-- A bank swap that waits for its instant (R85, R118). -/
structure PendingSwap where
  /-- Tag of the command it answers, if any (R85). -/
  tag : Option Word16
  /-- Instant on W in 2^-60 ns. -/
  instant : Int
  /-- The patch it applies (R85). -/
  patch : Option Patch
deriving DecidableEq, Repr

/-- Run image banks, staging, activation, patches and pace. -/
structure Img where
  /-- MRAM run image banks 0 and 1 (R30). Reset: log 3. -/
  banks : Tab Mem := []
  /-- IMAGE_LEN last announced for each bank (R77). Reset: log 3. -/
  lens : Tab Nat := []
  /-- Written ranges last kept for each bank (R77). Reset: log 3. -/
  ranges : Tab (List (Nat × Nat)) := []
  /-- The bank that holds the ACTIVE mark (R83). Reset: log 3. -/
  activeMark : Option Nat := none
  /-- PENDING mark: bank and instant (R79). Reset: log 3. -/
  pendingMark : Option (Nat × Int) := none
  /-- Staging session of this device (R72). Reset: R77. -/
  session : Option ImgSession := none
  /-- Staging session opened on the peer (R72). Reset: R77. -/
  peerSession : Option ImgSession := none
  /-- Bytes sent to that session's bank (R73). Reset: R77. -/
  peerBank : Mem := { fill := 0, cells := [] }
  /-- Armed activation: tag and instant (R78). Reset: R351. -/
  armed : Option (Word16 × Int) := none
  /-- The image the data path runs on: the live bank (R80). Reset: R351. -/
  live : Option RunImage := none
  /-- The image loaded into the shadow banks (R75). Reset: R351. -/
  shadow : Option RunImage := none
  /-- The image loaded in BOOT or after an L3 episode that waits for its first cycle boundary (R83). Reset: R351. -/
  loaded : Option RunImage := none
  /-- Local clock at which that load completed (R83). Reset: R351. -/
  loadedAt : Nat := 0
  /-- Patch log of the system area (R85). Reset: log 3. -/
  patchLog : List Patch := []
  /-- The committed patch that waits for its swap (R85). Reset: R351. -/
  pending : Option PendingSwap := none
  /-- Stored run image rollback counter (R81). Reset: log 3. -/
  rollback : Nat := 0
  /-- Last measured pace (R21). Reset: log 10. -/
  pace : Nat := 0
  /-- Lowest pace since activation (Table 3.8), none before the first reading. Reset: log 10. -/
  paceLow : Option Nat := none
  /-- PACE_MARGIN raised (R89). Reset: R89. -/
  margin : Bool := false
  /-- Consecutive readings at or above the threshold (R89). Reset: R89. -/
  goodReadings : Nat := 0
  /-- Local clock of the raising reading (R89). Reset: R89. -/
  marginAt : Nat := 0
  /-- Lowest reading while raised (R89). Reset: R89. -/
  marginLow : Nat := 0
  /-- Local clock of the last pace reading (R21). Reset: R218. -/
  paceAt : Nat := 0
  /-- PACE_CAL fuse: monitor count of the worst corner (R87). Reset: log 124. -/
  paceCal : Nat := 4096
deriving DecidableEq, Repr

/-- A reset episode in progress (R354): its reach so far, 0–4, and the sources asserted since it began. -/
structure Episode where
  /-- Reach so far: 0 to 4 for L0 to L4 (R354). -/
  reach : Nat
  /-- Sources asserted since it began, bit n as in Table 13.1 (R354). -/
  sources : Word16
deriving DecidableEq, Repr

/-- Reset control. -/
structure Rst where
  /-- Sources asserted now, bit n as in Table 13.1 (R348). Reset: log 2. -/
  asserted : Word16 := 0x0030
  /-- Episode in progress (R354). Reset: log 2. -/
  episode : Option Episode := some { reach := 0, sources := 0x0030 }
  /-- Exit sequence in progress and its reach (R355). Reset: R355. -/
  exit : Option Nat := none
  /-- Reach that source RST_GLOBAL demands (R348). Reset: R348. -/
  globalReach : Nat := 1
  /-- Tags of the RST_GLOBAL commands that wait for their final reply (R358). Reset: R351. -/
  globalTags : List Word16 := []
  /-- Supplies reported invalid (R464). Reset: log 2. -/
  invalid : List Supply := [.vddCore, .vddPhy, .vddSrds, .vdda18, .vddio18, .vddMram, .vddio33, .vbkp]
  /-- VMON_OK is high (R348). Reset: log 2. -/
  vmonOk : Bool := false
  /-- Blocks held in reset by RST_BLOCK, oldest first: KIND, INDEX, tag (R357). Reset: R351. -/
  blocks : List (Nat × Nat × Word16) := []
  /-- The reset of UPD_ACTIVATE with RESET_NOW is due (R369). Reset: R351. -/
  updReset : Bool := false
  /-- The reset of LC_TRANSITION is due (R412). Reset: R351. -/
  lcReset : Bool := false
  /-- Local clock of the reply that such a reset follows by 1 ms (R369, R412). Reset: R351. -/
  resetFrom : Nat := 0
  /-- RSTOUT_N is driven low (R360). Reset: R360. -/
  rstoutLow : Bool := true
  /-- XSPIF_RST_N is low (R313). Reset: R313. -/
  flashLow : Bool := true
  /-- PWR_GOOD is high (R360). Reset: R360. -/
  pwrGood : Bool := false
  /-- The firmware start that follows the last episode owes a RESET record (R356). Reset: R356. -/
  resetRecordDue : Bool := false
  /-- The last L4 episode followed a voter fault (R381). Reset: R351. -/
  voterRestart : Bool := false
deriving DecidableEq, Repr

/-- A slot of the bank pointer (R366). -/
structure BankSlot where
  /-- SEQ (R366). -/
  seq : Nat
  /-- ACTIVE (R366). -/
  active : Nat
  /-- TRIAL (R366). -/
  trial : Option Nat
  /-- TRIAL_COUNT (R366). -/
  trialCount : Nat
  /-- TRIAL_LIMIT (R366). -/
  trialLimit : Nat
  /-- PRE_TRIAL_IMAGE (R366). -/
  preTrialImage : Option Nat
  /-- The slot's check value holds (R366). -/
  valid : Bool
deriving DecidableEq, Repr

/-- An update session (R371). -/
structure UpdSession where
  /-- Transport that owns it (R371). -/
  owner : Nat
  /-- NOR bank it writes (R371). -/
  bank : Nat
  /-- BANK_LEN (Table 13.12). -/
  len : Nat
  /-- Byte ranges written by UPD_CHUNK, in rising order without overlap (R372). -/
  written : List (Nat × Nat)
  /-- 1 claimed, 2 verified, 3 staged, 4 activation committed (Table 13.14). -/
  state : Nat
deriving DecidableEq, Repr

/-- Firmware banks and update. -/
structure Upd where
  /-- NOR banks A (0) and B (1) (R313). Reset: log 3. -/
  nor : Tab Mem := []
  /-- Bank pointer slots 0 and 1 (R366). Reset: log 3. -/
  slots : Tab BankSlot := []
  /-- Update session (R371). Reset: R371. -/
  session : Option UpdSession := none
  /-- Update session opened on the peer (R374). Reset: R371. -/
  peerSession : Option UpdSession := none
  /-- Bytes sent to that session's bank (R372). Reset: R371. -/
  peerNor : Mem := { fill := 0xFF, cells := [] }
  /-- Booted bank (Table 13.14). Reset: log 3. -/
  booted : Nat := 0
  /-- The device booted from a trial bank (R370). Reset: R367. -/
  bootedTrial : Bool := false
  /-- MANIFEST_VERSION of the booted bank (Table 13.14). Reset: R362. -/
  manifestVersion : Nat := 0
  /-- Manifest digest of the booted bank (Table 13.14). Reset: R362. -/
  manifestDigest : Bytes := List.replicate 64 0
  /-- Parts of the booted manifest as measured at boot: TYPE, VERSION, ROLLBACK, DIGEST (Table 15.8). Reset: R362. -/
  parts : List (Nat × Nat × Nat × Bytes) := []
  /-- Stored rollback counters of types 0x0001–0x0005 (R365). Reset: log 3. -/
  rollbacks : Tab Nat := []
  /-- A bank installed in RECOVERY without a trial awaits its first boot (R375). Reset: log 3. -/
  recoveryInstalled : Bool := false
  /-- Banks whose run image part has been installed, by bank (R368). Reset: log 3. -/
  partInstalled : Tab Bool := []
deriving DecidableEq, Repr

/-- One core of the cluster (R380). -/
structure Core where
  /-- Masked after a disagreement (R378). Reset: R381. -/
  masked : Bool := false
  /-- Its self-test runs (R380). Reset: R381. -/
  testing : Bool := false
  /-- Retired (R381). Reset: R381. -/
  retired : Bool := false
  /-- Local clocks of its alignment-path faults (R380). Reset: R381. -/
  faults : List Nat := []
  /-- Heartbeat missed under SPLIT (R382). Reset: R382. -/
  silent : Bool := false
deriving DecidableEq, Repr

/-- Safety functions. -/
structure Saf where
  /-- Cores 0–2 (R377). Reset: R381. -/
  cores : Tab Core := []
  /-- An escalation has been raised since the last episode of reach L3 or wider (R385). Reset: R385. -/
  escalated : Bool := false
  /-- SAF_ESC_LAST escalation count (Table 17.8). Reset: given. -/
  escCount : Nat := 0
  /-- SAF_ESC_LAST row (Table 17.8). Reset: given. -/
  escRow : Nat := 0
  /-- FAULT_N is driven low (Table 13.6). Reset: given. -/
  faultN : Bool := true
  /-- FAULT_IN_N is low (Table 17.8). Reset: log 2. -/
  faultIn : Bool := false
  /-- ESM_ACK level (R388). Reset: R360. -/
  esmAck : Bool := false
  /-- Local clock of the last management watchdog service (R350). Reset: R350. -/
  mgmtServed : Nat := 0
  /-- The safety watchdog runs (R389). Reset: R389. -/
  wdtRuns : Bool := false
  /-- Next value expected is 0x5A3C (R389). Reset: R389. -/
  wdtFirst : Bool := true
  /-- No service has come since firmware start (R389). Reset: R389. -/
  wdtFresh : Bool := true
  /-- Local clock of firmware start or of the last service (R389). Reset: R389. -/
  wdtAt : Nat := 0
  /-- The cause that entered SAFE is a firewall revert failure (R387). Reset: R351. -/
  revertFailed : Bool := false
deriving DecidableEq, Repr

/-- Pair states of R390. -/
inductive PairState
  | alone | joining | paired | frozen
deriving DecidableEq, Repr


/-- Pair protocol and side-band wires. -/
structure Pair where
  /-- Pair state (R390). Reset: R32. -/
  st : PairState := .alone
  /-- Management role: false ACTIVE, true STANDBY (R390). Reset: R32. -/
  standby : Bool := false
  /-- The peer's PAIR_ROLE is known (Table 14.9). Reset: R32. -/
  peerKnown : Bool := false
  /-- The last CONTROL frame of the peer (R390). Reset: R32. -/
  peer : Option ControlFrame := none
  /-- Local clock since which an ACTIVE peer reports a bad health bit (R402). Reset: R32. -/
  peerBadSince : Option Nat := none
  /-- The mirror link is up (R394). Reset: R351. -/
  mlUp : Bool := false
  /-- Local clock at which GOING_DOWN was received (R401). Reset: R32. -/
  goingDownAt : Option Nat := none
  /-- Local clock at which the mirror link was lost (R401). Reset: R32. -/
  mlLostAt : Option Nat := none
  /-- PEER_HLTH_IN is active (R323). Reset: R323. -/
  hlthIn : Bool := false
  /-- Local clock at which PEER_HLTH_IN became inactive (R401). Reset: R323. -/
  hlthLostAt : Option Nat := none
  /-- Level of PEER_HLTH_OUT (R323). Reset: R360. -/
  hlthOut : Bool := false
  /-- Local clock of the last inversion of PEER_HLTH_OUT (R323). Reset: R323. -/
  hlthAt : Nat := 0
  /-- Last PEER_INT_IN class (Table 17.7). Reset: given. -/
  intClass : Nat := 0
  /-- PEER_INT_GLITCH (Table 17.7). Reset: given. -/
  glitches : Nat := 0
  /-- Cycle number of the last sync point (Table 14.9). Reset: R32. -/
  syncPoint : Nat := 0
  /-- Cycle of the last boundary processed (R395). Reset: R351. -/
  cycle : Int := 0
  /-- Consecutive cycles without a sync point (R397). Reset: R32. -/
  unsynced : Nat := 0
  /-- SYNC_LATE (Table 14.9). Reset: R407. -/
  syncLate : Word64 := 0
  /-- DIGEST_MISMATCH (Table 14.9). Reset: R407. -/
  mismatches : Word64 := 0
  /-- DIGEST_UNMATCHED (Table 14.9). Reset: R407. -/
  unmatched : Word64 := 0
  /-- DIGEST_OVER (Table 14.9). Reset: R407. -/
  overs : Word64 := 0
  /-- Takeovers (Table 14.9). Reset: R407. -/
  takeovers : Word64 := 0
  /-- Darnings completed (Table 14.9). Reset: R407. -/
  darnings : Word64 := 0
  /-- PAIR_DIVERGED events (Table 14.9). Reset: R407. -/
  diverged : Word64 := 0
  /-- Journal list of the last failover: tag and final status (R66). Reset: R407. -/
  failover : List (Word16 × Nat) := []
  /-- Own decision records of the cycle in progress (R399). Reset: R351. -/
  ownNow : List DigestRec := []
  /-- Own decision records of the last 4 cycles with the boundaries they have stood for (R399). Reset: R351. -/
  own : List (Nat × DigestRec) := []
  /-- Checker disagreements of the cycle in progress (R399). Reset: R351. -/
  disagreements : Nat := 0
  /-- Consecutive cycles with a DIGEST_MISMATCH (R400). Reset: R351. -/
  mismatchRun : Nat := 0
  /-- Mismatches found since the peer's last DIGEST (R399). Reset: R351. -/
  mismatchNow : Nat := 0
  /-- Local clock at which the last CONTROL frame left (R390). Reset: R351. -/
  controlAt : Nat := 0
  /-- Cycles since the peer's DIGEST reported a checker disagreement (R400). Reset: R351. -/
  peerFaulty : Option Nat := none
  /-- Cycles since the last DIGEST of the peer (R401). Reset: R351. -/
  digestless : Nat := 0
  /-- Local clock since which the cluster parts of SYNC are absent (R401). Reset: R351. -/
  partsAbsentSince : Option Nat := none
  /-- A takeover is due at the next cycle boundary (R402). Reset: R351. -/
  takeoverDue : Bool := false
  /-- Tag of the PAIR_SWITCHOVER that waits for the role change (R392). Reset: R351. -/
  switchTag : Option Word16 := none
  /-- The peer asked for a role change (R392). Reset: R351. -/
  roleRequested : Bool := false
  /-- PAIR_SET_MISMATCH has been recorded for this meeting (R390). Reset: R351. -/
  setMismatch : Bool := false
  /-- The peer's command journal as of the last SYNC applied (R66). Reset: R351. -/
  peerJournal : List JournalRec := []
  /-- Relayed commands of that journal whose sync point is reached and whose instant is still to come (R391). Reset: R351. -/
  peerTimed : List JournalRec := []
  /-- The peer's servo state as of the last SYNC applied (R395). Reset: R351. -/
  peerServo : List Servo := []
  /-- Peer image of FRER generation counters (Table 14.6). Reset: R351. -/
  peerGenerators : List (Nat × Nat) := []
  /-- Peer image of FRER recovery records (Table 14.6). Reset: R351. -/
  peerRecoveries : List FrerRec := []
  /-- Peer image of PSFP meters (Table 14.6). Reset: R351. -/
  peerMeters : List MeterRec := []
  /-- Peer image of the counters (Table 14.6). Reset: R351. -/
  peerCounters : List (Nat × Nat) := []
  /-- SYNCs queued while the darning copy runs (R404). Reset: R351. -/
  darnQueue : List SyncFrame := []
  /-- The darning copy is complete (R404). Reset: R351. -/
  darnCopied : Bool := false
  /-- The source's patch log as its DARN parts carried it (R404). Reset: R351. -/
  darnPatches : List Patch := []
  /-- What the last SYNC left the STANDBY with: instances, meters, counters and journal (R395). Reset: R351. -/
  sent : Option SyncFrame := none
  /-- Decision records of the peer that have found no own record, with the boundaries they have stood for (R399). Reset: R351. -/
  peerRecs : List (Nat × DigestRec) := []
  /-- Connection-table changes of the cycle in progress (R395). Reset: R351. -/
  ctChanges : List CtDelta := []
  /-- Committed relayed commands that wait for their sync point (R391). Reset: R351. -/
  relayed : List Word16 := []
  /-- The first complete SYNC's cycle that carried each of them (R391, R397). Reset: R351. -/
  carried : List (Nat × Word16) := []
  /-- Local clock of the last valid ML frame (R394). Reset: R351. -/
  lastFrameAt : Nat := 0
deriving DecidableEq, Repr

/-- A peer-bridge window (R317). -/
structure PbWindow where
  /-- ENABLE (R317). -/
  enable : Bool := false
  /-- POSTED (R317). -/
  posted : Bool := false
  /-- LOCKABLE (R317). -/
  lockable : Bool := false
  /-- SIZE (R317). -/
  sizeLog2 : Nat := 12
  /-- Near base (R317). -/
  near : Nat := 0
  /-- Far base (R317). -/
  far : Nat := 0
deriving DecidableEq, Repr

/-- An outbound peer-bridge transaction that is open, or a posted write the far side has not acknowledged (R319, R322). -/
structure PbOpen where
  /-- Transaction number (R319). -/
  id : Nat
  /-- Window it goes through (R317). -/
  window : Nat
  /-- The access (R318). -/
  access : PbAccess
  /-- Far address (R318). -/
  far : Nat
  /-- It is a posted write (R319). -/
  posted : Bool
  /-- The command it serves. -/
  tag : Option Word16
  /-- Local clock at which it was last sent (R319). -/
  sentAt : Nat := 0
  /-- It is withdrawn and waits for its back-off (R321). -/
  withdrawn : Bool := false
  /-- Times withdrawn (R321). -/
  tries : Nat := 0
deriving DecidableEq, Repr

/-- The lock a far device holds for its peer (R320). -/
structure PbLock where
  /-- Start of the locked range (R320). -/
  base : Nat
  /-- Length of the locked range (R320). -/
  size : Nat
  /-- Local clock since which it is held (R320). -/
  since : Nat
deriving DecidableEq, Repr

/-- The peer bridge. -/
structure Pb where
  /-- Windows 0–15 (R317). Reset: R317; windows 0–3 log 16. -/
  windows : Tab PbWindow := []
  /-- Outbound transactions open (R319). Reset: R351. -/
  open_ : List PbOpen := []
  /-- Number the next outbound transaction takes (R319). Reset: log 16. -/
  next : Nat := 0
  /-- The window whose lock this device holds at the peer (R320). Reset: R351. -/
  ownLock : Option Nat := none
  /-- The lock held here for the peer (R320). Reset: R351. -/
  lock : Option PbLock := none
  /-- Range of a sequence of the peer whose lock was released: its rest is answered LOCK_BROKEN (R320). Reset: R351. -/
  broken : Option (Nat × Nat) := none
  /-- Inbound requests that wait for a lock to end (R320). Reset: R351. -/
  waiting : List PbInbound := []
  /-- PB is disabled for a role conflict (R322). Reset: R322. -/
  disabled : Bool := false
  /-- Code and data handed to the initiator of the last completed transaction (R319). Reset: R351. -/
  last : Option (Nat × Bytes) := none
  /-- PB_BACKOFF count (R321). Reset: R351. -/
  backoffs : Word64 := 0
  /-- Local clock of the last back-off (R321). Reset: R351. -/
  backoffAt : Nat := 0
  /-- A lock was involved in the last back-off, so that its release and not the time ends it (R321). Reset: R351. -/
  backoffLock : Bool := false
deriving DecidableEq, Repr

/-- States of an external port as PORT_STATUS reports them (R296). -/
inductive PortState
  | disabled | down | training | up | asleep | heldDown
deriving DecidableEq, Repr

/-- A MACsec security association (R289, R291). -/
structure Sa where
  /-- SAK (R289). -/
  key : Bytes := []
  /-- Key slot the SAK came from (R289). -/
  slot : Nat := 0
  /-- Next PN, or the lowest acceptable one (R290, R291). -/
  pn : Nat := 0
  /-- SSCI (R289). -/
  ssci : Nat := 0
  /-- SALT (R289). -/
  salt : Bytes := []
  /-- The SA is in use (R289). -/
  enabled : Bool := false
  /-- Frames protected or validated. -/
  good : Word64 := 0
  /-- Frames failing validation. -/
  bad : Word64 := 0
  /-- Frames late by replay. -/
  late : Word64 := 0
  /-- TX_SA_EXHAUSTED or TX_NO_SA. -/
  lost : Word64 := 0
  /-- MSEC_PN_THRESHOLD has been raised for this SA (R290). -/
  warned : Bool := false
deriving DecidableEq, Repr

/-- One external Ethernet port, and the frame-transmission side of an internal one (R278–R296). -/
structure EthPort where
  /-- State (R296). Reset: R351. -/
  st : PortState := .disabled
  /-- MODE in force (Table 10.1). Reset: R351. -/
  mode : Nat := 0
  /-- Role: 0 slave, 1 master, 0xFF none (R296). Reset: R351. -/
  role : Nat := 0xFF
  /-- Coefficients: 0 none, 1 stored set in use, 2 trained afresh (R296). Reset: R351. -/
  coeff : Nat := 0
  /-- The coefficients the PHY was last trained to (R283). Reset: R351. -/
  coeffs : Bytes := []
  /-- First copy of the stored coefficients in the system area: the set and its CRC-32 (R283). Reset: log 3. -/
  copyA : Option (Bytes × Word) := none
  /-- Second copy (R283). Reset: log 3. -/
  copyB : Option (Bytes × Word) := none
  /-- Link rate in Mb/s (R278). Reset: R351. -/
  rate : Nat := 0
  /-- PLCA: 0 off, 1 coordinator, 2 node, 3 fallen back (R286). Reset: R351. -/
  plca : Nat := 0
  /-- Link-up events (R296). Reset: R296. -/
  linkUps : Word64 := 0
  /-- TC10 sleeps accepted or rejected (R296). Reset: R296. -/
  tc10Count : Word64 := 0
  /-- Local clock of the last link-up (R296). Reset: R296. -/
  upAt : Nat := 0
  /-- MDIO_NO_RESPONSE (R287). Reset: R296. -/
  mdioNoResponse : Word64 := 0
  /-- The external PHY's last read reports link (R287). Reset: R351. -/
  phyLink : Bool := false
  /-- The PCS has lock (R287). Reset: R351. -/
  pcsLock : Bool := false
  /-- Local clock at which the PHY or PCS was enabled (R282). Reset: R351. -/
  enabledAt : Nat := 0
  /-- TC10 handshake: 0 none, 1 the partner's request was accepted, 2 the device asked (R285). Reset: R351. -/
  tc10 : Nat := 0
  /-- AUTONOMOUS mode search of an XS port: trials made (R294). Reset: R351. -/
  search : Nat := 0
  /-- The XS port keeps its mode (R294). Reset: R351. -/
  searchDone : Bool := false
  /-- PLCA_DUP_COORD (R286). Reset: R296. -/
  plcaDup : Word64 := 0
  /-- Local clock of the last BEACON (R286). Reset: R351. -/
  beaconAt : Nat := 0
  /-- Local clock at which a coordinator's cycle ends (R286). Reset: R351. -/
  cycleEnd : Nat := 0
  /-- The port has had its transmit opportunity since the last BEACON (R286). Reset: R351. -/
  plcaUsed : Bool := false
  /-- Frames that the burst of the present opportunity still admits (Table 10.3). Reset: R351. -/
  burstLeft : Nat := 0
  /-- Local clock until which the next frame of that burst may begin (Table 10.3). Reset: R351. -/
  burstTill : Nat := 0
  /-- Local clock of the last MDIO read of the link status (R287). Reset: R351. -/
  polledAt : Option Nat := none
  /-- Transmit SAs by association number (R289). Reset: R351. -/
  txSas : Tab Sa := []
  /-- Association number of the transmit SA in use (R289). Reset: R351. -/
  txAn : Option Nat := none
  /-- Receive SAs, key 4 × channel index + association number (R289). Reset: R351. -/
  rxSas : Tab Sa := []
  /-- Counters of IEEE 802.1AE-2018 that the SecY keeps beside those of an SA (R288): InPktsUntagged, NoTag, BadTag, UnknownSCI,
  NoSCI, Unchecked, NotUsingSA, UnusedSA, Invalid, NotValid, Late, OK. Reset: R296. -/
  secyCounts : Tab Word64 := []
deriving DecidableEq, Repr

/-- Where a frame stands on its way (Table 1.2). -/
inductive FramePhase
  /-- Waiting for its lane. -/
  | waiting
  /-- In a first pass; its result is not released. -/
  | firstPass
  /-- Its first pass ordered a rinse; it waits in RP's queues. -/
  | rinse
  /-- In its second pass. -/
  | secondPass
  /-- Judged; its destinations are at work. -/
  | forwarded
deriving DecidableEq, Repr

/-- Where one destination of a frame stands (R174–R186). -/
inductive DestPhase
  /-- Its segments cross Cirrus, or wait for the frame's end. -/
  | crossing
  /-- Held in the Press. -/
  | press
  /-- In its transmit queue. -/
  | queued
  /-- On the wire. -/
  | sending
deriving DecidableEq, Repr

/-- One destination of a frame: egress port, its number in the triple, and how it is carried. -/
structure Dest where
  /-- Egress port (R174). -/
  port : Nat
  /-- Sequence number in its triple (R174). -/
  seq : Nat
  /-- Where it stands (R174). -/
  phase : DestPhase := .crossing
  /-- It goes cut-through (R180). -/
  cut : Bool := false
  /-- The frame is to end with an inverted FCS here (R101, R171, R181, R210). -/
  spoil : Bool := false
  /-- Instant of release into the transmit queue, on W (R187). -/
  releasedAt : Int := 0
  /-- ATS eligibility time on W (R199). -/
  elig : Option Int := none
  /-- Plane its segments take, once the frame has been dispatched to it (R158). -/
  plane : Option Nat := none
  /-- An uncorrectable row has ended the copy on the wire (R171). -/
  uncorr : Bool := false
deriving DecidableEq, Repr

/-- What crosses Cirrus on a plane toward an egress port (R158, R175). -/
inductive PlaneItem
  /-- Segments of a frame: egress port, frame number and how many. -/
  | frame (out n segs : Nat)
  /-- A hole notice: egress port, ingress port, class and sequence number. -/
  | notice (out input cls number : Nat)
deriving DecidableEq, Repr

/-- The result of a lane pass (R109). -/
structure LaneRes where
  /-- CLASS (R109). -/
  cls : Nat := 0
  /-- COLOUR (R109). -/
  colour : Nat := 0
  /-- QUEUE (R109). -/
  queue : Nat := 0
  /-- DROP holds; `true` where a rule set it. -/
  drop : Option Bool := none
  /-- ZONE_LOCK (R109). -/
  zoneLock : Bool := false
  /-- RESTART_LAYER, RESTART_NODE and META of an ordered rinse. -/
  rinse : Option (Nat × Nat × Nat) := none
  /-- A parse ended truncated in either pass. -/
  truncated : Bool := false
  /-- A malformed condition or lookup error gave MAL_ACTION. -/
  malformed : Bool := false
deriving DecidableEq, Repr

/-- What the cluster does once a gPTP event message has left, from its transmit stamp (R227, R228). -/
inductive GptpNext
  /-- Nothing follows. -/
  | done
  /-- The Follow_Up of a relayed Sync: ingress stamp in 2^-60 ns of local clock, source rate, origin timestamp, correction so far in
  2^-16 ns and rate offset. -/
  | relay (ingress rate : Int) (sec ns : Nat) (corr offset : Int)
  /-- The Follow_Up of a Sync that domain `d` originates. -/
  | origin (d : Nat)
  /-- t1 of a Pdelay_Req is known. -/
  | request
  /-- The Pdelay_Resp_Follow_Up of a Pdelay_Resp. -/
  | response
deriving DecidableEq, Repr

/-- A gPTP message from the cluster: kind 0 Sync, 1 Follow_Up, 2 Announce, 3 Pdelay_Req, 4 Pdelay_Resp, 5 Pdelay_Resp_Follow_Up
(R227). -/
structure GptpTx where
  /-- Kind (R227). -/
  kind : Nat
  /-- domainNumber (R227). -/
  number : Nat
  /-- sequenceId (R227). -/
  seq : Nat
  /-- Timing and identity fields (R227). -/
  fields : List Int
  /-- What follows its transmission (R227). -/
  next : GptpNext
deriving DecidableEq, Repr

/-- A frame in the device (R23, R156–R159). -/
structure Frame where
  /-- Ingress port (R15). -/
  inPort : Nat
  /-- Source endpoint (R124). -/
  srcEp : Nat
  /-- Bytes from the destination address to the last byte before the FCS, as the lanes see them. -/
  content : Bytes
  /-- Length on the wire, FCS included. -/
  wireLen : Nat
  /-- Local clock at which it began (R159). -/
  startClk : Nat
  /-- Ingress stamp on W in 2^-60 ns (R208). -/
  stamp : Int
  /-- Classes of the ingress port back-pressured when the frame began (R159). -/
  bpAtStart : Nat := 0
  /-- Lane it is dispatched to (R90). -/
  lane : Nat
  /-- Where it stands on its way (R23). -/
  phase : FramePhase := .waiting
  /-- The last byte has arrived and every check at the frame's end passed. -/
  ended : Bool := false
  /-- SecY validated the frame (R103). -/
  validated : Bool := false
  /-- The frame came in through a SecY that validates it, whatever the outcome (R180). -/
  throughSecY : Bool := false
  /-- Rule-bank epoch of the first pass (R115). -/
  epoch : Nat := 0
  /-- Rule bank of the first pass: 0 A, 1 B, 2 the ROM program. -/
  bank : Nat := 0
  /-- The result of its passes (R109). -/
  res : LaneRes := {}
  /-- Class under which its cells are charged (R159). -/
  chargeCls : Nat := 0
  /-- Cells of the scheduled pool charged (R159). -/
  sched : Nat := 0
  /-- Cells of the shared pool charged (R159). -/
  shared : Nat := 0
  /-- Cells of the reserved pool charged (R159). -/
  reserved : Nat := 0
  /-- Cells of the headroom charged (R159). -/
  headroom : Nat := 0
  /-- Ports of the forwarding result (R152). -/
  ports : List Nat := []
  /-- Functions of the forwarding result (R152). -/
  funcs : Nat := 0
  /-- Channels of the forwarding result (R152). -/
  channels : Nat := 0
  /-- Edit entry of the forwarding result (R153). -/
  edit : Option Nat := none
  /-- VID of the forwarding lookup (R152). -/
  vid : Nat := 0
  /-- Stream handle, 0xFFFF for none (R207). -/
  stream : Nat := 0xFFFF
  /-- Meter charged at an assumed length, and that length (R210). -/
  assumed : Option (Nat × Nat × Bool) := none
  /-- It grew longer than it may be (R210). -/
  oversize : Bool := false
  /-- Its destinations (R174). -/
  dests : List Dest := []
  /-- Launch time on W (R204). -/
  launch : Option Int := none
  /-- HP transmit ring and descriptor index (R305). -/
  hpDesc : Option (Nat × Nat) := none
  /-- The number of RP arrivals before it (R94). -/
  rpOrder : Nat := 0
  /-- A second pass judged it (Table 11.7). -/
  rinsed : Bool := false
  /-- The gPTP message it carries, sent by the cluster (R227). -/
  gptp : Option GptpTx := none
deriving DecidableEq, Repr

/-- One rule bank: sections 0x0001 and 0x0002, absent while it holds the ROM program (R111). -/
structure RuleBank where
  /-- Section 0x0001 (R115). -/
  prog : Option Bytes := none
  /-- Section 0x0002 (R115). -/
  keys : Option Bytes := none
deriving DecidableEq, Repr

/-- The sorting lanes. -/
structure Lanes where
  /-- L(p) of each ingress port (R90). Reset: R90. -/
  next : Tab Nat := []
  /-- Slot count of each lane modulo 4; slot 3 is RP's (R91). Reset: R351. -/
  slot : Tab Nat := []
  /-- Ingress port each lane served last in its round robin (R91). Reset: log 129. -/
  served : Tab Nat := []
  /-- Rule banks A and B (R115). Reset: R351. -/
  banks : Tab RuleBank := []
  /-- Live bank: 0 A, 1 B (Table 4.12). Reset: R351. -/
  live : Nat := 0
  /-- The lanes run the ROM program, which stands in neither bank (R111). Reset: R111. -/
  rom : Bool := true
  /-- Live epoch (R115). Reset: R115. -/
  epoch : Nat := 0
  /-- Non-live bank: 0 released, 1 draining, 2 loaded (Table 4.12). Reset: R351. -/
  other : Nat := 0
  /-- The device's own refresh waits for the release (R120). Reset: R351. -/
  refreshDue : Bool := false
  /-- A refresh is loaded and waits for its cycle boundary, on W (R118). Reset: R351. -/
  refreshAt : Option Int := none
  /-- The PRS_BANK_SWAP that is armed: its tag and instant (R118). Reset: R351. -/
  swap : Option (Word16 × Int) := none
  /-- Single-bit errors corrected (Table 4.12). Reset: R121. -/
  corrected : Word64 := 0
  /-- First passes by lane (Table 4.12). Reset: R121. -/
  first : Tab Word64 := []
  /-- Second passes by lane (Table 4.12). Reset: R121. -/
  second : Tab Word64 := []
  /-- Reason counters, key 17 × lane + index (Table 4.12). Reset: R121. -/
  reasons : Tab Word64 := []
  /-- Arrivals at RP so far (R94). Reset: R351. -/
  rpCount : Nat := 0
  /-- Ports whose result is held because RP was full (R94). Reset: R351. -/
  rpHold : List Nat := []
deriving DecidableEq, Repr

/-- States of a connection entry (Table 5.8). -/
inductive ConnState
  | tcpSyn | tcpEst | tcpClose | udpNew | udpEst | icmp
deriving DecidableEq, Repr

/-- Key of a connection entry (R131). -/
structure ConnKey where
  /-- IP version, 4 or 6 (R131). -/
  ver : Nat
  /-- Source address (R131). -/
  src : Nat
  /-- Destination address (R131). -/
  dst : Nat
  /-- Protocol (R131). -/
  proto : Nat
  /-- Source port or identifier (R131). -/
  sport : Nat
  /-- Destination port or identifier (R131). -/
  dport : Nat
  /-- Source zone (R131). -/
  szone : Nat
  /-- Destination zone (R131). -/
  dzone : Nat
deriving DecidableEq, Repr

/-- A connection entry (R131–R135). -/
structure Conn where
  /-- The key of the original direction (R131). -/
  key : ConnKey
  /-- State (Table 5.8). -/
  st : ConnState
  /-- Local clock at which its timeout expires. -/
  expiry : Nat
  /-- A reply has been seen. -/
  replied : Bool := false
  /-- Frames in the original direction (R138). -/
  orig : Word64 := 0
  /-- Frames in the reply direction (R138). -/
  reply : Word64 := 0
deriving DecidableEq, Repr

/-- The zone firewall. -/
structure Fwl where
  /-- Connection table by index (R131). Reset: R351. -/
  conns : Tab Conn := []
  /-- Highest number of entries in use (Table 5.12). Reset: R151. -/
  high : Nat := 0
  /-- Crossings judged (Table 5.12). Reset: R151. -/
  judged : Word64 := 0
  /-- Crossings permitted (Table 5.12). Reset: R151. -/
  permitted : Word64 := 0
  /-- Default denies (Table 5.12). Reset: R151. -/
  dflt : Word64 := 0
  /-- ZONE_LOCK_DENY (Table 5.12). Reset: R151. -/
  zoneLock : Word64 := 0
  /-- CT_FULL (Table 5.12). Reset: R151. -/
  ctFull : Word64 := 0
  /-- Scrub passes completed (Table 5.12). Reset: R151. -/
  scrubs : Word64 := 0
  /-- Reverts (Table 5.12). Reset: R151. -/
  reverts : Nat := 0
  /-- REVERT_DENY (Table 5.12). Reset: R151. -/
  revertDeny : Word64 := 0
  /-- Verdict counters (Table 5.12). Reset: R151. -/
  verdicts : Tab Word64 := []
  /-- State: 0 normal, 1 reverting, 2 closed (Table 5.12). Reset: R351. -/
  st : Nat := 0
  /-- Scrub reference of section 0x0003 (R147). Reset: R351. -/
  ref3 : Nat := 0
  /-- Scrub reference of section 0x0004 (R147). Reset: R351. -/
  ref4 : Option Nat := none
  /-- CAN route entries marked denied (R143). Reset: R351. -/
  routeDenied : List Nat := []
  /-- RX_ID_DENY, RX_RATE_DROP, TX_ID_DENY, TX_RATE_DROP, key 4 × channel + index (Table 5.12). Reset: R151. -/
  canDrops : Tab Word64 := []
  /-- Rate buckets, key 64 × channel + 32 × direction + group: steps of 1/65,536 token and the local clock (R140). Reset: R351. -/
  buckets : Tab (Nat × Nat) := []
  /-- Local clock at which section 0x0004 was loaded, from which the buckets' steps count (R140). Reset: R351. -/
  bucketsAt : Nat := 0
  /-- A scrub pass is suspended (R148). Reset: R351. -/
  suspended : Bool := false
deriving DecidableEq, Repr

/-- A learned address (R154), under key VID × 2^48 + address. -/
structure Learned where
  /-- Port it was learned on (R154). -/
  port : Nat
  /-- PCIe function behind HP (R154). -/
  func : Nat := 0
  /-- Local clock at which it was last seen (R154). -/
  seen : Nat
deriving DecidableEq, Repr

/-- Press state of one triple (R176). -/
structure Triple where
  /-- E, the number expected next (R176). -/
  e : Nat := 0
  /-- Frames held: number and frame (R176). -/
  held : List (Nat × Nat) := []
  /-- Numbers known to be holes (R176). -/
  holes : List Nat := []
  /-- Local clock at which its wait began. -/
  waitFrom : Option Nat := none
  /-- First number under PINNED after a move from SEQUENCED (R179). -/
  pinnedFrom : Option Nat := none
deriving DecidableEq, Repr

/-- The Basin and the switch core. -/
structure Bsn where
  /-- Learned table (R154). Reset: R351. -/
  learned : Tab Learned := []
  /-- Back-pressure raised, a mask of classes by ingress port (R160). Reset: R351. -/
  raised : Tab Nat := []
  /-- Lowest free shared-pool cells since the last activation (Table 6.14). Reset: R351. -/
  lowShared : Nat := 53480
  /-- Lane fault map (R172). Reset: R172. -/
  laneMap : List Nat := []
  /-- Local clocks of recent double-bit reads by lane (R172). Reset: R351. -/
  doubles : Tab (List Nat) := []
  /-- Row of the patrol scrub (R173). Reset: R351. -/
  scrubRow : Nat := 0
  /-- Inner single-bit corrections (Table 6.14). Reset: R184. -/
  inner : Word64 := 0
  /-- OUTER_CORR (Table 6.14). Reset: R184. -/
  outerCorr : Word64 := 0
  /-- OUTER_ERASE (Table 6.14). Reset: R184. -/
  outerErase : Word64 := 0
  /-- UNCORR (Table 6.14). Reset: R184. -/
  uncorr : Word64 := 0
  /-- Scrub passes completed (Table 6.14). Reset: R184. -/
  scrubs : Word64 := 0
  /-- Hole notices received (Table 6.14). Reset: R184. -/
  holesRx : Word64 := 0
  /-- LEARN_FULL (Table 6.14). Reset: R184. -/
  learnFull : Word64 := 0
  /-- Back-pressure raisings by port (Table 6.14). Reset: R184. -/
  raisings : Tab Word64 := []
  /-- Sequence counters, key (32 × input + output) × 8 + class (R174). Reset: R174. -/
  seqs : Tab Nat := []
  /-- Presses, key (32 × output + input) × 8 + class (R176). Reset: R351. -/
  press : Tab Triple := []
  /-- SCHED_POOL_OVERFLOW has been recorded since the activation (R159). Reset: R351. -/
  overflowSeen : Bool := false
  /-- Basin queues, key 8 × egress port + queue: the frames entered, in order of entry (R157). Reset: R351. -/
  queues : Tab (List Nat) := []
  /-- Planes 0–3: segments and hole notices on their way, in the order in which they were sent (R158, R175). Reset: R351. -/
  planes : Tab (List PlaneItem) := []
deriving DecidableEq, Repr

/-- A frame on the wire of an egress port. -/
structure Sending where
  /-- The frame's number (R188). -/
  frame : Nat
  /-- Local clock at which this part began (R188). -/
  startClk : Nat
  /-- ns of line time still to go from that clock (R188). -/
  left : Nat
  /-- It goes by the preemptible MAC (R201). -/
  preemptible : Bool
  /-- Local clock at which its first part began (R197). -/
  began : Nat := 0
  /-- Transmit time stamp on W in 2^-60 ns, taken when the first part began (R197, R239). -/
  stamp : Int := 0
  /-- The bytes the MAC sends, as it built them at the start (R153, R288). -/
  bytes : Bytes := []
  /-- What `left`, in whole ns, exceeds the exact line time by, in 10^-3 bit at the port's rate (R198). -/
  slack : Nat := 0
deriving DecidableEq, Repr

/-- One egress port 0–30. -/
structure EgrPort where
  /-- Transmit queues 0–7: frames in order (R186). Reset: R351. -/
  queues : Tab (List Nat) := []
  /-- Frame in transmission (R188). Reset: R351. -/
  sending : Option Sending := none
  /-- Preempted frame (R202). Reset: R351. -/
  preempted : Option Sending := none
  /-- CBS credit by queue: units of 2^-16 bit, and in each a million parts for the step under way (R198). Reset: R198. -/
  credit : Tab Int := []
  /-- Class of the last frame that entered each transmit queue, by which an empty queue's credit is held (R198). Reset: R351. -/
  lastCls : Tab Nat := []
  /-- Local clock of the last credit update (R198). Reset: R351. -/
  creditAt : Nat := 0
  /-- Local clock until which a class, or the port under key 8, is paused by the partner (R189). Reset: R351. -/
  pausedTill : Tab Nat := []
  /-- Local clock since which it is paused without interruption (R167). Reset: R351. -/
  pausedFrom : Tab Nat := []
  /-- Local clock of the last PFC_STUCK record of that pause (R167). Reset: R351. -/
  stuckAt : Tab Nat := []
  /-- Preemption: 0 off, 1 verifying, 2 active, 3 unverified (Table 7.17). Reset: R351. -/
  preempt : Nat := 0
  /-- Verify attempts made (R201). Reset: R351. -/
  verifyTries : Nat := 0
  /-- The port is in low-power idle (R284). Reset: R351. -/
  lpi : Bool := false
  /-- Local clock before which no frame starts, since the port woke from low-power idle (R284). Reset: R351. -/
  wakeAt : Nat := 0
  /-- Local clock of the last verify attempt (R201). Reset: R351. -/
  verifyAt : Nat := 0
  /-- The preemptible MAC is held (R203). Reset: R351. -/
  macHeld : Bool := false
  /-- PFC and PAUSE frames received (Table 7.17). Reset: R216. -/
  pauseRx : Word64 := 0
  /-- CERT_BOUND_EXCEEDED (Table 7.17). Reset: R216. -/
  certExceeded : Word64 := 0
  /-- ATS_RESIDENCE_DROP (Table 7.17). Reset: R216. -/
  atsDrops : Word64 := 0
  /-- Queue counters, key 8 × queue + index in the order of Table 7.17. Reset: R216. -/
  counts : Tab Word64 := []
  /-- A PFC or PAUSE frame is due as an ingress port's flow control (R165). Reset: R351. -/
  pauseDue : Bool := false
  /-- Classes whose clearing the next PFC frame announces (R165). Reset: R351. -/
  cleared : Nat := 0
  /-- Local clock of the last PFC or PAUSE frame sent (R165). Reset: R351. -/
  pauseSent : Nat := 0
  /-- The PLCA hold is in force (R166). Reset: R351. -/
  plcaHold : Bool := false
  /-- Local clock at which the PLCA hold began (R166). Reset: R351. -/
  holdFrom : Nat := 0
deriving DecidableEq, Repr

/-- A FRER recovery instance (R213, R214). -/
structure Recovery where
  /-- RecovSeqNum (R213). -/
  rec_ : Nat := 0
  /-- History window (R213). -/
  hist : Nat := 0
  /-- take_any (R213). -/
  takeAny : Bool := true
  /-- PASSED, DISCARDED, OUT_OF_ORDER, ROGUE, LOST, TAGLESS, RESETS, LATENT_ERRORS. -/
  counts : Tab Word64 := []
  /-- Local clock of the last passed frame (R213). -/
  passedAt : Nat := 0
  /-- Base difference of the latent error test (R214). -/
  base : Int := 0
  /-- Local clock of the last latent error test (R214). -/
  testedAt : Nat := 0
  /-- Local clock of the last latent error reset (R214). -/
  resetAt : Nat := 0
deriving DecidableEq, Repr

/-- A PSFP meter (R209): buckets in units of 10^-6 × 2^-60 bit, and the last stamp judged. -/
structure Meter where
  /-- Committed bucket (R209). -/
  committed : Int := 0
  /-- Excess bucket (R209). -/
  excess : Int := 0
  /-- Stamp on W at which the buckets stood so (R209). -/
  stamp : Int := 0
deriving DecidableEq, Repr

/-- Egress functions and stream protection. -/
structure Egr where
  /-- Egress ports 0–30 (R186). Reset: R351. -/
  ports : Tab EgrPort := []
  /-- Stream counters: identified, passed, GATE_DROP, RED_DROP, yellow, PSFP_OVERSIZE, key 8 × handle + index (Table 7.18). Reset: R216. -/
  streams : Tab Word64 := []
  /-- PSFP meters; an unlisted one is full (R209). Reset: R209. -/
  meters : Tab Meter := []
  /-- FRER generation numbers (R212). Reset: R212. -/
  gens : Tab Nat := []
  /-- Frames generated by entry (Table 7.19). Reset: R216. -/
  generated : Tab Word64 := []
  /-- Recovery instances, key 32 × entry + port (R213). Reset: R213. -/
  recoveries : Tab Recovery := []
  /-- ATS bucket_empty by scheduler, on W in 2^-60 ns (R199). Reset: R199. -/
  buckets : Tab Int := []
  /-- ATS group_elig by group (R199). Reset: R199. -/
  groups : Tab Int := []
deriving DecidableEq, Repr


/-- A legacy frame waiting in a receive store, a transmit queue or a buffer (R265, R268). -/
structure LegItem where
  /-- The frame (R265). -/
  frame : LegacyFrame
  /-- Reception stamp on W (R255). -/
  stamp : Int
  /-- Local clock from which its age counts (R269). -/
  since : Nat
  /-- MAX_AGE_US in ns (R269). -/
  maxAge : Nat
  /-- Route entry or mapping that took it (R265). -/
  owner : Nat
  /-- The sender's kind: 0 receive store or from GW, 1 QUEUED route, 2 LATEST route (R265). -/
  kind : Nat := 0
  /-- Place in the order of arrival of the FlexRay receive entries (R268). -/
  order : Nat := 0
deriving DecidableEq, Repr

/-- One legacy channel, under its endpoint number 48–72 (R246). -/
structure LegCh where
  /-- State of Table 9.15. Reset: R351. -/
  st : Nat := 0
  /-- CAN TEC (Table 9.15). Reset: R351. -/
  tec : Nat := 0
  /-- CAN REC (Table 9.15). Reset: R351. -/
  recv : Nat := 0
  /-- Seam engine that serves the channel; none where it stopped without a fallback (R272). Reset: R351. -/
  engine : Option Nat := none
  /-- Receive store: frames a DIR 0 mapping took (R268). Reset: R351. -/
  store : List LegItem := []
  /-- Frames a CAN route took, waiting for the engine (R263). Reset: R351. -/
  routes : List LegItem := []
  /-- Transmit queue and latest-value buffers in the order of entry (R265). Reset: R351. -/
  tx : List LegItem := []
  /-- Frame on the bus that the device sends. Reset: R351. -/
  onBus : Option LegItem := none
  /-- Counters of Table 9.15: received, transmitted, errors, bus-off entries, STALE, REPLACED, SLEEP_DROP,
  CHANNEL_DOWN_DROP, BAD_MSG, NO_MAPPING, XL_UNMAPPED, ENGINE_DOWN_DROP. Reset: R277. -/
  counts : Tab Word64 := []
  /-- AUTONOMOUS rate trials made (R275). Reset: R351. -/
  trials : Nat := 0
  /-- Local clock at which that trial began (R275). Reset: R351. -/
  trialAt : Nat := 0
  /-- AUTONOMOUS rate kept (R275). Reset: R351. -/
  rateKept : Bool := false
  /-- LIN and FlexRay frame buffers by LIN ID or FlexRay buffer index (R251, R252). Reset: R351. -/
  values : Tab Bytes := []
  /-- FlexRay dynamic buffers written since their last transmission (R252). Reset: R351. -/
  fresh : List Nat := []
  /-- LIN schedule position (R251). Reset: R351. -/
  slot : Nat := 0
  /-- Local clock at which the LIN slot began (R251). Reset: R351. -/
  slotAt : Nat := 0
  /-- LIN subscribed frame whose response is awaited (R251). Reset: R351. -/
  awaiting : Option Nat := none
  /-- Local clock at which the last LIN break began (R255). Reset: R351. -/
  breakAt : Nat := 0
  /-- A changed block waits for the end of the frame on the bus (R274). Reset: R351. -/
  restart : Bool := false
  /-- Bus-off recovery or integration is running (R270). Reset: R351. -/
  recovering : Bool := false
  /-- Local clock at which halt or bus-off was entered (R271). Reset: R351. -/
  downAt : Nat := 0
deriving DecidableEq, Repr

/-- What a handler run serves (R254). -/
inductive SeamJob
  /-- A CAN route entry, its bytes, and the frame it took. -/
  | route (entry : Nat) (cfg : Bytes) (item : LegItem)
  /-- A DIR 0 mapping, its bytes, and the frame it took. -/
  | toEth (mapping : Nat) (cfg : Bytes) (item : LegItem)
  /-- A DIR 1 mapping's bytes, the source endpoint of the frame from GW and the legacy message it unpacked. -/
  | fromMsg (cfg : Bytes) (src : Nat) (item : LegItem)
  /-- The bytes of a DIR 1 mapping with FORMAT 2, the Ethernet frame, its source endpoint, its reception stamp and its arrival from
  GW. -/
  | fromEth (cfg : Bytes) (content : Bytes) (src : Nat) (stamp : Int) (since : Nat)
deriving DecidableEq, Repr

/-- A frame from GW at an engine (R260). -/
structure GwItem where
  /-- The frame's bytes (R255). -/
  content : Bytes
  /-- Its channels of this engine, by number (R260). -/
  mask : Nat
  /-- Stamp on W (R255). -/
  stamp : Int
  /-- Local clock of its arrival (R269). -/
  since : Nat
  /-- Its source endpoint (Table 9.9). -/
  src : Nat
deriving DecidableEq, Repr

/-- A handler in execution (R255, R256). -/
structure SeamRun where
  /-- What it serves (R254). -/
  job : SeamJob
  /-- Handler number (R255). -/
  handler : Nat
  /-- The handler's instructions and the constants, as they stood when it began. -/
  code : Bytes
  /-- The constants, as they stood when it began (R255). -/
  consts : Bytes
  /-- Instructions of the handler passed so far. -/
  pc : Nat
  /-- Input buffer (R255). -/
  input : Bytes
  /-- Output buffer (R255). -/
  output : Bytes
  /-- G0 to G15; G0 reads 0 (R255). -/
  regs : Tab Nat
  /-- Instructions executed. -/
  executed : Nat := 0
deriving DecidableEq, Repr

/-- One Seam engine (R254). -/
structure Engine where
  /-- It has stopped on a fault (R272). Reset: R351. -/
  stopped : Bool := false
  /-- The handler in execution. Reset: R351. -/
  run : Option SeamRun := none
  /-- Jobs of the event in service that follow. Reset: R351. -/
  jobs : List SeamJob := []
  /-- Frames from GW, oldest first (R260). Reset: R351. -/
  gwIn : List GwItem := []
  /-- Last channel served in the round robin; 25 stands for the GW input (R254). Reset: R351. -/
  last : Nat := 0
  /-- Events served (Table 9.16). Reset: R277. -/
  served : Word64 := 0
  /-- Frames handed to GW (Table 9.16). Reset: R277. -/
  toGw : Word64 := 0
  /-- HANDLER_DROP and HANDLER_FAULT (Table 9.16). Reset: R277. -/
  dropFault : Word64 := 0
  /-- ENGINE_FAULT_LOST (Table 9.16). Reset: R277. -/
  lost : Word64 := 0
  /-- Launch outcomes ON_TIME, LATE, MISSED, EARLY (Table 9.16). Reset: R277. -/
  launch : Tab Word64 := []
deriving DecidableEq, Repr

/-- A mapping's bundle (R259). -/
structure Bundle where
  /-- The mapping's bytes as they stood when the first message was collected. -/
  cfg : Bytes := []
  /-- The channel that serves as the frame's source endpoint. -/
  channel : Nat := 48
  /-- The messages collected, oldest first (R259). -/
  messages : List Bytes := []
  /-- Stamp on W of the first message. -/
  firstStamp : Int := 0
  /-- Local clock of the first message. -/
  firstAt : Nat := 0
  /-- sequence_num of the next frame. -/
  seq : Nat := 0
deriving DecidableEq, Repr

/-- Legacy buses and the Seam gateway. -/
structure Leg where
  /-- Channels by endpoint 48–72 (R246). Reset: R351. -/
  chs : Tab LegCh := []
  /-- Seam engines 0–3 (R254). Reset: R351. -/
  engines : Tab Engine := []
  /-- Bundles by mapping (R259). Reset: R351. -/
  bundles : Tab Bundle := []
  /-- Frames taken by each route entry, and frames dropped as denied (R143, Table 16.4). Reset: R351. -/
  routeCounts : Tab (Nat × Nat) := []
  /-- FlexRay cycle in progress (R252). Reset: R351. -/
  frCycle : Nat := 0
  /-- Local clock at which that cycle began (R252). Reset: R351. -/
  frCycleAt : Nat := 0
  /-- FlexRay receive buffers by index: the entry a DIR 0 mapping waits on (R268). Reset: R351. -/
  frRx : Tab LegItem := []
deriving DecidableEq, Repr


/-- Dusk ring states of Table 12.6 (R329). -/
inductive RingState
  | awake | initiating | consented | quiet
deriving DecidableEq, Repr

/-- Where a sleep segment stands (R337–R339). -/
inductive SegState
  /-- Awake. -/
  | awake
  /-- TC10 sleep requests are out on its ports. -/
  | asking
  /-- Its channels drain their queues. -/
  | draining
  /-- Asleep. -/
  | asleep
deriving DecidableEq, Repr

/-- One sleep segment (Table 12.4). -/
structure Segment where
  /-- Where it stands (R337). -/
  st : SegState := .awake
  /-- Member ports whose partner has not answered the sleep request yet. -/
  asked : List Nat := []
  /-- Member ports whose partner accepted. -/
  accepted : List Nat := []
  /-- Tag of the WAKE_SEGMENT SLEEP that waits. -/
  tag : Option Word16 := none
  /-- Local clock at which draining began. -/
  drainAt : Nat := 0
  /-- Local clock at which its hold expires. -/
  hold : Option Nat := none
  /-- Local clock of the last frame on a member. -/
  traffic : Nat := 0
deriving DecidableEq, Repr

/-- Sleep and wake. -/
structure Wake where
  /-- Ring state (R329). Reset: R332. -/
  ring : RingState := .awake
  /-- ROUND and INITIATOR of the round in progress or last (R328). Reset: R351. -/
  round : Nat × Nat := (0, 0)
  /-- Greatest (ROUND, INITIATOR) accepted, kept in the system area (R328). Reset: log 3. -/
  greatest : Nat × Nat := (0, 0)
  /-- That round has ended by NAK, COMMIT or timeout (R328). Reset: R351. -/
  ended : Bool := false
  /-- QUIET_MS of the round's COMMIT (R329). Reset: R351. -/
  quietMs : Nat := 0
  /-- Local clock at which QUIET was entered (R329). Reset: R351. -/
  quietAt : Nat := 0
  /-- RING_TIMEOUT_MS in force for the round (R329). Reset: R351. -/
  timeoutMs : Nat := 0
  /-- Local clock at which that timeout began to run (R329). Reset: R351. -/
  timeoutAt : Nat := 0
  /-- Tag of the WAKE_SLEEP_REQUEST in progress (R345). Reset: R351. -/
  tag : Option Word16 := none
  /-- WAKE_IN is high past its filter (R330). Reset: log 2. -/
  wakeIn : Bool := false
  /-- LWAKE inputs high past their filter, bit n (R330). Reset: log 2. -/
  lwake : Nat := 0
  /-- Local clock of the last wake request made in AWAKE (R330). Reset: R351. -/
  requestAt : Option Nat := none
  /-- Local clock at which the device hold expires (R346). Reset: R351. -/
  hold : Option Nat := none
  /-- Local clock since which no stay-awake condition holds (R331). Reset: R351. -/
  idleFrom : Nat := 0
  /-- CAN channels latched by the detector (R325). Reset: R351. -/
  canLatched : Nat := 0
  /-- T1 ports latched by the detector (R325). Reset: R351. -/
  tc10Latched : Nat := 0
  /-- Cause of the last wake as read at boot (R325, R347). Reset: R347. -/
  lastCause : Nat := 0
  /-- Channels of the last wake as read at boot (R347). Reset: R347. -/
  lastCan : Nat := 0
  /-- Ports of the last wake as read at boot (R347). Reset: R347. -/
  lastTc10 : Nat := 0
  /-- Rounds committed (Table 12.10). Reset: R347. -/
  committed : Word64 := 0
  /-- NAKs sent and received (Table 12.10). Reset: R347. -/
  naks : Word64 := 0
  /-- DAWNs sent (Table 12.10). Reset: R347. -/
  dawns : Word64 := 0
  /-- DAWNs received while not in QUIET (R329). Reset: R351. -/
  dawnsIgnored : Word64 := 0
  /-- Dusk frames rejected (Table 12.10). Reset: R347. -/
  rejected : Word64 := 0
  /-- Segments by number (Table 12.4). Reset: R340. -/
  segs : Tab Segment := []
  /-- INH is high (R326). Reset: R360. -/
  inh : Bool := false
  /-- Local clock at which INH was released (R335). Reset: R351. -/
  inhAt : Nat := 0
  /-- Power-down has begun (R335). Reset: R351. -/
  down : Bool := false
  /-- WAKE_OUT is high (R343). Reset: R360. -/
  wakeOut : Bool := false
  /-- Local clock at which it rose (R343). Reset: R351. -/
  wakeOutAt : Nat := 0
  /-- The first entry to AUTONOMOUS or CONFIGURED after a boot is still to come (R343). Reset: R351. -/
  firstEntry : Bool := false
  /-- Wake settings in the backup domain: filters, enables and masks of Table 12.3, bytes 16–27; none for the ROM defaults
  (R327, R335). Reset: R324. -/
  settings : Option Bytes := none
  /-- The device has woken from STANDBY and owes its TC10 partners a wake-up request (R285). Reset: R351. -/
  forward : Bool := false
  /-- Ports whose TC10 wake detector is on (R279, R285). Reset: R294. -/
  tc10Ports : Nat := 0x0FFFFFFF
  /-- MODE of each port when STANDBY was entered (R341). Reset: log 3. -/
  portModes : Tab Nat := []
deriving DecidableEq, Repr


/-- Why the machine stops with a fault.  No command of the model raises one: the constructor is there for a command term
whose operands no wire could carry. -/
inductive Fault
  /-- Raised by no meaning; kept for a checker of command terms, which stops before the machine runs (safe). -/
  | illFormed
deriving DecidableEq, Repr

/-- Why the model gives a command no next state. -/
inductive Refusal
  /-- Raised by an arm of exec whose command has no meaning yet (safe). -/
  | notModelled (mnemonic : String)
deriving DecidableEq, Repr

/-- The whole block. -/
structure State where
  /-- Commands waiting, first in, first out: the model's own field. -/
  pending : List Instr := []
  /-- Counter of the free values drawn so far: the model's own field (log 1). -/
  freeCtr : Nat := 0
  /-- What has left the block, oldest first: the model's own field (log 13). -/
  wire : List Out := []
  /-- Local clock in ns (R218). Reset: R218. -/
  clk : Nat := 0
  sys : Sys := {}
  otp : Otp := {}
  keys : Keys := {}
  cmd : Cmd := {}
  intr : Intr := {}
  hst : Hst := {}
  cnt : Cnt := {}
  evr : Rec := {}
  bkp : Backup := {}
  time : Time := {}
  img : Img := {}
  rst : Rst := {}
  upd : Upd := {}
  saf : Saf := {}
  pair : Pair := {}
  pb : Pb := {}
  /-- Ports 0–27 (R278). Reset: R351. -/
  ports : Tab EthPort := []
  /-- Frames in the device by number (R23). Reset: R351. -/
  frames : Tab Frame := []
  /-- Number the next frame takes: the model's own field. -/
  nextFrame : Nat := 0
  lanes : Lanes := {}
  fwl : Fwl := {}
  bsn : Bsn := {}
  egr : Egr := {}
  leg : Leg := {}
  wake : Wake := {}
deriving DecidableEq, Repr

/-- The machine right after reset: power is about to be applied, so sources VBKP_POR and MAIN_POR assert and the L0
episode that powers the block up is in progress (log 2).  Every field holds its reset value. -/
def State.reset : State := {}

end Sys2Proof.Machine
end

