-- ==== Sys2Proof/Machine/Ops.lean ====
section
/-!
DEFINITION. The named operations every family of commands shares: what leaves the block, free values, the clocks, the
event recorder, interrupt sources and MSI-X messages, statistics and unit counters, and mode changes.
-/
namespace Sys2Proof.Machine

/-- Something leaves the block. -/
def emit (o : Out) (s : State) : State := { s with wire := s.wire ++ [o] }

/-- Time has passed up to local clock `t`: a timed event's command finds the clock no earlier than its instant (log 14). -/
def reachClock (t : Nat) (s : State) : State := { s with clk := Nat.max s.clk t }

/-- The next free number, the draw counter advanced (log 1). -/
def drawNat (s : State) : Nat × State :=
  (Config.freeNat s.freeCtr, { s with freeCtr := s.freeCtr + 1 })

/-- The next `n` free bytes, as a TRNG draw (log 1). -/
def drawBytes (n : Nat) (s : State) : Bytes × State :=
  ((List.range n).map (fun i => Config.freeByte (s.freeCtr + i)), { s with freeCtr := s.freeCtr + n })

/-! Clocks (R218–R220, R233). -/

/-- Time domain `d`. -/
def dom (s : State) (d : Nat) : Domain := Tab.get s.time.doms d { st := .disabled }

/-- Replaces time domain `d`. -/
def setDom (d : Nat) (v : Domain) (s : State) : State :=
  { s with time := { s.time with doms := Tab.set s.time.doms d v } }

/-- The domain's value at local clock `l`, in 2^-60 ns: A + (L - La) × (1 + r × 2^-44) (R220). -/
def domValue (d : Domain) (l : Int) : Int := d.a + (l - d.la) * (2 ^ 60 + d.r * 2 ^ 16)

/-- The working clock at local clock `l`, in 2^-60 ns (Table 8.7). -/
def wValue (s : State) (l : Int) : Int :=
  match s.time.w.mode with
  | .followTd0 => domValue (dom s 0) l
  | _ => s.time.w.a + (l - s.time.w.la) * (2 ^ 60 + s.time.w.r * 2 ^ 16)

/-- The working clock now. -/
def wNow (s : State) : Int := wValue s s.clk

/-- The rate of W against the local clock, in units of 2^-44. -/
def wRate (s : State) : Int :=
  match s.time.w.mode with
  | .followTd0 => (dom s 0).r
  | _ => s.time.w.r

/-- Rounds a local clock value up to the next REF clock period. -/
def refCeil (l : Nat) : Nat := (l + 9) / 10 * 10

/-- The first local clock, on a REF clock period, at which a timeline with value `v` and rate `r` at local clock `l`
has reached `target`. -/
def clockFor (l : Nat) (v r target : Int) : Nat :=
  if target ≤ v then l else
  let d := target - v
  let k := 2 ^ 60 + r * 2 ^ 16
  refCeil (l + ((d + k - 1) / k).toNat)

/-- Time has passed until the working clock has reached `target` (log 14). -/
def reachW (target : Int) (s : State) : State := reachClock (clockFor s.clk (wNow s) (wRate s) target) s

/-- Time has passed until domain `d` has reached `target` (log 14). -/
def reachDom (d : Nat) (target : Int) (s : State) : State :=
  reachClock (clockFor s.clk (domValue (dom s d) s.clk) (dom s d).r target) s

/-- Nanoseconds as a clock value of 2^-60 ns. -/
def nsVal (n : Int) : Int := n * 2 ^ 60

/-- A clock value in the 12 bytes of Table 8.1. -/
def timeBytes (v : Int) : Bytes :=
  let ns := v / 2 ^ 60
  leInt 6 (ns / 1000000000) ++ leInt 4 (ns % 1000000000) ++ leInt 2 ((v % 2 ^ 60) / 2 ^ 44)

/-- The clock value of the 12 bytes of Table 8.1. -/
def timeOf (b : Bytes) : Int :=
  nsVal (fieldLe b 0 6 * 1000000000 + fieldLe b 6 4) + (fieldLe b 10 2 : Int) * 2 ^ 44

/-- The local clock, which advances by exactly 10 ns per REF period: the state's `clk` counts the ns between two of its values as
well, since stamps are finer (R218, R238). -/
def localClock (s : State) : Nat := s.clk / 10 * 10

/-- The state read in the REF period that began last (R218). -/
def onGrid (s : State) : State := { s with clk := localClock s }

/-- The local clock in the 12 bytes of Table 8.1. -/
def localBytes (s : State) : Bytes := timeBytes (nsVal (localClock s))

/-! The event recorder (R436–R439, R478). -/

/-- End of the space for ordinary records: the last 32 bytes are kept for RECORDER_FULL (R438). -/
def recLimit : Nat := 4194272

/-- Length of a record whose body has `n` bytes. -/
def recLen (n : Nat) : Nat := 16 + (n + 3) / 4 * 4

/-- The bytes of a record, its VALID mark set (Table 16.6, R437). -/
def recBytes (ty : Nat) (body : Bytes) (seq : Nat) (s : State) : Bytes :=
  let b := padTo 4 body
  0xA5 :: BitVec.ofNat 8 ((16 + b.length) / 4) :: leBytes 2 ty ++ leBytes 4 seq
    ++ leBytes 4 (s.sys.opSeconds + s.bkp.opTick.toNat) ++ leBytes 4 s.sys.powerCycles ++ b

/-- A clear has committed and its EVR_CLEARED record does not stand at offset 0 yet (R442). -/
def clearPending (s : State) : Bool :=
  match s.evr.clearing with
  | some (_, seq, _, _) => s.evr.firstSeq != seq
  | none => false

/-- Steps 3 and 4 of a clear: the partition is written to 0xFF and EVR_CLEARED stands at offset 0 (R442). -/
def settleClear (s : State) : State :=
  match s.evr.clearing with
  | some (body, seq, _, _) =>
    if s.evr.firstSeq = seq then s
    else { s with evr := { s.evr with
        mem := Mem.writeAll (Mem.blank 0xFF) 0 (recBytes 0x0F02 body seq s)
        head := recLen body.length, lastSeq := seq, firstSeq := seq, full := false, sinceCheckpoint := 1, checkpoint := 0 } }
  | none => s

/-- The recorder is closed to a record with a body of `n` bytes (R438); a clear that is under way opens it. -/
def recorderClosed (n : Nat) (s : State) : Bool :=
  !clearPending s && (s.evr.full || decide (recLimit < s.evr.head + recLen n))

/-- One more event not written (R439). -/
def countUnrecorded (n : Nat) (s : State) : State :=
  { s with bkp := { s.bkp with unrecorded := satAdd 32 s.bkp.unrecorded n } }

/-- The writer writes a record at the head, or RECORDER_FULL where it does not fit, or nothing while the recorder is
full (R437, R438). -/
def writeRecord (ty : Nat) (body : Bytes) (s : State) : State :=
  let s := settleClear s
  if s.evr.full then s
  else
    let seq := (s.evr.lastSeq + 1) % 2 ^ 32
    let e := s.evr
    if recLimit < e.head + recLen body.length then
      { s with evr := { e with
          mem := Mem.writeAll e.mem recLimit (recBytes 0x0F01 (leBytes 2 ty ++ leBytes 2 (recLen body.length)) seq s)
          lastSeq := seq
          firstSeq := if e.head = 0 then seq else e.firstSeq
          full := true } }
    else
      let point := e.sinceCheckpoint + 1 = 64
      { s with evr := { e with
          mem := Mem.writeAll e.mem e.head (recBytes ty body seq s)
          head := e.head + recLen body.length
          lastSeq := seq
          firstSeq := if e.head = 0 then seq else e.firstSeq
          sinceCheckpoint := if point then 0 else e.sinceCheckpoint + 1
          checkpoint := if point then e.head + recLen body.length else e.checkpoint } }

/-- An event enters the event queue, or is counted as unrecorded (R437, R439). -/
def record (ty : Nat) (body : Bytes) (s : State) : State :=
  if (s.evr.full ∧ !clearPending s) ∨ 512 ≤ s.evr.queue.length then countUnrecorded 1 s
  else { s with evr := { s.evr with queue := s.evr.queue ++ [(ty, body)] } }

/-- An event of a kind that is recorded at most once in each second of the local clock for each object; `body` makes the
record's body from the count of events since the previous record, this one included (R478). -/
def recordLimited (ty obj : Nat) (body : Nat → Bytes) (s : State) : State :=
  let key := ty * 65536 + obj
  let sec := s.clk / 1000000000
  let n := Tab.get s.evr.limitCount key 0 + 1
  if Tab.has s.evr.limitAt key ∧ Tab.get s.evr.limitAt key 0 = sec then
    { s with evr := { s.evr with limitCount := Tab.set s.evr.limitCount key n } }
  else
    record ty (body n) { s with evr := { s.evr with
      limitAt := Tab.set s.evr.limitAt key sec, limitCount := Tab.set s.evr.limitCount key 0 } }

/-! Interrupt sources and MSI-X (R301, R445). -/

/-- PCIe function `f`. -/
def pciFn (s : State) (f : Nat) : PciFn := Tab.get s.hst.fns f {}

/-- Replaces PCIe function `f`. -/
def setPciFn (f : Nat) (p : PciFn) (s : State) : State :=
  { s with hst := { s.hst with fns := Tab.set s.hst.fns f p } }

/-- Vector `v` of function `f`. -/
def vector (s : State) (f v : Nat) : Vector := Tab.get (pciFn s f).msix v {}

/-- Replaces vector `v` of function `f`. -/
def setVector (f v : Nat) (e : Vector) (s : State) : State :=
  setPciFn f { pciFn s f with msix := Tab.set (pciFn s f).msix v e } s

/-- A message of vector `v` of function `f` is due: sent, left pending while masked, or owed while the last one is less
than 1 us old (R301). -/
def sendVector (f v : Nat) (s : State) : State :=
  let e := vector s f v
  if e.masked then setVector f v { e with pending := true } s
  else if e.holdoff then setVector f v { e with again := true } s
  else emit (.msix f v) (setVector f v { e with holdoff := true } s)

/-- INT_ROUTE of source `src`. -/
def intRoute (s : State) (src : Nat) : Nat := (Tab.get s.intr.routes src 0).toNat

/-- VECTOR of source `src` is sent to each function that its FUNC names (R445). -/
def signalSource (src : Nat) (s : State) : State :=
  let r := intRoute s src
  (List.range 4).foldl (fun s f => if bit r (8 + f) then sendVector f (bits r 0 6) s else s) s

/-- An episode of reach L3 or L4 is in progress. -/
def inL34 (s : State) : Bool :=
  match s.rst.episode with
  | some e => e.reach == 3 || e.reach == 4
  | none => false

/-- Interrupt source `src` raises: its INT_STAT bit is set and its message goes out, or stays pending during an episode
of reach L3 or L4 (R445). -/
def raiseInt (src : Nat) (s : State) : State :=
  let s := { s with intr := { s.intr with stat := s.intr.stat ||| BitVec.ofNat 32 (2 ^ src) } }
  if inL34 s then { s with intr := { s.intr with deferred := s.intr.deferred ++ [src] } }
  else signalSource src s

/-- A stay-awake condition has ended: the time without one counts from here (R331). -/
def noteBusy (s : State) : State := { s with wake := { s.wake with idleFrom := s.clk } }

/-- XSPIH_INT_N is driven low (R309). -/
def xspiIntLow (s : State) : Bool :=
  s.hst.xspi.intEn && (List.range 11).any (fun src => bit s.intr.stat.toNat src && bit (intRoute s src) 12)

/-! Statistics and unit counters (R425–R427). -/

/-- SOURCE word of Table 16.4. -/
def sourceWord (kind object event : Nat) : Nat := kind * 2 ^ 24 + object * 2 ^ 8 + event

/-- The configuration in force (R429). -/
def counterConf (c : Counter) : Nat × Nat := c.override.getD c.dflt

/-- A counter takes an increment under its mode; the flag tells whether OVF changed from 0 to 1 (R427). -/
def counterAdd (c : Counter) (inc : Nat) : Counter × Bool :=
  let sum := c.value + inc
  match (counterConf c).2 with
  | 0 => ({ c with value := sum % 2 ^ 48 }, false)
  | 1 => if c.sat then (c, false)
         else if 2 ^ 48 ≤ sum then ({ c with value := 2 ^ 48 - 1, sat := true }, false)
         else ({ c with value := sum }, false)
  | _ => if 2 ^ 48 ≤ sum then ({ c with value := sum % 2 ^ 48, ovf := true }, !c.ovf)
         else ({ c with value := sum }, false)

/-- Counter `n`'s OVF flag changed from 0 to 1: its CNT_OVF bit is set and source CNT raises (R427, Table 17.6). -/
def overflowed (n : Nat) (s : State) : State :=
  raiseInt 7 { s with cnt := { s.cnt with
    ovf := Tab.upd s.cnt.ovf (n / 32) 0 (fun w => w ||| BitVec.ofNat 32 (2 ^ (n % 32))) } }

/-- An event of a source adds its increment to every unit counter that has that source (R427). -/
def countSource (kind object event inc : Nat) (s : State) : State :=
  let src := sourceWord kind object event
  let hit := fun (c : Counter) => (counterConf c).1 == src && !c.void
  let overs := s.cnt.units.filter (fun e => hit e.2 && (counterAdd e.2 inc).2)
  let s := { s with cnt := { s.cnt with
    units := s.cnt.units.map (fun e => if hit e.2 then (e.1, (counterAdd e.2 inc).1) else e) } }
  overs.foldl (fun s e => overflowed e.1 s) s

/-- Statistic `i` of port `p` (R425). -/
def statOf (s : State) (p i : Nat) : Word64 := Tab.get s.cnt.stats (32 * p + i) 0

/-- Statistic `i` of port `p` rises by `inc`, modulo 2^64; RP has no statistics (R425). -/
def stat (p i inc : Nat) (s : State) : State :=
  if p < 31 then
    countSource 1 p i inc { s with cnt := { s.cnt with
      stats := Tab.upd s.cnt.stats (32 * p + i) 0 (fun v => v + BitVec.ofNat 64 inc) } }
  else s

/-! Modes and pins (R33, Table 13.6). -/

/-- Code of an operating mode (Table 1.7). -/
def modeCode : Mode → Nat
  | .backup => 0
  | .standby => 1
  | .boot => 2
  | .recovery => 3
  | .autonomous => 4
  | .configured => 5
  | .partialNet => 6
  | .safe => 7

/-- The mode controller enters a mode and a MODE_CHANGE record tells the old and the new code (R33, log 15). -/
def enterMode (m : Mode) (s : State) : State :=
  if s.sys.mode = m then s
  else record 0x0002 [BitVec.ofNat 8 (modeCode s.sys.mode), BitVec.ofNat 8 (modeCode m)]
    { s with sys := { s.sys with mode := m } }

/-- FAULT_N is driven low or released (Table 13.6). -/
def setFault (low : Bool) (s : State) : State :=
  if s.saf.faultN = low then s
  else emit (.pin "FAULT_N" (!low)) { s with saf := { s.saf with faultN := low } }

/-- CONFIGURED or PARTIAL: the modes that forward under the whole image. -/
def imageMode (m : Mode) : Bool :=
  match m with
  | .configured | .partialNet => true
  | _ => false

/-- AUTONOMOUS, CONFIGURED or PARTIAL. -/
def runMode (m : Mode) : Bool :=
  match m with
  | .autonomous | .configured | .partialNet => true
  | _ => false

/-- Every mode in which frames are forwarded (Table 1.7). -/
def forwarding (m : Mode) : Bool :=
  match m with
  | .autonomous | .configured | .partialNet | .safe => true
  | _ => false

end Sys2Proof.Machine
end

