-- ==== Sys2Proof/Machine/Commands.lean ====
section
/-!
DEFINITION. The command protocol: the envelope, authentication, the acceptance checks, the life of a tag, replies on
the three transports, and the one path every opcode row takes from its packet to its effect.
-/
namespace Sys2Proof.Machine

/-! The envelope (R41–R43). -/

/-- CRED.WORLD (Table 2.4). -/
def credWorld (p : Packet) : Nat := bits p.cred.toNat 28 4
/-- CRED.AUTH (Table 2.4). -/
def credAuth (p : Packet) : Bool := bit p.cred.toNat 27
/-- CRED.KEY_SLOT (Table 2.4). -/
def credSlot (p : Packet) : Nat := bits p.cred.toNat 21 6
/-- FLAGS.ORDERED (Table 2.3). -/
def isOrdered (p : Packet) : Bool := bit p.flags.toNat 0
/-- FLAGS.NOTIFY (Table 2.3). -/
def isNotify (p : Packet) : Bool := bit p.flags.toNat 1
/-- FLAGS.DRYRUN (Table 2.3). -/
def isDryrun (p : Packet) : Bool := bit p.flags.toNat 2
/-- FLAGS.AT_TIME (Table 2.3). -/
def isAtTime (p : Packet) : Bool := bit p.flags.toNat 3

/-- Transport ID of a tag (R38). -/
def tagTransport (t : Word16) : Nat := t.toNat / 256

/-- Header bytes 0–15 of a command as transmitted (Table 2.2). -/
def headerBytes (op : Nat) (p : Packet) : Bytes :=
  leBytes 2 op ++ leBytes 2 p.tag.toNat ++ leBytes 2 p.flags.toNat ++ leBytes 2 p.length.toNat
    ++ leBytes 4 p.cred.toNat ++ leBytes 4 p.sequence.toNat

/-- The bytes of a command read as opcode and packet; `n` is the length the transport carried (Table 2.2). -/
def parseCommand (b : Bytes) (n : Nat) : Nat × Packet :=
  (fieldLe b 0 2,
   { tag := BitVec.ofNat 16 (fieldLe b 2 2), flags := BitVec.ofNat 16 (fieldLe b 4 2)
     length := BitVec.ofNat 16 (fieldLe b 6 2), cred := BitVec.ofNat 32 (fieldLe b 8 4)
     sequence := BitVec.ofNat 32 (fieldLe b 12 4), auth := fit 16 (slice b 16 16)
     payload := fit (fieldLe b 6 2) (slice b 32 (fieldLe b 6 2)), transported := n })

/-- The nonce of a tag: 16 zero bytes for SYS_GET_INFO (R43). -/
def authNonce (s : State) (op : Nat) : Bytes := if op = 0x0001 then List.replicate 16 0 else s.cmd.nonce

/-- Leftmost 128 bits of the HMAC of R43 over header and payload. -/
def authTag (key nonce header payload : Bytes) : Bytes := (hmac512 key (nonce ++ header ++ payload)).take 16

/-! Key slots (R414–R416). -/

/-- Key slot `n`. -/
def keySlot (s : State) (n : Nat) : KeySlot := Tab.get s.keys.slots n {}

/-- Bit of a life-cycle state in a slot's LC field; none for RETIRED (Table 15.3). -/
def lcBit : LifeCycle → Option Nat
  | .test => some 0
  | .manufacture => some 1
  | .field => some 2
  | .service => some 3
  | .retired => none

/-- The slot admits the current life-cycle state (R415). -/
def slotLc (k : KeySlot) (s : State) : Bool :=
  match lcBit s.otp.lcState with
  | some b => bit k.lc b
  | none => false

/-- The slot permits a use: usage bit, world, life-cycle state and master (R415). -/
def slotPermits (k : KeySlot) (usage world master : Nat) (s : State) : Bool :=
  bit k.usage usage && bit k.worlds world && slotLc k s && bit k.masters master

/-- The slot holds a command key (R45): a secret of KIND 1 or 2 with CMD_AUTH, in no state but RETIRED. -/
def commandKey (s : State) (n : Nat) : Bool :=
  let k := keySlot s n
  (k.kind == 1 || k.kind == 2) && bit k.usage 0 && n != 4 && n != 5 && s.otp.lcState != .retired

/-! Transports (R38, R45, R47). -/

/-- Transport ID a command arrives on; an in-band command names its session in its tag (R38, R55). -/
def viaTransport (v : Via) (t : Word16) : Nat :=
  match v with
  | .ring f _ _ _ => 1 + f.val
  | .mailbox => 0x10
  | .inBand _ _ _ => if 0x20 ≤ tagTransport t ∧ tagTransport t ≤ 0x2F then tagTransport t else 0x20

/-- Master bit of a transport (Table 15.3). -/
def masterBit (tr : Nat) : Nat :=
  if tr = 1 then 0 else if tr = 2 then 1 else if tr = 0x10 then 2 else 3

/-- Worlds a transport admits, bit n for Wn (Table 2.1). -/
def transportWorlds (tr : Nat) : Nat :=
  if tr = 1 then 0b0110 else if tr = 2 then 0b0100 else if tr = 0x10 then 0b0110 else 0b1110

/-- Authentication is required of a command (R47, R54). -/
def authRequired (tr op world : Nat) (s : State) : Bool :=
  if 0x20 ≤ tr then true
  else if op = 0x0001 then false
  else if world = 1 then
    match s.otp.lcState with
    | .test | .manufacture => !s.cmd.policy.w1Relaxed
    | .field | .service => true
    | .retired => true
  else if world = 2 then bit s.cmd.policy.w2Required.toNat (masterBit tr)
  else false

/-- The opcodes of Table 2.12 with the worlds each admits, bit n for Wn (R67). -/
def opTable0 : List (Nat × Nat) :=
  [(0x0001, 14), (0x0002, 14), (0x0010, 6), (0x0020, 2), (0x0101, 10), (0x0102, 10), (0x0103, 10), (0x0104, 10),
   (0x0105, 10), (0x0106, 14), (0x0110, 2), (0x0201, 2), (0x0202, 6), (0x0301, 6), (0x0302, 6), (0x0303, 2)]

/-- Second part of Table 2.12 (R67). -/
def opTable1 : List (Nat × Nat) :=
  [(0x0401, 6), (0x0501, 6), (0x0502, 6), (0x0601, 14), (0x0602, 2), (0x0701, 6), (0x0702, 6), (0x0801, 14),
   (0x0802, 2), (0x0803, 2), (0x0804, 6), (0x0901, 2), (0x0902, 2), (0x0A01, 14), (0x0A02, 14), (0x0A03, 6)]

/-- Third part of Table 2.12 (R67). -/
def opTable2 : List (Nat × Nat) :=
  [(0x0B01, 10), (0x0B02, 10), (0x0B03, 10), (0x0B04, 10), (0x0B05, 10), (0x0B06, 10), (0x0B07, 14), (0x0B10, 2),
   (0x0B11, 2), (0x0C01, 14), (0x0C02, 2), (0x0D01, 2), (0x0D02, 6), (0x0D10, 14), (0x0D20, 2), (0x0E01, 6),
   (0x0E02, 6), (0x0F01, 6), (0x0F02, 2), (0x7F01, 2)]

/-- Worlds an opcode admits; none for an opcode that Table 2.12 does not define (R67). -/
def opWorlds (op : Nat) : Option Nat := (opTable0 ++ opTable1 ++ opTable2).lookup op

/-! Status codes (Table 2.11). -/

/-- OK. -/
def stOk : Nat := 0x0000
/-- ACCEPTED. -/
def stAccepted : Nat := 0x0001
/-- ABORTED. -/
def stAborted : Nat := 0x0002
/-- TOO_LATE. -/
def stTooLate : Nat := 0x0003
/-- BAD_OPCODE. -/
def stBadOpcode : Nat := 0x0010
/-- BAD_LENGTH. -/
def stBadLength : Nat := 0x0011
/-- BAD_PARAM. -/
def stBadParam : Nat := 0x0012
/-- BAD_TAG. -/
def stBadTag : Nat := 0x0013
/-- DENIED. -/
def stDenied : Nat := 0x0020
/-- AUTH_FAIL. -/
def stAuthFail : Nat := 0x0021
/-- LIFECYCLE. -/
def stLifecycle : Nat := 0x0022
/-- BUSY. -/
def stBusy : Nat := 0x0030
/-- BUSY_DRAINING. -/
def stBusyDraining : Nat := 0x0031
/-- NOT_IDLE. -/
def stNotIdle : Nat := 0x0032
/-- NO_RESOURCES. -/
def stNoResources : Nat := 0x0033
/-- PARTITIONED. -/
def stPartitioned : Nat := 0x0040
/-- ABORTED_FAILOVER. -/
def stAbortedFailover : Nat := 0x0041
/-- VERIFY_FAIL. -/
def stVerifyFail : Nat := 0x0050
/-- ROLLBACK. -/
def stRollback : Nat := 0x0051
/-- WRONG_MODE. -/
def stWrongMode : Nat := 0x0060
/-- SIZE_UNSUPPORTED. -/
def stSizeUnsupported : Nat := 0x0061
/-- INTERNAL. -/
def stInternal : Nat := 0x00FF

/-! Replies (R42, R49, R52, R54). -/

/-- Bytes of a reply (Table 2.5): `extra` holds RFLAGS bits 14 to 12.  Its AUTH is computed over the reply as it is
sent, after the cut to `max` bytes (R42, R49, log 17), with the boot nonce in force then (log 120).  CRED, which R42 also
echoes, has no place in Table 2.5 and is left out (log 119). -/
def replyBytes (s : State) (op : Nat) (p : Packet) (key : Bytes) (extra status detail : Nat) (result : Bytes) (max : Nat) :
    Bytes :=
  let cut := max < 32 + result.length
  let body := result.take (max - 32)
  let rflags := 0x8000 + extra + (if cut then 0x1000 else 0) + p.flags.toNat % 16
  let head := leBytes 2 op ++ leBytes 2 p.tag.toNat ++ leBytes 2 rflags ++ leBytes 2 result.length
    ++ leBytes 2 status ++ leBytes 2 detail ++ leBytes 4 p.sequence.toNat
  let auth := if credAuth p ∧ key ≠ [] then authTag key (authNonce s op) head body else List.replicate 16 0
  head ++ auth ++ body

/-- Command ring of function `f`. -/
def cmdRing (s : State) (f : Nat) : CmdRing := Tab.get s.cmd.rings f {}

/-- Replaces the command ring of function `f`. -/
def setCmdRing (f : Nat) (r : CmdRing) (s : State) : State :=
  { s with cmd := { s.cmd with rings := Tab.set s.cmd.rings f r } }

/-- Entries of the completion ring (Table 2.9). -/
def cqSize (r : CmdRing) : Nat := 2 * (16 * 2 ^ r.sqSize)

/-- Entries of the submission ring (Table 2.9). -/
def sqEntries (r : CmdRing) : Nat := 16 * 2 ^ r.sqSize

/-- The journal's entry of a tag: from acceptance until its final reply is delivered (R39, R65). -/
def findTag (s : State) (t : Word16) : Option InFlight := s.cmd.inflight.find? (fun e => e.packet.tag == t)

/-- A tag is in flight: its command is accepted and its final reply is not issued (R39). -/
def tagInFlight (s : State) (t : Word16) : Bool := s.cmd.inflight.any (fun e => e.packet.tag == t && e.phase != .replied)

/-- A tag is neither in flight nor free: its final reply is issued and not yet delivered (R39). -/
def tagUndelivered (s : State) (t : Word16) : Bool := s.cmd.inflight.any (fun e => e.packet.tag == t && e.phase == .replied)

/-- Replaces the in-flight command of a tag. -/
def updTag (t : Word16) (f : InFlight → InFlight) (s : State) : State :=
  { s with cmd := { s.cmd with inflight := s.cmd.inflight.map (fun e => if e.packet.tag == t then f e else e) } }

/-- A tag becomes free; an in-band session notes when (R39, R55). -/
def freeTag (t : Word16) (s : State) : State :=
  let s := { s with cmd := { s.cmd with inflight := s.cmd.inflight.filter (fun e => e.packet.tag != t) } }
  let n := tagTransport t - 0x20
  match if 0x20 ≤ tagTransport t then s.cmd.sessions.lookup n else none with
  | some b => { s with cmd := { s.cmd with sessions := Tab.set s.cmd.sessions n { b with lastActive := s.clk } } }
  | none => s

/-- The completion entry of a reply (Table 2.7). -/
def completionEntry (c : Completion) (phase : Bool) : Bytes :=
  let interim := bit (fieldLe c.bytes 4 2) 14
  leBytes 2 c.tag.toNat ++ slice c.bytes 8 2 ++ leBytes 2 c.bytes.length ++ leBytes 2 c.index ++ slice c.bytes 12 4
    ++ leBytes 4 (flagBit phase 31 + flagBit interim 30)

/-- Writes the oldest held completion of function `f` where its ring has room (R49). -/
def writeCompletion (f : Nat) (s : State) : State :=
  let r := cmdRing s f
  match r.held with
  | [] => s
  | c :: rest =>
    if (r.cqTail + 1) % cqSize r = r.cqHead then s
    else
      let s := emit (.hostWrite f c.addr c.bytes) s
      let s := emit (.hostWrite f (r.cqBase.toNat + 16 * r.cqTail) (completionEntry c r.phase)) s
      let wrap := r.cqTail + 1 = cqSize r
      let s := setCmdRing f { r with
        held := rest, cqTail := (r.cqTail + 1) % cqSize r, phase := if wrap then !r.phase else r.phase } s
      let s := sendVector f r.msixVec s
      if c.frees then freeTag c.tag s else s

/-- Writes held completions of function `f` until its completion ring is full or none is left (R49). -/
def drainCompletions : Nat → Nat → State → State
  | 0, _, s => s
  | n + 1, f, s => drainCompletions n f (writeCompletion f s)

/-- Where an in-band reply leaves: at MP, or in RECOVERY at the port by which the command came in, as nothing is forwarded
there (R375). -/
def mpOut (via : Via) (s : State) : Nat :=
  match via with
  | .inBand port _ _ => if s.sys.mode = .recovery then port.val else 29
  | _ => 29

/-- A reply is issued on the transport that carried its command; `frees` marks a final reply of a tag in flight. -/
def deliver (via : Via) (op : Nat) (p : Packet) (key : Bytes) (extra status detail : Nat) (result : Bytes) (frees : Bool)
    (s : State) : State :=
  match via with
  | .ring f idx max addr =>
    let b := replyBytes s op p key extra status detail result max
    let r := cmdRing s f.val
    let s := setCmdRing f.val { r with
      held := r.held ++ [{ addr := addr.toNat, index := idx, bytes := b, tag := p.tag, frees := frees }] } s
    drainCompletions (r.held.length + 1) f.val s
  | .mailbox =>
    let b := padTo 64 (replyBytes s op p key extra status detail result 4096)
    let first := s.cmd.replies.isEmpty
    let s := { s with cmd := { s.cmd with
      replies := s.cmd.replies ++ [{ tag := p.tag, final := frees, whole := b, left := b }] } }
    if first then raiseInt 10 s else s
  | .inBand _ src vlan =>
    let b := replyBytes s op p key extra status detail result 4096
    let tagBytes := match vlan with
      | some v => [0x81, 0x00] ++ beBytes 2 v.toNat
      | none => []
    let f := beBytes 6 src ++ beBytes 6 s.otp.mpAddress ++ tagBytes ++ [0x88, 0xB5] ++ b
    let s := emit (.frame (mpOut via s) f true) s
    let k := p.tag.toNat
    let s := if frees then
        { s with cmd := { s.cmd with
          lastInBand := Tab.upd s.cmd.lastInBand k { sequence := p.sequence, auth := p.auth, reply := none }
            (fun l => { l with reply := some f }) } }
      else s
    if frees then freeTag p.tag s else s

/-- The final reply of the command in flight on tag `t` (R40).  A command whose function was reset frees its tag without
a reply (R300); while the cluster restarts no transport returns a reply, and it is owed (R28, R65). -/
def finalReply (t : Word16) (status detail : Nat) (result : Bytes) (s : State) : State :=
  match findTag s t with
  | none => s
  | some e =>
    if e.phase = .replied then s
    else if e.discard then freeTag t s
    else if !s.sys.clusterUp then { s with cmd := { s.cmd with owed := s.cmd.owed ++ [(t, status, detail, result)] } }
    else
      deliver e.via e.opcode e.packet e.key 0 status detail result true (updTag t (fun e => { e with phase := .replied }) s)

/-- A reply to a command that was not accepted: it occupies no tag (R57). -/
def refuseReply (via : Via) (op : Nat) (p : Packet) (key : Bytes) (reject : Bool) (status detail : Nat) (s : State) : State :=
  deliver via op p key (if reject then 0x2000 else 0) status detail [] false s

/-- The interim reply of a command with NOTIFY (R60), unless its function was reset (R300). -/
def interimReply (e : InFlight) (s : State) : State :=
  if isNotify e.packet && !e.discard then deliver e.via e.opcode e.packet e.key 0x4000 stAccepted 0 [] false s else s

/-- A timed command that ends before it could be armed still has its interim reply before the final one (R40). -/
def lateInterim (e : InFlight) (s : State) : State :=
  if e.phase = .waiting ∧ e.instant.isSome then interimReply e s else s

/-! What an opcode supplies (R57, R59, R63). -/

/-- A command as its opcode sees it: the payload after the AT_TIME prefix, and who sent it. -/
structure Req where
  tag : Word16
  transport : Nat
  world : Nat
  auth : Bool
  slot : Nat
  payload : Bytes
  instant : Option Int
  dryrun : Bool
  ordered : Bool
  clk : Nat
  via : Via
  /-- The request is the peer's, carried by SYNC: it has no reply here (R391). -/
  fromPeer : Bool := false

/-- The final reply of a request; a request the peer's SYNC carried has none here. -/
def answer (r : Req) (status detail : Nat) (result : Bytes) (s : State) : State :=
  if r.fromPeer then s else finalReply r.tag status detail result s

/-- The request of an opcode packet, with `clk` the local clock at its acceptance. -/
def reqOf (via : Via) (p : Packet) (clk : Nat) : Req :=
  { tag := p.tag, transport := viaTransport via p.tag, world := credWorld p, auth := credAuth p, slot := credSlot p
    payload := if isAtTime p then p.payload.drop 12 else p.payload
    instant := if isAtTime p then some (timeOf (fit 12 (p.payload.take 10))) else none
    dryrun := isDryrun p, ordered := isOrdered p, clk := clk, via := via }

/-- The checks and the effect that one opcode of Table 2.12 adds to the protocol. -/
structure OpDef where
  code : Nat
  /-- Check 5: a further ground for DENIED. -/
  denied : Req → State → Bool := fun _ _ => false
  /-- Check 4: a further ground for AUTH_FAIL. -/
  authMissing : Req → State → Bool := fun _ _ => false
  /-- Check 6: LIFECYCLE with its DETAIL. -/
  lifecycle : Req → State → Option Nat := fun _ _ => none
  /-- Check 7: a further ground for PARTITIONED. -/
  partitioned : Req → State → Bool := fun _ _ => false
  /-- Check 8: the mode or role does not admit the command. -/
  wrongMode : Req → State → Bool := fun _ _ => false
  /-- Check 9: BAD_PARAM with its DETAIL. -/
  params : Req → State → Option Nat := fun _ _ => none
  /-- BUSY at acceptance, where the opcode's rule judges it there (R78). -/
  busy : Req → State → Bool := fun _ _ => false
  /-- Check 10: a resource of the opcode is not available. -/
  exhausted : Req → State → Bool := fun _ _ => false
  /-- The instant of a command that carries one in its own payload (R61). -/
  ownInstant : Req → Option Int := fun _ => none
  /-- AT_TIME commits at once and the opcode waits for the instant itself (R63). -/
  commitsAtOnce : Bool := false
  /-- Execution checks after acceptance: status and DETAIL of the failure. -/
  checks : Req → State → Option (Nat × Nat) := fun _ _ => none
  /-- What a failed execution check still does: nothing, as a rule (R57). -/
  onFail : Req → State → State := fun _ s => s
  /-- The commit and everything after it up to what the command waits for. -/
  commit : Req → State → State
  /-- What a relayed opcode does once its sync point is reached (R391), on the ACTIVE and on the STANDBY. -/
  effect : Req → State → State := fun _ s => s
  /-- What the hand-over of a timed command does before its instant (R63, R79). -/
  handOver : Req → State → State := fun _ s => s
  /-- What arming a timed command does once its checks are passed (R63, R145). -/
  arm : Req → State → State := fun _ s => s
  /-- What the acceptance of the command does beyond the protocol (R145). -/
  onAccept : Req → State → State := fun _ s => s
  /-- What is done where the resource check refuses the command (R438). -/
  onClosed : Req → State → State := fun _ s => s

/-! Acceptance (R57). -/

/-- The device is a SECONDARY in CONFIG_FROZEN (R403). -/
def frozen (s : State) : Bool := s.sys.straps.secondary && s.pair.st == .frozen

/-- The device is the STANDBY member of a pair. -/
def isStandby (s : State) : Bool := s.pair.standby

/-- Opcodes that check 7 of R57 refuses on a SECONDARY in CONFIG_FROZEN. -/
def frozenOps : List Nat :=
  [0x0101, 0x0102, 0x0103, 0x0104, 0x0105, 0x0110, 0x0201, 0x0303, 0x0B01, 0x0B02, 0x0B03, 0x0B04, 0x0B05, 0x0B06, 0x0602]

/-- Opcodes SAFE admits (R387); SYS_SET_MODE and DBG_ACCESS are judged by their own rule as well. -/
def safeOps : List Nat :=
  [0x0001, 0x0002, 0x0010, 0x0106, 0x0202, 0x0301, 0x0302, 0x0401, 0x0501, 0x0502, 0x0601, 0x0701, 0x0801, 0x0804, 0x0A02,
   0x0B07, 0x0C01, 0x0D02] ++ [0x0B10, 0x0B11, 0x0F01, 0x0F02, 0x0E01, 0x0E02, 0x0D10, 0x7F01]

/-- Opcodes RECOVERY admits (R375). -/
def recoveryOps : List Nat := [0x0001, 0x0002, 0x0B01, 0x0B02, 0x0B03, 0x0B04, 0x0B05, 0x0B07]

/-- The operating mode admits the opcode, its own rules apart (R375, R387). -/
def modeAdmits (s : State) (op : Nat) : Bool :=
  match s.sys.mode with
  | .safe => safeOps.contains op
  | .recovery => recoveryOps.contains op
  | _ => true

/-- Timed commands the device holds (R61). -/
def timedHeld (s : State) : Nat :=
  (s.cmd.inflight.filter (fun e => e.instant.isSome && e.phase != .replied)).length

/-- The instant of a command, by its prefix or its own payload. -/
def reqInstant (d : OpDef) (r : Req) : Option Int :=
  match r.instant with
  | some i => some i
  | none => d.ownInstant r

/-- The instant lies between 60 us and 3,600 s after now (R61). -/
def instantInRange (i : Int) (s : State) : Bool :=
  decide (wNow s + nsVal 60000 ≤ i) && decide (i ≤ wNow s + nsVal 3600000000000)

/-- The AT_TIME prefix is well formed: present, nanoseconds in range, bytes 10–11 zero (R219). -/
def prefixOk (p : Packet) : Bool :=
  decide (12 ≤ p.payload.length) && decide (fieldLe p.payload 6 4 < 1000000000) && fieldLe p.payload 10 2 == 0

/-- Checks 6 to 10 of R57 for an opcode: the first failing status with its DETAIL. -/
def lateChecks (d : OpDef) (p : Packet) (r : Req) (s : State) : Option (Nat × Nat) :=
  match d.lifecycle r s with
  | some x => some (stLifecycle, x)
  | none =>
  if (frozen s && frozenOps.contains d.code) || d.partitioned r s then some (stPartitioned, 0)
  else if !modeAdmits s d.code || d.wrongMode r s then some (stWrongMode, 0)
  else if isAtTime p && (!prefixOk p || (d.ownInstant { r with instant := none }).isSome) then some (stBadParam, 0)
  else
  match d.params r s with
  | some x => some (stBadParam, x)
  | none =>
  match reqInstant d r with
  | some i =>
    if !instantInRange i s then some (stBadParam, 0x0003)
    else if d.busy r s then some (stBusy, 0)
    else if tagUndelivered s p.tag || decide (32 ≤ timedHeld s) || d.exhausted r s then some (stNoResources, 0)
    else none
  | none => if tagUndelivered s p.tag || d.exhausted r s then some (stNoResources, 0) else none

/-- Check 4 of R57: authentication missing, no command key in the slot, tag wrong or sequence not greater. -/
def authFails (d : OpDef) (p : Packet) (r : Req) (s : State) : Bool :=
  if credAuth p then
    !commandKey s r.slot
      || authTag (keySlot s r.slot).material (authNonce s d.code) (headerBytes d.code p) p.payload != p.auth
      || decide (p.sequence.toNat ≤ Tab.get s.cmd.marks (r.transport * 64 + r.slot) 0)
  else authRequired r.transport d.code r.world s || d.authMissing r s

/-- Check 5 of R57: world, transport, opcode or slot forbids the command. -/
def accessDenied (d : OpDef) (p : Packet) (r : Req) (s : State) : Bool :=
  !(r.world == 1 || r.world == 2 || r.world == 3)
    || !bit (transportWorlds r.transport) r.world
    || !bit ((opWorlds d.code).getD 0) r.world
    || (credAuth p && !slotPermits (keySlot s r.slot) 0 r.world (masterBit r.transport) s)
    || d.denied r s

/-- The transported length disagrees with 32 + LENGTH (R57 check 1).  An in-band frame may carry Ethernet minimum-size
padding after the envelope, up to 46 bytes after its EtherType (R53). -/
def lengthDisagrees (via : Via) (p : Packet) : Bool :=
  let n := 32 + p.length.toNat
  match via with
  | .inBand _ _ _ => p.transported != n && !(decide (n < p.transported) && decide (p.transported ≤ 46))
  | _ => p.transported != n

/-- Checks 1 to 5 of R57: status, DETAIL and whether the reply carries REJECT. -/
def earlyChecks (d : OpDef) (via : Via) (p : Packet) (r : Req) (s : State) : Option (Nat × Nat × Bool) :=
  if 4064 < p.length.toNat ∨ lengthDisagrees via p then some (stBadLength, 0, true)
  else if tagTransport p.tag ≠ viaTransport via p.tag ∨ tagInFlight s p.tag then some (stBadTag, 0, true)
  else if (opWorlds d.code).isNone then some (stBadOpcode, 0, false)
  else if p.flags.toNat / 16 ≠ 0 ∨ bits p.cred.toNat 0 21 ≠ 0 ∨ (¬credAuth p ∧ (credSlot p ≠ 0 ∨ !allZero p.auth))
    then some (stBadParam, 0, false)
  else if authFails d p r s then some (stAuthFail, 0, false)
  else if accessDenied d p r s then some (stDenied, 0, false)
  else none

/-- The acceptance of a command that passed every check: its tag goes in flight, its journal entry is made, the sequence
mark rises, an in-band session binds, and the interim reply goes out where no instant is waited for (R39, R46, R55, R60, R65). -/
def acceptCommand (d : OpDef) (via : Via) (p : Packet) (r : Req) (s : State) : State :=
  let e : InFlight :=
    { opcode := d.code, via := via, packet := p, phase := .waiting
      instant := if r.dryrun then none else reqInstant d r
      key := if credAuth p then (keySlot s r.slot).material else [], acceptedAt := s.clk }
  let s := { s with cmd := { s.cmd with inflight := s.cmd.inflight ++ [e] } }
  let s := if credAuth p ∧ ¬r.dryrun then
      { s with cmd := { s.cmd with marks := Tab.set s.cmd.marks (r.transport * 64 + r.slot) p.sequence.toNat } }
    else s
  let s := match via with
    | .inBand _ src _ =>
      let n := tagTransport p.tag - 0x20
      { s with cmd := { s.cmd with
          sessions := Tab.set s.cmd.sessions n { src := src, slot := r.slot, lastActive := s.clk }
          lastInBand := Tab.set s.cmd.lastInBand p.tag.toNat
            { sequence := p.sequence, auth := p.auth, reply := none } } }
    | _ => s
  let s := if r.dryrun then s else d.onAccept r s
  if e.instant.isSome then s else interimReply e s

/-- The status of a refused command; a refused command has no effect (R57). -/
def judge (d : OpDef) (via : Via) (p : Packet) (s : State) : Option (Nat × Nat × Bool) :=
  let r := reqOf via p s.clk
  match earlyChecks d via p r s with
  | some x => some x
  | none =>
    match lateChecks d p r s with
    | some (st, dt) => some (st, dt, false)
    | none => none

/-- A command that reached the device: refused with the first failing status, or accepted (R57). -/
def acceptOrRefuse (d : OpDef) (via : Via) (p : Packet) (s : State) : State :=
  match judge d via p s with
  | some (st, dt, rej) =>
    let key := if credAuth p ∧ commandKey s (credSlot p) then (keySlot s (credSlot p)).material else []
    let r := reqOf via p s.clk
    refuseReply via d.code p key rej st dt (if st = stNoResources ∧ ¬r.dryrun then d.onClosed r s else s)
  | none => acceptCommand d via p (reqOf via p s.clk) s

/-! Beginning a command (R58, R59, R61). -/

/-- Opcode group (Table 2.2). -/
def opGroup (op : Nat) : Nat := op / 256

/-- The commands accepted before tag `t` that are still in flight. -/
def earlier (s : State) (t : Word16) : List InFlight := s.cmd.inflight.takeWhile (fun e => e.packet.tag != t)

/-- The command of tag `t` may begin (R58). -/
def mayBegin (e : InFlight) (s : State) : Bool :=
  let same := (earlier s e.packet.tag).filter (fun x => tagTransport x.packet.tag == tagTransport e.packet.tag && x.phase != .replied)
  if e.opcode = 0x0002 then true
  else (!isOrdered e.packet || same.isEmpty)
    && same.all (fun x => !isOrdered x.packet)
    && same.all (fun x => opGroup x.opcode != opGroup e.opcode || x.phase != .waiting)

/-- The effect of a command whose time has come: its execution checks, then its commit (R57, R63). -/
def executeNow (d : OpDef) (r : Req) (s : State) : State :=
  match d.checks r s with
  | some (st, dt) => finalReply r.tag st dt [] (d.onFail r s)
  | none => d.commit r (updTag r.tag (fun e => { e with phase := .committed }) s)

/-- A command begins: a dry run is answered at once, a timed command is armed and its interim reply sent, any other takes
effect (R58–R61). -/
def beginCommand (d : OpDef) (e : InFlight) (s : State) : State :=
  let r := reqOf e.via e.packet e.acceptedAt
  let s := if e.instant.isSome then interimReply e s else s
  if r.dryrun then
    match d.checks r s with
    | some (st, dt) => finalReply r.tag st dt [] s
    | none => finalReply r.tag stOk 0 [] s
  else if e.instant.isSome && !d.commitsAtOnce then
    match if r.instant.isSome then none else d.checks r s with
    | some (st, dt) => finalReply r.tag st dt [] s
    | none => d.arm r (updTag r.tag (fun x => { x with phase := .armed }) s)
  else executeNow d r s

/-- The cluster executes commands: it runs, is not halted, and has not begun to power down (R28, R335, R384). -/
def clusterServes (s : State) : Bool := s.sys.clusterUp && !s.sys.halted && !s.wake.down

/-- The transport is served: in RECOVERY the ROM serves F0, XSPI-H and MP alone (R375). -/
def transportServed (via : Via) (s : State) : Bool :=
  match via with
  | .ring f _ _ _ => !(s.sys.mode == .recovery && f.val == 1)
  | _ => true

/-- An in-band frame is longer than the device accepts (R53), or fails a check of R54 and is dropped: too short, no AUTH, tag
wrong, or outside its session's binding.  A slot without a command key checks no tag, and R45 answers it at check 4. -/
def inBandDropped (d : OpDef) (via : Via) (p : Packet) (s : State) : Bool :=
  match via with
  | .inBand _ src vlan =>
    let r := reqOf via p s.clk
    decide (4118 < 18 + (if vlan.isSome then 4 else 0) + p.transported) || decide (p.transported < 32 + p.length.toNat) || !credAuth p
      || (commandKey s r.slot
        && authTag (keySlot s r.slot).material (authNonce s d.code) (headerBytes d.code p) p.payload != p.auth)
      || (match s.cmd.sessions.lookup (tagTransport p.tag - 0x20) with
          | some b => tagTransport p.tag == r.transport && (b.src != src || b.slot != r.slot)
          | none => false)
  | _ => false

/-- The last accepted command of an in-band tag equals this one in TAG, SEQUENCE and AUTH (R56). -/
def isDuplicate (via : Via) (p : Packet) (s : State) : Bool :=
  match via with
  | .inBand _ _ _ =>
    match s.cmd.lastInBand.lookup p.tag.toNat with
    | some l => l.sequence == p.sequence && l.auth == p.auth
    | none => false
  | _ => false

/-- A duplicate is discarded while its command is in flight, and answered with the stored reply afterwards (R56). -/
def answerDuplicate (via : Via) (p : Packet) (s : State) : State :=
  match s.cmd.lastInBand.lookup p.tag.toNat with
  | some l =>
    match l.reply with
    | some f => if (findTag s p.tag).isSome then s else emit (.frame (mpOut via s) f true) s
    | none => s
  | none => s

/-- A command arrives on a transport (R54–R58); `serves` tells whether the cluster takes it, and `go` whether it may begin at
once. -/
def arriveWith (serves go : Bool) (d : OpDef) (via : Via) (p : Packet) (s : State) : State :=
  if !serves || !transportServed via s then
    match via with
    | .inBand _ _ _ => stat 29 30 1 s
    | _ => s
  else if inBandDropped d via p s then stat 29 30 1 s
  else if isDuplicate via p s then answerDuplicate via p s
  else
    let taken := judge d via p s
    let s := acceptOrRefuse d via p s
    match taken, findTag s p.tag with
    | none, some e => if go && mayBegin e s then beginCommand d e s else s
    | _, _ => s

/-- A command arrives while the cluster serves commands, or not. -/
def arrive (d : OpDef) (via : Via) (p : Packet) (s : State) : State := arriveWith (clusterServes s) true d via p s

/-- The row of an opcode: its command arrives now, or a waiting command of its opcode begins (R57, R58). -/
def runCommand (d : OpDef) (c : CmdSource) (s : State) : State :=
  match c with
  | .arriving via p => arrive d via p s
  | .accepted t =>
    match findTag s t with
    | some e =>
      if e.opcode = d.code ∧ e.phase = .waiting ∧ clusterServes s ∧ mayBegin e s then beginCommand d e s else s
    | none => s

end Sys2Proof.Machine
end

