-- ==== Sys2Proof/Machine/Operands.lean ====
section
/-!
DEFINITION. The operand forms that come from the active run image: its header, its sections, and the port and time
blocks every family reads; with the values that AUTONOMOUS puts in their place.
-/
namespace Sys2Proof.Machine

/-! The image header (Table 3.1). -/

/-- CYCLE_NS. -/
def imgCycle (i : RunImage) : Nat := fieldLe i.header 32 4
/-- BASE_TIME in ns. -/
def imgBase (i : RunImage) : Nat := fieldLe i.header 36 6 * 1000000000 + fieldLe i.header 42 4
/-- IMAGE_VERSION. -/
def imgVersion (i : RunImage) : Nat := fieldLe i.header 24 4
/-- ROLLBACK. -/
def imgRollback (i : RunImage) : Nat := fieldLe i.header 20 4
/-- PAIR_SET_ID as a number. -/
def imgPairSet (i : RunImage) : Nat := fieldLe i.header 56 16
/-- NETWORK_ID. -/
def imgNetwork (i : RunImage) : Bytes := slice i.header 72 32

/-- A section of an image; none where it is absent (Table 3.3). -/
def imgSection (i : RunImage) (id : Nat) : Option Bytes := i.sections.lookup id

/-- A section of the active image; none where there is no active image or it is absent. -/
def liveSection (s : State) (id : Nat) : Option Bytes :=
  match s.img.live with
  | some i => imgSection i id
  | none => none

/-- The same, empty where absent. -/
def liveBytes (s : State) (id : Nat) : Bytes := (liveSection s id).getD []

/-- The schedule base cycle in ns: that of the active image, or 1 ms in AUTONOMOUS, where the spec names none (log 18). -/
def cycleNs (s : State) : Nat :=
  match s.img.live with
  | some i => if imgCycle i = 0 then 1 else imgCycle i
  | none => 1000000

/-- BASE_TIME of the active image in ns, 0 without one. -/
def baseNs (s : State) : Nat :=
  match s.img.live with
  | some i => imgBase i
  | none => 0

/-- An instant is a cycle boundary for a base and a cycle (R78): the difference is an integer multiple of the cycle. -/
def isBoundary (instant : Int) (base cycle : Nat) : Bool := (instant - nsVal base) % nsVal cycle == 0

/-- The first cycle boundary at or after `v`, on W in 2^-60 ns. -/
def boundaryFrom (v : Int) (base cycle : Nat) : Int :=
  let c := nsVal (if cycle = 0 then 1 else cycle)
  nsVal base + (v - nsVal base + c - 1) / c * c

/-- The first cycle boundary of the active image at least `ns` after now. -/
def nextBoundary (ns : Nat) (s : State) : Int := boundaryFrom (wNow s + nsVal ns) (baseNs s) (cycleNs s)

/-- Index of the cycle that W stands in. -/
def cycleIndex (s : State) : Int := (wNow s - nsVal (baseNs s)) / nsVal (cycleNs s)

/-! Ports (Tables 10.1, 10.3, R294). -/

/-- Port type: 0 MG, 1 XS, 2 GB, 3 TS, 4 HP, 5 MP, 6 GW, 7 RP (R15). -/
def portType (p : Nat) : Nat :=
  if p < 8 then 0 else if p < 12 then 1 else if p < 24 then 2 else if p < 28 then 3 else p - 24

/-- External port `p`. -/
def port (s : State) (p : Nat) : EthPort := Tab.get s.ports p {}

/-- Replaces external port `p`. -/
def setPort (p : Nat) (e : EthPort) (s : State) : State := { s with ports := Tab.set s.ports p e }

/-- A port block's fields (Table 10.3). -/
structure PortCfg where
  enabled : Bool
  mode : Nat
  flags : Nat
  maxFrame : Nat
  plcaId : Nat
  plcaCount : Nat
  plcaTimer : Nat
  /-- PLCA_BURST_COUNT and PLCA_BURST_TIMER. -/
  plcaBurst : Nat
  mdioAddr : Nat
  mdioClause : Nat
  cipher : Nat
  secy : Nat
  confOffset : Nat
  sci : Bytes
  replayWindow : Nat
  rxscFirst : Nat
  rxscNum : Nat

/-- The port block of a section 0x000E (Tables 10.2, 10.3). -/
def portCfgOf (sec : Bytes) (p : Nat) : PortCfg :=
  let o := 64 + 64 * p
  { enabled := bit (fieldLe sec 0 4) p, mode := byteAt sec o, flags := byteAt sec (o + 1)
    maxFrame := fieldLe sec (o + 2) 2, plcaId := byteAt sec (o + 4), plcaCount := byteAt sec (o + 5)
    plcaTimer := byteAt sec (o + 6), plcaBurst := fieldLe sec (o + 7) 2, mdioAddr := byteAt sec (o + 9), mdioClause := byteAt sec (o + 10)
    cipher := byteAt sec (o + 12), secy := byteAt sec (o + 13), confOffset := byteAt sec (o + 14)
    sci := slice sec (o + 16) 8, replayWindow := fieldLe sec (o + 24) 4
    rxscFirst := fieldLe sec (o + 28) 2, rxscNum := byteAt sec (o + 30) }

/-- XS mode of an AUTONOMOUS mode search after `n` trials (R294). -/
def searchMode (n : Nat) : Nat :=
  match n % 3 with
  | 0 => 0x11
  | 1 => 0x10
  | _ => 0x12

/-- The port block AUTONOMOUS uses (R294). -/
def autoPortCfg (s : State) (p : Nat) : PortCfg :=
  let ty := portType p
  { enabled := decide (p < 28)
    mode := if ty = 0 then 0x01 else if ty = 1 then searchMode (port s p).search else if ty = 2 then 0x20 else 0x30
    flags := (if ty = 0 then 0b00001010 else if ty = 2 then 0b00000010 else 0) + 0b00110000
    maxFrame := 10240, plcaId := if ty = 3 then 0 else 0xFF, plcaCount := if ty = 3 then 16 else 0
    plcaTimer := if ty = 3 then 32 else 0, plcaBurst := 0, mdioAddr := 0xFF, mdioClause := 0, cipher := 0, secy := 0, confOffset := 0
    sci := List.replicate 8 0, replayWindow := 0, rxscFirst := 0, rxscNum := 0 }

/-- The configuration of port `p` in force. -/
def portCfg (s : State) (p : Nat) : PortCfg :=
  match liveSection s 0x000E with
  | some sec => portCfgOf sec p
  | none => autoPortCfg s p

/-- Link rate in Mb/s of a mode; the external PHY reports it for USXGMII and SGMII (Table 10.1). -/
def modeRate (m : Nat) : Nat :=
  if m = 0x01 ∨ m = 0x12 then 10000
  else if m = 0x02 then 5000
  else if m = 0x03 then 2500
  else if m = 0x10 ∨ m = 0x11 then 25000
  else if m = 0x20 then 1000
  else if m = 0x21 then 100
  else if m = 0x30 then 10
  else 0

/-- Receive latency of a mode in ns (Table 10.7). -/
def phyRx (m : Nat) : Nat :=
  match m with
  | 0x01 => 1320
  | 0x02 => 2480
  | 0x03 => 4760
  | 0x20 => 1540
  | 0x21 => 690
  | 0x30 => 2150
  | 0x10 => 62
  | 0x11 => 268
  | 0x12 => 94
  | 0x13 => 110
  | 0x14 => 180
  | _ => 0

/-- Transmit latency of a mode in ns (Table 10.7). -/
def phyTx (m : Nat) : Nat :=
  match m with
  | 0x01 => 610
  | 0x02 => 1060
  | 0x03 => 1950
  | 0x20 => 520
  | 0x21 => 310
  | 0x30 => 1280
  | 0x10 => 38
  | 0x11 => 112
  | 0x12 => 58
  | 0x13 => 70
  | 0x14 => 120
  | _ => 0

/-- Port `p` is up; the internal ports always are. -/
def portUp (s : State) (p : Nat) : Bool := if p < 28 then (port s p).st == .up else true

/-! Time section (Tables 8.4–8.6, R230). -/

/-- A domain block's fields (Table 8.6). -/
structure DomCfg where
  number : Nat
  source : Nat
  slave : Nat
  fallback : Nat
  masters : Nat
  logSync : Int
  timeout : Nat
  kp : Nat
  ki : Nat
  gmId : Nat
  prio1 : Nat
  prio2 : Nat

/-- The block of domain `d` in a section 0x000F. -/
def domCfgOf (sec : Bytes) (d : Nat) : DomCfg :=
  let o := 128 + 64 * d
  { number := byteAt sec o, source := byteAt sec (o + 1), slave := byteAt sec (o + 2), fallback := byteAt sec (o + 3)
    masters := fieldLe sec (o + 4) 4, logSync := signed 1 (byteAt sec (o + 8)), timeout := byteAt sec (o + 9)
    kp := byteAt sec (o + 10), ki := byteAt sec (o + 11), gmId := fieldLe sec (o + 16) 8
    prio1 := byteAt sec (o + 24), prio2 := byteAt sec (o + 25) }

/-- gPTP runs in AUTONOMOUS: profiles 0b00 and 0b01 (R230). -/
def autoGptp (s : State) : Bool := s.sys.straps.profile.toNat < 2

/-- The block AUTONOMOUS uses for TD0: every external port that is up but the slave port is a master port (R230). -/
def autoDomCfg (s : State) : DomCfg :=
  let slave := (dom s 0).autoSlave.getD 0xFF
  { number := 0, source := 0, slave := slave, fallback := 0xFF
    masters := if autoGptp s then sumBy (fun p => if portUp s p && p != slave then 2 ^ p else 0) (List.range 28) else 0
    logSync := -3, timeout := 3, kp := 2, ki := 6, gmId := 0, prio1 := 0, prio2 := 0 }

/-- The section 0x000F in force: that of the live image, or during an L3 episode the one the cluster goes on with (R218, R228). -/
def timeSection (s : State) : Option Bytes :=
  match liveSection s 0x000F with
  | some sec => some sec
  | none => s.time.kept

/-- The configuration of domain `d` in force. -/
def domCfg (s : State) (d : Nat) : DomCfg :=
  match timeSection s with
  | some sec => domCfgOf sec d
  | none => autoDomCfg s

/-- 2^k s in ns. -/
def secPow (k : Int) : Nat := if 0 ≤ k then 1000000000 * 2 ^ k.toNat else 1000000000 / 2 ^ (-k).toNat

/-- The nominal measurement interval in ns: 2^LOG_SYNC_INTERVAL s. -/
def syncInterval (c : DomCfg) : Nat := secPow c.logSync

/-- A field of the time section, or its AUTONOMOUS value. -/
def timeField (s : State) (off n dflt : Nat) : Nat :=
  match timeSection s with
  | some sec => fieldLe sec off n
  | none => dflt

/-! The standby pins of the CAN transceivers (R246). -/

/-- The channel with endpoint `ep` is a CAN channel. -/
def isCan (ep : Nat) : Bool := decide (48 ≤ ep) && decide (ep < 64)

/-- Channel with endpoint `ep`. -/
def chOf (s : State) (ep : Nat) : LegCh := Tab.get s.leg.chs ep {}

/-- STB of a CAN channel is driven (R246). -/
def setStb (ep : Nat) (high : Bool) (s : State) : State :=
  if isCan ep then emit (.pin ("CAN" ++ toString (ep - 48) ++ "_STB") high) s else s

/-- STB of a channel is low: it is on, or a stopped one still has a frame on its bus (R246). -/
def stbLow (c : LegCh) : Bool := (c.st != 0 && c.st != 5 && c.st != 6) || c.onBus.isSome

/-- The window that the payload of PB_WINDOW_SET describes (R317). -/
def windowOf (b : Bytes) : PbWindow :=
  { enable := bit (byteAt b 1) 0, posted := bit (byteAt b 1) 1, lockable := bit (byteAt b 1) 2, sizeLog2 := byteAt b 3
    near := fieldLe b 4 8, far := fieldLe b 12 8 }

end Sys2Proof.Machine
end

