-- ==== Sys2Proof/Machine/Time.lean ====
section
/-!
DEFINITION. The time base: time domains and their servo, the working clock, gPTP, the timing pins, TIME_STATUS and
TIME_RESTEP (chapter Time base and network time).
-/
namespace Sys2Proof.Machine

/-! The working clock's modes (R233–R235). -/

/-- 100 ppm in units of 2^-44 (R234). -/
def ppm100 : Int := 1759218604

/-- R_MAX, 500 ppm (R220). -/
def rateMax : Int := 8796093022

/-- Code of a working-clock mode (Table 8.7). -/
def wModeCode : WMode → Nat
  | .followTd0 => 0
  | .followTd1 => 1
  | .freeRun => 2
  | .slew => 3

/-- W enters a mode, its value unmoved where it leaves TD0; a TIME_W_MODE record tells the old and the new code (R233). -/
def setWMode (m : WMode) (s : State) : State :=
  let w := s.time.w
  if w.mode = m then s
  else
    let v := wNow s
    let r := wRate s
    let left := if w.mode = .followTd0 then r else w.leftRate
    record 0x0604 [BitVec.ofNat 8 (wModeCode w.mode), BitVec.ofNat 8 (wModeCode m)]
      { s with time := { s.time with w := { w with mode := m, a := v, la := s.clk, r := r, leftRate := left } } }

/-- W continues from its present value at rate `r`. -/
def setWRate (r : Int) (s : State) : State :=
  let v := wNow s
  { s with time := { s.time with w := { s.time.w with a := v, la := s.clk, r := r } } }

/-- A number limited to `lo`–`hi`. -/
def clampInt (lo hi x : Int) : Int := if x < lo then lo else if hi < x then hi else x

/-- W's rate follows the domain its mode names: TD1's rate limited to 100 ppm around the rate at departure, or TD0's rate
plus or minus 100 ppm toward TD0 (R234, R235). -/
def refreshW (s : State) : State :=
  let w := s.time.w
  match w.mode with
  | .followTd0 => s
  | .freeRun => s
  | .followTd1 =>
    let want := (dom s 1).r
    let r := clampInt (w.leftRate - ppm100) (w.leftRate + ppm100) want
    let s := setWRate r s
    if r = want then s
    else recordLimited 0x0605 0 (fun n => leBytes 8 n)
      { s with time := { s.time with w := { s.time.w with clips := s.time.w.clips + 1 } } }
  | .slew =>
    let behind := wNow s < domValue (dom s 0) s.clk
    setWRate ((dom s 0).r + (if behind then ppm100 else -ppm100)) s

/-- W leaves TD0, or a slew toward it, because TD0 entered HOLDOVER (Table 8.7). -/
def wLosesTd0 (s : State) : State :=
  if (dom s 1).st = .locked then
    let s := setWMode .followTd1 s
    let off := wNow s - domValue (dom s 1) s.clk
    refreshW { s with time := { s.time with w := { s.time.w with offset := off } } }
  else setWMode .freeRun s

/-- What W does when domain `d` went from state `old` to its present state, by a step or without one (Table 8.7). -/
def wOnDomain (d : Nat) (old : DomState) (stepped : Bool) (s : State) : State :=
  let new := (dom s d).st
  if d = 0 then
    if stepped then setWMode .followTd0 s
    else if old = .locked ∧ new = .holdover then
      (match s.time.w.mode with
       | .followTd0 | .slew => wLosesTd0 s
       | _ => s)
    else if old = .holdover ∧ new = .locked then
      (match s.time.w.mode with
       | .followTd1 | .freeRun =>
         if wNow s = domValue (dom s 0) s.clk then setWMode .followTd0 s else refreshW (setWMode .slew s)
       | _ => s)
    else refreshW s
  else if d = 1 then
    if old ≠ .locked ∧ new = .locked then
      (match s.time.w.mode with
       | .freeRun => if (dom s 0).st ≠ .locked then wLosesTd0 s else s
       | _ => s)
    else if old = .locked ∧ new ≠ .locked then
      (match s.time.w.mode with
       | .followTd1 => setWMode .freeRun s
       | _ => s)
    else refreshW s
  else s

/-! Commands whose instant a step passed (R62). -/

/-- Withdraws what a command that has not committed had armed (R63, R64). -/
def withdraw (t : Word16) (s : State) : State :=
  let s := match s.img.armed with
    | some (t', _) => if t' = t then noteBusy { s with img := { s.img with armed := none } } else s
    | none => s
  let s := { s with cnt := { s.cnt with
    armed := (s.cnt.armed.map (fun a => { a with tags := a.tags.filter (· != t) })).filter
      (fun a => a.automatic || !a.tags.isEmpty) } }
  if s.sys.autonomousTag = some t then { s with sys := { s.sys with autonomousTag := none } } else s

/-- A COMMAND_JOURNAL record's body (R437): opcode, tag, phase, world, key slot, a reserved byte, and the values the
command's rule names. -/
def journalBody (op : Nat) (tag : Word16) (phase world slot : Nat) (rest : Bytes) : Bytes :=
  leBytes 2 op ++ leBytes 2 tag.toNat
    ++ [BitVec.ofNat 8 phase, BitVec.ofNat 8 world, BitVec.ofNat 8 slot, 0] ++ rest

/-- The withdrawal record of an armed command (R63). -/
def withdrawalRecord (t : Word16) (s : State) : State :=
  match findTag s t with
  | some e => record 0x0001 (journalBody e.opcode t 2 (credWorld e.packet) (credSlot e.packet) []) s
  | none => s

/-- A command that has not reached its commit point is withdrawn: ABORTED with the given DETAIL, no effect, and a
withdrawal record where it was armed (R62–R64). -/
def abortCommand (t : Word16) (detail : Nat) (s : State) : State :=
  match findTag s t with
  | none => s
  | some e =>
    let s := withdraw t s
    let s := if e.phase = .armed then withdrawalRecord t s else s
    finalReply t stAborted detail [] (lateInterim e s)

/-- A step of the working clock aborts every uncommitted timed command whose instant it passed (R62). -/
def abortPassed (before : Int) (s : State) : State :=
  let now := wNow s
  if now ≤ before then s
  else
    let passed := s.cmd.inflight.filter (fun e =>
      (e.phase == .armed || e.phase == .waiting) && (match e.instant with
        | some i => decide (before < i) && decide (i ≤ now)
        | none => false))
    passed.foldl (fun s e => abortCommand e.packet.tag 0x0004 s) s

/-! Steps and rates (R220, R225). -/

/-- A signed step in 8 bytes of ns and 4 bytes of fraction in 2^-16 ns (R226). -/
def stepBytes (v : Int) : Bytes := leInt 8 (v / 2 ^ 60) ++ leInt 4 ((v % 2 ^ 60) / 2 ^ 44)

/-- A LOCKED domain loses its source or measures an offset beyond 1 ms (R223, Table 8.2). -/
def enterHoldover (d : Nat) (s : State) : State :=
  let v := dom s d
  let s := setDom d { v with st := .holdover, holdovers := v.holdovers + 1 } s
  record 0x0602 [BitVec.ofNat 8 d] (wOnDomain d v.st false s)

/-- A LOCKED LOCAL_GM or PPS_IN_GM domain of a SECONDARY in CONFIG_FROZEN goes to FALLBACK_PORT or to HOLDOVER (R231). -/
def freezeDomain (s : State) (d : Nat) : State :=
  let v := dom s d
  let c := domCfg s d
  if (timeSection s).isNone ∨ c.source = 0 ∨ v.st ≠ .locked then s
  else if c.fallback = 0xFF then enterHoldover d s
  else setDom d { v with fallback := true } s

/-- What a domain that has become LOCKED owes to CONFIG_FROZEN (R231). -/
def lockedFrozen (d : Nat) (s : State) : State := if frozen s then freezeDomain s d else s

/-- The timeline a timing pin names: 0–3 a domain, 4 the working clock (Tables 8.4, 8.5). -/
def timeline (s : State) (n : Nat) : Int := if n < 4 then domValue (dom s n) s.clk else wNow s

/-- TSYNC pin `n`. -/
def tsync (s : State) (n : Nat) : Tsync := Tab.get s.time.tsync n {}

/-- Replaces TSYNC pin `n`. -/
def setTsync (n : Nat) (v : Tsync) (s : State) : State :=
  { s with time := { s.time with tsync := Tab.set s.time.tsync n v } }

/-- Name of a TSYNC ball. -/
def tsyncName (n : Nat) : String :=
  match n with
  | 0 => "TSYNC0"
  | 1 => "TSYNC1"
  | 2 => "TSYNC2"
  | _ => "TSYNC3"

/-- The pulses in progress end at their width: the values at which they rose move with the steps of their timelines (R240, R243). -/
def carryPulses (before s : State) : State :=
  let moved := fun (n : Nat) => timeline s n - timeline before n
  { s with time := { s.time with
    ppsRose := s.time.ppsRose + moved (timeField s 1 1 0xFF)
    tsync := s.time.tsync.map (fun (e : Nat × Tsync) => (e.1, { e.2 with rose := e.2.rose + moved (timeField s (66 + 16 * e.1) 1 0) })) } }

/-- Domain `d` moves by `delta` and becomes LOCKED; W moves with TD0 (R225, Table 8.7). -/
def stepDomain (d : Nat) (delta : Int) (s : State) : State :=
  let before := wNow s
  let v := dom s d
  let old := v.st
  let s' := setDom d { v with a := v.a + delta, st := .locked, stepUsed := true, window := [], edges := [], lost := false
                              heldOut := false } s
  lockedFrozen d (abortPassed before (carryPulses s (wOnDomain d old true s')))

/-- The rate of domain `d` changes at this instant and its value does not (R220). -/
def setDomRate (d : Nat) (r : Int) (s : State) : State :=
  let v := dom s d
  refreshW (setDom d { v with a := domValue v s.clk, la := s.clk, r := r } s)

/-- The body of a TIME_LOCK record: the domain, the step applied and the rate (R222). -/
def lockBody (d : Nat) (step r : Int) : Bytes := [BitVec.ofNat 8 d] ++ stepBytes step ++ leInt 8 r

/-- A first lock (R222): the domain falls onto its source by `step`, or makes no step where its step is used, takes the
source rate `q` and enters LOCKED with acc 0. -/
def firstLock (d : Nat) (step q : Int) (s : State) : State :=
  let v := dom s d
  let step := if v.stepUsed then 0 else step
  let r := clampInt (-rateMax) rateMax q
  let s := setDomRate d r s
  let s := setDom d { dom s d with acc := 0, beforeLock := some (s.clk, v.a, v.la, v.r, v.acc) } s
  let s := if v.stepUsed then
      let s' := setDom d { dom s d with st := .locked, window := [], edges := [], lost := false } s
      lockedFrozen d (wOnDomain d v.st false s')
    else stepDomain d step s
  record 0x0601 (lockBody d step r) s

/-- A first lock in the same REF period that a TIME_RESTEP overtakes is discarded: value, rate and accumulator are as before it, and
its record is not written (R221). -/
def overtakeLock (d : Nat) (s : State) : State :=
  let v := dom s d
  match v.beforeLock with
  | some (l, a, la, r, acc) =>
    if l / 10 ≠ s.clk / 10 then s
    else
      let s := setDom d { v with a := a, la := la, r := r, acc := acc, st := .free, stepUsed := false, beforeLock := none } s
      { s with evr := { s.evr with
        queue := s.evr.queue.filter (fun e => !(e.1 == 0x0601 && e.2.head? == some (BitVec.ofNat 8 d))) } }
  | none => s

/-- The servo step of R223 for an offset `e` in 2^-60 ns, an interval `i` in ns and a source rate `q`. -/
def servo (d : Nat) (e : Int) (i : Nat) (q : Int) (s : State) : State :=
  let c := domCfg s d
  let v := dom s d
  let den : Int := (i : Int) * 2 ^ 60
  let p := Config.servoRound (-(e * 2 ^ (44 - c.kp))) den
  let acc := v.acc + Config.servoRound (-(e * 2 ^ (44 - c.ki))) den
  let r := q + p + acc
  if rateMax < r ∨ r < -rateMax then
    let r' := if r < 0 then -rateMax else rateMax
    setDomRate d r' (setDom d { v with acc := r' - q - p, clamps := v.clamps + 1 } s)
  else setDomRate d r (setDom d { v with acc := acc } s)

/-- One microsecond and one millisecond as clock values. -/
def usVal (n : Int) : Int := nsVal (n * 1000)

/-- A valid measurement of domain `d` (R222–R224); one from FALLBACK_PORT corrects by rate as R223 does (R231).  An offset beyond
1 ms measured in HOLDOVER leaves the way back to a TIME_RESTEP alone (log 138). -/
def measure (d : Nat) (e : Int) (i : Nat) (q : Int) (s : State) : State :=
  let v := dom s d
  let s := setDom d { v with lastE := e, lastQ := q, lastValid := some s.clk, valid := v.valid + 1, lost := false } s
  match v.st with
  | .disabled => s
  | .free =>
    let w := (e :: v.window).take 4
    let s := setDom d { dom s d with window := w } s
    let hi := w.foldl max e
    let lo := w.foldl min e
    if w.length = 4 ∧ hi - lo ≤ usVal 1 then firstLock d (-e) q s else s
  | .locked =>
    if usVal 1000 < e ∨ e < -usVal 1000 then enterHoldover d s else servo d e i q s
  | .holdover =>
    if usVal 1000 < e ∨ e < -usVal 1000 then setDom d { dom s d with heldOut := true } s
    else if v.heldOut then s
    else
      let s := setDom d { dom s d with st := .locked } s
      let s := wOnDomain d .holdover false s
      lockedFrozen d (servo d e i q (record 0x0601 (lockBody d 0 (dom s d).r) s))

/-! gPTP (R227–R231). -/

/-- Link delay state of a port. -/
def delay (s : State) (p : Nat) : PortDelay := Tab.get s.time.delays p {}

/-- Replaces the link delay state of a port. -/
def setDelay (p : Nat) (v : PortDelay) (s : State) : State :=
  { s with time := { s.time with delays := Tab.set s.time.delays p v } }

/-- An ingress stamp of port `p` taken at local clock `l`, referred to the MDI by adding the receive latency of the port's mode, in
2^-60 ns (R237, log 139). -/
def rxStamp (s : State) (p l : Nat) : Int := nsVal ((l : Int) + phyRx (port s p).mode)

/-- An egress stamp of port `p` taken at local clock `l`, referred to the MDI (R237). -/
def txStamp (s : State) (p l : Nat) : Int := nsVal ((l : Int) + phyTx (port s p).mode)

/-- Domain value at a local clock given in 2^-60 ns. -/
def domAt (v : Domain) (l60 : Int) : Int :=
  v.a + (l60 - nsVal v.la) + (l60 - nsVal v.la) * v.r / 2 ^ 44

/-- The port on which domain `d` takes measurements: its slave port, or FALLBACK_PORT while R231 applies. -/
def measurePort (s : State) (d : Nat) : Nat :=
  let c := domCfg s d
  if (dom s d).fallback then c.fallback else if c.source = 0 then c.slave else 0xFF

/-- Domains that run gPTP with a domainNumber. -/
def domainsOf (s : State) (number : Nat) : List Nat :=
  (List.range 4).filter (fun d => (dom s d).st != .disabled && (domCfg s d).number == number)

/-- The master ports of domain `d` whose link is up. -/
def masterPorts (s : State) (d : Nat) : List Nat :=
  (List.range 28).filter (fun p => bit (domCfg s d).masters p && portUp s p)

/-- In AUTONOMOUS the first port on which a Sync of domain 0 arrives takes the slave role (R230). -/
def takeAutoSlave (p : Nat) (d : Nat) (s : State) : State :=
  if (timeSection s).isNone ∧ autoGptp s ∧ (dom s d).autoSlave.isNone then setDom d { dom s d with autoSlave := some p } s
  else s

/-- A domain the device is grandmaster of: LOCAL_GM or PPS_IN_GM, and not taking measurements from FALLBACK_PORT. -/
def isGrandmaster (s : State) (d : Nat) : Bool := (domCfg s d).source != 0

/-- Ports that some domain names as slave, master or fallback port (R227). -/
def gptpPorts (s : State) : List Nat :=
  (List.range 28).filter (fun p => portUp s p && (List.range 4).any (fun d =>
    (dom s d).st != .disabled &&
      (let c := domCfg s d
       bit c.masters p || c.slave == p || c.fallback == p)))

/-- The source timeout of domain `d` in ns of local clock (R228). -/
def sourceTimeout (s : State) (d : Nat) : Nat :=
  let c := domCfg s d
  if c.source = 2 ∧ ¬(dom s d).fallback then 1500000000 else c.timeout * syncInterval c

/-- The source of domain `d` is lost: LOCKED becomes HOLDOVER; in AUTONOMOUS the slave role is free again (R228, R230). -/
def sourceLost (d : Nat) (s : State) : State :=
  let v := dom s d
  let s := setDom d { v with lost := true, window := [], edges := [], pendingSync := none, autoSlave := none } s
  if v.st = .locked then enterHoldover d s else s

/-- Meaning of SOURCE_LOST: no valid measurement has come within the source timeout (R228, R232). A LOCAL_GM source is
never lost, and the cluster must run to judge the loss. -/
def execSourceLost (d : Fin 4) (s : State) : Host.Outcome State Fault Refusal :=
  .next (
    let v := dom s d.val
    if !clusterServes s ∨ v.st = .disabled ∨ ((domCfg s d.val).source = 1 ∧ ¬v.fallback) then s
    else
      match v.lastValid with
      | some l => sourceLost d.val (reachClock (l + sourceTimeout s d.val) s)
      | none => sourceLost d.val s)

/-! Timing pins (R240–R243). -/

/-- Offset of a clock value from the nearest whole second. -/
def fromSecond (v : Int) : Int :=
  let m := v % nsVal 1000000000
  if m * 2 < nsVal 1000000000 then m else m - nsVal 1000000000

/-- The source rate of two PPS_IN edges `i` ns of local clock apart (Table 8.3). -/
def ppsRate (i : Nat) : Int := Config.servoRound ((1000000000 - (i : Int)) * 2 ^ 44) i

/-- Consecutive accepted edges are 1 s ± 500 us apart (R222). -/
def ppsSpaced : List Nat → Bool
  | a :: b :: t => decide (999500000 ≤ a - b) && decide (a - b ≤ 1000500000) && ppsSpaced (b :: t)
  | _ => true

/-- An accepted PPS_IN edge feeds a PPS_IN_GM domain; the source rate comes from the last two accepted edges, taken while the cluster
was down or not (R222, R232, R241, Table 8.3). -/
def ppsMeasure (d : Nat) (s : State) : State :=
  let v := dom s d
  let l := s.clk
  let e := fromSecond (domValue v l)
  let edges := (l :: v.edges).take 4
  match s.time.ppsEdges with
  | a :: b :: _ =>
    let q := ppsRate (a - b)
    match v.st with
    | .free =>
      let s := setDom d { v with edges := edges, lastE := e, lastQ := q, lastValid := some l, valid := v.valid + 1 } s
      if edges.length = 4 ∧ ppsSpaced edges then firstLock d (-e) q s else s
    | _ =>
      let s := measure d e 1000000000 q s
      setDom d { dom s d with edges := edges } s
  | _ => setDom d { v with edges := edges, lastE := e, lastValid := some l, valid := v.valid + 1 } s

/-- The timing block is without its clock: an episode of reach L0 or L1, STANDBY or BACKUP (R218, R241). -/
def clockStopped (s : State) : Bool :=
  s.sys.mode == .standby || s.sys.mode == .backup || (match s.rst.episode with
    | some e => decide (e.reach ≤ 1)
    | none => false)

/-- An accepted edge is latched, and measured by the PPS_IN_GM domain while the cluster runs; one that CONFIG_FROZEN took off the
source without a FALLBACK_PORT measures nothing (R231, R232, R241). -/
def acceptPps (s : State) : State :=
  let s := { s with time := { s.time with
    ppsEdges := (s.clk :: s.time.ppsEdges).take 2, ppsIn := localBytes s, ppsCnt := s.time.ppsCnt + 1 } }
  if !clusterServes s then s
  else
    match (List.range 4).find? (fun d => (dom s d).st != .disabled && (timeSection s).isSome && (domCfg s d).source == 2
        && !(dom s d).fallback && !(frozen s && (dom s d).st == .holdover && (domCfg s d).fallback == 0xFF)) with
    | some d => ppsMeasure d s
    | none => s

/-- Meaning of PPS_IN_EDGE: a rising edge high for `highNs` (R241). -/
def execPpsInEdge (highNs : Nat) (s : State) : Host.Outcome State Fault Refusal :=
  .next (
    if highNs < 100 ∨ clockStopped s then s
    else
      match s.time.ppsEdges with
      | l :: _ =>
        if s.clk < l + 500000000 then
          recordLimited 0x0607 0 (fun n => leBytes 8 n)
            { s with time := { s.time with ppsGlitches := s.time.ppsGlitches + 1 } }
        else acceptPps s
      | [] => acceptPps s)

/-- Time has passed until the timeline has reached a value (log 14). -/
def reachTimeline (n : Nat) (target : Int) (s : State) : State :=
  if n < 4 then reachDom n target s else reachW target s

/-- PPS_OUT may rise: an active image names a domain for it, and under GATE_ON_LOCK that domain has first locked (R240,
R230). -/
def ppsOutOn (s : State) : Bool :=
  let d := timeField s 1 1 0xFF
  forwarding s.sys.mode && s.img.live.isSome && s.rst.episode.isNone && d != 0xFF
    && (!bit (timeField s 2 1 0) 0 || d == 4 || (dom s d).stepUsed || (dom s d).st == .locked || (dom s d).st == .holdover)

/-- Meaning of PPS_OUT_EDGE: PPS_OUT rises at the next whole second of its timeline and falls PPS_WIDTH_US of that timeline
later (R240, R244). -/
def execPpsOutEdge (rising : Bool) (s : State) : Host.Outcome State Fault Refusal :=
  .next (
    let d := timeField s 1 1 0xFF
    if rising then
      if ppsOutOn s ∧ ¬s.time.ppsOut then
        let v := timeline s d
        let sec := nsVal 1000000000
        let s := reachTimeline d ((v + sec - 1) / sec * sec) s
        emit (.pin "PPS_OUT" true) { s with time := { s.time with ppsOut := true, ppsRose := timeline s d } }
      else s
    else if s.time.ppsOut then
      let s := reachTimeline d (s.time.ppsRose + nsVal (timeField s 4 4 0 * 1000)) s
      emit (.pin "PPS_OUT" false) { s with time := { s.time with ppsOut := false } }
    else s)

/-- Pins whose function an activation, or the loss of the image, has taken away go low: PPS_OUT without a timeline, a TSYNC pin that
is no periodic output (R230, R240, R243). -/
def settlePins (s : State) : State :=
  let s := if s.time.ppsOut && !ppsOutOn s then emit (.pin "PPS_OUT" false) { s with time := { s.time with ppsOut := false } } else s
  [0, 1, 2, 3].foldl (fun s n =>
    if (tsync s n).high && timeField s (64 + 16 * n) 1 0 != 2 then
      emit (.pin (tsyncName n) false) (setTsync n { tsync s n with high := false } s)
    else s) s

/-- Meaning of TSYNC_CAPTURE: a selected edge at least 100 ns after the last captured one enters the pin's FIFO and raises
the TSYNC source, or is counted as TSYNC_OVERRUN when the FIFO is full (R242). -/
def execTsyncCapture (n : Fin 4) (rising : Bool) (s : State) : Host.Outcome State Fault Refusal :=
  .next (
    let o := 64 + 16 * n.val
    let v := tsync s n.val
    let near := match v.last with
      | some l => decide (s.clk < l + 100)
      | none => false
    if timeField s o 1 0 != 1 || !bit (timeField s (o + 1) 1 0) (if rising then 0 else 1) || near then s
    else if 16 ≤ v.fifo.length then
      recordLimited 0x0608 n.val (fun c => [BitVec.ofNat 8 n.val] ++ leBytes 8 c)
        (setTsync n.val { v with overruns := v.overruns + 1, last := some s.clk } s)
    else
      raiseInt 6 (setTsync n.val
        { v with fifo := v.fifo ++ [timeBytes (timeline s (timeField s (o + 2) 1 0))], last := some s.clk } s))

/-- Meaning of TSYNC_OUTPUT_EDGE: a periodic output rises at its next instant BASE_TIME + PHASE_NS + k × PERIOD_NS and falls
WIDTH_NS later (R243). -/
def execTsyncOutputEdge (n : Fin 4) (rising : Bool) (s : State) : Host.Outcome State Fault Refusal :=
  .next (
    let o := 64 + 16 * n.val
    let v := tsync s n.val
    let d := timeField s (o + 2) 1 0
    if timeField s o 1 0 ≠ 2 then s
    else if rising then
      if v.high then s
      else
        let s := reachTimeline d
          (boundaryFrom (timeline s d) (baseNs s + timeField s (o + 8) 4 0) (timeField s (o + 4) 4 0)) s
        emit (.pin (tsyncName n.val) true) (setTsync n.val { v with high := true, rose := timeline s d } s)
    else if v.high then
      let s := reachTimeline d (v.rose + nsVal (timeField s (o + 12) 4 0)) s
      emit (.pin (tsyncName n.val) false) (setTsync n.val { v with high := false } s)
    else s)

/-- Meaning of SLEW_COMPLETE: W has reached TD0 and enters FOLLOW_TD0; a difference of G ns closes in G × 10 us (R235). -/
def execSlewComplete (s : State) : Host.Outcome State Fault Refusal :=
  .next (match s.time.w.mode with
    | .slew =>
      let g := (wNow s - domValue (dom s 0) s.clk).natAbs
      setWMode .followTd0 (reachClock (refCeil (s.clk + (g * 10000 + 2 ^ 60 - 1) / 2 ^ 60)) s)
    | _ => s)

/-- Meaning of TIM_LATCH: LATCH captures the local clock and W in one period, from a world that may write it (R444, R447). -/
def timLatch (v : Word) (s : State) : State :=
  if bit v.toNat 0 then
    { s with time := { s.time with latchLocal := localBytes s, latchW := timeBytes (wNow (onGrid s)) } }
  else s

/-- OPERATING_SECONDS_TICK: the backup domain's tick advances once per second while the core supply is valid (R31). -/
def execOperatingSecondsTick (s : State) : Host.Outcome State Fault Refusal :=
  .next (if s.rst.invalid.contains .vddCore then s else { s with bkp := { s.bkp with opTick := s.bkp.opTick + 1 } })

/-! TIME_STATUS (R245) and TIME_RESTEP (R226). -/

/-- Code of a domain state (Table 8.2). -/
def domStateCode : DomState → Nat
  | .free => 0
  | .locked => 1
  | .holdover => 2
  | .disabled => 3

/-- A signed number of ns saturated to 32 bits. -/
def satNs32 (v : Int) : Int := clampInt (-2147483648) 2147483647 (v / 2 ^ 60)

/-- The domain block of TIME_STATUS (Table 8.11). -/
def domBlock (s : State) (d : Nat) : Bytes :=
  let v := dom s d
  match v.st with
  | .disabled => [3] ++ List.replicate 63 0
  | _ =>
    let c := domCfg s d
    let gm := if c.source = 0 ∨ v.fallback then v.gmId.toNat else c.gmId
    [BitVec.ofNat 8 (domStateCode v.st), BitVec.ofNat 8 (if v.fallback then 3 else c.source),
     BitVec.ofNat 8 (b2n v.stepUsed), 0]
      ++ timeBytes (domValue v s.clk) ++ leInt 8 v.r ++ leInt 8 (v.lastE / 2 ^ 44) ++ leBytes 8 gm
      ++ leBytes 8 v.valid.toNat ++ leBytes 8 v.holdovers.toNat ++ leBytes 8 v.clamps.toNat

/-- W minus the domain it follows or slews toward; 0 in FOLLOW_TD0 and FREE_RUN (Table 8.10). -/
def wDifference (s : State) : Int :=
  match s.time.w.mode with
  | .followTd0 | .freeRun => 0
  | .followTd1 => wNow s - domValue (dom s 1) s.clk
  | .slew => wNow s - domValue (dom s 0) s.clk

/-- The 288-byte TIME_STATUS result (Tables 8.10, 8.11). -/
def timeStatus (s : State) : Bytes :=
  localBytes s ++ timeBytes (wNow s) ++ [BitVec.ofNat 8 (wModeCode s.time.w.mode), 0, 0, 0]
    ++ leInt 4 (satNs32 (wDifference s)) ++ domBlock s 0 ++ domBlock s 1 ++ domBlock s 2 ++ domBlock s 3

/-- TIME_STATUS. -/
def timeStatusOp : OpDef :=
  { code := 0x0601
    params := fun r _ => if r.payload.length = 0 then none else some 0
    commit := fun r s => answer r stOk 0 (timeStatus (onGrid s)) s }

/-- Meaning of TIME_STATUS (R245). -/
def execTimeStatus (c : CmdSource) (s : State) : Host.Outcome State Fault Refusal := .next (runCommand timeStatusOp c s)

/-- The step a TIME_RESTEP orders, from the state it is judged on (R226). -/
def restepDelta (r : Req) (s : State) : Int :=
  let d := byteAt r.payload 0
  if byteAt r.payload 1 = 0 then -(dom s d).lastE
  else timeOf (slice r.payload 4 12) - (match r.instant with
    | some i => domValue (dom s d) (clockFor s.clk (wNow s) (wRate s) i)
    | none => domValue (dom s d) s.clk)

/-- A TIME_RESTEP is refused with BAD_PARAM (R226). -/
def restepBad (r : Req) (s : State) : Bool :=
  let d := byteAt r.payload 0
  let m := byteAt r.payload 1
  let v := dom s d
  r.payload.length != 16 || decide (3 < d) || decide (1 < m) || fieldLe r.payload 2 2 != 0 || v.st == .disabled
    || (m == 0 && ((domCfg s d).source == 1 && !v.fallback
        || !allZero (slice r.payload 4 12)
        || (match v.lastValid with
            | some l => decide (l + sourceTimeout s d < s.clk)
            | none => true)))
    || (m == 1 && decide (1000000000 ≤ fieldLe r.payload 10 4))

/-- The body of a TIME_RESTEP record: domain, step applied, world, key slot and tag (R226). -/
def restepBody (r : Req) (step : Int) : Bytes :=
  [BitVec.ofNat 8 (byteAt r.payload 0)] ++ stepBytes step
    ++ [BitVec.ofNat 8 r.world, BitVec.ofNat 8 r.slot] ++ leBytes 2 r.tag.toNat

/-- Length of that body. -/
def restepLen : Nat := 17

/-- A step kept in a command's captured values: its sign and its magnitude. -/
def signedAux (l : List Nat) : Int := if l.getD 0 0 = 1 then -(l.getD 1 0 : Int) else (l.getD 1 0 : Int)

/-- TIME_RESTEP: the record, then the step; with AT_TIME the record at hand-over and the step at the instant (R226). -/
def timeRestepOp : OpDef :=
  { code := 0x0602
    params := fun r s => if restepBad r s then some 0 else none
    checks := fun _ s => if recorderClosed restepLen s then some (stNoResources, 0) else none
    onFail := fun r s => if s.evr.full then s else writeRecord 0x0603 (restepBody r 0) s
    exhausted := fun r s => r.instant.isNone && recorderClosed restepLen s
    onClosed := fun r s => if recorderClosed restepLen s then writeRecord 0x0603 (restepBody r 0) s else s
    handOver := fun r s =>
      let delta := restepDelta r s
      updTag r.tag (fun e => { e with aux := [b2n (decide (delta < 0)), delta.natAbs] })
        (writeRecord 0x0603 (restepBody r delta) s)
    commit := fun r s =>
      let d := byteAt r.payload 0
      let held := match findTag s r.tag with
        | some e => if e.aux.length = 2 ∧ byteAt r.payload 1 = 0 then some (signedAux e.aux) else none
        | none => none
      let s := overtakeLock d s
      let delta := held.getD (restepDelta { r with instant := none } s)
      let s := if r.instant.isSome then s else writeRecord 0x0603 (restepBody r delta) s
      answer r stOk 0 (stepBytes delta) (stepDomain d delta s) }

/-- Meaning of TIME_RESTEP (R226). -/
def execTimeRestep (c : CmdSource) (s : State) : Host.Outcome State Fault Refusal := .next (runCommand timeRestepOp c s)

end Sys2Proof.Machine
end

