-- ==== Sys2Proof/Machine/Reach.lean ====
section
/-!
DEFINITION. Reset episodes: what each reach resets and keeps, how sources combine into an episode, and the start and
release of a source (chapter Reset, boot and firmware update).
-/
namespace Sys2Proof.Machine

/-! Reaches (R351–R353). -/

/-- The narrowest level that covers two reaches: L3 and L4 together give L2 (R352). -/
def coverReach (a b : Nat) : Nat := if a = b then a else if Nat.min a b = 3 then 2 else Nat.min a b

/-- `a` covers `b` (R352). -/
def reachCovers (a b : Nat) : Bool := coverReach a b == a

/-- A field of RST_REACH in force: the default where it is unblown or not admitted for its source (R353). -/
def reachField (w : Word) (lo : Nat) (admitted : List Nat) (dflt : Nat) : Nat :=
  let v := bits w.toNat lo 3
  if admitted.contains v then v else dflt

/-- The fields of RST_REACH with what each admits: lowest bit, admitted codes, default (Table 13.3). -/
def reachFields : List (Nat × List Nat × Nat) :=
  [(0, [1, 2, 3, 4], 2), (3, [1, 2, 4], 4), (6, [1, 2, 3], 2), (9, [1, 2, 3], 3), (12, [1, 5], 5), (15, [1, 2, 3, 4, 5], 2),
   (18, [1, 2, 3, 4], 1)]

/-- The reach that a source demands, or none where it demands no reach (Table 13.1). -/
def sourceReach (src : Nat) (s : State) : Option Nat :=
  let w := s.otp.rstReachRead
  match src with
  | 4 => some 0
  | 5 => some 1
  | 6 => some 1
  | 7 => some (reachField w 0 [1, 2, 3, 4] 2)
  | 8 => some (reachField w 3 [1, 2, 4] 4)
  | 9 => some (reachField w 6 [1, 2, 3] 2)
  | 10 => some (reachField w 9 [1, 2, 3] 3)
  | 11 => some s.rst.globalReach
  | 12 => some 1
  | 13 => some 4
  | 14 => if reachField w 12 [1, 5] 5 = 5 then none else some 1
  | 15 => if reachField w 15 [1, 2, 3, 4, 5] 2 = 5 then none else some (reachField w 15 [1, 2, 3, 4, 5] 2)
  | _ => none

/-! What a reach resets (Table 13.2). -/

/-- Data path state reset by L3 and wider; counters stay. -/
def resetDataPath (s : State) : State :=
  let f := s.fwl
  let b := s.bsn
  let l := s.lanes
  { s with
    frames := []
    time := { s.time with kept := timeSection s }
    img := { s.img with live := none, shadow := none, loaded := none, session := none, peerSession := none, armed := none
                        pending := none, margin := false, goodReadings := 0 }
    lanes := { l with next := [], slot := [], banks := [], live := 0, epoch := 0, other := 0, refreshDue := false
                      refreshAt := none, swap := none, rpCount := 0, rpHold := [], served := [], rom := true }
    fwl := { f with conns := [], st := 0, ref3 := 0, ref4 := none, routeDenied := [], buckets := [], suspended := false }
    bsn := { b with learned := [], raised := [], lowShared := 53480, laneMap := [], doubles := [], scrubRow := 0, seqs := []
                    press := [], overflowSeen := false, queues := [], planes := [] }
    egr := { ports := s.egr.ports.map (fun e => (e.1, { pauseRx := e.2.pauseRx, certExceeded := e.2.certExceeded
                                                        atsDrops := e.2.atsDrops, counts := e.2.counts }))
             streams := s.egr.streams, meters := [], gens := [], generated := s.egr.generated
             recoveries := s.egr.recoveries.map (fun e => (e.1, { counts := e.2.counts })), buckets := [], groups := [] }
    leg := { chs := s.leg.chs.map (fun e => (e.1, { counts := e.2.counts }))
             engines := s.leg.engines.map (fun e => (e.1, { served := e.2.served, toGw := e.2.toGw, dropFault := e.2.dropFault
                                                            lost := e.2.lost, launch := e.2.launch }))
             routeCounts := s.leg.routeCounts } }

/-- Counters that only an episode of reach L1 or wider clears. -/
def clearCounters (s : State) : State :=
  { s with
    cnt := { s.cnt with
      stats := [], ovf := [], nextSeq := 1, banks := [], snapSeq := 0, snapAny := false, snapBank := 0, armed := []
      writing := none, lastAuto := none
      units := s.cnt.units.map (fun e => (e.1, { dflt := e.2.dflt, override := e.2.override, void := e.2.void })) }
    lanes := { s.lanes with corrected := 0, first := [], second := [], reasons := [] }
    fwl := { s.fwl with high := 0, judged := 0, permitted := 0, dflt := 0, zoneLock := 0, ctFull := 0, scrubs := 0
                        reverts := 0, revertDeny := 0, verdicts := [], canDrops := [] }
    bsn := { s.bsn with inner := 0, outerCorr := 0, outerErase := 0, uncorr := 0, scrubs := 0, holesRx := 0, learnFull := 0
                        raisings := [] }
    egr := { s.egr with streams := [], generated := [], recoveries := [], ports := [] }
    leg := { s.leg with chs := [], engines := [], routeCounts := [] }
    pair := { s.pair with syncLate := 0, mismatches := 0, unmatched := 0, overs := 0, takeovers := 0, darnings := 0
                          diverged := 0 }
    pb := { s.pb with backoffs := 0 }
    ports := s.ports.map (fun e => (e.1, { e.2 with linkUps := 0, tc10Count := 0, mdioNoResponse := 0, plcaDup := 0
                                                    secyCounts := [] })) }

/-- The default assignment of a DMA ring after an episode of reach L1 or L2 (R302). -/
def defaultRing (n : Nat) (receive : Bool) : HstRing :=
  { owner := some (if n < 8 then 2 else 3), sel := if receive then 2 ^ (n % 8) else n % 8 }

/-- Host ports reset by L2 and wider: registers, rings, replay buffer (Table 13.2). -/
def resetHost (s : State) : State :=
  { s with
    hst := { tx := (List.range 16).map (fun n => (n, defaultRing n false))
             rx := (List.range 16).map (fun n => (n, defaultRing n true)) }
    intr := {}
    cmd := { policy := s.cmd.policy
             lost := some (s.cmd.lost.getD [] ++ (s.cmd.inflight.filter (fun e => e.phase != .replied)).map
               (fun e => (e.packet.tag, e.opcode, e.phase == .committed))) }
    pb := { windows := s.pb.windows.filter (fun e => e.1 < 4), backoffs := s.pb.backoffs }
    sys := { s.sys with autonomousTag := none }
    rst := { s.rst with globalTags := [], blocks := [], updReset := false, lcReset := false, voterRestart := false } }

/-- The management cluster restarts (Table 13.2): it executes nothing until it has started again. -/
def resetCluster (s : State) : State :=
  { s with
    sys := { s.sys with clusterUp := false, halted := false, romOnly := true, fwVersion := 0 }
    keys := { s.keys with quotes := [] }
    pb := { s.pb with open_ := [], ownLock := none }
    evr := { s.evr with nonce := none }
    saf := { s.saf with wdtRuns := false } }

/-- Ports whose links go down, keeping what a kept PHY keeps; `phy` tells whether the trained state is lost too. -/
def resetLinks (phy : Bool) (s : State) : State :=
  { s with ports := s.ports.map (fun e =>
      let p := e.2
      (e.1, { upAt := if phy then 0 else p.upAt, copyA := p.copyA, copyB := p.copyB, coeffs := if phy then [] else p.coeffs, linkUps := p.linkUps, tc10Count := p.tc10Count, mdioNoResponse := p.mdioNoResponse
              plcaDup := p.plcaDup, secyCounts := p.secyCounts, mode := p.mode
              role := if phy then 0xFF else p.role, coeff := if phy then 0 else p.coeff
              st := if p.st = .disabled then .disabled else .down })) }

/-- PEER_HLTH_OUT is held low: the health bit is not good (R323). -/
def hlthLow (s : State) : State :=
  if s.pair.hlthOut then emit (.pin "PEER_HLTH_OUT" false) { s with pair := { s.pair with hlthOut := false } } else s

/-- The pins of Table 13.6 that an episode of reach `r` drives. -/
def episodePins (r : Nat) (s : State) : State :=
  let s := setFault true s
  let s := if r = 0 ∧ s.wake.inh then emit (.pin "INH" false) { s with wake := { s.wake with inh := false } } else s
  let s := if r ≤ 3 ∧ s.time.ppsOut then emit (.pin "PPS_OUT" false) { s with time := { s.time with ppsOut := false } } else s
  let s := if r ≤ 3 then hlthLow s else s
  let s := if r ≤ 3 then (List.range 16).foldl (fun s i => if stbLow (chOf s (48 + i)) then setStb (48 + i) true s else s) s else s
  if 3 ≤ r then s
  else
    let s := if s.rst.rstoutLow then s else emit (.pin "RSTOUT_N" false) { s with rst := { s.rst with rstoutLow := true } }
    let s := if s.rst.flashLow then s else emit (.pin "XSPIF_RST_N" false) { s with rst := { s.rst with flashLow := true } }
    let s := if s.wake.wakeOut then emit (.pin "WAKE_OUT" false) { s with wake := { s.wake with wakeOut := false } } else s
    [0, 1, 2, 3].foldl (fun s n =>
      if (tsync s n).high then emit (.pin (tsyncName n) false) (setTsync n { tsync s n with high := false } s) else s) s

/-- Events in the queue at the start of an episode of reach L0 to L2 are not written (R439). -/
def dropQueuedEvents (s : State) : State :=
  let n := s.evr.queue.length
  countUnrecorded n { s with evr := { s.evr with queue := [], found := false } }

/-- What an episode of reach L2 or wider resets (Table 13.2, L2 column). -/
def resetL2 (s : State) : State :=
  let s := resetCluster (resetHost (resetDataPath (dropQueuedEvents s)))
  let p := s.pair
  { s with
    sys := { s.sys with scratch := 0 }
    upd := { s.upd with session := none, peerSession := none }
    cnt := { s.cnt with armed := [], writing := none }
    time := { s.time with doms := s.time.doms.map (fun e => (e.1, { e.2 with fallback := false })), kept := none
                          w := { s.time.w with ignored := 0 }, ppsIn := List.replicate 12 0, ppsCnt := 0, latchLocal := List.replicate 12 0
                          latchW := List.replicate 12 0, tsync := s.time.tsync.map (fun (e : Nat × Tsync) => (e.1, { e.2 with fifo := [] })) }
    saf := { s.saf with escalated := false, escCount := 0, escRow := 0, revertFailed := false }
    pair := { syncLate := p.syncLate, mismatches := p.mismatches, unmatched := p.unmatched, overs := p.overs
              takeovers := p.takeovers, darnings := p.darnings, diverged := p.diverged, hlthIn := p.hlthIn
              hlthOut := p.hlthOut, failover := p.failover }
    wake := { s.wake with ring := .awake, tag := none, ended := true, requestAt := none, hold := none, segs := []
                          down := false, quietAt := 0, timeoutAt := 0 } }

/-- What an episode of reach L1 resets beside L2's: clocks, PHY state, counters (Table 13.2, L1 column). -/
def resetL1 (s : State) : State :=
  let s := resetLinks true (clearCounters (resetL2 s))
  { s with
    clk := 0, time := {}
    pair := { s.pair with failover := [] }
    evr := { s.evr with limitAt := [], limitCount := [] }
    wake := { s.wake with idleFrom := 0 }
    saf := { s.saf with cores := [] } }

/-- What an episode of reach L0 resets beside L1's: the backup domain and the counter overrides (R351, R429). -/
def resetL0 (s : State) : State :=
  let s := resetL1 s
  { s with
    bkp := {}
    wake := { s.wake with settings := none, tc10Ports := 0x0FFFFFFF, canLatched := 0, tc10Latched := 0, inh := false }
    cnt := { s.cnt with units := s.cnt.units.map (fun e => (e.1, { e.2 with override := none, void := false })) } }

/-- An armed activation is discarded: its command replies WRONG_MODE (R35, R149), and one withdrawn before its hand-over leaves
a withdrawal record (R63). -/
def discardActivation (s : State) : State :=
  match s.img.armed with
  | some (t, _) =>
    let s := if s.img.pendingMark.isNone then withdrawalRecord t s else s
    finalReply t stWrongMode 0 [] (noteBusy { s with img := { s.img with armed := none, pendingMark := none } })
  | none => s

/-- A transition of lower precedence that has not taken effect is discarded: its command replies WRONG_MODE (R35). -/
def discardArmed (s : State) : State :=
  let s := discardActivation s
  match s.sys.autonomousTag with
  | some t => finalReply t stWrongMode 0 [] { s with sys := { s.sys with autonomousTag := none } }
  | none => s

/-- An activation that was handed over is lost with an L3 episode: its PENDING mark goes, an ACTIVATION_LOST record tells it,
and its command replies WRONG_MODE (R82, R35). -/
def loseActivation (s : State) : State :=
  match s.img.pendingMark with
  | none => s
  | some _ =>
    let s := record 0x0102 [] (noteBusy { s with img := { s.img with pendingMark := none, armed := none } })
    match s.cmd.inflight.find? (fun e => e.opcode == 0x0105 && e.phase == .committed) with
    | some e => finalReply e.packet.tag stWrongMode 0 [] s
    | none => s

/-- The device's part in a ring round ends with an episode that begins in CONSENTED or QUIET (R332); a power-down under way
goes on. -/
def leaveRound (s : State) : State :=
  match s.wake.ring with
  | .consented | .quiet =>
    if s.wake.down then s else { s with wake := { s.wake with ring := .awake, ended := true } }
  | _ => s

/-- What an episode of reach L3 resets (Table 13.2, L3 column).  The image it ran on is noted, for its reload under R83. -/
def resetL3 (s : State) : State :=
  let s := leaveRound (discardArmed (loseActivation s))
  let ran := match s.img.live with
    | some i => some i
    | none => s.img.loaded
  let s := resetDataPath s
  { s with
    img := { s.img with loaded := ran }
    saf := { s.saf with escalated := false, revertFailed := false } }

/-- The states and pins of a reach are applied (R351, R354, R360). -/
def applyReach (r : Nat) (s : State) : State :=
  episodePins r (
    match r with
    | 0 => resetL0 s
    | 1 => resetL1 s
    | 2 => resetLinks false (resetL2 s)
    | 3 => resetL3 s
    | _ => resetCluster (leaveRound s))

/-- GOING_DOWN leaves on the mirror link at the start of an episode of reach L0 to L3, while the SerDes supply is valid
(Table 14.4, R32; log 29). -/
def sendGoingDown (r : Nat) (m : Word16) (s : State) : State :=
  if 4 ≤ r ∨ s.rst.invalid.contains .vddSrds ∨ ¬(s.pair.mlUp ∨ s.pair.peerKnown) then s
  else emit (.ml 2 ([BitVec.ofNat 8 r] ++ leBytes 2 m.toNat)) s

/-! Episodes (R354, R355). -/

/-- Bit of a source is asserted. -/
def sourceAsserted (src : Nat) (s : State) : Bool := bit s.rst.asserted.toNat src

/-- A source begins to assert: an episode begins, or the one in progress takes the source and widens where it must; an
exit sequence in progress is abandoned and its reach is covered too (R354, R355). -/
def assertSource (src : Nat) (s : State) : State :=
  match sourceReach src s with
  | none => s
  | some r =>
    let m : Word16 := BitVec.ofNat 16 (2 ^ src)
    let s := { s with rst := { s.rst with asserted := s.rst.asserted ||| m } }
    match s.rst.episode with
    | some e =>
      let r' := coverReach e.reach r
      let src := e.sources ||| m
      let s := { s with rst := { s.rst with episode := some { reach := r', sources := src } } }
      if r' = e.reach then s else applyReach r' (if e.reach = 4 then sendGoingDown r' src s else s)
    | none =>
      let r' := match s.rst.exit with
        | some x => coverReach x r
        | none => r
      applyReach r' (sendGoingDown r' m { s with rst := { s.rst with
        episode := some { reach := r', sources := m }, exit := none } })

/-- Source RST_GLOBAL asserts with a reach of its own (R348, R358). -/
def assertGlobal (reach : Nat) (s : State) : State :=
  assertSource 11 { s with rst := { s.rst with globalReach := reach } }

/-- Meaning of RESET_EPISODE_WIDEN: the source asserts, and the episode begins or widens (R354). -/
def execResetEpisodeWiden (src : Fin 16) (s : State) : Host.Outcome State Fault Refusal := .next (assertSource src.val s)

/-- A low phase of a reset ball is accepted: longer than 1 us; rejected under 100 ns; a phase between may be either, which
the next free number decides (R349). -/
def filterAccepts (lowNs : Nat) (s : State) : Bool × State :=
  if lowNs < 100 then (false, s)
  else if 1000 < lowNs then (true, s)
  else
    let (n, s) := drawNat s
    (n % 2 == 1, s)

/-- An accepted low phase asserts its source. -/
def ballLow (src lowNs : Nat) (s : State) : State :=
  let (ok, s) := filterAccepts lowNs s
  if ok then assertSource src s else s

/-- Meaning of PORST_N_LOW (R349). -/
def execPorstNLow (lowNs : Nat) (s : State) : Host.Outcome State Fault Refusal := .next (ballLow 6 lowNs s)

/-- Meaning of SYSRST_N_LOW (R349). -/
def execSysrstNLow (lowNs : Nat) (s : State) : Host.Outcome State Fault Refusal := .next (ballLow 7 lowNs s)

/-- Meaning of TRST_N_LOW: set to TAP only it asserts no reach (R348, R349). -/
def execTrstNLow (lowNs : Nat) (s : State) : Host.Outcome State Fault Refusal := .next (ballLow 14 lowNs s)

/-- Meaning of MGMT_WDT: the cluster has not serviced the watchdog for 100 ms (R350). -/
def execMgmtWdt (s : State) : Host.Outcome State Fault Refusal :=
  .next (if s.sys.clusterUp ∧ ¬s.sys.halted then
      assertSource 8 (reachClock (s.saf.mgmtServed + 100000000) s)
    else s)

end Sys2Proof.Machine
end

