-- ==== Sys2Proof/Machine/Modes.lean ====
section
/-!
DEFINITION. The mode controller's shared operations: entry to SAFE, safety escalations, and the hardware health bit.
-/
namespace Sys2Proof.Machine

/-- A block is held in reset by RST_BLOCK (R357). -/
def blockHeld (kind index : Nat) (s : State) : Bool := s.rst.blocks.any (fun b => b.1 == kind && b.2.1 == index)

/-- A command's row while a block that the command would give work is held in reset: an arriving command is accepted and
waits, and one that waits does not begin (R357). -/
def runUnlessHeld (held : Packet → Bool) (d : OpDef) (c : CmdSource) (s : State) : State :=
  match c with
  | .arriving via p => arriveWith (clusterServes s) (!held p) d via p s
  | .accepted t =>
    match findTag s t with
    | some e => if held e.packet then s else runCommand d c s
    | none => s

/-- Every main supply is reported valid: all but VBKP (R464). -/
def mainValid (s : State) : Bool := s.rst.invalid.all (· == .vbkp)

/-- An episode of reach L0 to L3 is in progress. -/
def episodeL03 (s : State) : Bool :=
  match s.rst.episode with
  | some e => decide (e.reach ≤ 3)
  | none => false

/-- The data path does not forward: an episode of reach L0 to L3 is in progress, or one of reach L3 has ended and the
reloaded data path has not activated yet (R83, R355). -/
def dataPathDown (s : State) : Bool := episodeL03 s || s.rst.exit == some 3

/-- The hardware health bit (R385). -/
def healthGood (s : State) : Bool := runMode s.sys.mode && !episodeL03 s && !s.saf.escalated && mainValid s

/-- SAFE is entered from AUTONOMOUS, CONFIGURED or PARTIAL: FAULT_N goes low and armed transitions are discarded (R33,
R35, R387). -/
def enterSafe (s : State) : State :=
  if runMode s.sys.mode ∧ s.rst.episode.isNone then hlthLow (setFault true (enterMode .safe (discardArmed s))) else s

/-- Row of a safety escalation in Table 14.2 whose class is RESET. -/
def escalationResets (row : Nat) : Bool := row == 1 || row == 2 || row == 3

/-- A safety escalation, named by its row 1–7 of Table 14.2: a SAFETY_ESC record, the SAF source, and what its class
decides (R386). -/
def escalate (row : Nat) (s : State) : State :=
  let s := record 0x0C05 [BitVec.ofNat 8 row] s
  let s := raiseInt 8 { s with saf := { s.saf with
    escalated := true, escRow := row, escCount := satAdd 16 s.saf.escCount 1 } }
  if escalationResets row then assertSource 10 (hlthLow s) else enterSafe (hlthLow s)

/-- The device is the ACTIVE of a working pair, whose committed relayed commands wait for a sync point (R391). -/
def relays (s : State) : Bool := s.pair.st == .paired && !s.pair.standby

/-- Opcodes the pair relays (R391). -/
def relayedOps : List Nat := [0x0110, 0x0201, 0x0303, 0x0E02, 0x0A03, 0x0010]

/-- A committed relayed command waits for the sync point that carries it (R391). -/
def awaitSync (t : Word16) (s : State) : State := { s with pair := { s.pair with
  relayed := s.pair.relayed ++ [t], carried := s.pair.carried.filter (fun c => c.2 != t) } }

/-- The command's commitment waits for a sync point. -/
def awaitsSync (t : Word16) (s : State) : Bool := s.pair.relayed.contains t

/-- A relayed command has committed: on the ACTIVE of a pair its effect waits for the sync point, otherwise it follows at
once.  One that AT_TIME times committed at its hand-over, and its instant has now come (R63, R391). -/
def relayOrRun (effect : Req → State → State) (r : Req) (s : State) : State :=
  if r.instant.isSome then
    if awaitsSync r.tag s then updTag r.tag (fun e => { e with aux := [1] }) s else effect r s
  else if relays s then awaitSync r.tag s else effect r s

/-- The same for a command that commits at once whatever its instant (R63). -/
def relayAtOnce (effect : Req → State → State) (r : Req) (s : State) : State :=
  if relays s then awaitSync r.tag s else effect r s

/-- A record that must stand before what follows it is written at once, or its event counted as unrecorded (R145, R439). -/
def recordNow (ty : Nat) (body : Bytes) (s : State) : State :=
  if recorderClosed body.length s then countUnrecorded 1 (writeRecord ty body s) else writeRecord ty body s

/-- Meaning of SAFE_REQ_N_LOW: held low for 2 us it triggers SAFE (R33). -/
def execSafeReqNLow (lowNs : Nat) (s : State) : Host.Outcome State Fault Refusal :=
  .next (if 2000 ≤ lowNs then enterSafe s else s)

end Sys2Proof.Machine
end

