-- ==== Sys2Proof/Machine/Parse.lean ====
section
/-!
DEFINITION. The parse walk of a sorting lane: the parse program, its built-in checks and fields, truncation and the
malformed conditions (R95–R104).
-/
namespace Sys2Proof.Machine

/-- A parse node (Table 4.3). -/
structure PNode where
  proto : Nat
  vlan : Bool
  v6ext : Bool
  terminal : Bool
  lenMode : Nat
  fixedLen : Nat
  lenOff : Nat
  lenMask : Nat
  nextOff : Nat
  nextWidth : Nat
  /-- VALUE, MASK and NEXT of its transitions (Table 4.5). -/
  trans : List (Nat × Nat × Nat)
  dflt : Nat
  profile : Nat
  /-- Slot, offset and width of its generic extractions. -/
  gens : List (Nat × Nat × Nat)

/-- Node `n` of a parse program section (Tables 4.2, 4.3). -/
def nodeOf (sec : Bytes) (n : Nat) : PNode :=
  let o := 64 + 32 * n
  let b := slice sec o 32
  let t0 := 64 + 32 * fieldLe sec 0 2 + 8 * fieldLe b 8 2
  { proto := byteAt b 0, vlan := bit (byteAt b 1) 0, v6ext := bit (byteAt b 1) 1, terminal := bit (byteAt b 1) 2
    lenMode := byteAt b 2, fixedLen := byteAt b 3, lenOff := byteAt b 4, lenMask := byteAt b 5, nextOff := byteAt b 6
    nextWidth := byteAt b 7, dflt := byteAt b 11, profile := byteAt b 12
    trans := (List.range (byteAt b 10)).map (fun i =>
      (fieldLe sec (t0 + 8 * i) 2, fieldLe sec (t0 + 8 * i + 2) 2, byteAt sec (t0 + 8 * i + 4)))
    gens := ((List.range 4).map (fun i => (byteAt b (16 + 4 * i), byteAt b (17 + 4 * i), byteAt b (18 + 4 * i)))).filter
      (fun g => g.1 < 4) }

/-- A node of the ROM parse program: 0 Ethernet, 1 an 802.1Q tag, 2 an 802.1ad tag (R111). -/
def romNode (n : Nat) : PNode :=
  let trans := [(0x8100, 0xFFFF, 1), (0x88A8, 0xFFFF, 2)]
  if n = 0 then
    { proto := 1, vlan := false, v6ext := false, terminal := false, lenMode := 0, fixedLen := 14, lenOff := 0, lenMask := 0
      nextOff := 12, nextWidth := 16, trans := trans, dflt := 0xFF, profile := 0, gens := [] }
  else
    { proto := if n = 1 then 2 else 3, vlan := true, v6ext := false, terminal := false, lenMode := 0, fixedLen := 4
      lenOff := 0, lenMask := 0, nextOff := 2, nextWidth := 16, trans := trans, dflt := 0xFF, profile := 0, gens := [] }

/-- Node `n` of a rule bank's program. -/
def bankNode (b : RuleBank) (n : Nat) : PNode :=
  match b.prog with
  | some sec => nodeOf sec n
  | none => romNode n

/-- Root node of frames from a port (Table 4.2). -/
def bankRoot (b : RuleBank) (p : Nat) : Nat :=
  match b.prog with
  | some sec => byteAt sec (32 + p)
  | none => 0

/-- What a walk holds as it goes: fields by ID (Table 4.7), where layers began, tags, and the conditions of Table 4.8. -/
structure Walk where
  fields : Tab Nat := []
  /-- Offsets at which the layers began, with the end of data as it stood there, first layer last. -/
  starts : List (Nat × Nat) := []
  tags : Nat := 0
  frag : Bool := false
  sectag : Bool := false
  ipv4 : Bool := false
  ipv6 : Bool := false
  l4 : Bool := false
  avtp : Bool := false
  acf : Bool := false
  gen : Bool := false
  ipOpt : Bool := false
  /-- First byte past the end of data. -/
  eod : Nat
  /-- First byte past the declared IP payload, once this pass has read an IP header. -/
  ipEnd : Option Nat := none
  /-- Declared 1722 data length, once this pass has read a 1722 header. -/
  avtpLen : Option Nat := none
  /-- Malformed or truncation reason of Table 4.6, 0 for none. -/
  reason : Nat := 0
  /-- Node at which the parse ended. -/
  endNode : Nat := 0

/-- Whether a reason is a truncation (Table 4.6). -/
def isTrunc (r : Nat) : Bool := decide (1 ≤ r) && decide (r ≤ 4)

/-- Whether a reason is a malformed condition or a lookup error. -/
def isMal (r : Nat) : Bool := decide (0x10 ≤ r)

/-- Byte `i` of a frame as a lane reads it: the parse window is the first 256 bytes, and a byte past it or past the frame's end
is free (R95, log 127). -/
def laneByte (c : Bytes) (i : Nat) : Byte := if i < 256 ∧ i < c.length then c.getD i 0 else Config.pastEnd c i

/-- A big-endian field of `n` bytes at `off` as a lane reads it. -/
def laneField (c : Bytes) (off n : Nat) : Nat := ofBe ((List.range n).map (fun i => laneByte c (off + i)))

/-- The length of a header, or the truncation or malformed reason met while its length field is read (R96).  A length field
inside the window and past the end of data is a header that runs past the end of data (log 128). -/
def headerLength (n : PNode) (c : Bytes) (off eod : Nat) : Except Nat Nat :=
  if n.proto = 4 then
    if 256 ≤ off then .error 0x01
    else if eod ≤ off then .error 0x10
    else .ok (if bit (byteAt c off) 5 then 16 else 8)
  else if n.lenMode = 0 then .ok n.fixedLen
  else if 256 ≤ off + n.lenOff then .error 0x01
  else if eod ≤ off + n.lenOff then .error 0x10
  else
    let shift := ((List.range 8).find? (fun i => bit n.lenMask i)).getD 0
    let v := (byteAt c (off + n.lenOff) &&& n.lenMask) / 2 ^ shift
    if n.lenMode = 1 then .ok (4 * v) else if n.lenMode = 2 then .ok (8 * (v + 1)) else .ok (n.fixedLen + v)

/-- A header ends past a declared end, or past the end of data where none is declared and the frame's end has come (R101). -/
def pastStop (whole : Bool) (eod : Nat) (stop : Option Nat) (e : Nat) : Bool :=
  match stop with
  | some p => decide (p < e)
  | none => whole && decide (eod < e)

/-- The built-in check of a header at `off` of length `len`: the malformed reason, 0 for none (R99).  `whole` tells that
the frame's end has arrived, which a check against the end of data needs (R101).  Inside an IP payload a check is made against
that payload's end, and in a pass that has read no IP or 1722 header against the end of data (log 128). -/
def builtIn (n : PNode) (c : Bytes) (off len : Nat) (whole : Bool) (w : Walk) : Nat :=
  let past := pastStop whole w.eod
  match n.proto with
  | 0x04 =>
    let t := byteAt c off
    let sl := byteAt c (off + 1) % 64
    let secure := w.eod - 16 - (off + len - 2)
    if bit t 7 || (!bit t 3 && bit t 2) || decide (48 ≤ sl) || (bit t 5 && (bit t 6 || bit t 4))
      || (whole && sl != 0 && sl != secure) then 0x18 else 0
  | 0x05 =>
    let ihl := byteAt c off % 16
    let total := fieldBe c (off + 2) 2
    if byteAt c off / 16 ≠ 4 ∨ ihl < 5 then 0x11
    else if total < 4 * ihl ∨ (whole ∧ w.eod < off + total) then 0x12
    else 0
  | 0x06 =>
    let plen := fieldBe c (off + 4) 2
    if (plen = 0 ∧ byteAt c (off + 6) ≠ 0) ∨ (whole ∧ w.eod < off + 40 + plen) then 0x13 else 0
  | 0x07 => if past w.ipEnd (off + len) then 0x19 else 0
  | 0x08 => if past w.ipEnd (off + len) then 0x19 else 0
  | 0x09 =>
    let ul := fieldBe c (off + 4) 2
    if ul < 8 ∨ past w.ipEnd (off + ul) then 0x14 else 0
  | 0x0A =>
    let dof := byteAt c (off + 12) / 16
    if dof < 5 ∨ past w.ipEnd (off + 4 * dof) then 0x15 else 0
  | 0x0C => if whole ∧ w.eod < off + 12 + fieldBe c (off + 1) 2 % 2048 then 0x16 else 0
  | 0x0D => if whole ∧ w.eod < off + 24 + fieldBe c (off + 20) 2 then 0x16 else 0
  | 0x0E =>
    let ml := fieldBe c off 2 % 512 * 4
    let ty := byteAt c off / 2
    if ml < (if ty = 1 then 16 else 4) ∨ past (w.avtpLen.map (off + ·)) (off + ml) then 0x17 else 0
  | _ => 0

/-- Sets a field. -/
def Walk.put (w : Walk) (id v : Nat) : Walk := { w with fields := Tab.set w.fields id v }

/-- The generic extractions of a node (Table 4.3). -/
def extractGens (c : Bytes) (off : Nat) : List (Nat × Nat × Nat) → Walk → Walk
  | [], w => w
  | (slot, o, n) :: gs, w =>
    extractGens c off gs { w with fields := Tab.set w.fields (0x19 + slot) (laneField c (off + o) n), gen := true }

/-- The fields of a header (Table 4.4). -/
def extract (n : PNode) (c : Bytes) (off len : Nat) (w : Walk) : Walk :=
  let be := fun o k => fieldBe c (off + o) k
  let w := match n.proto with
    | 0x01 => ((w.put 0x03 (be 0 6)).put 0x04 (be 6 6)).put 0x09 (be 12 2)
    | 0x02 | 0x03 =>
      let tci := be 0 2
      let w := if w.tags = 0 then (w.put 0x05 (tci % 4096)).put 0x06 (tci / 8192)
        else if w.tags = 1 then (w.put 0x07 (tci % 4096)).put 0x08 (tci / 8192) else w
      { w.put 0x09 (be 2 2) with tags := w.tags + 1 }
    | 0x04 =>
      let w := if bit (byteAt c off) 5 then w.put 0x1D (be 6 8) else w
      { w.put 0x09 (be (len - 2) 2) with sectag := true, eod := w.eod - 16 }
    | 0x05 =>
      let w := (((w.put 0x0A (be 12 4)).put 0x0B (be 16 4)).put 0x0E (be 9 1)).put 0x0F (be 1 1 / 4)
      { w with ipv4 := true, ipEnd := some (off + be 2 2), ipOpt := w.ipOpt || decide (5 < byteAt c off % 16)
               frag := w.frag || be 6 2 % 0x4000 != 0 }
    | 0x06 =>
      let w := (((w.put 0x0C (be 8 16)).put 0x0D (be 24 16)).put 0x0E (be 6 1)).put 0x0F (be 0 2 / 64 % 64)
      { w with ipv6 := true, ipEnd := if be 4 2 = 0 then none else some (off + 40 + be 4 2) }
    | 0x07 => { w.put 0x0E (be 0 1) with ipOpt := true }
    | 0x08 => { w.put 0x0E (be 0 1) with ipOpt := true, frag := true }
    | 0x09 => { (w.put 0x10 (be 0 2)).put 0x11 (be 2 2) with l4 := true }
    | 0x0A => { ((w.put 0x10 (be 0 2)).put 0x11 (be 2 2)).put 0x12 (be 13 1) with l4 := true }
    | 0x0B => { w.put 0x13 (be 0 2) with l4 := true }
    | 0x0C => { (w.put 0x14 (be 0 1)).put 0x15 (be 4 8) with avtp := true, avtpLen := some (be 1 2 % 2048) }
    | 0x0D => { (w.put 0x14 (be 0 1)).put 0x15 (be 4 8) with avtp := true, avtpLen := some (be 20 2) }
    | 0x0E =>
      let ty := byteAt c off / 2
      let w := (w.put 0x16 ty).put 0x17 (be 3 1 % 32)
      let w := if ty = 1 then w.put 0x18 (be 12 4 % 2 ^ 29) else if ty = 2 then w.put 0x18 (be 4 4 % 2 ^ 29) else w
      { w with acf := true }
    | _ => w
  extractGens c off n.gens w

/-- The next-protocol field of a node: offset from the header's start and width (R96). -/
def nextField (n : PNode) (len : Nat) : Nat × Nat := if n.proto = 4 then (len - 2, 16) else (n.nextOff, n.nextWidth)

/-- The node that follows, 0xFF for the end of the parse (R96, R103, R104). -/
def nextNode (n : PNode) (c : Bytes) (off len : Nat) (w : Walk) : Nat :=
  let (o, width) := nextField n len
  if n.terminal ∨ width = 0 then 0xFF
  else if n.proto = 4 ∧ bit (byteAt c off) 3 then 0xFF
  else if (n.proto = 5 ∧ w.frag) ∨ n.proto = 8 then 0xFF
  else
    let v := laneField c (off + o) (width / 8)
    match n.trans.find? (fun t => v &&& t.2.1 == t.1) with
    | some t => t.2.2
    | none => n.dflt

/-- The walk of R96 from node `k` at offset `off`, with the layers still allowed and the tags and extension headers
counted so far. -/
def walk (b : RuleBank) (c : Bytes) (whole : Bool) : Nat → Nat → Nat → Nat → Nat → Walk → Walk
  | 0, k, _, _, _, w => { w with reason := 0x02, endNode := k }
  | layers + 1, k, off, vl, v6, w =>
    let n := bankNode b k
    let w := { w with starts := (off, w.eod) :: w.starts }
    let vl := if n.vlan then vl + 1 else vl
    let v6 := if n.v6ext then v6 + 1 else v6
    if 3 < vl then { w with reason := 0x03, endNode := k }
    else if 4 < v6 then { w with reason := 0x04, endNode := k }
    else
      match headerLength n c off w.eod with
      | .error r => { w with reason := r, endNode := k }
      | .ok len =>
        if 256 < off + len then { w with reason := 0x01, endNode := k }
        else if w.eod < off + len then { w with reason := 0x10, endNode := k }
        else
          let m := builtIn n c off len whole w
          if m ≠ 0 then { w with reason := m, endNode := k }
          else
            let w := extract n c off len w
            let nx := nextNode n c off len w
            if nx = 0xFF then { w with endNode := k } else walk b c whole layers nx (off + len) vl v6 w

/-- The first pass of a frame's bytes from ingress port `p` (R96). -/
def firstWalk (b : RuleBank) (p : Nat) (c : Bytes) (whole : Bool) : Walk :=
  let w := walk b c whole 12 (bankRoot b p) 0 0 0 { eod := c.length }
  w.put 0x01 p

/-- The second pass: it starts at the offset where first-pass layer `layer` began, with node `node`; a first pass that
ended before that layer gives reason 0x10 (R112).  A check against the end of data that a header of the first pass fails, now
that the frame is stored whole, gives its own reason (R99, R101). -/
def secondWalk (b : RuleBank) (p : Nat) (c : Bytes) (layer node meta_ : Nat) : Walk :=
  let f := firstWalk b p c true
  if isMal f.reason then { fields := [(0x01, p)], eod := c.length, reason := f.reason, endNode := f.endNode }
  else
  match f.starts.reverse[layer - 1]? with
  | some (off, eod) =>
    let w := walk b c true 12 node off 0 0 { eod := eod }
    (w.put 0x01 p).put 0x1E meta_
  | none => { fields := [(0x01, p)], eod := c.length, reason := 0x10 }

/-- PARSE_FLAGS (Table 4.8). -/
def parseFlags (w : Walk) (rinse validated : Bool) : Nat :=
  flagBit rinse 15 + flagBit (isTrunc w.reason) 14 + flagBit (isMal w.reason) 13 + flagBit w.frag 12 + flagBit validated 11
    + flagBit w.sectag 10 + 256 * Nat.min w.tags 3 + flagBit w.ipv4 7 + flagBit w.ipv6 6 + flagBit w.l4 5 + flagBit w.avtp 4
    + flagBit w.acf 3 + flagBit w.gen 2 + flagBit w.ipOpt 1

/-- The field catalogue (Table 4.7): ID and width in bits. -/
def fieldWidth (id : Nat) : Option Nat :=
  [(0x01, 5), (0x02, 16), (0x03, 48), (0x04, 48), (0x05, 12), (0x06, 3), (0x07, 12), (0x08, 3), (0x09, 16), (0x0A, 32),
   (0x0B, 32), (0x0C, 128), (0x0D, 128), (0x0E, 8), (0x0F, 6), (0x10, 16), (0x11, 16), (0x12, 8), (0x13, 16), (0x14, 8),
   (0x15, 64), (0x16, 7), (0x17, 5), (0x18, 29), (0x19, 32), (0x1A, 32), (0x1B, 32), (0x1C, 32), (0x1D, 64), (0x1E, 16),
   (0x1F, 8)].lookup id

/-- A field's value; an absent one reads zero (Table 4.7). -/
def fieldOf (w : Walk) (flags id : Nat) : Nat :=
  if id = 0x02 then flags else if id = 0x1F then w.endNode else Tab.get w.fields id 0

/-! Key tables (R105–R110). -/

/-- Offset of table descriptor `t` (Table 4.9). -/
def descOffset (sec : Bytes) (t : Nat) : Nat := (64 + 4 * fieldLe sec 2 2 + 15) / 16 * 16 + 96 * t

/-- The tables of a profile in lookup order (Table 4.9). -/
def profileTables (sec : Bytes) (p : Nat) : List Nat :=
  ((List.range 3).map (fun i => byteAt sec (64 + 4 * p + i))).filter (· != 0xFF)

/-- The key a table's template builds (R105). -/
def buildKey (sec : Bytes) (d : Nat) (w : Walk) (flags : Nat) : Nat :=
  ((List.range (byteAt sec (d + 2))).foldl (fun (acc : Nat × Nat) i =>
    let o := d + 32 + 4 * i
    let v := bits (fieldOf w flags (byteAt sec o)) (byteAt sec (o + 1)) (byteAt sec (o + 2))
    (acc.1 + v * 2 ^ acc.2, acc.2 + byteAt sec (o + 2))) (0, 0)).1

/-- The action of a lookup in the table of descriptor offset `d`: the hit of lowest index, or MISS_ACTION (R106). -/
def lookupTable (sec : Bytes) (d : Nat) (key : Nat) : Bytes :=
  let n := 16 * byteAt sec (d + 1)
  let base := fieldLe sec (d + 8) 4
  let count := fieldLe sec (d + 4) 4
  if byteAt sec d = 0 then
    match (List.range count).find? (fun i => fieldLe sec (base + (n + 16) * i) n == key) with
    | some i => slice sec (base + (n + 16) * i + n) 16
    | none => slice sec (d + 16) 16
  else
    match (List.range count).find? (fun i =>
        let o := base + (2 * n + 16) * i
        key &&& fieldLe sec (o + n) n == fieldLe sec o n) with
    | some i => slice sec (base + (2 * n + 16) * i + 2 * n) 16
    | none => slice sec (d + 16) 16

/-- An action applies over a result (R109); the flag tells whether SET_QUEUE has applied in this pass, and `rule` whether
the action is a rule's. -/
def applyAction (a : Bytes) (rule : Bool) (x : LaneRes × Bool) : LaneRes × Bool :=
  let f := fieldLe a 0 2
  let (r, qset) := x
  let r := if bit f 6 then { r with cls := byteAt a 2 % 8, queue := if qset then r.queue else byteAt a 2 % 8 } else r
  let r := if bit f 5 then { r with colour := byteAt a 2 / 8 % 4 } else r
  let r := if bit f 4 then { r with queue := byteAt a 3 % 8 } else r
  let qset := qset || bit f 4
  let r := if bit f 3 then { r with rinse := some (byteAt a 4 % 16, byteAt a 5, fieldLe a 6 2) } else r
  let r := if bit f 2 then { r with drop := some (r.drop.getD rule) } else r
  let r := if bit f 1 then { r with zoneLock := true } else r
  (r, qset)

/-- The ROM default TRUNC_ACTION is ZONE_LOCK and the ROM default MAL_ACTION is DROP (R111). -/
def romAction (mal : Bool) : Bytes := leBytes 2 (if mal then 4 else 2) ++ List.replicate 14 0

/-- TRUNC_ACTION or MAL_ACTION of a rule bank (Table 4.9, R111). -/
def bankAction (b : RuleBank) (mal : Bool) : Bytes :=
  match b.keys with
  | some sec => let a := slice sec (if mal then 20 else 4) 16; if allZero a then romAction mal else a
  | none => romAction mal

/-- The lookups of a pass over its defaults (R106, R109). -/
def runLookups (b : RuleBank) (w : Walk) (flags : Nat) (r : LaneRes) : LaneRes :=
  match b.keys with
  | none => r
  | some sec =>
    ((profileTables sec (bankNode b w.endNode).profile).foldl (fun x t =>
      let d := descOffset sec t
      applyAction (lookupTable sec d (buildKey sec d w flags)) true x) (r, false)).1

/-- MAL_ACTION and no other action (R100). -/
def applyMal (b : RuleBank) (r : LaneRes) : LaneRes := (applyAction (bankAction b true) false ({ r with malformed := true }, false)).1

/-- TRUNC_ACTION over the result of the last pass when either pass ended truncated (R109). -/
def mergeTrunc (b : RuleBank) (r : LaneRes) : LaneRes :=
  if r.truncated then (applyAction (bankAction b false) false (r, false)).1 else r

/-- The result of a first pass (R100, R109): DROP takes precedence over a rinse. -/
def firstPass (b : RuleBank) (w : Walk) (validated : Bool) : LaneRes :=
  let c := Tab.get w.fields 0x06 0
  let r : LaneRes := { cls := c, queue := c, truncated := isTrunc w.reason }
  if isMal w.reason then applyMal b r
  else
    let r := runLookups b w (parseFlags w false validated) r
    match r.drop, r.rinse with
    | none, some _ => r
    | some _, some _ => mergeTrunc b { r with rinse := none }
    | _, none => mergeTrunc b r

/-- The result of a second pass over the first's; a further rinse gives MAL_ACTION with reason 0x1A (R24, R100, R112). -/
def secondPass (b : RuleBank) (w : Walk) (validated : Bool) (first : LaneRes) : LaneRes × Nat :=
  let r := { first with rinse := none, truncated := first.truncated || isTrunc w.reason }
  if isMal w.reason then (applyMal b r, w.reason)
  else
    let r' := runLookups b w (parseFlags w true validated) r
    if r'.rinse.isSome ∧ r'.drop.isNone then (applyMal b { r with rinse := none }, 0x1A)
    else (mergeTrunc b { r' with rinse := none }, w.reason)

end Sys2Proof.Machine
end

