-- ==== Sys2Proof/Machine/Firewall.lean ====
section
/-!
DEFINITION. The zone firewall: zones, the decision diagram, connection tracking, CAN identifiers and rates, scrub, and
its commands (chapter Zone firewall).
-/
namespace Sys2Proof.Machine

/-! Zones and the diagram (R122–R130, R150). -/

/-- Zone of an endpoint in AUTONOMOUS (Table 5.11). -/
def romZone (profile ep : Nat) : Nat :=
  if profile < 2 then (if ep ≤ 32 then 0 else 1)
  else if ep < 28 then ep else if ep < 32 then 28 else if ep = 32 then 29 else 30

/-- Zone of an endpoint (Table 5.3). -/
def zoneOf (s : State) (ep : Nat) : Nat :=
  match liveSection s 0x0003 with
  | some sec => byteAt sec (64 + ep)
  | none => romZone s.sys.straps.profile.toNat ep

/-- The inputs of a judgement (Table 5.2). -/
structure FwIn where
  sz : Nat
  dz : Nat
  srcEp : Nat
  dstEp : Nat
  ct : Nat
  cls : Nat
  colour : Nat
  kind : Nat

/-- A field the diagram tests (Tables 4.7, 5.2). -/
def fwField (w : Walk) (flags : Nat) (i : FwIn) (id : Nat) : Nat :=
  match id with
  | 0x40 => i.sz
  | 0x41 => i.dz
  | 0x42 => i.srcEp
  | 0x43 => i.dstEp
  | 0x44 => i.ct
  | 0x45 => i.cls
  | 0x46 => i.colour
  | 0x47 => i.kind
  | _ => fieldOf w flags id

/-- The walk of the diagram from node `n` with the tests still allowed: the verdict of the leaf, or none where the walk
meets a node it cannot follow (R127, R128). -/
def diagram (sec : Bytes) (w : Walk) (flags : Nat) (i : FwIn) : Nat → Nat → Option Nat
  | fuel, n =>
    let o := 2240 + 16 * n
    if fieldLe sec 0 2 ≤ n then none
    else if byteAt sec o = 2 then some (fieldLe sec (o + 4) 4)
    else
      match fuel with
      | 0 => none
      | fuel + 1 =>
        let v := bits (fwField w flags i (byteAt sec (o + 1))) (byteAt sec (o + 2)) 32
        let a := fieldLe sec (o + 4) 4
        let b := fieldLe sec (o + 8) 4
        let t := fieldLe sec (o + 12) 2
        let f := fieldLe sec (o + 14) 2
        if 2 < byteAt sec o ∨ t ≤ n ∨ f ≤ n then none
        else
          let holds := if byteAt sec o = 0 then v &&& b == a else decide (a ≤ v) && decide (v ≤ b)
          diagram sec w flags i fuel (if holds then t else f)

/-- The verdict of a crossing in AUTONOMOUS (R150, Table 5.11). -/
def romVerdict (profile : Nat) (w : Walk) (i : FwIn) : Option Nat :=
  if profile = 1 ∧ i.sz = 1 ∧ i.dz = 0 then
    (if i.kind = 1 ∧ Tab.get w.fields 0x05 0 = 4094 then some 0x00000001 else some 0x00000100)
  else if 2 ≤ profile ∧ ((i.sz < 28 ∧ i.dz = 29) ∨ (i.sz = 29 ∧ i.dz < 28)) then some 0x00000001
  else none

/-- The verdict of a crossing: none for the default deny (R128). -/
def verdictOf (s : State) (w : Walk) (flags : Nat) (i : FwIn) : Option Nat :=
  match liveSection s 0x0003 with
  | some sec =>
    let root := fieldLe sec (192 + 2 * (32 * i.sz + i.dz)) 2
    if root = 0xFFFF then none else diagram sec w flags i 32 root
  | none => romVerdict s.sys.straps.profile.toNat w i

/-- The crossing has no diagram in AUTONOMOUS: every crossing but those Table 5.11 permits or tests (R150). -/
def romDenies (profile sz dz : Nat) : Bool :=
  if profile < 2 then !(profile == 1 && sz == 1 && dz == 0)
  else !((decide (sz < 28) && dz == 29) || (sz == 29 && decide (dz < 28)))

/-- The entry node of a crossing is the default deny (R128, R150). -/
def rootDenies (s : State) (sz dz : Nat) : Bool :=
  match liveSection s 0x0003 with
  | some sec => fieldLe sec (192 + 2 * (32 * sz + dz)) 2 == 0xFFFF
  | none => romDenies s.sys.straps.profile.toNat sz dz

/-! Connection tracking (R131–R137). -/

/-- Code of a connection state (Table 5.8). -/
def connCode : ConnState → Nat
  | .tcpSyn => 0
  | .tcpEst => 1
  | .tcpClose => 2
  | .udpNew => 3
  | .udpEst => 4
  | .icmp => 5

/-- Default of a timeout in AUTONOMOUS, in seconds (Table 5.7). -/
def defaultTimeout : ConnState → Nat
  | .tcpSyn => 20
  | .tcpEst => 3600
  | .tcpClose => 30
  | .udpNew => 30
  | .udpEst => 180
  | .icmp => 10

/-- Timeout in seconds of a state: the image's field, or the default where no image is in force (Table 5.7). -/
def connTimeout (s : State) (st : ConnState) : Nat :=
  match liveSection s 0x0003, st with
  | none, st => defaultTimeout st
  | some sec, .tcpSyn => fieldLe sec 4 4
  | some sec, .tcpEst => fieldLe sec 8 4
  | some sec, .tcpClose => fieldLe sec 12 4
  | some sec, .udpNew => fieldLe sec 16 4
  | some sec, .udpEst => fieldLe sec 20 4
  | some sec, .icmp => fieldLe sec 24 4

/-- Connections are tracked: an image's firewall is in force, since AUTONOMOUS uses no tracking (R150). -/
def tracks (s : State) : Bool := (liveSection s 0x0003).isSome

/-- ICMP type of the parsed field. -/
def icmpType (w : Walk) : Nat := Tab.get w.fields 0x13 0 / 256

/-- The frame is an echo request or reply of its IP version. -/
def isEcho (w : Walk) (request : Bool) : Bool :=
  let proto := Tab.get w.fields 0x0E 0
  Tab.has w.fields 0x13 &&
    ((w.ipv4 && proto == 1 && icmpType w == (if request then 8 else 0))
      || (w.ipv6 && proto == 58 && icmpType w == (if request then 128 else 129)))

/-- The frame can be tracked, its one destination zone apart (R131). -/
def trackable (w : Walk) : Bool :=
  let proto := Tab.get w.fields 0x0E 0
  (w.ipv4 || w.ipv6) && !w.frag
    && ((proto == 6 && Tab.has w.fields 0x12) || (proto == 17 && Tab.has w.fields 0x10 && !Tab.has w.fields 0x12)
        || isEcho w true || isEcho w false)

/-- The key of a frame in its own direction (R131). -/
def connKey (w : Walk) (sz dz : Nat) : ConnKey :=
  let echo := isEcho w true || isEcho w false
  { ver := if w.ipv4 then 4 else 6
    src := Tab.get w.fields (if w.ipv4 then 0x0A else 0x0C) 0
    dst := Tab.get w.fields (if w.ipv4 then 0x0B else 0x0D) 0
    proto := Tab.get w.fields 0x0E 0
    sport := if echo then (if w.ipv4 then 8 else 128) else Tab.get w.fields 0x10 0
    dport := if echo then 0 else Tab.get w.fields 0x11 0
    szone := sz, dzone := dz }

/-- The key in the other direction. -/
def replyKey (k : ConnKey) (echo : Bool) : ConnKey :=
  { k with src := k.dst, dst := k.src, sport := if echo then k.sport else k.dport, dport := if echo then 0 else k.sport
           szone := k.dzone, dzone := k.szone }

/-- The entry a frame matches, with `true` for the originator direction (R131). -/
def connMatch (s : State) (w : Walk) (sz dz : Nat) : Option (Nat × Conn × Bool) :=
  let k := connKey w sz dz
  let echo := isEcho w true || isEcho w false
  let orig := if isEcho w false then none else s.fwl.conns.find? (fun e => e.2.key == k)
  match orig with
  | some e => some (e.1, e.2, true)
  | none =>
    if isEcho w true then none
    else
      match s.fwl.conns.find? (fun e => e.2.key == replyKey k echo) with
      | some e => some (e.1, e.2, false)
      | none => none

/-- A TCP frame whose flags no connection admits (Table 5.6). -/
def tcpInvalid (w : Walk) : Bool :=
  let f := Tab.get w.fields 0x12 0
  Tab.has w.fields 0x12 && (f == 0 || (bit f 1 && (bit f 0 || bit f 2)))

/-- CT_STATE (R132). -/
def ctState (s : State) (w : Walk) (sz dz : Nat) : Nat :=
  if !tracks s || !trackable w then 0
  else if tcpInvalid w then 5
  else
    match connMatch s w sz dz with
    | none => 0
    | some (_, c, orig) =>
      match c.st with
      | .tcpClose => 4
      | .tcpSyn | .udpNew | .icmp => if orig then 1 else 3
      | .tcpEst | .udpEst => if orig then 2 else 3

/-- The expiry instant of a state entered or kept now (R134). -/
def connExpiry (s : State) (st : ConnState) : Nat := s.clk + connTimeout s st * 1000000000

/-- The table took a change that the ACTIVE's SYNC carries (R395). -/
def noteCt (k : ConnKey) (c : Option Conn) (s : State) : State :=
  let b := leBytes 1 k.ver ++ leBytes 16 k.src ++ leBytes 16 k.dst ++ leBytes 1 k.proto ++ leBytes 2 k.sport
    ++ leBytes 2 k.dport ++ leBytes 1 k.szone ++ leBytes 1 k.dzone
  let d : CtDelta := match c with
    | some c => { key := b, state := connCode c.st, expiry := c.expiry - s.clk, removed := false }
    | none => { key := b, state := 0, expiry := 0, removed := true }
  { s with pair := { s.pair with ctChanges := s.pair.ctChanges ++ [d] } }

/-- The state a matching permitted frame leaves its entry in (R133). -/
def connNext (c : Conn) (w : Walk) (orig : Bool) : ConnState :=
  let f := Tab.get w.fields 0x12 0
  if Tab.has w.fields 0x12 ∧ (bit f 0 ∨ bit f 2) then .tcpClose
  else
    match c.st with
    | .tcpSyn => if orig ∧ c.replied ∧ bit f 4 ∧ ¬bit f 1 then .tcpEst else .tcpSyn
    | .udpNew => if orig then .udpNew else .udpEst
    | st => st

/-- The state a frame that may create an entry gives it (R133). -/
def connInitial (w : Walk) : Option ConnState :=
  let f := Tab.get w.fields 0x12 0
  let proto := Tab.get w.fields 0x0E 0
  if Tab.has w.fields 0x12 then (if bit f 1 ∧ ¬bit f 4 then some .tcpSyn else none)
  else if proto = 17 then some .udpNew
  else if isEcho w true then some .icmp
  else none

/-- Lowest unused index of the connection table. -/
def freeConn : Tab Conn → Nat → Nat
  | [], n => n
  | (k, _) :: t, n => if k = n then freeConn t (n + 1) else n

/-- What a permitted crossing does to the table; false where a creation finds it full (R133, R134). -/
def connUpdate (w : Walk) (sz dz : Nat) (track : Bool) (ct : Nat) (s : State) : State × Bool :=
  if !tracks s || !trackable w then (s, true)
  else
    match connMatch s w sz dz with
    | some (i, c, orig) =>
      let st := connNext c w orig
      let c := { c with st := st, expiry := connExpiry s st, replied := c.replied || !orig
                        orig := if orig then c.orig + 1 else c.orig, reply := if orig then c.reply else c.reply + 1 }
      (noteCt c.key (some c) { s with fwl := { s.fwl with conns := Tab.set s.fwl.conns i c } }, true)
    | none =>
      match if track && ct == 0 then connInitial w else none with
      | none => (s, true)
      | some st =>
        if 65536 ≤ s.fwl.conns.length then (s, false)
        else
          let c : Conn := { key := connKey w sz dz, st := st, expiry := connExpiry s st, orig := 1 }
          let conns := Tab.set s.fwl.conns (freeConn s.fwl.conns 0) c
          (noteCt c.key (some c) { s with fwl := { s.fwl with conns := conns, high := Nat.max s.fwl.high conns.length } }, true)

/-- Entries whose crossing has root 0xFFFF in the diagram now in force are removed (R136). -/
def dropDeniedConns (s : State) : State :=
  { s with fwl := { s.fwl with conns := s.fwl.conns.filter (fun e => !rootDenies s e.2.key.szone e.2.key.dzone) } }

/-! Judging a crossing and a frame (R124–R129). -/

/-- A leaf with LOG was reached: one FWL_RULE_LOG record per rule and second (R129). -/
def logRule (v : Nat) (i : FwIn) (s : State) : State :=
  if bit v 2 then
    recordLimited 0x0301 (bits v 16 16) (fun n => leBytes 2 (bits v 16 16) ++ leBytes 4 v ++ leBytes 1 i.sz ++ leBytes 1 i.dz
      ++ leBytes 1 i.srcEp ++ leBytes 1 i.dstEp ++ leBytes 8 n) s
  else s

/-- A judgement is counted as R128 says, and its leaf logged where it says so (R128, R129). -/
def noteVerdict (v : Option Nat) (i : FwIn) (s : State) : State :=
  let s := { s with fwl := { s.fwl with judged := s.fwl.judged + 1 } }
  match v with
  | none => countSource 5 0xFFFF 1 1 { s with fwl := { s.fwl with dflt := s.fwl.dflt + 1 } }
  | some v =>
    let n := bits v 8 8
    logRule v i (countSource 5 n 0 1 { s with fwl := { s.fwl with verdicts := Tab.upd s.fwl.verdicts n 0 (· + 1) } })

/-- One more crossing permitted (Table 5.12). -/
def notePermit (s : State) : State := { s with fwl := { s.fwl with permitted := s.fwl.permitted + 1 } }

/-- A crossing is judged and counted; the flag tells whether it is permitted (R128, R133, R134, R148). -/
def judgeCrossing (w : Walk) (flags : Nat) (i : FwIn) (s : State) : State × Bool :=
  if s.fwl.st ≠ 0 then
    (countSource 5 0xFFFF 4 1 { s with fwl := { s.fwl with revertDeny := s.fwl.revertDeny + 1 } }, false)
  else
    let v := verdictOf s w flags i
    let s := noteVerdict v i s
    if !bit (v.getD 0) 0 then (s, false)
    else
      let (s', ok) := connUpdate w i.sz i.dz (bit (v.getD 0) 1) i.ct s
      if ok then (notePermit s', true)
      else
        (recordLimited 0x0302 0 (fun c => leBytes 8 c) (countSource 5 0xFFFF 3 1
          { s with fwl := { s.fwl with ctFull := s.fwl.ctFull + 1 } }), false)

/-- The destination endpoints of a forwarding result (R152): external ports, functions, the cluster and channels. -/
def destEndpoints (ports : List Nat) (funcs channels : Nat) : List Nat :=
  ports.filter (· < 28)
    ++ (if ports.contains 28 then ((List.range 4).filter (bit funcs)).map (· + 28) else [])
    ++ (if ports.contains 29 then [32] else [])
    ++ (if ports.contains 30 then ((List.range 25).filter (bit channels)).map (· + 48) else [])

/-- The egress port of an endpoint. -/
def endpointPort (ep : Nat) : Nat := if ep < 28 then ep else if ep < 32 then 28 else if ep = 32 then 29 else 30

/-- The PCIe functions among endpoints, as a mask. -/
def endpointFuncs (eps : List Nat) : Nat := sumBy (fun e => if 28 ≤ e ∧ e < 32 then 2 ^ (e - 28) else 0) eps

/-- The legacy channels among endpoints, as a mask. -/
def endpointChannels (eps : List Nat) : Nat := sumBy (fun e => if 48 ≤ e then 2 ^ (e - 48) else 0) eps

/-- The stage of R124 for a frame: the endpoints that remain. -/
def firewallStage (w : Walk) (flags srcEp cls colour : Nat) (zoneLock : Bool) (eps : List Nat) (s : State) :
    State × List Nat :=
  let sz := zoneOf s srcEp
  let kept := if zoneLock then eps.filter (fun e => zoneOf s e == sz) else eps
  let removed := eps.length - kept.length
  let s := if removed = 0 then s else
    countSource 5 0xFFFF 2 removed
      { s with fwl := { s.fwl with zoneLock := s.fwl.zoneLock + BitVec.ofNat 64 removed } }
  let zones := (kept.map (zoneOf s)).eraseDups
  let single := zones.length == 1
  (zones.filter (· != sz)).foldl (fun (acc : State × List Nat) d =>
    let (s, left) := acc
    let inZone := left.filter (fun e => zoneOf s e == d)
    let i : FwIn :=
      { sz := sz, dz := d, srcEp := srcEp, dstEp := if single && inZone.length == 1 then inZone.headD 0xFF else 0xFF
        ct := if single then ctState s w sz d else 0, cls := cls, colour := colour
        kind := if inZone.any (48 ≤ ·) then 2 else if 48 ≤ srcEp then 1 else 0 }
    let (s, ok) := judgeCrossing (if single then w else { w with frag := true }) flags i s
    (s, if ok then left else left.filter (fun e => zoneOf s e != d))) (s, kept)

/-! CAN identifiers and rates (R139–R142). -/

/-- Offset of the policy block of CAN channel `ch`, where there is one (Tables 5.9, 5.10). -/
def canBlock (sec : Bytes) (ch : Nat) : Option Nat :=
  if bit (fieldLe sec 0 2) ch then
    some ((List.range ch).foldl (fun o c =>
      if bit (fieldLe sec 0 2) c then (o + 1088 + 16 * fieldLe sec (o + 512) 2 + 63) / 64 * 64 else o) 64)
  else none

/-- The identifier is permitted in a direction, 0 RX and 1 TX (R139). -/
def canIdPermit (sec : Bytes) (o dir id : Nat) (ext : Bool) : Bool :=
  if ext then
    (List.range (fieldLe sec (o + 512) 2)).any (fun i =>
      let e := o + 1088 + 16 * i
      decide (fieldLe sec e 4 ≤ id) && decide (id ≤ fieldLe sec (e + 4) 4) && bit (byteAt sec (e + 8)) dir)
  else bit (byteAt sec (o + 256 * dir + id / 8)) (id % 8)

/-- The rate group of an identifier (R140). -/
def canGroup (sec : Bytes) (o id : Nat) (ext : Bool) : Option Nat :=
  if ext then
    match (List.range (fieldLe sec (o + 512) 2)).find? (fun i =>
        let e := o + 1088 + 16 * i
        decide (fieldLe sec e 4 ≤ id) && decide (id ≤ fieldLe sec (e + 4) 4)) with
    | some i => let g := byteAt sec (o + 1088 + 16 * i + 9); if g = 0xFF then none else some g
    | none => none
  else
    match (List.range (fieldLe sec (o + 514) 2)).find? (fun i =>
        let e := o + 832 + 8 * i
        decide (fieldLe sec e 2 ≤ id) && decide (id ≤ fieldLe sec (e + 2) 2)) with
    | some i => some (byteAt sec (o + 832 + 8 * i + 4))
    | none => none

/-- One of a channel's drop counters rises: 0 RX_ID_DENY, 1 RX_RATE_DROP, 2 TX_ID_DENY, 3 TX_RATE_DROP (R141). -/
def canDrop (ch k : Nat) (s : State) : State :=
  countSource 6 (48 + ch) (9 + k) 1
    { s with fwl := { s.fwl with canDrops := Tab.upd s.fwl.canDrops (4 * ch + k) 0 (· + 1) } }

/-- Steps of 1/65,536 token that a bucket of RATE has been given by an instant of the local clock since its section was
loaded (R140). -/
def refillSteps (rate loaded at_ : Nat) : Nat := (at_ - loaded) * rate * 65536 / 1000000000

/-- One token is taken from a rate bucket, when it holds one (R140).  A bucket holds steps of 1/65,536 token. -/
def takeToken (key rate burst : Nat) (s : State) : State × Bool :=
  let full := burst * 65536
  let (v, at_) := Tab.get s.fwl.buckets key (full, s.clk)
  let v := Nat.min full (v + (refillSteps rate s.fwl.bucketsAt s.clk - refillSteps rate s.fwl.bucketsAt at_))
  let ok := decide (65536 ≤ v)
  ({ s with fwl := { s.fwl with
      buckets := Tab.set s.fwl.buckets key (if ok then v - 65536 else v, s.clk) } }, ok)

/-- The check of a CAN frame in a direction: identifier, then rate (R141); the flag tells whether it passes. -/
def canAdmit (ch dir id : Nat) (ext : Bool) (s : State) : State × Bool :=
  match liveSection s 0x0004 with
  | none => (s, true)
  | some sec =>
    match canBlock sec ch with
    | none => (s, true)
    | some o =>
      if !canIdPermit sec o dir id ext then (canDrop ch (2 * dir) s, false)
      else
        match canGroup sec o id ext with
        | none => (s, true)
        | some g =>
          let e := o + 576 + 8 * g
          if fieldLe sec e 2 ≠ 0 ∧ bit (byteAt sec (e + 3)) dir then
            let (s, ok) := takeToken (64 * ch + 32 * dir + g) (fieldLe sec e 2) (byteAt sec (e + 2)) s
            if ok then (s, true) else (canDrop ch (2 * dir + 1) s, false)
          else (s, true)

/-- The CAN routes between zones, as 16 × entry + destination (R143). -/
def crossRoutes (s : State) : List Nat :=
  let sec := liveBytes s 0x000C
  (List.range (fieldLe sec 0 2)).flatMap (fun e =>
    let o := 64 + 32 * e
    ((List.range 16).filter (fun d =>
      bit (fieldLe sec (o + 2) 2) d && zoneOf s (48 + byteAt sec o) != zoneOf s (48 + d))).map (16 * e + ·))

/-- What the judgement of a route reads: KIND 3, the channels' zones and endpoints, and zero elsewhere (R143). -/
def routeIn (s : State) (n : Nat) : FwIn :=
  let src := 48 + byteAt (liveBytes s 0x000C) (64 + 32 * (n / 16))
  let dst := 48 + n % 16
  { sz := zoneOf s src, dz := zoneOf s dst, srcEp := src, dstEp := dst, ct := 0, cls := 0, colour := 0, kind := 3 }

/-- A route is judged under R128, its judgement counted and logged as any other, and marked where it is denied (R128, R129,
R143). -/
def judgeRoute (s : State) (n : Nat) : State :=
  let i := routeIn s n
  let v := verdictOf s { eod := 0 } 0 i
  let s := noteVerdict v i s
  if bit (v.getD 0) 0 then notePermit s
  else { s with fwl := { s.fwl with routeDenied := s.fwl.routeDenied ++ [n] } }

/-- Every route whose channels lie in different zones is judged again (R143). -/
def rejudgeRoutes (s : State) : State :=
  (crossRoutes s).foldl judgeRoute { s with fwl := { s.fwl with routeDenied := [] } }

/-! Expiry and scrub (R134, R147–R149). -/

/-- Meaning of CT_EXPIRY: an entry whose timeout has run out is removed (R134). -/
def execCtExpiry (entry : Nat) (s : State) : Host.Outcome State Fault Refusal :=
  .next (match s.fwl.conns.lookup entry with
    | some c => { reachClock c.expiry s with fwl := { s.fwl with conns := Tab.del s.fwl.conns entry } }
    | none => s)

/-- A mismatch closes every crossing and writes the record of R148; the reload follows at FWL_REVERT_COMPLETE. -/
def integrityFault (got3 got4 : Nat) (s : State) : State :=
  let bad3 := got3 != s.fwl.ref3
  let bad4 := match s.fwl.ref4 with
    | some r => got4 != r
    | none => false
  let tag := match s.img.pending with
    | some p => (match p.patch, p.tag with
      | some _, some t => t.toNat
      | _, _ => 0)
    | none => 0
  let s := raiseInt 1 { s with fwl := { s.fwl with st := 1, suspended := true } }
  recordNow 0x0305 ([BitVec.ofNat 8 (flagBit bad3 0 + flagBit bad4 1), 0] ++ leBytes 2 tag
    ++ leBytes 8 s.fwl.ref3 ++ leBytes 8 got3
    ++ (match s.fwl.ref4 with
        | some r => leBytes 8 r ++ leBytes 8 got4
        | none => List.replicate 16 0)) s

/-- The CRC-64 a pass computes over the live zone map and diagram; in AUTONOMOUS that of the ROM's (R147, R150). -/
def liveCrc3 (s : State) : Nat :=
  match liveSection s 0x0003 with
  | some b => crc64 b
  | none => (Config.romScrubRef s.sys.straps.profile.toNat).toNat

/-- The CRC-64 a pass computes over the live CAN policy, where there is one (R147). -/
def liveCrc4 (s : State) : Option Nat := (liveSection s 0x0004).map crc64

/-- Meaning of FWL_SCRUB_PASS: the CRC-64 of each live section is computed and compared with its reference; `read3` and `read4`
are what the pass computes where the memory no longer reads what was written (R147, R148). -/
def execFwlScrubPass (read3 read4 : Option Word64) (s : State) : Host.Outcome State Fault Refusal :=
  .next (
    if s.fwl.suspended ∨ !forwarding s.sys.mode then s
    else
      let got3 := (read3.map BitVec.toNat).getD (liveCrc3 s)
      let got4 := (read4.map BitVec.toNat).getD ((liveCrc4 s).getD 0)
      let s := { s with fwl := { s.fwl with scrubs := s.fwl.scrubs + 1 } }
      if got3 = s.fwl.ref3 ∧ (s.fwl.ref4.isNone ∨ s.fwl.ref4 = some got4) then s else integrityFault got3 got4 s)

/-! Commands (R138, R151). -/

/-- The FWL_STATUS result (Table 5.12). -/
def fwlStatus (s : State) : Bytes :=
  let f := s.fwl
  leBytes 8 f.judged.toNat ++ leBytes 8 f.permitted.toNat ++ leBytes 8 f.dflt.toNat ++ leBytes 8 f.zoneLock.toNat
    ++ leBytes 8 f.ctFull.toNat ++ leBytes 4 f.conns.length ++ leBytes 4 f.high ++ leBytes 8 f.scrubs.toNat
    ++ leBytes 4 f.reverts ++ leBytes 8 f.revertDeny.toNat ++ leBytes 8 f.ref3 ++ leBytes 8 (f.ref4.getD 0)
    ++ [BitVec.ofNat 8 f.st, 0, 0, 0]
    ++ (List.range 256).flatMap (fun i => leBytes 8 (Tab.get f.verdicts i 0).toNat)
    ++ (List.range 64).flatMap (fun i => leBytes 8 (Tab.get f.canDrops i 0).toNat)

/-- A command without payload. -/
def noPayload (r : Req) (_ : State) : Option Nat := if r.payload.length = 0 then none else some 0

/-- FWL_STATUS. -/
def fwlStatusOp : OpDef :=
  { code := 0x0301, params := noPayload, commit := fun r s => answer r stOk 0 (fwlStatus s) s }

/-- Meaning of FWL_STATUS (R151). -/
def execFwlStatus (c : CmdSource) (s : State) : Host.Outcome State Fault Refusal := .next (runCommand fwlStatusOp c s)

/-- An address in the 16 bytes of Table 5.8, little-endian as every field of a command's result (R11); an IPv4 address lies in
the first four. -/
def listAddress (ver a : Nat) : Bytes := if ver = 4 then leBytes 4 a ++ List.replicate 12 0 else leBytes 16 a

/-- A listed connection entry (Table 5.8). -/
def listConn (s : State) (i : Nat) (c : Conn) : Bytes :=
  leBytes 4 i ++ [BitVec.ofNat 8 c.key.ver, BitVec.ofNat 8 c.key.proto, BitVec.ofNat 8 (connCode c.st)
                  , BitVec.ofNat 8 c.key.szone, BitVec.ofNat 8 c.key.dzone, 0, 0, 0]
    ++ leBytes 2 c.key.sport ++ leBytes 2 c.key.dport ++ listAddress c.key.ver c.key.src ++ listAddress c.key.ver c.key.dst
    ++ leBytes 4 ((c.expiry - s.clk + 999999999) / 1000000000) ++ leBytes 8 c.orig.toNat ++ leBytes 8 c.reply.toNat
    ++ List.replicate 12 0

/-- The FWL_CONN_LIST result (R138). -/
def connList (start max : Nat) (s : State) : Bytes :=
  let all := s.fwl.conns.filter (fun e => decide (start ≤ e.1))
  let got := all.take max
  let next := match (all.drop max).head? with
    | some e => e.1
    | none => 0xFFFFFFFF
  leBytes 4 next ++ leBytes 2 got.length ++ [0, 0] ++ got.flatMap (fun e => listConn s e.1 e.2)

/-- FWL_CONN_LIST. -/
def fwlConnListOp : OpDef :=
  { code := 0x0302
    params := fun r _ =>
      let m := fieldLe r.payload 4 2
      if r.payload.length = 6 ∧ 1 ≤ m ∧ m ≤ 48 then none else some 0
    commit := fun r s => answer r stOk 0 (connList (fieldLe r.payload 0 4) (fieldLe r.payload 4 2) s) s }

/-- Meaning of FWL_CONN_LIST (R138). -/
def execFwlConnList (c : CmdSource) (s : State) : Host.Outcome State Fault Refusal := .next (runCommand fwlConnListOp c s)

/-- Zones the diagram in force defines (Table 5.3). -/
def zoneCount (s : State) : Nat :=
  match liveSection s 0x0003 with
  | some sec => byteAt sec 2
  | none => if s.sys.straps.profile.toNat < 2 then 2 else 31

/-- A connection entry lies in the scope of a flush (R138). -/
def inFlushScope (r : Req) (i : Nat) (c : Conn) : Bool :=
  match byteAt r.payload 0 with
  | 0 => true
  | 1 => c.key.szone == byteAt r.payload 1 && c.key.dzone == byteAt r.payload 2
  | _ => i == fieldLe r.payload 4 4

/-- The entries in scope are removed and the final reply tells their number (R138).  An entry of the peer's, named by its
index there, is removed by the connection-table delta that SYNC carries. -/
def connFlush (r : Req) (s : State) : State :=
  if r.fromPeer ∧ byteAt r.payload 0 = 2 then s
  else
  let hit := s.fwl.conns.filter (fun e => inFlushScope r e.1 e.2)
  let s := { s with fwl := { s.fwl with conns := s.fwl.conns.filter (fun e => !inFlushScope r e.1 e.2) } }
  let s := if r.fromPeer then s else hit.foldl (fun s e => noteCt e.2.key none s) s
  answer r stOk 0 (leBytes 4 hit.length) s

/-- The journal record of a flush; where it does not fit, the attempt writes RECORDER_FULL (R138, R145, R438). -/
def journalFlush (r : Req) (s : State) : State := writeRecord 0x0001 (journalBody 0x0303 r.tag 1 r.world r.slot []) s

/-- FWL_CONN_FLUSH: its journal record is its commit point, or precedes it where AT_TIME makes that the hand-over (R63,
R138, R145). -/
def fwlConnFlushOp : OpDef :=
  { code := 0x0303
    wrongMode := fun _ s => isStandby s
    params := fun r s =>
      if r.payload.length = 12 ∧ byteAt r.payload 0 ≤ 2 ∧ byteAt r.payload 1 < zoneCount s ∧ byteAt r.payload 2 < zoneCount s
          ∧ byteAt r.payload 3 = 0 ∧ fieldLe r.payload 8 4 = 0 then none else some 0
    checks := fun _ s => if recorderClosed 8 s then some (stNoResources, 0) else none
    onFail := journalFlush
    handOver := journalFlush
    commit := fun r s => relayOrRun connFlush r (if r.instant.isSome then s else journalFlush r s)
    effect := connFlush }

/-- Meaning of FWL_CONN_FLUSH (R138). -/
def execFwlConnFlush (c : CmdSource) (s : State) : Host.Outcome State Fault Refusal := .next (runCommand fwlConnFlushOp c s)

end Sys2Proof.Machine
end

