-- ==== Sys2Proof/Machine/Basin.lean ====
section
/-!
DEFINITION. The Basin and the switch core: forwarding tables, pools and back-pressure, protection of stored data, sequence
numbers and the bookkeeping of a frame's cells and destinations (chapter Basin and switch core).
-/
namespace Sys2Proof.Machine

/-- Frame number `n`. -/
def frameOf (s : State) (n : Nat) : Option Frame := s.frames.lookup n

/-- Replaces frame `n`. -/
def setFrame (n : Nat) (f : Frame) (s : State) : State := { s with frames := Tab.set s.frames n f }

/-- Length of a frame in the Basin, FCS included. -/
def frameLen (f : Frame) : Nat := f.content.length + 4

/-- Cells a frame occupies (R156). -/
def cellsOf (f : Frame) : Nat := (frameLen f + 255) / 256

/-- Egress port `p`. -/
def egress (s : State) (p : Nat) : EgrPort := Tab.get s.egr.ports p {}

/-- Replaces egress port `p`. -/
def setEgress (p : Nat) (e : EgrPort) (s : State) : State := { s with egr := { s.egr with ports := Tab.set s.egr.ports p e } }

/-! Sleep segments see traffic (R337). -/

/-- Number of sleep segments of the active image (Table 12.3). -/
def segCount (s : State) : Nat := byteAt (liveBytes s 0x0010) 13

/-- A field of segment `i` (Table 12.4). -/
def segField (s : State) (i off n : Nat) : Nat := fieldLe (liveBytes s 0x0010) (64 + 16 * i + off) n

/-- A frame was received or sent on endpoint `ep`: the idle time of the segment that has it as a member starts again. -/
def noteTraffic (ep : Nat) (s : State) : State :=
  (List.range (segCount s)).foldl (fun s i =>
    if (decide (ep < 28) && bit (segField s i 4 4) ep) || (decide (48 ≤ ep) && bit (segField s i 0 4) (ep - 48)) then
      { s with wake := { s.wake with segs := Tab.upd s.wake.segs i {} (fun g => { g with traffic := s.clk }) } }
    else s) s

/-- Segment `i`. -/
def segOf (s : State) (i : Nat) : Segment := Tab.get s.wake.segs i {}

/-- Endpoints of the member channels of segment `i`. -/
def segChannels (s : State) (i : Nat) : List Nat :=
  ((List.range 25).filter (bit (segField s i 0 4))).map (48 + ·)

/-- The segment of a channel. -/
def segOfChannel (s : State) (ep : Nat) : Option Nat :=
  (List.range (segCount s)).find? (fun i => (segChannels s i).contains ep)

/-! The legacy channels as the consumer of GW (R190, R265). -/

/-- The controller is on and may transmit. -/
def chTransmits (c : LegCh) : Bool := c.st == 1 || c.st == 2

/-- The channel's segment sleeps, or has begun to (R273, R337). -/
def channelSleeps (s : State) (ep : Nat) : Bool :=
  match segOfChannel s ep with
  | some i => (segOf s i).st == .asleep || (segOf s i).st == .draining
  | none => false

/-- Places that frames from GW hold in a channel's queue (R265). -/
def gwPlaces (s : State) (ep : Nat) : Nat :=
  let c := chOf s ep
  sumBy (fun (x : LegItem) => if x.kind = 0 then 1 else 0) c.tx + (match c.onBus with
    | some x => if x.kind = 0 then 1 else 0
    | none => 0)

/-- The engine takes a frame from GW for a channel: it is no CAN channel, its places for frames from GW are not full, or the frame
would be dropped there because the channel sleeps or is down (R265, R273). -/
def channelTakes (s : State) (ep : Nat) : Bool :=
  !isCan ep || channelSleeps s ep || !chTransmits (chOf s ep) || decide (gwPlaces s ep < 128)

/-- The legacy channels of a frame, by endpoint. -/
def frameChannels (f : Frame) : List Nat := ((List.range 25).filter (bit f.channels)).map (48 + ·)

/-! Forwarding (R152, R477, Tables 6.1–6.5). -/

/-- A destination of a lookup: ports, channels, functions, hairpin and edit. -/
structure DSet where
  ports : Nat
  channels : Nat := 0
  funcs : Nat := 0
  hairpin : Bool := false
  edit : Nat := 0xFFFF
  /-- Functions are those that own an enabled receive ring. -/
  everyFunc : Bool := false

/-- A VLAN's entry. -/
structure Vlan where
  members : Nat
  untag : Nat
  bcast : Nat
  valid : Bool
  learnable : Bool
  flood : Bool

/-- VLAN 1 of the ROM profiles: the external ports, HP and MP (R477). -/
def romMembers : Nat := 0x3FFFFFFF

/-- The VLAN entry in force (Table 6.2, Table 1.9). -/
def vlanOf (s : State) (v : Nat) : Vlan :=
  match liveSection s 0x0005 with
  | some sec =>
    let o := 192 + 16 * v
    let f := byteAt sec (o + 10)
    { members := fieldLe sec o 4, untag := fieldLe sec (o + 4) 4, bcast := fieldLe sec (o + 8) 2, valid := bit f 0
      learnable := bit f 1, flood := bit f 2 }
  | none =>
    if v = 1 then { members := romMembers, untag := romMembers, bcast := 0xFFFF, valid := true, learnable := true, flood := true }
    else if v = 4094 ∧ s.sys.straps.profile.toNat = 1 then
      { members := 0x5FFFFFFF, untag := 0, bcast := 0xFFFF, valid := true, learnable := true, flood := true }
    else { members := 0, untag := 0, bcast := 0xFFFF, valid := false, learnable := false, flood := false }

/-- PVID of port `p`. -/
def pvidOf (s : State) (p : Nat) : Nat :=
  match liveSection s 0x0005 with
  | some sec => fieldLe sec (64 + 2 * p) 2 % 4096
  | none => 1

/-- Destination set `d` of a forwarding section (Table 6.3). -/
def dsetOf (sec : Bytes) (d : Nat) : DSet :=
  let o := 65728 + 16 * d
  { ports := fieldLe sec o 4, channels := fieldLe sec (o + 4) 4, funcs := byteAt sec (o + 8)
    hairpin := bit (byteAt sec (o + 9)) 0, edit := fieldLe sec (o + 10) 2 }

/-- Offset of the FDB of a forwarding section (Table 6.1). -/
def fdbOffset (sec : Bytes) : Nat := (65728 + 16 * fieldLe sec 4 2 + 8 * fieldLe sec 6 2 + 15) / 16 * 16

/-- The gPTP and Dusk addresses (R477). -/
def gptpAddress : Nat := 0x0180C200000E
/-- The Dusk address. -/
def duskAddress : Nat := 0x039620000D5C

/-- The static entry of a VLAN and address (Table 6.5, R477). -/
def staticEntry (s : State) (vid mac : Nat) : Option DSet :=
  match liveSection s 0x0005 with
  | some sec =>
    let o := fdbOffset sec
    match (List.range (fieldLe sec 0 4)).find? (fun i =>
        fieldBe sec (o + 16 * i) 6 == mac && fieldLe sec (o + 16 * i + 6) 2 % 4096 == vid) with
    | some i => some (dsetOf sec (fieldLe sec (o + 16 * i + 8) 2))
    | none => none
  | none =>
    if vid ≠ 1 then none
    else if mac = s.otp.mpAddress then some { ports := 2 ^ 29 }
    else if s.sys.straps.profile.toNat < 2 then
      (if mac = gptpAddress then some { ports := 2 ^ 29 }
       else if mac = duskAddress then some { ports := romMembers, everyFunc := true } else none)
    else if mac = duskAddress then some { ports := 2 ^ 29 } else none

/-- Key of a learned entry. -/
def learnKey (vid mac : Nat) : Nat := vid * 2 ^ 48 + mac

/-- The group bit of an address. -/
def isGroup (mac : Nat) : Bool := bit mac 40

/-- The functions that own an enabled receive ring, as a mask (R152, R302). -/
def ringFuncs (s : State) : Nat :=
  sumBy (fun f => if s.hst.rx.any (fun e => e.2.enable && e.2.owner == some f) then 2 ^ f else 0) (List.range 4)

/-- The outcome of the forwarding lookup: destinations, or the statistic of the drop (7 VLAN_DENY, 8 UNKNOWN_DA, 9
NO_DESTINATION); `down` counts the ports excluded for a link that is down. -/
structure Fwd where
  ports : List Nat := []
  funcs : Nat := 0
  channels : Nat := 0
  edit : Option Nat := none
  vid : Nat
  vlanOk : Bool := true
  drop : Option Nat := none
  down : Nat := 0

/-- The set that a VLAN floods to: MEMBERS, or its destination set; the ROM floods to every member but MP (R152, R477). -/
def floodSet (s : State) (v : Vlan) : DSet :=
  match liveSection s 0x0005 with
  | some sec => if v.bcast = 0xFFFF then { ports := v.members, everyFunc := true } else dsetOf sec v.bcast
  | none => { ports := v.members &&& (2 ^ 32 - 1 - 2 ^ 29), everyFunc := true }

/-- The lookup of R152. -/
def forwardLookup (s : State) (w : Walk) (p : Nat) : Fwd :=
  let vid := if 0 < w.tags then Tab.get w.fields 0x05 0 else pvidOf s p
  let v := vlanOf s vid
  if !v.valid || !bit v.members p then { vid := vid, vlanOk := false, drop := some 7 }
  else
    let mac := Tab.get w.fields 0x03 0
    let found : Option DSet :=
      match staticEntry s vid mac with
      | some d => some d
      | none =>
        match if isGroup mac then none else s.bsn.learned.lookup (learnKey vid mac) with
        | some l => some { ports := 2 ^ l.port, funcs := if l.port = 28 then 2 ^ l.func else 0 }
        | none => if !isGroup mac && !v.flood then none else some (floodSet s v)
    match found with
    | none => { vid := vid, drop := some 8 }
    | some d =>
      let all := (List.range 31).filter (fun q => bit d.ports q && bit v.members q && (d.hairpin || q != p))
      let up := all.filter (portUp s)
      { ports := up, funcs := if d.everyFunc then ringFuncs s else d.funcs, channels := d.channels
        edit := if d.edit = 0xFFFF then none else some d.edit, vid := vid, drop := if up.isEmpty then some 9 else none
        down := all.length - up.length }

/-- AGEING_S in force (R154). -/
def ageingS (s : State) : Nat :=
  match liveSection s 0x0005 with
  | some sec => fieldLe sec 8 4
  | none => 300

/-- Source learning runs in a VLAN: in AUTONOMOUS in every VLAN of the ROM profile, in CONFIGURED, PARTIAL and SAFE in the
learnable VLANs of an active image alone (R154). -/
def learns (s : State) (vid : Nat) : Bool :=
  forwarding s.sys.mode && (s.sys.mode == .autonomous || s.img.live.isSome) && (vlanOf s vid).learnable

/-- A frame's source is learned at its end (R154). -/
def learn (f : Frame) (s : State) : State :=
  let mac := fieldBe f.content 6 6
  if f.vid < 4096 ∧ !f.res.malformed ∧ !isGroup mac ∧ learns s f.vid ∧ f.inPort ≤ 28 then
    let k := learnKey f.vid mac
    if !Tab.has s.bsn.learned k && decide (8192 ≤ s.bsn.learned.length) then
      countSource 9 0 5 1 { s with bsn := { s.bsn with learnFull := s.bsn.learnFull + 1 } }
    else
      { s with bsn := { s.bsn with
        learned := Tab.set s.bsn.learned k { port := f.inPort, func := f.srcEp - 28, seen := s.clk } } }
  else s

/-- Meaning of LEARN_AGEING: an address without a matching source for AGEING_S expires (R154). -/
def execLearnAgeing (vid mac : Nat) (s : State) : Host.Outcome State Fault Refusal :=
  .next (match s.bsn.learned.lookup (learnKey vid mac) with
    | some l =>
      let s := reachClock (l.seen + ageingS s * 1000000000) s
      { s with bsn := { s.bsn with learned := Tab.del s.bsn.learned (learnKey vid mac) } }
    | none => s)

/-! Pools and back-pressure (R159–R166, Tables 6.8, 6.9). -/

/-- A number of section 0x0006, or its AUTONOMOUS value. -/
def poolField (s : State) (off n dflt : Nat) : Nat :=
  match liveSection s 0x0006 with
  | some sec => fieldLe sec off n
  | none => dflt

/-- SCHED_CELLS. -/
def schedCells (s : State) : Nat := poolField s 0 4 0
/-- SHARED_CELLS. -/
def sharedCells (s : State) : Nat := poolField s 4 4 53480
/-- SCHED_CLASSES. -/
def schedClasses (s : State) : Nat := poolField s 16 1 0
/-- Class `c` is PINNED. -/
def isPinned (s : State) (c : Nat) : Bool := bit (poolField s 17 1 0) c
/-- XOFF of class `c`. -/
def xoff (s : State) (c : Nat) : Nat := poolField s (64 + 2 * c) 2 2048
/-- XON of class `c`. -/
def xon (s : State) (c : Nat) : Nat := poolField s (80 + 2 * c) 2 1536
/-- HEADROOM of port `p`. -/
def headroomOf (s : State) (p : Nat) : Nat := poolField s (128 + 8 * p) 2 (if p < 28 then 400 else 200)
/-- HOLD_US of port `p`. -/
def holdUs (s : State) (p : Nat) : Nat := poolField s (132 + 8 * p) 2 100

/-- The device is PLCA coordinator on port `p` (R166). -/
def isCoordinator (s : State) (p : Nat) : Bool := (portCfg s p).plcaId == 0 && (port s p).plca != 3

/-- FC_MODE of port `p` in force: 3 counts as 0 where the device is not coordinator (R166). -/
def fcMode (s : State) (p : Nat) : Nat :=
  let m := poolField s (130 + 8 * p) 1 (if p < 24 then 1 else if p < 28 then 3 else 0)
  if m = 3 ∧ !isCoordinator s p then 0 else m

/-- Free cells of the shared pool. -/
def freeShared (s : State) : Nat := sharedCells s - sumBy (fun e => e.2.shared) s.frames
/-- Free cells of the scheduled pool. -/
def freeSched (s : State) : Nat := schedCells s - sumBy (fun e => e.2.sched) s.frames
/-- Free reserved cells (R159). -/
def freeReserved (s : State) : Nat := 256 - sumBy (fun e => e.2.reserved) s.frames

/-- Queue entries a frame holds: one for each destination entered, or one in RP's queues (R157). -/
def entriesOf (f : Frame) : Nat :=
  if f.phase = .rinse ∨ f.phase = .secondPass then 1 else sumBy (fun d => if f.ended || d.cut then 1 else 0) f.dests

/-- Free queue entries (R157). -/
def freeEntries (s : State) : Nat := 131072 - sumBy (fun e => entriesOf e.2) s.frames

/-- S(p, c): cells charged to the scheduled or shared pool (R159). -/
def sCells (s : State) (p c : Nat) : Nat :=
  sumBy (fun e => if e.2.inPort = p ∧ e.2.chargeCls = c then e.2.sched + e.2.shared else 0) s.frames

/-- H(p, c): cells charged to p's headroom (R159). -/
def hCells (s : State) (p c : Nat) : Nat :=
  sumBy (fun e => if e.2.inPort = p ∧ e.2.chargeCls = c then e.2.headroom else 0) s.frames

/-- H(p). -/
def hPort (s : State) (p : Nat) : Nat := sumBy (fun e => if e.2.inPort = p then e.2.headroom else 0) s.frames

/-- Back-pressure of (p, c) as R160 judges it now; a port whose result RP holds up is back-pressured too (R94). -/
def bpJudge (s : State) (p c : Nat) (now : Bool) : Bool :=
  let sc := sCells s p c
  if s.lanes.rpHold.contains p then true
  else if xoff s c ≤ sc ∨ (0 < sc ∧ (freeShared s < poolField s 8 4 4096 ∨ freeEntries s < 4096)) then true
  else if sc + hCells s p c ≤ xon s c ∧ poolField s 12 4 6144 ≤ freeShared s ∧ 8192 ≤ freeEntries s then false
  else now

/-- The mask of raised classes of port `p`. -/
def raisedMask (s : State) (p : Nat) : Nat := Tab.get s.bsn.raised p 0

/-- A port in low-power idle wakes for what waits at it: no frame starts before the wake time has passed (R284). -/
def wakeLpi (p : Nat) (s : State) : State :=
  let e := egress s p
  if e.lpi then setEgress p { e with lpi := false, wakeAt := s.clk + Config.eeeWake (port s p).mode } s else s

/-- What a port does when its mask of raised classes goes from `old` to `new` (R164–R166). -/
def bpAct (p old new : Nat) (s : State) : State :=
  let s := if p < 28 ∧ (fcMode s p = 1 ∧ (old == 0) != (new == 0) ∨ fcMode s p = 2) then wakeLpi p s else s
  let s := (List.range 8).foldl (fun s c =>
    if bit new c && !bit old c then
      countSource 2 (8 * p + c) 8 1 { s with bsn := { s.bsn with raisings := Tab.upd s.bsn.raisings p 0 (· + 1) } }
    else s) s
  let e := egress s p
  match if p < 28 then fcMode s p else 0 with
  | 1 => if (old == 0) != (new == 0) then setEgress p { e with pauseDue := true } s else s
  | 2 => setEgress p { e with pauseDue := true, cleared := e.cleared ||| (old &&& (255 - new)) } s
  | 3 =>
    if new ≠ 0 ∧ old = 0 then setEgress p { e with plcaHold := true, holdFrom := s.clk } s
    else if new = 0 then setEgress p { e with plcaHold := false } s else s
  | _ => s

/-- Back-pressure is judged again after a change of charges; the lowest free shared cells are kept (R160, Table 6.14). -/
def refreshBp (s : State) : State :=
  let free := freeShared s
  let s := { s with bsn := { s.bsn with lowShared := Nat.min s.bsn.lowShared free } }
  let ports := ((s.frames.map (fun e => e.2.inPort)) ++ s.bsn.raised.map (fun e => e.1)).eraseDups
  ports.foldl (fun s p =>
    let old := raisedMask s p
    let new := sumBy (fun c => if bpJudge s p c (bit old c) then 2 ^ c else 0) (List.range 8)
    if old = new then s
    else bpAct p old new { s with bsn := { s.bsn with raised := Tab.set s.bsn.raised p new } }) s

/-- Free cells while a frame is charged: scheduled, shared, reserved. -/
structure Room where
  sched : Nat
  shared : Nat
  reserved : Nat

/-- The pool of a cell that may not stay where the frame began: shared, reserved for MP, else headroom (R159). -/
def fallTo (mp : Bool) (r : Room) : Nat := if 0 < r.shared then 1 else if mp && decide (0 < r.reserved) then 2 else 3

/-- The pool of a frame's first cell: 0 scheduled, 1 shared, 2 reserved, 3 headroom (R159). -/
def firstPool (bp sched mp : Bool) (r : Room) : Nat :=
  if bp then 3 else if sched && decide (0 < r.sched) then 0 else fallTo mp r

/-- Charges `n` cells whose first went to pool `k`: cells to each pool in turn (R159). -/
def chargeCells (k : Nat) (mp : Bool) : Nat → Room → (Nat × Nat × Nat × Nat) → Nat × Nat × Nat × Nat
  | 0, _, c => c
  | n + 1, r, (a, b, d, h) =>
    let room := match k with
      | 0 => r.sched
      | 1 => r.shared
      | 2 => r.reserved
      | _ => 1
    match if 0 < room then k else fallTo mp r with
    | 0 => chargeCells k mp n { r with sched := r.sched - 1 } (a + 1, b, d, h)
    | 1 => chargeCells k mp n { r with shared := r.shared - 1 } (a, b + 1, d, h)
    | 2 => chargeCells k mp n { r with reserved := r.reserved - 1 } (a, b, d + 1, h)
    | _ => chargeCells k mp n r (a, b, d, h + 1)

/-- Frame `n` is charged under class `c`; a cell of a scheduled class outside the scheduled pool writes the record of R159
once per activation. -/
def chargeFrame (n c : Nat) (s : State) : State :=
  match frameOf s n with
  | none => s
  | some f =>
    let bp := bit f.bpAtStart c
    let sched := bit (schedClasses s) c
    let mp := f.inPort == 29
    let r : Room := { sched := freeSched s, shared := freeShared s, reserved := freeReserved s }
    let (a, b, d, h) := chargeCells (firstPool bp sched mp r) mp (cellsOf f) r (0, 0, 0, 0)
    let s := setFrame n { f with chargeCls := c, sched := a, shared := b, reserved := d, headroom := h } s
    let overs := if sched && !bp then b + d + h else 0
    let s := if overs = 0 then s else
      let s := countSource 9 0 6 overs s
      if s.bsn.overflowSeen then s
      else record 0x0401 [BitVec.ofNat 8 f.inPort, BitVec.ofNat 8 c] { s with bsn := { s.bsn with overflowSeen := true } }
    refreshBp s

/-- The hard limit of R161 drops the frame: an external port, its (p, c) back-pressured when the frame began, and less
than a whole frame's headroom left. -/
def pauseIgnored (f : Frame) (c : Nat) (s : State) : Bool :=
  decide (f.inPort < 28) && bit f.bpAtStart c && decide (headroomOf s f.inPort < hPort s f.inPort + 40)

/-- The internal port's sender waits: its headroom has no room for a whole frame (Table 6.10). -/
def internalWaits (p : Nat) (s : State) : Bool := decide (headroomOf s p < hPort s p + 40)

/-! Destinations and their end (R168, R174, R175). -/

/-- Key of a triple's sequence counter. -/
def seqKey (inPort out cls : Nat) : Nat := (32 * inPort + out) * 8 + cls

/-- The class by which a frame's triples are named: its final class. -/
def frameCls (f : Frame) : Nat := f.res.cls

/-! Planes and Basin queues (R157, R158). -/

/-- Segments of 64 bytes that an item of a plane takes. -/
def segsOf : PlaneItem → Nat
  | .frame _ _ k => k
  | .notice _ _ _ _ => 1

/-- Egress port that an item of a plane is bound for. -/
def outOf : PlaneItem → Nat
  | .frame p _ _ => p
  | .notice p _ _ _ => p

/-- What is on its way on plane `k`. -/
def planeItems (s : State) (k : Nat) : List PlaneItem := Tab.get s.bsn.planes k []

/-- Segments waiting on plane `k`. -/
def planeLoad (s : State) (k : Nat) : Nat := sumBy segsOf (planeItems s k)

/-- The plane of a frame or hole notice of a triple: a PINNED class has its own, a SEQUENCED one takes the plane with the fewest
segments waiting, the lowest among equals (R158, R175). -/
def planeFor (s : State) (inPort out cls : Nat) : Nat :=
  if isPinned s cls then (inPort + out + cls) % 4
  else [1, 2, 3].foldl (fun m k => if planeLoad s k < planeLoad s m then k else m) 0

/-- An item sets out on plane `k`. -/
def sendOn (k : Nat) (x : PlaneItem) (s : State) : State :=
  { s with bsn := { s.bsn with planes := Tab.upd s.bsn.planes k [] (· ++ [x]) } }

/-- The items that `g` picks leave every plane. -/
def takeItems (g : PlaneItem → Bool) (s : State) : State :=
  { s with bsn := { s.bsn with planes := s.bsn.planes.map (fun e => (e.1, e.2.filter (fun x => !g x))) } }

/-- The item is the next that its plane delivers to its port: within a plane, what is bound for one egress port arrives in the
order in which it was sent (R158). -/
def isNextOn (s : State) (x : PlaneItem) : Bool :=
  (List.range 4).any (fun k => (planeItems s k).find? (fun y => outOf y == outOf x) == some x)

/-- The item is the frame's segments for the port. -/
def isFrameItem (n p : Nat) : PlaneItem → Bool
  | .frame out m _ => out == p && m == n
  | .notice _ _ _ _ => false

/-- Segments that a destination's egress side needs before the frame arrives: the first of a cut-through copy, all of a stored
one (R176). -/
def needed (f : Frame) (d : Dest) : Nat := if d.cut then 1 else (frameLen f + 63) / 64

/-- A hole notice for a frame's number at a port sets out (R175). -/
def holeNotice (f : Frame) (d : Dest) (s : State) : State :=
  sendOn (planeFor s f.inPort d.port (frameCls f)) (.notice d.port f.inPort (frameCls f) d.seq) s

/-- Queue `q` of egress port `p` in the Basin (R157). -/
def basinQueue (s : State) (p q : Nat) : List Nat := Tab.get s.bsn.queues (8 * p + q) []

/-- Queues from the highest down. -/
def queuesDown : List Nat := [7, 6, 5, 4, 3, 2, 1, 0]

/-- A frame whose cells no destination holds is freed once its end has arrived; an HP descriptor that waits for its frame
learns that no port transmitted it (R156, R305). -/
def freeIfDone (n : Nat) (s : State) : State :=
  match frameOf s n with
  | none => s
  | some f =>
    if f.phase = .forwarded ∧ f.ended ∧ f.dests.isEmpty then
      let s := { s with frames := Tab.del s.frames n }
      let s := match f.hpDesc with
        | some (r, i) =>
          { s with hst := { s.hst with tx := Tab.upd s.hst.tx r {} (fun t => { t with
              work := t.work.map (fun x => if x.index = i ∧ x.frame = some n then
                { x with status := some (x.status.getD 1), frame := none } else x) }) } }
        | none => s
      refreshBp s
    else s

/-- Destination of frame `f` at port `p`. -/
def destAt (f : Frame) (p : Nat) : Option Dest := f.dests.find? (fun d => d.port == p)

/-- Changes the destination of frame `n` at port `p`. -/
def updDest (n p : Nat) (g : Dest → Dest) (s : State) : State :=
  match frameOf s n with
  | none => s
  | some f => setFrame n { f with dests := f.dests.map (fun d => if d.port = p then g d else d) } s

/-- Frames a Press holds, with those dispatched to it that have not arrived (log 132). -/
def pressLoad (s : State) (p : Nat) : Nat :=
  sumBy (fun (x : Nat × Triple) => if x.1 / 256 = p then x.2.held.length else 0) s.bsn.press
    + sumBy (fun k => sumBy (fun x => match x with
        | .frame out _ _ => if out = p then 1 else 0
        | .notice _ _ _ _ => 0) (planeItems s k)) (List.range 4)

/-- Entries of a port's Basin queues that are not dispatched, the highest queue first and in order of entry within each (R157, log
132). -/
def undispatched (s : State) (p : Nat) : List Nat :=
  queuesDown.flatMap (fun q => (basinQueue s p q).filter (fun n => match (frameOf s n).bind (fun f => destAt f p) with
    | some d => d.plane.isNone
    | none => false))

/-- Frame `n` is dispatched to port `p`: all of its segments take one plane (R158).  The egress side requests no further frame
while its Press holds 48. -/
def dispatchOne (p : Nat) (s : State) (n : Nat) : State :=
  match frameOf s n with
  | none => s
  | some f =>
    match destAt f p with
    | none => s
    | some d =>
      if 48 ≤ pressLoad s p then s
      else
        let k := planeFor s f.inPort p (frameCls f)
        sendOn k (.frame p n (needed f d)) (updDest n p (fun d => { d with plane := some k }) s)

/-- The egress side of port `p` requests what its Press has room for. -/
def dispatch (p : Nat) (s : State) : State := (undispatched s p).foldl (dispatchOne p) s

/-- Frame `n` is entered in its queue of port `p` (R157). -/
def enterQueue (n p : Nat) (s : State) : State :=
  match frameOf s n with
  | none => s
  | some f =>
    dispatch p (countSource 2 (8 * p + f.res.queue) 0 1
      { s with bsn := { s.bsn with queues := Tab.upd s.bsn.queues (8 * p + f.res.queue) [] (· ++ [n]) } })

/-- Frame `n` leaves the Basin queues and the planes of port `p`, and the egress side may request another. -/
def leaveQueue (n p : Nat) (s : State) : State :=
  let b := s.bsn
  dispatch p (takeItems (isFrameItem n p)
    { s with bsn := { b with queues := b.queues.map (fun q => if q.1 / 8 = p then (q.1, q.2.filter (· != n)) else q) } })

/-- The copy of frame `n` at port `p` ends: it leaves queue and wire bookkeeping, its cells are freed for the port, and
back-pressure is judged again (R156, R160). -/
def dropDest (n p : Nat) (s : State) : State :=
  match frameOf s n with
  | none => s
  | some f =>
    let e := egress s p
    let s := setFrame n { f with dests := f.dests.filter (fun d => d.port != p) } s
    let s := if e.queues.any (fun q => q.2.contains n) then
        setEgress p { e with queues := e.queues.map (fun q => (q.1, q.2.filter (· != n))) } s
      else s
    freeIfDone n (refreshBp (leaveQueue n p s))

/-- Number `seq` of a triple counts as consumed where its frame is taken out of the Press: it becomes a hole there, and the wait
stops where the triple holds no frame any more (R176). -/
def pressForget (out inPort cls seq : Nat) (s : State) : State :=
  let k := seqKey out inPort cls
  { s with bsn := { s.bsn with press := Tab.upd s.bsn.press k {} (fun t =>
      let held := t.held.filter (fun h => h.1 != seq)
      { t with held := held, holes := if t.held.any (fun h => h.1 == seq) then seq :: t.holes else t.holes
               waitFrom := if held.isEmpty then none else t.waitFrom }) } }

/-- A copy that has not begun to transmit is discarded: a hole notice where it has not reached its Press, removal from
Press or queue where it has (R101, R168, R171, R181). -/
def discardCopy (n p : Nat) (s : State) : State :=
  match frameOf s n with
  | none => s
  | some f =>
    match destAt f p with
    | none => s
    | some d =>
      let s := match d.phase with
        | .crossing => holeNotice f d s
        | .press => pressForget p f.inPort (frameCls f) d.seq s
        | _ => s
      dropDest n p s

/-- A frame is dropped before any destination holds it: its cells are free, and it is forgotten once its end has come and its
source is learned (R23, R154). -/
def dropFrame (n : Nat) (s : State) : State :=
  match frameOf s n with
  | none => s
  | some f =>
    refreshBp (setFrame n { f with phase := .forwarded, dests := [], sched := 0, shared := 0, reserved := 0, headroom := 0 } s)

/-! Protection of stored data (R169–R173, Table 6.11). -/

/-- What reading a row gives: its lanes with an erasure or an error the outer code sees. -/
inductive RowOutcome
  | clean | corrected | rebuilt | uncorrectable
deriving DecidableEq, Repr

/-- The decoding of a row (Table 6.11). -/
def rowOutcome (s : State) (e : CellError) : RowOutcome :=
  let erased := (e.double.map Fin.val ++ s.bsn.laneMap).eraseDups
  let wrong := ((e.silent.map Fin.val).filter (fun l => !erased.contains l)).eraseDups
  if erased.length = 0 then (if wrong.length = 0 then .clean else if wrong.length = 1 then .corrected else .uncorrectable)
  else if wrong.length = 0 ∧ erased.length ≤ 2 then .rebuilt
  else .uncorrectable

/-- Lane `l` gave a double-bit error: on the third within 1 ms it enters the lane fault map; a third mapped lane is a
safety escalation (R172). -/
def noteDouble (s : State) (l : Nat) : State :=
  if s.bsn.laneMap.contains l then s
  else
    let recent := (s.clk :: Tab.get s.bsn.doubles l []).filter (fun t => decide (s.clk ≤ t + 1000000))
    let s := { s with bsn := { s.bsn with doubles := Tab.set s.bsn.doubles l recent } }
    if recent.length < 3 then s
    else if 2 ≤ s.bsn.laneMap.length then escalate 1 (record 0x0407 [BitVec.ofNat 8 l] s)
    else
      raiseInt 2 (record 0x0406 [BitVec.ofNat 8 l] { s with bsn := { s.bsn with laneMap := s.bsn.laneMap ++ [l] } })

/-- Every copy of a frame in an uncorrectable row ends: discarded before transmission, with an inverted FCS in it, and counted once
on its port; a frame in RP, which holds no number yet, is dropped (R171). -/
def ruinFrame (n : Nat) (s : State) : State :=
  match frameOf s n with
  | none => s
  | some f =>
    if f.phase = .rinse ∨ f.phase = .secondPass then freeIfDone n (dropFrame n s)
    else f.dests.foldl (fun s d =>
      if d.uncorr then s
      else
        let s := stat d.port 24 1 s
        if d.phase = .sending then updDest n d.port (fun d => { d with spoil := true, uncorr := true }) s
        else discardCopy n d.port s) s

/-- A row is read: the inner corrections and the outer decoding are counted and acted on (R169–R173). -/
def readRow (e : CellError) (s : State) : State :=
  let s := if e.single.isEmpty then s else
    countSource 9 0 0 e.single.length { s with bsn := { s.bsn with inner := s.bsn.inner + BitVec.ofNat 64 e.single.length } }
  let out := rowOutcome s e
  let s := (e.double.map Fin.val).foldl noteDouble s
  let s := match out with
    | .clean => s
    | .corrected => countSource 9 0 1 1 { s with bsn := { s.bsn with outerCorr := s.bsn.outerCorr + 1 } }
    | .rebuilt => countSource 9 0 2 1 { s with bsn := { s.bsn with outerErase := s.bsn.outerErase + 1 } }
    | .uncorrectable =>
      let lanes := (e.double.map Fin.val ++ s.bsn.laneMap ++ e.silent.map Fin.val).eraseDups
      let s := countSource 9 0 3 1 { s with bsn := { s.bsn with uncorr := s.bsn.uncorr + 1 } }
      let s := raiseInt 2 (record 0x0405 (leBytes 2 e.cell ++ leBytes 5 (sumBy (2 ^ ·) lanes)) s)
      match e.frame with
      | some n => ruinFrame n s
      | none => s
  if e.links = 2 then
    let s := if out = .uncorrectable then s else raiseInt 2 (record 0x0405 (leBytes 2 e.cell ++ leBytes 5 0) s)
    let s := match e.frame with
      | some n => ruinFrame n s
      | none => s
    escalate 2 s
  else s

/-- Meaning of BASIN_SCRUB: the patrol reads, corrects and rewrites one row (R173). -/
def execBasinScrub (row : CellError) (s : State) : Host.Outcome State Fault Refusal :=
  .next (
    let s := readRow row s
    let r := s.bsn.scrubRow + 1
    if r = 65536 then { s with bsn := { s.bsn with scrubRow := 0, scrubs := s.bsn.scrubs + 1 } }
    else { s with bsn := { s.bsn with scrubRow := r } })

/-! Internal formats that debug reads show (Tables 6.6, 6.7). -/

/-- The link word of cell `k` of frame `n` (Table 6.6); which cell a frame takes is free (log 134). -/
def linkWord (s : State) (n k : Nat) : Bytes :=
  match frameOf s n with
  | none => List.replicate 4 0
  | some f =>
    let last := decide (cellsOf f ≤ k + 1)
    leBytes 2 (Config.cellIndex n (k + 1)).toNat
      ++ [BitVec.ofNat 8 ((if last then frameLen f - 256 * k else 256) - 1)
          , BitVec.ofNat 8 (b2n last + 2 * (if k = 0 then f.dests.length else 0))]

/-- The entry that follows frame `n` in its queue of port `p`, where one does. -/
def nextInQueue (s : State) (p q n : Nat) : Option Nat := (((basinQueue s p q).dropWhile (· != n)).drop 1).head?

/-- The queue entry of frame `n` at port `p` (Table 6.7); the indices that the Basin chooses are free (log 134). -/
def queueEntry (s : State) (p n : Nat) : Bytes :=
  match (frameOf s n).bind (fun f => (destAt f p).map (fun d => (f, d))) with
  | none => List.replicate 16 0
  | some (f, d) =>
    let next := (Config.entryIndex ((nextInQueue s p f.res.queue n).getD s.nextFrame) p).toNat
    let c := frameCls f
    leBytes 2 (Config.cellIndex n 0).toNat ++ leBytes 2 (frameLen f) ++ leBytes 2 d.seq
      ++ [BitVec.ofNat 8 (f.inPort + flagBit (bit next 16) 7)
          , BitVec.ofNat 8 (c + 8 * f.res.colour + flagBit (isPinned s c) 5 + flagBit d.cut 6 + flagBit f.launch.isSome 7)]
      ++ leBytes 2 f.stream ++ leBytes 2 (f.edit.getD 0xFFFF) ++ leBytes 2 (Config.stampIndex n).toNat ++ leBytes 2 next

/-! BSN_STATUS (R184). -/

/-- The BSN_STATUS result (Table 6.14). -/
def bsnStatus (s : State) : Bytes :=
  let b := s.bsn
  leBytes 4 (freeShared s) ++ leBytes 4 b.lowShared ++ leBytes 4 (freeSched s) ++ leBytes 4 (freeEntries s)
    ++ leBytes 4 b.learned.length
    ++ leBytes 4 (sumBy (fun p => if raisedMask s p = 0 then 0 else 2 ^ p) (List.range 31))
    ++ leBytes 5 (sumBy (2 ^ ·) b.laneMap) ++ [0, 0, 0]
    ++ leBytes 8 b.inner.toNat ++ leBytes 8 b.outerCorr.toNat ++ leBytes 8 b.outerErase.toNat ++ leBytes 8 b.uncorr.toNat
    ++ leBytes 8 b.scrubs.toNat ++ leBytes 8 b.holesRx.toNat ++ leBytes 8 b.learnFull.toNat ++ List.replicate 8 0
    ++ (List.range 31).flatMap (fun p =>
        leBytes 8 (statOf s p 16).toNat ++ leBytes 8 (statOf s p 28).toNat ++ leBytes 8 (statOf s p 27).toNat
          ++ leBytes 8 (Tab.get b.raisings p 0).toNat)

/-- BSN_STATUS. -/
def bsnStatusOp : OpDef := { code := 0x0401, params := noPayload, commit := fun r s => answer r stOk 0 (bsnStatus s) s }

/-- Meaning of BSN_STATUS (R184). -/
def execBsnStatus (c : CmdSource) (s : State) : Host.Outcome State Fault Refusal := .next (runCommand bsnStatusOp c s)

end Sys2Proof.Machine
end

