-- ==== Sys2Proof/Machine/Keys.lean ====
section
/-!
DEFINITION. Keys and attestation: the root secret, the key slots and KEY_DERIVE, the identity key, the quote, and the
life cycle (chapter Keys and attestation).
-/
namespace Sys2Proof.Machine

/-- The root secret the device holds (R409). -/
def rootSecret (s : State) : Option Bytes :=
  if s.otp.rootAValid then some s.otp.rootA else if s.otp.rootBValid then some s.otp.rootB else none

/-- Code of a life-cycle state (R412). -/
def lcCode : LifeCycle → Nat
  | .test => 0
  | .manufacture => 1
  | .field => 2
  | .service => 3
  | .retired => 4

/-- A cell of three fuses reads blown by majority (R411). -/
def cellBlown (c : BitVec 3) : Bool := decide (2 ≤ b2n (bit c.toNat 0) + b2n (bit c.toNat 1) + b2n (bit c.toNat 2))

/-- LC_COUNT of the thermometer cells (R411). -/
def lcCountOf (cells : List (BitVec 3)) : Nat := (cells.takeWhile cellBlown).length

/-- The life-cycle state of a count and the RETIRED cell (R411). -/
def lcStateOf (count : Nat) (retired : Bool) : LifeCycle :=
  if retired then .retired
  else if count = 0 then .test
  else if count = 1 then .manufacture
  else if count % 2 = 0 then .field
  else .service

/-- Replaces key slot `n`. -/
def setSlot (n : Nat) (k : KeySlot) (s : State) : State :=
  { s with keys := { s.keys with slots := Tab.set s.keys.slots n k } }

/-- The sequence marks of a slot restart at 0 when its key changes (R417). -/
def dropMarks (n : Nat) (s : State) : State :=
  { s with cmd := { s.cmd with marks := s.cmd.marks.filter (fun e => e.1 % 64 != n) } }

/-- The 16 bytes of a slot's attribute record (Table 15.3). -/
def slotRecord (k : KeySlot) : Bytes :=
  [BitVec.ofNat 8 k.kind, BitVec.ofNat 8 k.keyLen] ++ leBytes 2 k.usage ++ [BitVec.ofNat 8 k.worlds, BitVec.ofNat 8 k.lc, 0, 0]
    ++ leBytes 4 k.masters ++ leBytes 4 k.generation

/-- The attribute record of 16 bytes, without key material (Table 15.3). -/
def slotOfRecord (b : Bytes) : KeySlot :=
  { kind := byteAt b 0, keyLen := byteAt b 1, usage := fieldLe b 2 2, worlds := byteAt b 4, lc := byteAt b 5
    masters := fieldLe b 8 4, generation := fieldLe b 12 4, material := [] }

/-- The usages and the key length agree with the KIND (Table 15.4). -/
def kindAdmits (k : KeySlot) : Bool :=
  if k.kind = 1 ∨ k.kind = 2 then
    (k.usage == 0x001 && k.keyLen == 64) || (k.usage == 0x201 && k.keyLen == 64)
      || (k.usage == 0x008 && (k.keyLen == 16 || k.keyLen == 32)) || (k.usage == 0x010 && k.keyLen == 64)
      || (k.usage == 0x020 && k.keyLen == 32) || (k.usage == 0x040 && k.keyLen == 64)
  else if k.kind = 3 then
    k.keyLen == 64 && k.usage != 0 && (k.usage &&& (0xFFFF - 0x106)) == 0
  else if k.kind = 4 then k.usage == 0x080 && k.keyLen == 0
  else false

/-- An attribute record is valid (R416): Table 15.4, reserved bits zero, LC not both FIELD and SERVICE, GENERATION zero
in a payload (Table 15.6). -/
def attrValid (b : Bytes) : Bool :=
  let k := slotOfRecord b
  kindAdmits k && decide (k.worlds < 16) && decide (k.lc < 16) && fieldLe b 6 2 == 0 && decide (k.masters < 2048)
    && k.generation == 0 && !(bit k.lc 2 && bit k.lc 3)

/-- Fields of a KEY_DERIVE payload (Table 15.6). -/
def kdOp (r : Req) : Nat := byteAt r.payload 0
/-- SLOT. -/
def kdSlot (r : Req) : Nat := byteAt r.payload 1
/-- SRC. -/
def kdSrc (r : Req) : Nat := byteAt r.payload 2
/-- LABEL_LEN. -/
def kdLabelLen (r : Req) : Nat := byteAt r.payload 3
/-- DATA_LEN. -/
def kdDataLen (r : Req) : Nat := fieldLe r.payload 4 2
/-- CTX_LEN. -/
def kdCtxLen (r : Req) : Nat := fieldLe r.payload 6 2
/-- ATTR. -/
def kdAttr (r : Req) : Bytes := slice r.payload 8 16
/-- DATA. -/
def kdData (r : Req) : Bytes := r.payload.drop 120

/-- A life-cycle state is among those an operation of Table 15.7 admits for its slot; true where the operation does not
exist, which is a parameter's fault. -/
def kdLifeCycleOk (op slot : Nat) (lc : LifeCycle) : Bool :=
  match lc with
  | .retired => false
  | .test => op == 2 || op == 3 || op == 4 || decide (5 < op)
  | .manufacture => !(op == 3 && slot == 0)
  | .field => !(op == 2 || op == 5 || (op == 3 && decide (slot < 4)))
  | .service => !(op == 2 || (op == 3 && decide (slot < 4)))

/-- The operation, slot, lengths and attributes obey Tables 15.6 and 15.7. -/
def kdShapeOk (r : Req) : Bool :=
  let op := kdOp r
  let high := decide (6 ≤ kdSlot r) && decide (kdSlot r < 64)
  let attr := slotOfRecord (kdAttr r)
  let plain := kdSrc r == 0 && kdLabelLen r == 0 && kdCtxLen r == 0
  let padded := allZero (slice r.payload (24 + kdLabelLen r) (32 - kdLabelLen r))
    && allZero (slice r.payload (56 + kdCtxLen r) (64 - kdCtxLen r))
  decide (120 ≤ r.payload.length) && r.payload.length == 120 + kdDataLen r && padded &&
    (match op with
     | 0 => high && decide (kdSrc r < 64) && decide (1 ≤ kdLabelLen r) && decide (kdLabelLen r ≤ 32)
              && decide (kdCtxLen r ≤ 64) && kdDataLen r == 0 && attrValid (kdAttr r) && attr.kind == 1
     | 1 => high && decide (kdSrc r < 64) && kdLabelLen r == 0 && kdCtxLen r == 0 && attrValid (kdAttr r)
              && attr.kind == 2 && kdDataLen r == attr.keyLen + 8
     | 2 => high && plain && attrValid (kdAttr r) && attr.kind == 2 && kdDataLen r == attr.keyLen
     | 3 => (high || decide (kdSlot r < 4)) && plain && attrValid (kdAttr r) && attr.kind == 3 && kdDataLen r == 64
     | 4 => high && plain && allZero (kdAttr r) && kdDataLen r == 0
     | 5 => plain && allZero (kdAttr r) && decide (9 ≤ kdDataLen r)
     | _ => false)

/-- BAD_PARAM of KEY_DERIVE with its DETAIL (R419). -/
def kdParams (r : Req) (s : State) : Option Nat :=
  if !kdShapeOk r then some 0
  else if kdOp r = 5 then
    let off := fieldLe (kdData r) 0 4
    let total := fieldLe (kdData r) 4 4
    let len := if off = 0 then total else s.keys.chainLen
    if total = 0 ∨ 16384 < total ∨ len < off + (kdDataLen r - 8) then some 0 else none
  else if kdOp r ≠ 4 ∧ (keySlot s (kdSlot r)).kind ≠ 0 then some 0x0D02
  else none

/-- Another KEY_DERIVE names the same SLOT or SRC and has not given its final reply (R419). -/
def kdBusy (r : Req) (s : State) : Bool :=
  s.cmd.inflight.any (fun e =>
    e.packet.tag != r.tag && e.opcode == 0x0D01 && (e.phase == .armed || e.phase == .committed) &&
      (let o := reqOf e.via e.packet e.acceptedAt
       kdSlot o == kdSlot r || (kdSrc r != 0 && kdSrc o == kdSrc r)))

/-- The key a KEY_DERIVE writes; none where the unwrap's integrity check fails (R418, R419). -/
def kdKey (r : Req) (s : State) : Option Bytes :=
  let attr := slotOfRecord (kdAttr r)
  match kdOp r with
  | 0 => some (kdf (keySlot s (kdSrc r)).material (slice r.payload 24 (kdLabelLen r)) (slice r.payload 56 (kdCtxLen r))
      attr.keyLen)
  | 1 => aesKwUnwrap (keySlot s (kdSrc r)).material (kdData r)
  | _ => some (kdData r)

/-- Execution checks of KEY_DERIVE (R409, R419). -/
def kdChecks (r : Req) (s : State) : Option (Nat × Nat) :=
  let attr := slotOfRecord (kdAttr r)
  let src := keySlot s (kdSrc r)
  if kdBusy r s then some (stBusy, 0)
  else
    match kdOp r with
    | 0 =>
      if (rootSecret s).isNone then some (stInternal, 0)
      else if !slotPermits src 6 1 10 s || (attr.worlds &&& src.worlds) != attr.worlds || (attr.lc &&& src.lc) != attr.lc
        then some (stDenied, 0)
      else none
    | 1 =>
      if !slotPermits src 5 1 10 s then some (stDenied, 0)
      else if (kdKey r s).isNone then some (stVerifyFail, 0)
      else none
    | _ => none

/-- What KEY_DERIVE writes: a slot record, an empty slot, or a chunk of the chain (R419). -/
def kdCommit (r : Req) (s : State) : State :=
  let n := kdSlot r
  match kdOp r with
  | 4 =>
    answer r stOk 0 [] (dropMarks n (setSlot n { generation := (keySlot s n).generation + 1 } s))
  | 5 =>
    let off := fieldLe (kdData r) 0 4
    let total := fieldLe (kdData r) 4 4
    let data := (kdData r).drop 8
    let s := if off = 0 then { s with keys := { s.keys with chainLen := total, chain := data } }
      else { s with keys := { s.keys with chain := patchAt s.keys.chain off data } }
    answer r stOk 0 [] s
  | _ =>
    let k := slotOfRecord (kdAttr r)
    let k := { k with material := (kdKey r s).getD [], generation := (keySlot s n).generation + 1 }
    answer r stOk 0 [] (dropMarks n (setSlot n k s))

/-- KEY_DERIVE. -/
def keyDeriveOp : OpDef :=
  { code := 0x0D01
    lifecycle := fun r s => if kdLifeCycleOk (kdOp r) (kdSlot r) s.otp.lcState then none else some 0
    params := kdParams
    checks := kdChecks
    commit := kdCommit }

/-- Meaning of KEY_DERIVE (R419). -/
def execKeyDerive (c : CmdSource) (s : State) : Host.Outcome State Fault Refusal := .next (runCommand keyDeriveOp c s)

/-- Seed of the RSA identity key (Table 15.5). -/
def rsaSeed (root : Bytes) : Bytes := kdf root (ascii ['G','H','9','6','-','I','D','-','R','S','A']) [] 64

/-- Seed of the ML-DSA-87 identity key (Table 15.5). -/
def mldsaSeed (root : Bytes) : Bytes := kdf root (ascii ['G','H','9','6','-','I','D','-','M','L','D','S','A']) [] 32

/-- RSA_E followed by RSA_N of the identity key (R424). -/
def identityRsa (s : State) : Bytes :=
  match rootSecret s with
  | some root => leBytes 4 65537 ++ fit 512 (Config.rsaModulus (rsaSeed root))
  | none => []

/-- The ML-DSA-87 identity public key, where PQ_REQUIRED is blown (R420). -/
def identityMldsa (s : State) : Bytes :=
  match rootSecret s with
  | some root => if s.otp.pqRequired then fit 2592 (mldsaPublic (mldsaSeed root)) else []
  | none => []

/-- The result of KEY_SLOT_INFO (R424). -/
def slotInfo (n : Nat) (s : State) : Bytes :=
  let k := keySlot s n
  let retired := s.otp.lcState = .retired
  if n = 5 then
    if (rootSecret s).isSome ∧ ¬retired then slotRecord { kind := 1, keyLen := 32, generation := 1 } ++ List.replicate 8 0
    else List.replicate 24 0
  else if 4 ≤ n ∧ retired then List.replicate 24 0
  else if n < 4 ∨ k.kind = 3 then slotRecord k ++ List.replicate 16 0 ++ fit 64 k.material
  else if n = 4 then
    let id := if s.keys.identityReady then identityRsa s ++ identityMldsa s else []
    let k := if s.keys.identityReady then { k with kind := 4, usage := 0x080 } else k
    slotRecord k ++ List.replicate 80 0 ++ id
  else if k.kind = 1 ∨ k.kind = 2 then
    slotRecord k ++ (hmac512 k.material (ascii ['G','H','9','6','-','K','C','V'])).take 8
  else slotRecord k ++ List.replicate 8 0

/-- KEY_SLOT_INFO. -/
def keySlotInfoOp : OpDef :=
  { code := 0x0D02
    params := fun r _ => if r.payload.isEmpty ∨ 63 < byteAt r.payload 0 then some 0 else none
    commit := fun r s => answer r stOk 0 (slotInfo (byteAt r.payload 0) s) s }

/-- Meaning of KEY_SLOT_INFO (R424). -/
def execKeySlotInfo (c : CmdSource) (s : State) : Host.Outcome State Fault Refusal := .next (runCommand keySlotInfoOp c s)

/-! The quote (R423). -/

/-- Code of a pair state (Table 14.9). -/
def pairCode : PairState → Nat
  | .alone => 0
  | .joining => 1
  | .paired => 2
  | .frozen => 3

/-- The bytes of a patch log entry, in the layout of Table 3.7. -/
def patchBytes (p : Patch) : Bytes :=
  leBytes 2 p.section_ ++ [0, 0] ++ leBytes 4 p.offset ++ leBytes 2 p.data.length ++ List.replicate 6 0 ++ leBytes 8 p.crc ++ p.data

/-- Stored rollback counter of a part type (R365). -/
def partRollback (s : State) (ty : Nat) : Nat := Tab.get s.upd.rollbacks ty 0

/-- The governing slot of the bank pointer (R366): the valid one with the greater SEQ; before any slot is written, bank A
is ACTIVE and no trial runs (log 3). -/
def bankPointer (s : State) : BankSlot :=
  let none0 : BankSlot := { seq := 0, active := 0, trial := none, trialCount := 0, trialLimit := 0, preTrialImage := none, valid := false }
  let a := Tab.get s.upd.slots 0 none0
  let b := Tab.get s.upd.slots 1 none0
  if a.valid && b.valid then (if b.seq ≤ a.seq then a else b) else if a.valid then a else if b.valid then b else none0

/-- The quote body at one instant (Table 15.8). -/
def quoteBody (nonce : Bytes) (s : State) : Bytes :=
  let parts := s.upd.parts
  let img := s.img.live
  leBytes 4 0x9620A77E ++ leBytes 2 1 ++ leBytes 2 (528 + 80 * parts.length) ++ leBytes 8 s.otp.deviceId.toNat
    ++ leBytes 2 0x0A01 ++ [BitVec.ofNat 8 (lcCode s.otp.lcState), BitVec.ofNat 8 s.otp.lcCount,
      BitVec.ofNat 8 (modeCode s.sys.mode),
      BitVec.ofNat 8 (flagBit s.sys.split 0 + flagBit s.otp.pqRequired 1 + flagBit (bit s.otp.rstReachRead.toNat 31) 2),
      BitVec.ofNat 8 (pairCode s.pair.st), BitVec.ofNat 8 (b2n s.pair.standby)]
    ++ leBytes 4 s.otp.rstReachRead.toNat ++ leBytes 4 s.sys.powerCycles ++ fit 32 nonce
    ++ sha512 (identityRsa s)
    ++ (if s.otp.pqRequired then sha512 (identityMldsa s) else List.replicate 64 0)
    ++ (if s.keys.chainLen = 0 then List.replicate 64 0 else sha512 (fit s.keys.chainLen s.keys.chain))
    ++ fit 64 s.upd.manifestDigest ++ leBytes 4 s.upd.manifestVersion
    ++ [BitVec.ofNat 8 s.upd.booted, BitVec.ofNat 8 ((bankPointer s).trial.getD 0xFF), 0, 0]
    ++ (match img with
        | some i => fit 64 i.digest ++ leBytes 4 (imgVersion i)
        | none => List.replicate 68 0)
    ++ leBytes 2 s.img.patchLog.length ++ leBytes 2 parts.length
    ++ (match img with
        | some i => fit 32 (imgNetwork i)
        | none => List.replicate 32 0)
    ++ (if s.img.patchLog.isEmpty then List.replicate 64 0 else sha512 ((s.img.patchLog.map patchBytes).flatten))
    ++ ((List.range 5).map (fun t => leBytes 4 (partRollback s (t + 1)))).flatten ++ leBytes 4 s.img.rollback
    ++ List.replicate 8 0
    ++ (parts.map (fun p => leBytes 2 p.1 ++ [0, 0] ++ leBytes 4 p.2.1 ++ leBytes 4 p.2.2.1 ++ List.replicate 4 0
        ++ fit 64 p.2.2.2)).flatten

/-- The part of the last quote of a transport that a PART above 0 names; none where nothing exists (R423). -/
def quotePart (part transport : Nat) (s : State) : Option Bytes :=
  match s.keys.quotes.lookup transport with
  | none => none
  | some q =>
    if 1 ≤ part ∧ part ≤ 5 then
      let b := slice q.chain (4000 * (part - 1)) 4000
      if b.isEmpty then none else some b
    else if part = 0x80 ∧ q.mldsaSig ≠ [] then some (q.mldsaSig.take 2320)
    else if part = 0x81 ∧ q.mldsaSig ≠ [] then some (slice q.mldsaSig 2320 2307)
    else none

/-- ATTEST_QUOTE. -/
def attestQuoteOp : OpDef :=
  { code := 0x0D10
    lifecycle := fun _ s => if s.otp.lcState = .test ∨ s.otp.lcState = .retired then some 0 else none
    params := fun r s =>
      if r.payload.length ≠ 36 ∨ !allZero (slice r.payload 1 3) then some 0
      else if byteAt r.payload 0 = 0 then none
      else if (quotePart (byteAt r.payload 0) r.transport s).isNone then some 0 else none
    checks := fun r s => if byteAt r.payload 0 = 0 ∧ !s.keys.identityReady then some (stBusy, 0) else none
    commit := fun r s =>
      if byteAt r.payload 0 = 0 then
        let body := quoteBody (slice r.payload 4 32) s
        let root := (rootSecret s).getD []
        let (n, s) := drawNat s
        let sig := fit 512 (Config.rsaSign (rsaSeed root) body n)
        let (rnd, s) := drawBytes 32 s
        let pq := if s.otp.pqRequired then fit 4627 (mldsaSign (mldsaSeed root) body rnd) else []
        let s := { s with keys := { s.keys with
          quotes := Tab.set s.keys.quotes r.transport
            { body := body, mldsaSig := pq, chain := fit s.keys.chainLen s.keys.chain } } }
        answer r stOk 0 (body ++ sig) s
      else answer r stOk 0 ((quotePart (byteAt r.payload 0) r.transport s).getD []) s }

/-- Meaning of ATTEST_QUOTE (R423). -/
def execAttestQuote (c : CmdSource) (s : State) : Host.Outcome State Fault Refusal := .next (runCommand attestQuoteOp c s)

/-- Meaning of IDENTITY_KEYGEN_COMPLETE: the identity keys are generated from the root secret and cached (R420). -/
def execIdentityKeygenComplete (s : State) : Host.Outcome State Fault Refusal :=
  .next (if clusterServes s ∧ (rootSecret s).isSome ∧ s.otp.lcState ≠ .retired then
    { s with keys := { s.keys with identityReady := true } } else s)

/-! The life cycle (R411, R412). -/

/-- TARGET of LC_TRANSITION. -/
def lcTarget (r : Req) : Nat := byteAt r.payload 0

/-- EXPECT_COUNT of LC_TRANSITION. -/
def lcExpect (r : Req) : Nat := fieldLe r.payload 4 4

/-- Table 15.1 admits the transition from the present state, the conditions of MANUFACTURE to FIELD included. -/
def lcAdmits (target : Nat) (s : State) : Bool :=
  match s.otp.lcState, target with
  | .test, 1 => true
  | .manufacture, 2 => s.keys.identityReady && (keySlot s 0).kind != 0
  | .field, 3 => decide (s.otp.lcCount ≤ 28)
  | .service, 2 => true
  | .retired, _ => false
  | _, 4 => true
  | _, _ => false

/-- LC_TRANSITION. -/
def lcTransitionOp : OpDef :=
  { code := 0x0D20
    authMissing := fun _ s => s.otp.lcState != .test
    denied := fun r s => r.auth && s.otp.lcState != .test && !bit (keySlot s r.slot).usage 9
    lifecycle := fun r s =>
      if s.otp.lcState = .field ∧ lcTarget r = 3 ∧ lcExpect r = 30 ∧ s.otp.lcCount = 30 then some 0x0D21 else none
    params := fun r s =>
      if r.payload.length ≠ 8 ∨ !allZero (slice r.payload 1 3) ∨ lcExpect r ≠ s.otp.lcCount then some 0
      else if s.otp.lcState = .manufacture ∧ lcTarget r = 2 ∧ (rootSecret s).isNone then none
      else if !lcAdmits (lcTarget r) s then some 0 else none
    checks := fun r s =>
      if s.img.armed.isSome ∨ s.img.pending.isSome then some (stBusy, 0)
      else if s.otp.lcState = .manufacture ∧ lcTarget r = 2 ∧ (rootSecret s).isNone then some (stInternal, 0)
      else none
    commit := fun r s =>
      let s := if lcTarget r = 4 then { s with otp := { s.otp with retiredCell := 7 } }
        else { s with otp := { s.otp with lcCells := s.otp.lcCells.set s.otp.lcCount 7 } }
      answer r stOk 0 [] { s with rst := { s.rst with lcReset := true, resetFrom := s.clk } } }

/-- Meaning of LC_TRANSITION (R412). -/
def execLcTransition (c : CmdSource) (s : State) : Host.Outcome State Fault Refusal := .next (runCommand lcTransitionOp c s)

end Sys2Proof.Machine
end

