-- ==== Sys2Proof/Machine/Recorder.lean ====
section
/-!
DEFINITION. The event recorder: its writer, EVR_READ and EVR_CLEAR (chapter Counters and event recorder, R436–R442).
-/
namespace Sys2Proof.Machine

/-- Meaning of EVR_RECORD_WRITE: the writer takes the oldest queued event (R437).  An event that no longer fits is counted
as unrecorded (R438, R439).  Nothing is written while a clear is under way (R442). -/
def execEvrRecordWrite (s : State) : Host.Outcome State Fault Refusal :=
  .next (
    if !clusterServes s ∨ clearPending s then s
    else
      match s.evr.queue with
      | [] => s
      | (ty, body) :: rest => recordNow ty body { s with evr := { s.evr with queue := rest } })

/-! Reading (R440). -/

/-- Length in bytes of the record at an offset. -/
def recLenAt (m : Mem) (off : Nat) : Nat := 4 * (Mem.read m (off + 1)).toNat

/-- The whole records from `off` to the head with SEQUENCE at or above `start` that fit in `room` bytes. -/
def recordsFrom (m : Mem) (head start : Nat) : Nat → Nat → Nat → Bytes
  | 0, _, _ => []
  | fuel + 1, off, room =>
    if head ≤ off then []
    else
      let n := recLenAt m off
      if n < 16 then []
      else
        let b := Mem.readAll m off n
        if fieldLe b 4 4 < start then recordsFrom m head start fuel (off + n) room
        else if room < n then []
        else b ++ recordsFrom m head start fuel (off + n) (room - n)

/-- The records of the log from `off` to the head, oldest first: TYPE and body (R436). -/
def recordList (m : Mem) (head : Nat) : Nat → Nat → List (Nat × Bytes)
  | 0, _ => []
  | fuel + 1, off =>
    let n := recLenAt m off
    if head ≤ off ∨ n < 16 then []
    else
      let b := Mem.readAll m off n
      (fieldLe b 2 2, b.drop 16) :: recordList m head fuel (off + n)

/-- The records an EVR_READ returns: the ordinary ones, then RECORDER_FULL where it is present (R438, R440). -/
def readRecords (start max : Nat) (s : State) : Bytes :=
  let e := s.evr
  let from_ := Nat.max start e.firstSeq
  let b := recordsFrom e.mem e.head from_ (e.head / 16 + 1) 0 max
  if e.full ∧ from_ ≤ e.lastSeq then
    let n := recLenAt e.mem recLimit
    let whole := (recordsFrom e.mem e.head from_ (e.head / 16 + 1) 0 recLimit).length
    if b.length = whole ∧ b.length + n ≤ max then b ++ Mem.readAll e.mem recLimit n else b
  else b

/-- EVR_READ. -/
def evrReadOp : OpDef :=
  { code := 0x0F01
    params := fun r _ =>
      if r.payload.length ≠ 8 ∨ fieldLe r.payload 4 2 < 256 ∨ 4048 < fieldLe r.payload 4 2 ∨ fieldLe r.payload 6 2 ≠ 0
      then some 0 else none
    commit := fun r s =>
      answer r stOk 0 (leBytes 4 s.evr.lastSeq ++ leBytes 4 s.evr.firstSeq ++ leBytes 4 s.bkp.unrecorded
        ++ [BitVec.ofNat 8 (b2n s.evr.full), 0, 0, 0]
        ++ readRecords (fieldLe r.payload 0 4) (fieldLe r.payload 4 2) s) s }

/-- Meaning of EVR_READ (R440). -/
def execEvrRead (c : CmdSource) (s : State) : Host.Outcome State Fault Refusal := .next (runCommand evrReadOp c s)

/-! Clearing (R441, R442). -/

/-- OP of EVR_CLEAR. -/
def clearOp (r : Req) : Nat := byteAt r.payload 0

/-- The clear nonce held now: 600 s of local clock consume it (R441). -/
def liveNonce (s : State) : Option Bytes :=
  match s.evr.nonce with
  | some (n, at_) => if s.clk < at_ + 600000000000 then some n else none
  | none => none

/-- The 64-byte clear statement (R441). -/
def clearStatement (nonce : Bytes) (s : State) : Bytes :=
  leBytes 4 0x9620C1EA ++ leBytes 8 s.otp.deviceId.toNat ++ fit 32 nonce ++ List.replicate 20 0

/-- The key and the signature of an OP 1 (R441). -/
def clearSigned (r : Req) (nonce : Bytes) (s : State) : Bool :=
  let k := keySlot s (byteAt r.payload 1)
  sha512 (slice r.payload 4 516) == fit 64 k.material
    && rsaPssVerify (fieldLe r.payload 4 4) (slice r.payload 8 512) (slice r.payload 520 512) (clearStatement nonce s)

/-- Execution checks of EVR_CLEAR (R441). -/
def clearChecks (r : Req) (s : State) : Option (Nat × Nat) :=
  if clearOp r = 0 then none
  else
    match liveNonce s with
    | none => some (stBadParam, 0x0F01)
    | some n =>
      let k := keySlot s (byteAt r.payload 1)
      if k.kind ≠ 3 ∨ !slotPermits k 8 1 9 s then some (stDenied, 0)
      else if !clearSigned r n s then some (stVerifyFail, 0)
      else none

/-- The EVR_CLEARED body (R442). -/
def clearedBody (r : Req) (s : State) : Bytes :=
  leBytes 4 s.evr.firstSeq ++ leBytes 4 s.evr.lastSeq ++ [BitVec.ofNat 8 (b2n s.evr.full)] ++ leBytes 4 s.bkp.unrecorded
    ++ [BitVec.ofNat 8 (byteAt r.payload 1), BitVec.ofNat 8 r.world, BitVec.ofNat 8 r.slot] ++ leBytes 2 r.tag.toNat

/-- The clear under way ends: EVR_CLEARED stands at offset 0 and its command's final reply goes out (R442). -/
def completeClear (s : State) : State :=
  match s.evr.clearing with
  | some (_, seq, count, tag) =>
    let s := settleClear s
    let s := { s with evr := { s.evr with clearing := none } }
    match tag with
    | some t => finalReply t stOk 0 (leBytes 4 seq ++ leBytes 4 count) s
    | none => s
  | none => s

/-- EVR_CLEAR: OP 0 draws the nonce; OP 1 consumes it and writes the log descriptor, and the clear then runs (R441,
R442). -/
def evrClearOp : OpDef :=
  { code := 0x0F02
    lifecycle := fun r s => if clearOp r = 1 ∧ s.otp.lcState = .retired then some 0 else none
    params := fun r _ =>
      if (clearOp r = 0 ∧ r.payload.length = 4 ∧ allZero r.payload)
          ∨ (clearOp r = 1 ∧ r.payload.length = 1032 ∧ byteAt r.payload 1 < 64 ∧ fieldLe r.payload 2 2 = 0) then none
      else some 0
    checks := clearChecks
    onFail := fun _ s => { s with evr := { s.evr with nonce := none } }
    commit := fun r s =>
      if clearOp r = 0 then
        let (n, s) := drawBytes 32 s
        answer r stOk 0 n { s with evr := { s.evr with nonce := some (n, s.clk) } }
      else
        let s := completeClear s
        { s with
          evr := { s.evr with nonce := none
                              clearing := some (clearedBody r s, (s.evr.lastSeq + 1) % 2 ^ 32, s.bkp.unrecorded, some r.tag) }
          bkp := { s.bkp with unrecorded := 0 } } }

/-- Meaning of EVR_CLEAR (R441). -/
def execEvrClear (c : CmdSource) (s : State) : Host.Outcome State Fault Refusal := .next (runCommand evrClearOp c s)

/-- Meaning of EVR_CLEAR_COMPLETE: EVR_CLEARED stands at offset 0 of the erased partition and the final reply goes out
(R442). -/
def execEvrClearComplete (s : State) : Host.Outcome State Fault Refusal :=
  .next (if clusterServes s then completeClear s else s)

/-- Meaning of CLEAR_NONCE_EXPIRY: 600 s after it was drawn the nonce is consumed (R441). -/
def execClearNonceExpiry (s : State) : Host.Outcome State Fault Refusal :=
  .next (
    match s.evr.nonce with
    | some (_, at_) =>
      let s := reachClock (at_ + 600000000000) s
      { s with evr := { s.evr with nonce := none } }
    | none => s)

end Sys2Proof.Machine
end

