-- ==== Sys2Proof/Machine/SysCmds.lean ====
section
/-!
DEFINITION. The SYS commands, a command whose opcode is not defined, and the end of an in-band session's binding
(chapters Command packets and Architecture).
-/
namespace Sys2Proof.Machine

/-- SYS_REV (R1, Table 17.3). -/
def sysRev : Nat := 0x0A01

/-- The 64-byte SYS_GET_INFO result (Table 2.13). -/
def sysInfo (s : State) : Bytes :=
  fit 16 s.cmd.nonce ++ leBytes 2 sysRev
    ++ [BitVec.ofNat 8 (modeCode s.sys.mode), BitVec.ofNat 8 (lcCode s.otp.lcState), BitVec.ofNat 8 s.otp.lcCount,
        BitVec.ofNat 8 (flagBit s.sys.split 0 + flagBit s.otp.pqRequired 1 + flagBit s.sys.romOnly 2),
        BitVec.ofNat 8 (b2n s.sys.straps.secondary), BitVec.ofNat 8 (b2n s.pair.standby)]
    ++ leBytes 8 s.otp.deviceId.toNat ++ leBytes 4 (if s.sys.romOnly then 0 else s.sys.fwVersion.toNat)
    ++ leBytes 2 s.otp.vendorId.toNat ++ leBytes 2 s.otp.subsysVendorId.toNat ++ leBytes 2 s.otp.subsysId.toNat
    ++ beBytes 6 s.otp.mpAddress ++ List.replicate 16 0

/-- SYS_GET_INFO; an AT_TIME prefix makes LENGTH other than 0 (R476). -/
def sysGetInfoOp : OpDef :=
  { code := 0x0001
    params := fun r _ => if r.payload.isEmpty && r.instant.isNone then none else some 0
    commit := fun r s => answer r stOk 0 (sysInfo s) s }

/-- Meaning of SYS_GET_INFO (R476). -/
def execSysGetInfo (c : CmdSource) (s : State) : Host.Outcome State Fault Refusal := .next (runCommand sysGetInfoOp c s)

/-! SYS_ABORT (R64). -/

/-- The tag a SYS_ABORT names. -/
def abortTarget (r : Req) : Word16 := BitVec.ofNat 16 (fieldLe r.payload 0 2)

/-- The named command is in flight and short of its commit point. -/
def abortable (t : Word16) (s : State) : Bool :=
  match findTag s t with
  | some e => e.phase == .waiting || e.phase == .armed
  | none => false

/-- SYS_ABORT: the target's ABORTED reply goes first, then the abort's own; ORDERED and DRYRUN are parameters it does not
take (R58, R59, R64). -/
def sysAbortOp : OpDef :=
  { code := 0x0002
    denied := fun r _ => decide (r.payload.length = 4) && tagTransport (abortTarget r) != r.transport && r.world != 1
    params := fun r _ =>
      if r.payload.length ≠ 4 ∨ !allZero (r.payload.drop 2) ∨ r.dryrun ∨ r.ordered then some 0 else none
    commit := fun r s =>
      let t := abortTarget r
      if t ≠ r.tag ∧ abortable t s then answer r stOk 0 [] (abortCommand t 1 s) else answer r stTooLate 0 [] s }

/-- Meaning of SYS_ABORT (R64). -/
def execSysAbort (c : CmdSource) (s : State) : Host.Outcome State Fault Refusal := .next (runCommand sysAbortOp c s)

/-! SYS_SET_MODE (R34, Table 1.8). -/

/-- TARGET of SYS_SET_MODE. -/
def modeTarget (r : Req) : Nat := byteAt r.payload 0

/-- The target is one that Table 1.8 reaches from the present mode. -/
def modeReachable (target : Nat) (m : Mode) : Bool :=
  if target = 4 then m == .configured
  else if target = 7 then runMode m
  else if target = 3 then forwarding m
  else true

/-- The tag under which a request that SYNC carried from the peer waits; no transport has it (R391). -/
def peerTag : Word16 := 0xFFFF

/-- The mode controller takes the request for a target now: Table 1.8 reaches it, and for AUTONOMOUS no such request waits and no
committed Dusk round is in progress (R34, R35). -/
def setModeRuns (target : Nat) (s : State) : Bool :=
  modeReachable target s.sys.mode && (target != 4 || (s.sys.autonomousTag.isNone && s.wake.ring != .quiet))

/-- The effect of SYS_SET_MODE: AUTONOMOUS waits for the next cycle boundary, and displaces no request that waits already; SAFE is entered; RECOVERY asserts its L1
source after the request flag and the reply are written (R33, R34, R35). -/
def setModeEffect (r : Req) (s : State) : State :=
  if modeTarget r = 7 then
    if setModeRuns 7 s then answer r stOk 0 [] (enterSafe s) else answer r stWrongMode 0 [] s
  else if modeTarget r = 4 then
    if setModeRuns 4 s then
      { s with sys := { s.sys with
          autonomousTag := some (if r.fromPeer then peerTag else r.tag), autonomousAt := nextBoundary 0 s } }
    else answer r stWrongMode 0 [] s
  else
    assertSource 12 (answer r stOk 0 [] { s with sys := { s.sys with recoveryRequest := true } })

/-- SYS_SET_MODE. -/
def sysSetModeOp : OpDef :=
  { code := 0x0010
    denied := fun r _ => r.world == 2 && modeTarget r != 7
    partitioned := fun r s => frozen s && (modeTarget r == 4 || modeTarget r == 3)
    wrongMode := fun r s =>
      decide (r.payload.length = 4) && (modeTarget r == 3 || modeTarget r == 4 || modeTarget r == 7)
        && (!modeReachable (modeTarget r) s.sys.mode || (isStandby s && modeTarget r != 3))
    params := fun r _ =>
      if r.payload.length ≠ 4 ∨ !allZero (r.payload.drop 1) ∨
          (modeTarget r ≠ 3 ∧ modeTarget r ≠ 4 ∧ modeTarget r ≠ 7) then some 0
      else none
    checks := fun r s => if setModeRuns (modeTarget r) s then none else some (stWrongMode, 0)
    commit := fun r s => if modeTarget r = 3 then setModeEffect r s else relayOrRun setModeEffect r s
    effect := setModeEffect }

/-- Meaning of SYS_SET_MODE (R34). -/
def execSysSetMode (c : CmdSource) (s : State) : Host.Outcome State Fault Refusal := .next (runCommand sysSetModeOp c s)

/-- SYS_SET_AUTH_POLICY: the policy is written to the system area (R47, log 7). -/
def sysSetAuthPolicyOp : OpDef :=
  { code := 0x0020
    params := fun r _ => if (Config.authPolicyOf r.payload).isNone then some 0 else none
    commit := fun r s =>
      match Config.authPolicyOf r.payload with
      | some (w2, relax) =>
        answer r stOk 0 [] { s with cmd := { s.cmd with policy := { w2Required := w2, w1Relaxed := relax } } }
      | none => s }

/-- Meaning of SYS_SET_AUTH_POLICY (R47). -/
def execSysSetAuthPolicy (c : CmdSource) (s : State) : Host.Outcome State Fault Refusal :=
  .next (runCommand sysSetAuthPolicyOp c s)

/-- Meaning of BAD_OPCODE_COMMAND: a command whose opcode Table 2.12 does not define (R57 check 3); an opcode that it does
define has a row of its own. -/
def execBadOpcodeCommand (opcode : Word16) (via : Via) (p : Packet) (s : State) : Host.Outcome State Fault Refusal :=
  .next (
    if (opWorlds opcode.toNat).isSome then s
    else arrive { code := opcode.toNat, commit := fun _ s => s } via p s)

/-! In-band sessions (R55). -/

/-- Tags of a session are in flight. -/
def sessionBusy (n : Nat) (s : State) : Bool := s.cmd.inflight.any (fun e => tagTransport e.packet.tag == 0x20 + n)

/-- The binding of a session ends, and the replies kept for its tags with it (R55, R56). -/
def endSession (n : Nat) (s : State) : State :=
  { s with cmd := { s.cmd with
      sessions := Tab.del s.cmd.sessions n
      lastInBand := s.cmd.lastInBand.filter (fun e => e.1 / 256 != 0x20 + n) } }

/-- Meaning of SESSION_IDLE_EXPIRY: 60 s have passed with no tag of the session in flight (R55). -/
def execSessionIdleExpiry (n : Fin 16) (s : State) : Host.Outcome State Fault Refusal :=
  .next (
    match s.cmd.sessions.lookup n.val with
    | some b =>
      if sessionBusy n.val s then s else endSession n.val (reachClock (b.lastActive + 60000000000) s)
    | none => s)

end Sys2Proof.Machine
end

