-- ==== Sys2Proof/Machine/Flags.lean ====
section
/-!
DEFINITION. The status flags and words the device computes for its registers: what each direct-window register reads in
each view, and the side effects of reading (chapters Direct register map and Command packets).
-/
namespace Sys2Proof.Machine

/-- SYS_MODE (Table 17.4). -/
def sysModeWord (s : State) : Nat :=
  s.otp.lcCount * 65536 + lcCode s.otp.lcState * 256 + flagBit s.sys.split 7 + modeCode s.sys.mode

/-- SYS_STRAPS (Table 17.3). -/
def sysStrapsWord (s : State) : Nat :=
  let x := s.sys.sampled
  flagBit x.clkSel 7 + flagBit x.secondary 6 + x.profile.toNat * 16 + x.boot.toNat

/-- SAF_STAT (Table 17.8). -/
def safStatWord (s : State) : Nat :=
  flagBit s.sys.split 12
    + sumBy (fun n => flagBit (Tab.get s.saf.cores n {}).retired (8 + n)) (List.range 3)
    + flagBit s.saf.faultIn 3 + flagBit (s.sys.mode == .safe) 2 + flagBit s.saf.faultN 1 + flagBit (healthGood s) 0

/-- RING_ACTIVE of function `f`: the ring is enabled, or still owes a completion entry (R50). -/
def ringActive (f : Nat) (s : State) : Bool :=
  let r := cmdRing s f
  r.enable || !r.held.isEmpty
    || s.cmd.inflight.any (fun e => !e.discard && (match e.via with
        | .ring g _ _ _ => g.val == f
        | _ => false))

/-- CMD_RING_CFG (Table 2.9). -/
def ringCfgWord (r : CmdRing) : Nat := flagBit r.enable 31 + r.msixVec * 256 + r.sqSize

/-- CMD_STAT (Table 2.8). -/
def cmdStatWord (f : Nat) (s : State) : Nat :=
  let r := cmdRing s f
  flagBit r.descErr 3 + flagBit (ringActive f s) 2 + flagBit r.fetchErr 1 + flagBit r.dbErr 0

/-- CMD_MB_STAT (Table 2.10). -/
def mbStatWord (s : State) : Nat :=
  Nat.min 255 s.cmd.replies.length * 256 + flagBit s.cmd.mbDbErr 1 + flagBit s.cmd.reqBusy 0

/-- HST_TXn_CFG or HST_RXn_CFG (Table 11.3). -/
def hstCfgWord (r : HstRing) : Nat :=
  flagBit r.enable 31 + flagBit r.err 30 + r.vec * 2 ^ 24 + r.size * 2 ^ 20 + r.head

/-- HST_XSPI_STAT (Table 11.9). -/
def xspiStatWord (s : State) : Nat :=
  let x := s.hst.xspi
  flagBit x.replay.isSome 7 + flagBit x.replayed 6 + flagBit x.seClip 5 + flagBit x.alignErr 4 + flagBit x.cmdErr 3
    + flagBit x.late 2 + flagBit x.wrOvf 1 + flagBit x.wrErr 0

/-- HST_ACC_STAT of function `f` (Table 17.7). -/
def accStatWord (f : Nat) (s : State) : Nat :=
  let p := pciFn s f
  flagBit p.worldErr 3 + flagBit p.ownErr 2 + flagBit p.dbErr 1 + flagBit p.sizeErr 0

/-- HST_SIDEBAND (Table 17.7). -/
def sidebandWord (s : State) : Nat := s.pair.glitches * 65536 + s.pair.intClass * 2 + b2n s.pair.hlthIn

/-- EVR_STAT once the head is found (Table 17.6). -/
def evrStatWord (s : State) : Nat := flagBit (decide (512 ≤ s.evr.queue.length)) 1 + flagBit s.evr.full 0

/-- TIM_TSn_POP (Table 17.9). -/
def popWord (n : Nat) (s : State) : Nat :=
  let k := (tsync s n).fifo.length
  flagBit (k != 0) 31 + k

/-- Transmit or receive ring `n`. -/
def hstRing (s : State) (receive : Bool) (n : Nat) : HstRing := Tab.get (if receive then s.hst.rx else s.hst.tx) n {}

/-- Replaces a transmit or receive ring. -/
def setHstRing (receive : Bool) (n : Nat) (r : HstRing) (s : State) : State :=
  if receive then { s with hst := { s.hst with rx := Tab.set s.hst.rx n r } }
  else { s with hst := { s.hst with tx := Tab.set s.hst.tx n r } }

/-- Number of a PCIe view; none for XSPI-H. -/
def viewFn : View → Option Nat
  | .f0 => some 0
  | .f1 => some 1
  | .f2 => some 2
  | .f3 => some 3
  | .xspi => none

/-- The view is F2 or F3, which reach the parts of R298 alone. -/
def restricted : View → Bool
  | .f2 | .f3 => true
  | _ => false

/-- The offset lies in the ring registers 0x0C00–0x0DFF: direction, ring and word (Table 11.2). -/
def ringOffset (off : Nat) : Option (Bool × Nat × Nat) :=
  if 0xC00 ≤ off ∧ off < 0xE00 then some (decide (0xD00 ≤ off), off / 16 % 16, off / 4 % 4) else none

/-- The word of a ring register. -/
def ringWord (r : HstRing) (k : Nat) : Nat :=
  match k with
  | 0 => r.base.toNat % 2 ^ 32
  | 1 => r.base.toNat / 2 ^ 32
  | 2 => r.tail
  | _ => hstCfgWord r

/-- A word of the MSI-X table or pending-bit array of function `f` (R298, log 6). -/
def msixWord (f off : Nat) (s : State) : Nat :=
  if off < 0xE400 then
    let e := vector s f ((off - 0xE000) / 16)
    match off / 4 % 4 with
    | 0 => e.addr.toNat % 2 ^ 32
    | 1 => e.addr.toNat / 2 ^ 32
    | 2 => e.data.toNat
    | _ => b2n e.masked
  else
    sumBy (fun i => flagBit (vector s f ((off - 0xF000) * 8 + i)).pending i) (List.range 32)

/-- The CMD registers of function `f` (Table 2.8). -/
def cmdWord (f off : Nat) (s : State) : Nat :=
  let r := cmdRing s f
  if off = 0x100 then r.sqBase.toNat % 2 ^ 32
  else if off = 0x104 then r.sqBase.toNat / 2 ^ 32
  else if off = 0x108 then r.cqBase.toNat % 2 ^ 32
  else if off = 0x10C then r.cqBase.toNat / 2 ^ 32
  else if off = 0x110 then ringCfgWord r
  else if off = 0x114 then r.sqTail
  else if off = 0x118 then r.sqHead
  else if off = 0x11C then r.cqHead
  else if off = 0x120 then r.cqTail
  else if off = 0x124 then cmdStatWord f s
  else 0

/-- The SYS registers (Table 17.3). -/
def sysWord (off : Nat) (s : State) : Nat :=
  if off = 0 then sysRev
  else if off = 4 then sysModeWord s
  else if off = 8 then sysStrapsWord s
  else if off = 0xC then (if s.sys.romOnly then 0 else s.sys.fwVersion.toNat)
  else if off = 0x10 then s.otp.deviceId.toNat % 2 ^ 32
  else if off = 0x14 then s.otp.deviceId.toNat / 2 ^ 32
  else if off = 0x18 then s.sys.scratch.toNat
  else 0

/-- The RST, CNT, EVR and SAF registers (Tables 17.6, 17.8). -/
def rstWord (off : Nat) (s : State) : Nat :=
  let seen := fun (v : Nat) => if s.evr.found then v else 0
  if off = 0x800 then s.bkp.lastCause.toNat
  else if off = 0x804 then s.bkp.episodes
  else if off = 0x808 then s.otp.rstReachRead.toNat
  else if 0x810 ≤ off ∧ off < 0x828 then
    let k := (off - 0x810) / 4
    Tab.get s.bkp.sourceCounts (4 + 2 * k) 0 + 65536 * Tab.get s.bkp.sourceCounts (5 + 2 * k) 0
  else if off = 0x1000 then s.cnt.snapSeq.toNat
  else if off = 0x1004 then flagBit s.cnt.snapAny 31 + s.cnt.snapBank
  else if 0x1040 ≤ off ∧ off < 0x1070 then (Tab.get s.cnt.ovf ((off - 0x1040) / 4) 0).toNat
  else if off = 0x1400 then seen s.evr.lastSeq
  else if off = 0x1404 then seen s.evr.firstSeq
  else if off = 0x1408 then s.bkp.unrecorded
  else if off = 0x140C then seen (evrStatWord s)
  else if off = 0x1800 then safStatWord s
  else if off = 0x1804 then s.saf.escCount * 65536 + s.saf.escRow
  else 0

/-- The TIM registers (Table 17.9). -/
def timWord (off : Nat) (s : State) : Nat :=
  let part := fun (b : Bytes) (base : Nat) => fieldLe b (off - base) 4
  if off = 0x1C04 then wModeCode s.time.w.mode
  else if 0x1C10 ≤ off ∧ off < 0x1C1C then part s.time.latchLocal 0x1C10
  else if 0x1C20 ≤ off ∧ off < 0x1C2C then part s.time.latchW 0x1C20
  else if 0x1C30 ≤ off ∧ off < 0x1C3C then part s.time.ppsIn 0x1C30
  else if off = 0x1C3C then s.time.ppsCnt.toNat
  else if 0x1C40 ≤ off ∧ off < 0x1C80 then
    let n := (off - 0x1C40) / 16
    if off % 16 = 12 then popWord n s else part ((tsync s n).fifo.headD []) (0x1C40 + 16 * n)
  else 0

/-- The current reply block of the mailbox; zeros where no reply is queued (R52). -/
def popBlock (s : State) : Bytes :=
  match s.cmd.replies with
  | r :: _ => fit 64 r.left
  | [] => List.replicate 64 0

/-- A word of the mailbox (R51, R52). -/
def mailboxWord (off : Nat) (s : State) : Nat :=
  if off < 0x9000 then ofLe (Mem.readAll s.cmd.request (off - 0x8000) 4)
  else if off < 0x9040 then fieldLe (popBlock s) (off - 0x9000) 4
  else 0

/-- The value of the register word at `off` in a view, before any side effect of its reading (R298, R443). -/
def peek (v : View) (off : Nat) (s : State) : Nat :=
  if off < 0x100 then sysWord off s
  else
    match ringOffset off, viewFn v with
    | some (rx, n, k), some f => let r := hstRing s rx n; if r.owner = some f then ringWord r k else 0
    | some _, none => 0
    | none, some f =>
      if off = 0xE10 then accStatWord f s
      else if (0xE000 ≤ off ∧ off < 0xE400) ∨ (0xF000 ≤ off ∧ off < 0xF008) then msixWord f off s
      else if restricted v then 0
      else if off < 0x140 then cmdWord f off s
      else common off
    | none, none =>
      if off = 0x144 then mbStatWord s
      else if 0x8000 ≤ off ∧ off < 0xA000 then mailboxWord off s
      else common off
where
  common (off : Nat) : Nat :=
    if off = 0x400 then s.intr.stat.toNat
    else if 0x440 ≤ off ∧ off < 0x46C then intRoute s ((off - 0x440) / 4)
    else if off = 0xE00 then flagBit s.hst.xspi.intEn 1 + flagBit s.hst.xspi.burstThrough 0
    else if off = 0xE04 then xspiStatWord s
    else if off = 0xE14 then sidebandWord s
    else if 0x1C00 ≤ off ∧ off < 0x2000 then timWord off s
    else if 0x800 ≤ off ∧ off < 0x1C00 then rstWord off s
    else 0

/-! Side effects of reading (R52, R446, R448). -/

/-- The current reply block is consumed; a reply whose last block is popped is delivered, and a final one frees its tag. -/
def popMailbox (s : State) : State :=
  match s.cmd.replies with
  | [] => s
  | r :: rest =>
    let left := r.left.drop 64
    if left.isEmpty then
      let s := { s with cmd := { s.cmd with replies := rest } }
      if r.final then freeTag r.tag s else s
    else { s with cmd := { s.cmd with replies := { r with left := left } :: rest } }

/-- CNT_OVFw is cleared. -/
def clearOvf (w : Nat) (s : State) : State := { s with cnt := { s.cnt with ovf := Tab.set s.cnt.ovf w 0 } }

/-- The head entry of a TSYNC FIFO is removed, where there is one (R448). -/
def popTsync (n : Nat) (s : State) : State := setTsync n { tsync s n with fifo := (tsync s n).fifo.drop 1 } s

/-- The side effect of reading the word at `off` in a view that is not restricted. -/
def readEffect (v : View) (off : Nat) (s : State) : State :=
  if restricted v then s
  else if 0x1040 ≤ off ∧ off < 0x1070 then clearOvf ((off - 0x1040) / 4) s
  else if 0x1C40 ≤ off ∧ off < 0x1C80 ∧ off % 16 = 12 then popTsync ((off - 0x1C40) / 16) s
  else if off = 0x903C ∧ v = .xspi then popMailbox s
  else s

/-- The offset lies in a side-effect window (R449). -/
def inWindow (off : Nat) : Bool :=
  (decide (0x8000 ≤ off) && decide (off < 0xA000)) || (decide (0x1040 ≤ off) && decide (off < 0x1080))
    || (decide (0x1C40 ≤ off) && decide (off < 0x1C80))

end Sys2Proof.Machine
end

