-- ==== Sys2Proof/Machine/Psfp.lean ====
section
/-!
DEFINITION. Stream protection: PSFP identification, gates and meters on the ingress side, FRER generation and recovery
(chapter Egress scheduling and stream protection).
-/
namespace Sys2Proof.Machine

/-! The PSFP section (Tables 7.10–7.15). -/

/-- ID_COUNT. -/
def idCount (sec : Bytes) : Nat := fieldLe sec 0 2
/-- FILTER_COUNT. -/
def filterCount (sec : Bytes) : Nat := fieldLe sec 2 2
/-- Offset of filter `h`. -/
def filterOff (sec : Bytes) (h : Nat) : Nat := 64 + 32 * idCount sec + 16 * h
/-- Offset of gate `g`. -/
def gateOff (sec : Bytes) (g : Nat) : Nat := filterOff sec (filterCount sec) + 16 * g
/-- Offset of gate entry `i`. -/
def gentryOff (sec : Bytes) (i : Nat) : Nat := gateOff sec (fieldLe sec 4 2) + 8 * i
/-- Offset of meter `m`. -/
def meterOff (sec : Bytes) (m : Nat) : Nat := gentryOff sec (fieldLe sec 8 2) + 32 * m

/-- The KEY of an identification entry equals the frame's fields (Table 7.11). -/
def idMatches (sec : Bytes) (o : Nat) (w : Walk) : Bool :=
  let fld := fun id => Tab.get w.fields id 0
  match byteAt sec o with
  | 0 => fieldLe sec (o + 8) 6 == fld 0x03 && fieldLe sec (o + 14) 2 == fld 0x05
  | 1 => fieldLe sec (o + 8) 6 == fld 0x04 && fieldLe sec (o + 14) 2 == fld 0x05
  | 2 =>
    byteAt sec (o + 9) == fld 0x0E && fieldLe sec (o + 10) 2 == fld 0x11
      && ((byteAt sec (o + 8) == 4 && w.ipv4 && fieldLe sec (o + 12) 4 == fld 0x0B)
        || (byteAt sec (o + 8) == 6 && w.ipv6 && fieldLe sec (o + 12) 16 == fld 0x0D))
  | 3 => w.avtp && fieldLe sec (o + 8) 8 == fld 0x15
  | _ => false

/-- The stream handle of a frame: the types AVTP, IP, SOURCE and NULL in that order, the first entry that matches; 0xFFFF
without one (R207). -/
def streamOf (s : State) (w : Walk) (p : Nat) : Nat :=
  match liveSection s 0x0007 with
  | none => 0xFFFF
  | some sec =>
    let hit := fun ty => (List.range (idCount sec)).find? (fun i =>
      let o := 64 + 32 * i
      byteAt sec o == ty && bit (fieldLe sec (o + 4) 4) p && idMatches sec o w)
    match [3, 2, 1, 0].findSome? hit with
    | some i => fieldLe sec (64 + 32 * i + 2) 2
    | none => 0xFFFF

/-- The entry of a cyclic list in force at offset `t` ns: `dur i` is the duration of entry `i` of `n`; its index and the
offset at which it began. -/
def entryAt (dur : Nat → Nat) : Nat → Nat → Nat → Nat → Nat × Nat
  | 0, i, _, b => (i, b)
  | n + 1, i, t, b => if t < b + dur i ∨ n = 0 then (i, b) else entryAt dur n (i + 1) t (b + dur i)

/-- The stream gate entry in force at an instant on W: its offset in the section (R208). -/
def streamGateEntry (s : State) (sec : Bytes) (g : Nat) (at_ : Int) : Nat :=
  let o := gateOff sec g
  let cyc := fieldLe sec o 4
  let first := fieldLe sec (o + 8) 2
  let t := ((at_ - nsVal (baseNs s + fieldLe sec (o + 4) 4)) / 2 ^ 60) % (cyc : Int)
  gentryOff sec (first + (entryAt (fun i => fieldLe sec (gentryOff sec (first + i)) 4) (fieldLe sec (o + 10) 2) 0 t.toNat 0).1)

/-- Counter `k` of stream `h` rises: identified, passed, GATE_DROP, RED_DROP, yellow, PSFP_OVERSIZE (Table 7.18). -/
def countStream (h k : Nat) (s : State) : State :=
  countSource 3 h k 1 { s with egr := { s.egr with streams := Tab.upd s.egr.streams (8 * h + k) 0 (· + 1) } }

/-! Meters (R209, R210).  Buckets are in units of 10^-6 × 2^-60 bit. -/

/-- A byte in bucket units. -/
def bucketByte : Int := 8 * 1000000 * 2 ^ 60

/-- The meter after its buckets refill to ingress stamp `t` (R209): CIR and EIR in kb/s give 10^-6 bit for each ns. -/
def refillMeter (sec : Bytes) (o : Nat) (m : Option Meter) (t : Int) : Meter :=
  let cbs := (fieldLe sec (o + 4) 4 : Int) * bucketByte
  let ebs := (fieldLe sec (o + 12) 4 : Int) * bucketByte
  match m with
  | none => { committed := cbs, excess := ebs, stamp := t }
  | some v =>
    if t ≤ v.stamp then v
    else
      let dt := t - v.stamp
      let c := v.committed + dt * (fieldLe sec o 4 : Int)
      let overs := if bit (byteAt sec (o + 16)) 0 ∧ cbs < c then c - cbs else 0
      { committed := min cbs c, excess := min ebs (v.excess + dt * (fieldLe sec (o + 8) 4 : Int) + overs), stamp := t }

/-- The colour of a frame of `n` bytes and the bucket charged, 0 committed, 1 excess: green 0, yellow 1, red 2 (MEF 10.3). -/
def meterJudge (v : Meter) (n : Nat) (inColour : Nat) : Meter × Nat :=
  let need := (n : Int) * bucketByte
  if inColour = 0 ∧ need ≤ v.committed then ({ v with committed := v.committed - need }, 0)
  else if inColour ≤ 1 ∧ need ≤ v.excess then ({ v with excess := v.excess - need }, 1)
  else (v, 2)

/-- What PSFP decides of a frame: passed, or the outcome code of Table 14.7 that dropped it. -/
structure PsfpOut where
  outcome : Nat := 0
  cls : Nat
  queue : Nat
  colour : Nat
  stream : Nat := 0xFFFF
  assumed : Option (Nat × Nat × Bool) := none

/-- Steps 2 to 5 of R207 for a frame of ingress stamp `stamp`; `len` is its length where its end has arrived. -/
def psfpSteps (w : Walk) (p : Nat) (stamp : Int) (len : Option Nat) (r : LaneRes) (s : State) : State × PsfpOut :=
  let h := streamOf s w p
  let out : PsfpOut := { cls := r.cls, queue := r.queue, colour := r.colour, stream := h }
  match if h = 0xFFFF then none else liveSection s 0x0007 with
  | none => (s, out)
  | some sec =>
    let s := countStream h 0 s
    let fo := filterOff sec h
    let gate := fieldLe sec fo 2
    let ge := if gate = 0xFFFF then none else some (streamGateEntry s sec gate stamp)
    let closed := match ge with
      | some e => !bit (byteAt sec (e + 4)) 0
      | none => false
    if closed then (stat p 14 1 (countStream h 2 s), { out with outcome := 3 })
    else
      let meter := fieldLe sec (fo + 2) 2
      let sdu := fieldLe sec (fo + 4) 2
      let (s, out) :=
        if meter = 0xFFFF then (s, out)
        else
          let o := meterOff sec meter
          let fl := byteAt sec (o + 16)
          let n := len.getD (if sdu = 0 then 1522 else sdu)
          let v := refillMeter sec o (s.egr.meters.lookup meter) stamp
          let (v, colour) := meterJudge v n (if bit fl 1 then r.colour else 0)
          let s := { s with egr := { s.egr with meters := Tab.set s.egr.meters meter v } }
          let s := if colour = 1 then countStream h 4 s else s
          if colour = 2 then (stat p 14 1 (countStream h 3 s), { out with outcome := 4 })
          else
            let out := { out with assumed := if len.isSome then none else some (meter, n, colour == 1) }
            if colour = 1 ∧ bit fl 2 then (stat p 14 1 s, { out with outcome := 4 })
            else (s, { out with colour := if colour = 1 then 1 else out.colour })
      if out.outcome ≠ 0 then (s, out)
      else
        let s := countStream h 1 s
        let ipv := match ge with
          | some e => byteAt sec (e + 5)
          | none => 0xFF
        (s, if ipv = 0xFF then out else { out with cls := ipv % 8, queue := ipv % 8 })

/-- At a frame's end its meter gets the difference to the assumed length back (R210). -/
def refundMeter (f : Frame) (s : State) : State :=
  match f.assumed, liveSection s 0x0007 with
  | some (m, n, excess), some sec =>
    let o := meterOff sec m
    let d : Int := ((n : Int) - (frameLen f : Int)) * bucketByte
    match s.egr.meters.lookup m with
    | some v =>
      let v := if excess then { v with excess := min ((fieldLe sec (o + 12) 4 : Int) * bucketByte) (v.excess + d) }
        else { v with committed := min ((fieldLe sec (o + 4) 4 : Int) * bucketByte) (v.committed + d) }
      { s with egr := { s.egr with meters := Tab.set s.egr.meters m v } }
    | none => s
  | _, _ => s

/-- The frame's length exceeds its filter's non-zero MAX_SDU (R210). -/
def overSdu (f : Frame) (s : State) : Bool :=
  match if f.stream = 0xFFFF then none else liveSection s 0x0007 with
  | some sec =>
    let m := fieldLe sec (filterOff sec f.stream + 4) 2
    m != 0 && decide (m < frameLen f)
  | none => false

/-! FRER (R212–R214, Table 7.16). -/

/-- Offset of FRER entry `e`, where the active image has it. -/
def frerEntry (s : State) (e : Nat) : Option (Bytes × Nat) :=
  match liveSection s 0x0008 with
  | some sec => if e < fieldLe sec 0 2 then some (sec, 64 + 32 * e) else none
  | none => none

/-- Entry `e` has GENERATE set. -/
def frerGenerates (s : State) (e : Nat) : Bool :=
  match frerEntry s e with
  | some (sec, o) => bit (byteAt sec (o + 2)) 0
  | none => false

/-- The offset after the last VLAN tag of a frame, or after the source address: at most `fuel` tags are passed. -/
def afterTags (c : Bytes) : Nat → Nat → Nat
  | 0, o => o
  | fuel + 1, o => if fieldBe c o 2 = 0x8100 ∨ fieldBe c o 2 = 0x88A8 then afterTags c fuel (o + 4) else o

/-- The frame with the R-TAG of entry `e` inserted (R212); none where it would exceed 10,240 bytes. -/
def generate (p e : Nat) (c : Bytes) (s : State) : State × Option Bytes :=
  if !frerGenerates s e then (s, some c)
  else if 10240 < c.length + 10 then (stat p 29 1 s, none)
  else
    let n := Tab.get s.egr.gens e 0
    let o := afterTags c c.length 12
    let s := { s with egr := { s.egr with gens := Tab.set s.egr.gens e ((n + 1) % 65536)
                                          generated := Tab.upd s.egr.generated e 0 (· + 1) } }
    (countSource 4 e 0 1 s, some (c.take o ++ [0xF1, 0xC1, 0, 0] ++ beBytes 2 n ++ c.drop o))

/-- The sequence number of the R-TAG that directly follows the source address or the frame's VLAN tags, up to three of
them (R213). -/
def rtagSeq (c : Bytes) : Option Nat :=
  let o := afterTags c 3 12
  if fieldBe c o 2 = 0xF1C1 ∧ o + 6 ≤ c.length then some (fieldBe c (o + 4) 2) else none

/-- The entry that recovers stream `h` at port `p` (R213, R215). -/
def recoverEntry (s : State) (h p : Nat) : Option Nat :=
  match liveSection s 0x0008 with
  | some sec => (List.range (fieldLe sec 0 2)).find? (fun e =>
      let o := 64 + 32 * e
      bit (byteAt sec (o + 2)) 1 && fieldLe sec o 2 == h && bit (fieldLe sec (o + 4) 4) p)
  | none => none

/-- Key of a recovery instance. -/
def recKey (e p : Nat) : Nat := 32 * e + p

/-- The recovery instance of an entry and port. -/
def recoveryOf (s : State) (e p : Nat) : Recovery := Tab.get s.egr.recoveries (recKey e p) {}

/-- Replaces a recovery instance. -/
def setRecovery (e p : Nat) (r : Recovery) (s : State) : State :=
  { s with egr := { s.egr with recoveries := Tab.set s.egr.recoveries (recKey e p) r } }

/-- Counter `k` of a recovery instance rises by `n`: PASSED, DISCARDED, OUT_OF_ORDER, ROGUE, LOST, TAGLESS, RESETS,
LATENT_ERRORS (Table 7.19). -/
def countFrer (e p k n : Nat) (s : State) : State :=
  if n = 0 then s
  else
    let r := recoveryOf s e p
    countSource 4 e (k + 1) n (setRecovery e p { r with counts := Tab.upd r.counts k 0 (· + BitVec.ofNat 64 n) } s)

/-- A signed 16-bit difference. -/
def diff16 (a b : Nat) : Int := signed 2 ((a + 65536 - b) % 65536)

/-- A passed frame counts and restarts the instance's timer (R213). -/
def frerPass (e p : Nat) (s : State) : State :=
  let s := countFrer e p 0 1 s
  setRecovery e p { recoveryOf s e p with passedAt := s.clk } s

/-- The recovery of a frame of sequence number `q`; the flag tells whether it passes (R213). -/
def recover (e p : Nat) (q : Option Nat) (s : State) : State × Bool :=
  match frerEntry s e with
  | none => (s, true)
  | some (sec, o) =>
    let len := byteAt sec (o + 3)
    match q with
    | none =>
      let s := countFrer e p 5 1 s
      if bit (byteAt sec (o + 2)) 2 then (frerPass e p s, true) else (s, false)
    | some q =>
      let r := recoveryOf s e p
      if r.takeAny then (frerPass e p (setRecovery e p { r with rec_ := q, hist := 1, takeAny := false } s), true)
      else
        let d := diff16 q r.rec_
        if (len : Int) ≤ d ∨ d ≤ -(len : Int) then (countFrer e p 3 1 s, false)
        else if d ≤ 0 then
          let i := (-d).toNat
          if bit r.hist i then (countFrer e p 1 1 s, false)
          else (frerPass e p (countFrer e p 2 1 (setRecovery e p { r with hist := r.hist + 2 ^ i } s)), true)
        else
          let n := d.toNat
          let s := if 1 < n then countFrer e p 2 1 s else s
          let lost := sumBy (fun i => if len ≤ i + n ∧ !bit r.hist i then 1 else 0) (List.range len)
          let s := countFrer e p 4 lost s
          (frerPass e p (setRecovery e p { recoveryOf s e p with
            rec_ := q, hist := (r.hist * 2 ^ n + 1) % 2 ^ len } s), true)

/-- Meaning of FRER_RESET_TIMER: RESET_MS without a passed frame sets take_any (R213). -/
def execFrerResetTimer (entry : Nat) (p : Port) (s : State) : Host.Outcome State Fault Refusal :=
  .next (match frerEntry s entry with
    | some (sec, o) =>
      if bit (byteAt sec (o + 2)) 1 ∧ bit (fieldLe sec (o + 4) 4) p.val ∧ !(recoveryOf s entry p.val).takeAny then
        let r := recoveryOf s entry p.val
        let s := reachClock (r.passedAt + fieldLe sec (o + 8) 2 * 1000000) s
        let s := setRecovery entry p.val { r with takeAny := true, passedAt := s.clk } s
        countFrer entry p.val 6 1 s
      else s
    | none => s)

/-- Meaning of FRER_LATENT_TIMER: the latent error test compares the discarded count with the passed count times the
expected further paths, against the base difference of the last reset (R214). -/
def execFrerLatentTimer (entry : Nat) (p : Port) (s : State) : Host.Outcome State Fault Refusal :=
  .next (match frerEntry s entry with
    | some (sec, o) =>
      if bit (byteAt sec (o + 2)) 1 ∧ bit (byteAt sec (o + 2)) 3 ∧ bit (fieldLe sec (o + 4) 4) p.val then
        let r := recoveryOf s entry p.val
        let s := reachClock (r.testedAt + fieldLe sec (o + 14) 2 * 1000000) s
        let paths := byteAt sec (o + 10)
        let diff : Int := ((Tab.get r.counts 0 0).toNat : Int) * ((paths : Int) - 1) - ((Tab.get r.counts 1 0).toNat : Int)
        if r.resetAt + fieldLe sec (o + 16) 4 * 1000000 ≤ s.clk then
          setRecovery entry p.val { r with base := diff, testedAt := s.clk, resetAt := s.clk } s
        else
          let s := setRecovery entry p.val { r with testedAt := s.clk } s
          let off := diff - r.base
          if (fieldLe sec (o + 12) 2 : Int) < off ∨ off < -(fieldLe sec (o + 12) 2 : Int) then
            record 0x0503 (leBytes 2 entry ++ [BitVec.ofNat 8 p.val]) (countFrer entry p.val 7 1 s)
          else s
      else s
    | none => s)

/-! EGR_FRER_STATUS (R217). -/

/-- The EGR_FRER_STATUS result (Table 7.19). -/
def frerStatus (e p : Nat) (s : State) : Bytes :=
  let r := recoveryOf s e p
  leBytes 2 (Tab.get s.egr.gens e 0)
    ++ (if p = 0xFF then List.replicate 78 0
        else leBytes 2 r.rec_ ++ [BitVec.ofNat 8 (b2n r.takeAny), 0, 0, 0] ++ leBytes 8 r.hist
          ++ (List.range 8).flatMap (fun k => leBytes 8 (Tab.get r.counts k 0).toNat))
    ++ leBytes 8 (Tab.get s.egr.generated e 0).toNat

/-- EGR_FRER_STATUS: PORT is a recovery port of the entry, or 0xFF. -/
def egrFrerStatusOp : OpDef :=
  { code := 0x0502
    params := fun r s =>
      let e := fieldLe r.payload 0 2
      let p := byteAt r.payload 2
      if r.payload.length ≠ 4 ∨ 2047 < e ∨ byteAt r.payload 3 ≠ 0 then some 0
      else if p = 0xFF then none
      else
        match frerEntry s e with
        | some (sec, o) => if p < 28 ∧ bit (fieldLe sec (o + 4) 4) p then none else some 0
        | none => some 0
    commit := fun r s => answer r stOk 0 (frerStatus (fieldLe r.payload 0 2) (byteAt r.payload 2) s) s }

/-- Meaning of EGR_FRER_STATUS (R217). -/
def execEgrFrerStatus (c : CmdSource) (s : State) : Host.Outcome State Fault Refusal := .next (runCommand egrFrerStatusOp c s)

end Sys2Proof.Machine
end

