-- ==== Sys2Proof/Machine/Egress.lean ====
section
/-!
DEFINITION. Egress: gate control lists, shapers, launch times, preemption, flow control, the scheduler and the end of a
transmission (chapter Egress scheduling and stream protection).
-/
namespace Sys2Proof.Machine

/-! The gate section (Tables 7.2–7.4). -/

/-- Offset of port `p`'s gate block in a section 0x0009. -/
def gateBlockOff (sec : Bytes) (p : Nat) : Option Nat :=
  if bit (fieldLe sec 0 4) p then
    some ((List.range p).foldl (fun o q =>
      if bit (fieldLe sec 0 4) q then (o + 64 + 8 * fieldLe sec (o + 8) 2 + 63) / 64 * 64 else o) 64)
  else none

/-- Port `p`'s gate block in force: the section and its offset. -/
def gateBlock (s : State) (p : Nat) : Option (Bytes × Nat) :=
  match if p < 28 then liveSection s 0x0009 else none with
  | some sec =>
    match gateBlockOff sec p with
    | some o => some (sec, o)
    | none => none
  | none => none

/-- INTERVAL_NS of gate entry `i`. -/
def gateDur (sec : Bytes) (o i : Nat) : Nat := fieldLe sec (o + 64 + 8 * i) 4
/-- GATES of entry `i`. -/
def gateMask (sec : Bytes) (o i : Nat) : Nat := byteAt sec (o + 64 + 8 * i + 4)
/-- OP of entry `i`. -/
def gateOp (sec : Bytes) (o i : Nat) : Nat := byteAt sec (o + 64 + 8 * i + 5)
/-- GUARD_NS of entry `i`. -/
def gateGuard (sec : Bytes) (o i : Nat) : Nat := fieldLe sec (o + 64 + 8 * i + 6) 2

/-- The offset in a port's cycle of an instant on W, in 2^-60 ns (R191). -/
def gateOffset (s : State) (sec : Bytes) (o : Nat) (at_ : Int) : Nat :=
  ((at_ - nsVal (baseNs s + fieldLe sec (o + 4) 4)) % nsVal (fieldLe sec o 4)).toNat

/-- The gate entry in force at an instant on W, and the 2^-60 ns until it ends (R191). -/
def gateEntry (s : State) (sec : Bytes) (o : Nat) (at_ : Int) : Nat × Nat :=
  let off := gateOffset s sec o at_
  let (i, b) := entryAt (gateDur sec o) (fieldLe sec (o + 8) 2) 0 (off / 2 ^ 60) 0
  (i, (b + gateDur sec o i) * 2 ^ 60 - off)

/-- The gates open at an instant; every gate on a port without a list (R194). -/
def gatesAt (s : State) (p : Nat) (at_ : Int) : Nat :=
  match gateBlock s p with
  | some (sec, o) => gateMask sec o (gateEntry s sec o at_).1
  | none => 0xFF

/-- From entry `i`, of which `left` is still to run, the time until gate `q` closes less its guard band; none where it
never closes (R192). -/
def untilClose (sec : Bytes) (o q : Nat) : Nat → Nat → Nat → Option Nat
  | 0, _, _ => none
  | fuel + 1, i, left =>
    let n := fieldLe sec (o + 8) 2
    let j := (i + 1) % n
    if bit (gateMask sec o j) q then untilClose sec o q fuel j (left + gateDur sec o j * 2 ^ 60)
    else some (left - gateGuard sec o i * 2 ^ 60)

/-- Gate `q` is open at an instant and stays so for `need` 2^-60 ns, guard band apart (R187). -/
def gateAdmits (s : State) (p q : Nat) (at_ : Int) (need : Nat) : Bool :=
  match gateBlock s p with
  | none => true
  | some (sec, o) =>
    let (i, left) := gateEntry s sec o at_
    bit (gateMask sec o i) q &&
      (match untilClose sec o q (fieldLe sec (o + 8) 2) i left with
       | some w => decide (need ≤ w)
       | none => true)

/-- MAX_SDU of a queue (Table 7.3, R194). -/
def maxSdu (s : State) (p q : Nat) : Nat :=
  match gateBlock s p with
  | some (sec, o) => fieldLe sec (o + 12 + 2 * q) 2
  | none => 10240

/-! The shaper section (Tables 7.5–7.8). -/

/-- Ports with a shaper block below port `p`. -/
def shaperRank (sec : Bytes) (p : Nat) : Nat := sumBy (fun q => b2n (bit (fieldLe sec 0 4) q)) (List.range p)

/-- Port `p`'s shaper block in force. -/
def shaperBlock (s : State) (p : Nat) : Option (Bytes × Nat) :=
  match if p < 28 then liveSection s 0x000A else none with
  | some sec => if bit (fieldLe sec 0 4) p then some (sec, 64 + 64 * shaperRank sec p) else none
  | none => none

/-- A field of a port's shaper block. -/
def shaperField (s : State) (p off n dflt : Nat) : Nat :=
  match shaperBlock s p with
  | some (sec, o) => fieldLe sec (o + off) n
  | none => dflt

/-- IDLE_SLOPE of a queue in kb/s, 0 for none. -/
def idleSlope (s : State) (p q : Nat) : Nat := shaperField s p (4 * q) 4 0
/-- PREEMPTIBLE mask. -/
def preemptible (s : State) (p q : Nat) : Bool := (egress s p).preempt == 2 && bit (shaperField s p 32 1 0) q
/-- LT_EARLY in ns. -/
def ltEarly (s : State) (p : Nat) : Nat := shaperField s p 36 4 1000000 * 1000
/-- LT_LATE in ns. -/
def ltLate (s : State) (p : Nat) : Nat := shaperField s p 40 2 0
/-- The port has launch time (Table 7.1). -/
def hasLaunch (p : Nat) : Bool := decide (p < 24)

/-- Link rate of a port in Mb/s: an external port's link rate, or the rate of an internal one (R183, R278). -/
def rateOf (s : State) (p : Nat) : Nat :=
  if p < 28 then (port s p).rate else if p = 28 then 31500 else if p = 29 then 1000 else 10000

/-- tx(L) in 2^-60 ns: 8 × (L + 20) bits at the port's rate, rounded up. -/
def txTime (s : State) (p len : Nat) : Nat :=
  let r := rateOf s p
  if r = 0 then 0 else (8000 * (len + 20) * 2 ^ 60 + r - 1) / r

/-! Credit (R198): kb/s over ns is 10^-6 bit, and a credit counts in 2^-16 of it, so that it has 16 fractional bits. -/

/-- Credit of 10^-6 bit. -/
def creditUnit : Int := 65536

/-- The greatest magnitude of a credit. -/
def creditMax : Int := 2 ^ 31 * 1000000 * creditUnit

/-- Frames in transmit queue `q`. -/
def queueOf (e : EgrPort) (q : Nat) : List Nat := Tab.get e.queues q []

/-- Class of the frame `n`. -/
def classOf (s : State) (n : Nat) : Nat := ((frameOf s n).map frameCls).getD 0

/-- Queue of the frame `n`. -/
def frameQueue (s : State) (n : Nat) : Nat := ((frameOf s n).map (fun f => f.res.queue)).getD 0

/-- The partner pauses class `c`, or the whole port, at local clock `t` (R189). -/
def pausedAt (e : EgrPort) (c t : Nat) : Bool := decide (t < Tab.get e.pausedTill c 0) || decide (t < Tab.get e.pausedTill 8 0)

/-- The credit of a queue after the time since the last update (R198). -/
def settleQueue (s : State) (p : Nat) (e : EgrPort) (gates dt q : Nat) : Int :=
  let slope : Int := (idleSlope s p q : Int) * creditUnit
  let c := Tab.get e.credit q 0
  let frames := queueOf e q
  let onWire := match e.sending with
    | some x => frameQueue s x.frame == q
    | none => false
  let held := match e.preempted with
    | some x => frameQueue s x.frame == q
    | none => false
  let paused := pausedAt e (match frames.head? with
    | some n => classOf s n
    | none => Tab.get e.lastCls q q) e.creditAt
  let v : Int :=
    if onWire then c + (slope - (rateOf s p : Int) * 1000 * creditUnit) * (dt : Int)
    else if held then c
    else if frames.isEmpty && decide (0 ≤ c) then 0
    else if !bit gates q || paused then c
    else if frames.isEmpty then min 0 (c + slope * (dt : Int))
    else c + slope * (dt : Int)
  clampInt (-creditMax) creditMax v

/-- Every credit of a port is brought up to the present instant. -/
def settle (p : Nat) (s : State) : State :=
  let e := egress s p
  if (shaperBlock s p).isNone then setEgress p { e with creditAt := s.clk } s
  else
    let dt := s.clk - e.creditAt
    let gates := gatesAt s p (wValue s e.creditAt)
    setEgress p { e with
      credit := ((List.range 8).filter (fun q => idleSlope s p q != 0)).map (fun q => (q, settleQueue s p e gates dt q))
      creditAt := s.clk } s

/-- A transmission of queue `q` ends: its line time ends `slack` before the whole ns at which the clock stands (R198). -/
def endCharge (p q slack : Nat) (s : State) : State :=
  let e := egress s p
  if idleSlope s p q = 0 then s
  else setEgress p { e with credit := Tab.upd e.credit q 0 (fun c => clampInt (-creditMax) creditMax (c + (slack : Int) * 1000 * creditUnit)) } s

/-! Queue counters, discards and launch outcomes. -/

/-- Counter `k` of a queue rises: transmitted, octets, MAX_SDU_DROP, ON_TIME, LATE, MISSED, EARLY (Table 7.17). -/
def countQueue (p q k inc : Nat) (s : State) : State :=
  let e := egress s p
  countSource 2 (8 * p + q) (k + 1) inc (setEgress p { e with counts := Tab.upd e.counts (8 * q + k) 0 (· + BitVec.ofNat 64 inc) } s)

/-- A copy at a port is discarded on the egress side after its Press consumed its number (R186). -/
def discardQueued (n p : Nat) (s : State) : State := dropDest n p (stat p 26 1 (settle p s))

/-- Changes the descriptor that a frame from HP came by, where `p` is its reported port (R305, R206). -/
def updTxDesc (n p : Nat) (g : TxDesc → TxDesc) (s : State) : State :=
  match frameOf s n with
  | some f =>
    match f.hpDesc with
    | some (r, i) =>
      { s with hst := { s.hst with tx := Tab.upd s.hst.tx r {} (fun t => { t with
          work := t.work.map (fun x => if x.index = i ∧ x.txPort = p then g x else x) }) } }
    | none => s
  | none => s

/-- A launch outcome of Table 7.9 at a port: counted for the queue, reported for HP, counted by the engine for a Seam
frame (R204, R206). -/
def launchOutcome (n p o : Nat) (s : State) : State :=
  let s := countQueue p (frameQueue s n) (3 + o) 1 s
  let s := updTxDesc n p (fun x => { x with outcome := o }) s
  match frameOf s n with
  | some f =>
    if 48 ≤ f.srcEp then
      match (Tab.get s.leg.chs f.srcEp {}).engine with
      | some g => { s with leg := { s.leg with engines := Tab.upd s.leg.engines g {} (fun x => { x with
          launch := Tab.upd x.launch o 0 (· + 1) }) } }
      | none => s
    else s
  | none => s

/-! Release into a transmit queue (R186). -/

/-- The ATS scheduler of a stream at a port, by index (Table 7.8). -/
def atsOf (s : State) (h p : Nat) : Option (Bytes × Nat × Nat × Nat) :=
  match if h = 0xFFFF then none else liveSection s 0x000A with
  | some sec =>
    let g0 := 64 + 64 * shaperRank sec 28
    let s0 := g0 + 16 * byteAt sec 6
    match (List.range (fieldLe sec 4 2)).find? (fun i =>
        fieldLe sec (s0 + 16 * i) 2 == h && byteAt sec (s0 + 16 * i + 2) == p) with
    | some i => some (sec, i, s0 + 16 * i, g0 + 16 * byteAt sec (s0 + 16 * i + 3))
    | none => none
  | none => none

/-- Step 4 of R186: the eligibility time on W, or none where the frame exceeds its residence (R199). -/
def atsJudge (f : Frame) (p : Nat) (s : State) : State × Option (Option Int) :=
  match atsOf s f.stream p with
  | none => (s, some none)
  | some (sec, i, so, go) =>
    let cir := fieldLe sec (so + 4) 4
    let g := byteAt sec (so + 3)
    let per := fun (b : Nat) => ((b * 1000000 * 2 ^ 60 / (if cir = 0 then 1 else cir) : Nat) : Int)
    let a := f.stamp + nsVal (fieldLe sec (go + 8) 4)
    let empty := Tab.get s.egr.buckets i 0
    let sch := empty + per (8 * frameLen f)
    let full := empty + per (fieldLe sec (so + 8) 4)
    let e := max a (max (Tab.get s.egr.groups g 0) sch)
    if a + nsVal (fieldLe sec (go + 4) 4) < e then (s, none)
    else
      ({ s with egr := { s.egr with
          groups := Tab.set s.egr.groups g e
          buckets := Tab.set s.egr.buckets i (if e < full then sch else sch + (e - full)) } }, some (some e))

/-- Step 3 of R186: MISSED (2) or EARLY (3) at release, none otherwise (R204). -/
def launchAtRelease (f : Frame) (p : Nat) (s : State) : Option Nat :=
  match if hasLaunch p then f.launch else none with
  | some t =>
    if t + nsVal (8 + ltLate s p) < wNow s then some 2
    else if wNow s + nsVal (ltEarly s p) < t then some 3 else none
  | none => none

/-- The Press releases frame `n` to port `p` (R186). -/
def releaseTo (n p : Nat) (s : State) : State :=
  match frameOf s n with
  | none => s
  | some f =>
    match destAt f p with
    | none => s
    | some d =>
      let q := f.res.queue
      let s := updDest n p (fun d => { d with phase := .queued, releasedAt := wNow s }) s
      if !d.cut ∧ maxSdu s p q < frameLen f then discardQueued n p (countQueue p q 2 1 s)
      else
        let (s, ok) := match if p < 28 then recoverEntry s f.stream p else none with
          | some e => recover e p (rtagSeq f.content) s
          | none => (s, true)
        if !ok then discardQueued n p s
        else
          match launchAtRelease f p s with
          | some o => discardQueued n p (launchOutcome n p o s)
          | none =>
            match atsJudge f p s with
            | (s, none) =>
              let e := egress s p
              discardQueued n p (setEgress p { e with atsDrops := e.atsDrops + 1 } s)
            | (s, some el) =>
              let s := wakeLpi p (updDest n p (fun d => { d with elig := el }) (settle p s))
              let e := egress s p
              setEgress p { e with queues := Tab.upd e.queues q [] (· ++ [n]), lastCls := Tab.set e.lastCls q (frameCls f) } s

/-! The Press (R176–R179). -/

/-- The triple's Press state at an egress port. -/
def pressOf (s : State) (out inPort cls : Nat) : Triple := Tab.get s.bsn.press (seqKey out inPort cls) {}

/-- Replaces it. -/
def setPress (out inPort cls : Nat) (t : Triple) (s : State) : State :=
  { s with bsn := { s.bsn with press := Tab.set s.bsn.press (seqKey out inPort cls) t } }

/-- A number is behind the expected one (R176). -/
def isBehind (n e : Nat) : Bool := decide (32768 ≤ (n + 65536 - e) % 65536)

/-- E of a triple becomes `n`; a move to PINNED is over once the first number assigned after it has been handled (R179). -/
def Triple.expect (t : Triple) (n : Nat) : Triple :=
  { t with e := n, pinnedFrom := t.pinnedFrom.filter (fun k => isBehind n ((k + 1) % 65536)) }

/-- From the expected number upward, noted holes are consumed and held frames released in order (R176). -/
def releaseRun (out inPort cls : Nat) : Nat → State → State
  | 0, s => s
  | fuel + 1, s =>
    let t := pressOf s out inPort cls
    match t.held.find? (fun h => h.1 == t.e) with
    | some h =>
      let s := setPress out inPort cls { t.expect ((t.e + 1) % 65536) with held := t.held.filter (fun x => x.1 != h.1) } s
      releaseRun out inPort cls fuel (releaseTo h.2 out s)
    | none =>
      if t.holes.contains t.e then
        releaseRun out inPort cls fuel
          (setPress out inPort cls { t.expect ((t.e + 1) % 65536) with holes := t.holes.filter (· != t.e) } s)
      else setPress out inPort cls { t with waitFrom := if t.held.isEmpty then none else t.waitFrom } s

/-- The run over everything a triple holds or has noted. -/
def releaseAll (out inPort cls : Nat) (s : State) : State :=
  let t := pressOf s out inPort cls
  releaseRun out inPort cls (t.held.length + t.holes.length + 1) s

/-- The PINNED rule applies to a triple: its class is PINNED, and the first number assigned after a move to it has been handled
(R179). -/
def pinnedRule (s : State) (t : Triple) (cls : Nat) : Bool := isPinned s cls && t.pinnedFrom.isNone

/-- Frame `n` has crossed Cirrus to port `p` as the next item of its plane (R158). -/
def hasCrossed (s : State) (n p : Nat) (f : Frame) (d : Dest) : Bool := isNextOn s (.frame p n (needed f d))

/-- Frame `n` arrives at the Press of port `p`: behind E it is discarded, expected or PINNED it is released, ahead it is held and
its triple's wait starts (R176); the egress side then requests what the Press has room for. -/
def pressArrival (p n : Nat) (s : State) : State :=
  match frameOf s n with
  | none => s
  | some f =>
    match destAt f p with
    | none => s
    | some d =>
      if d.phase ≠ .crossing ∨ !hasCrossed s n p f d then s
      else
        let s := takeItems (isFrameItem n p) s
        let c := frameCls f
        let t := pressOf s p f.inPort c
        if isBehind d.seq t.e then dropDest n p (stat p 27 1 s)
        else if d.seq = t.e ∨ pinnedRule s t c then
          let s := setPress p f.inPort c (t.expect ((d.seq + 1) % 65536)) s
          dispatch p (releaseAll p f.inPort c (releaseTo n p s))
        else
          let s := updDest n p (fun d => { d with phase := .press }) s
          setPress p f.inPort c { t with held := t.held ++ [(d.seq, n)], waitFrom := some (t.waitFrom.getD s.clk) } s

/-- Meaning of PRESS_ARRIVAL (R176, R186). -/
def execPressArrival (p : Port) (n : Nat) (s : State) : Host.Outcome State Fault Refusal := .next (pressArrival p.val n s)

/-- A hole notice reaches the Press of port `p`: its number is noted where it is not behind, and consumed where it is the
expected one (R176). -/
def noteHole (p input cls n : Nat) (s : State) : State :=
  let s := countSource 9 0 4 1 { s with bsn := { s.bsn with holesRx := s.bsn.holesRx + 1 } }
  let t := pressOf s p input cls
  if isBehind n t.e then s
  else
    let s := setPress p input cls { t with holes := if t.holes.contains n then t.holes else n :: t.holes } s
    if n = t.e then dispatch p (releaseAll p input cls s) else s

/-- Meaning of HOLE_NOTICE: a notice that is the next item of its plane arrives (R158, R175, R176). -/
def execHoleNotice (p input : Port) (cls : Fin 8) (number : Word) (s : State) : Host.Outcome State Fault Refusal :=
  .next (
    let x := PlaneItem.notice p.val input.val cls.val (number.toNat % 65536)
    if isNextOn s x then noteHole p.val input.val cls.val (number.toNat % 65536) (takeItems (· == x) s) else s)

/-- Meaning of PRESS_SKIP: a triple's wait ends, and E becomes the lowest number held or noted (R177). -/
def execPressSkip (p input : Port) (cls : Fin 8) (s : State) : Host.Outcome State Fault Refusal :=
  .next (
    let t := pressOf s p.val input.val cls.val
    match t.waitFrom with
    | none => s
    | some w =>
      if t.held.isEmpty then s
      else
        let s := reachClock (w + 2000) s
        let ahead := fun (n : Nat) => (n + 65536 - t.e) % 65536
        let nums := t.held.map (fun h => h.1) ++ t.holes
        let low := nums.foldl (fun m n => if ahead n < ahead m then n else m) (nums.headD t.e)
        let s := setPress p.val input.val cls.val { t.expect low with waitFrom := some s.clk } s
        dispatch p.val (releaseAll p.val input.val cls.val (stat p.val 28 1 s)))

/-! Eligibility (R187). -/

/-- The length the scheduler takes for a frame: its own, or MAX_SDU for a cut-through copy. -/
def schedLen (s : State) (p : Nat) (f : Frame) (d : Dest) : Nat := if d.cut then maxSdu s p f.res.queue else frameLen f

/-- A higher queue's head waits for its launch time, and `need` from now ends after it (R187, R205). -/
def launchReserves (s : State) (p q need : Nat) : Bool :=
  hasLaunch p && (List.range 8).any (fun r =>
    decide (q < r) && (match (queueOf (egress s p) r).head? with
      | some n =>
        match (frameOf s n).bind (fun f => f.launch) with
        | some t => decide (wNow s < t - nsVal 8) && decide (t < wNow s + (need : Int))
        | none => false
      | none => false))

/-! The consumer of HP (R190, R306, R307). -/

/-- The enabled receive ring of function `f` whose queue mask holds bit `q` (R306). -/
def rxRingOf (s : State) (f q : Nat) : Option (Nat × HstRing) :=
  s.hst.rx.find? (fun e => e.2.enable && e.2.owner == some f && bit e.2.sel q)

/-- Entries of a DMA ring. -/
def hstEntries (r : HstRing) : Nat := 16 * 2 ^ r.size

/-- How many of a ring's posted descriptors a frame of `n` bytes fills; none where they do not suffice. -/
def buffersFor (posted : List Bytes) (n : Nat) : Option Nat :=
  match posted with
  | [] => none
  | d :: ds => if n ≤ fieldLe d 8 2 then some 1 else (buffersFor ds (n - fieldLe d 8 2)).map (· + 1)

/-- The frame needs more descriptors than the ring holds (R306). -/
def rxTooLong (r : HstRing) (n : Nat) : Bool := (buffersFor r.posted n).isNone && decide (hstEntries r ≤ r.posted.length + 1)

/-- HP can take the frame: no ring that it goes to waits for descriptors (R307). -/
def hpAdmits (s : State) (f : Frame) : Bool :=
  ((List.range 4).filter (bit f.funcs)).all (fun k =>
    match rxRingOf s k f.res.queue with
    | some (_, r) => (buffersFor r.posted f.content.length).isSome || rxTooLong r f.content.length
    | none => true)

/-- GW can take the frame: every channel it goes to has a place (R190, R265). -/
def gwAdmits (s : State) (f : Frame) : Bool := (frameChannels f).all (channelTakes s)

/-- The conditions of R187 for a frame of queue `q` at a port, whatever its place in the queue. -/
def admits (s : State) (p : Nat) (f : Frame) (d : Dest) : Bool :=
  let q := f.res.queue
  let e := egress s p
  let need := txTime s p (schedLen s p f d)
  if p = 28 then hpAdmits s f else if p = 30 then gwAdmits s f else if 28 < p then true
  else
    gateAdmits s p q (wNow s) need
      && !pausedAt e (frameCls f) s.clk
      && (idleSlope s p q == 0 || decide (0 ≤ Tab.get e.credit q 0))
      && (match d.elig with
          | some t => decide (t ≤ wNow s)
          | none => true)
      && (match if hasLaunch p then f.launch else none with
          | some t => decide (t - nsVal 8 ≤ wNow s)
          | none => true)
      && !(preemptible s p q && e.macHeld)
      && !launchReserves s p q need

/-- The eligible head of queue `q`, where it has one. -/
def eligibleHead (s : State) (p q : Nat) : Option Nat :=
  match (queueOf (egress s p) q).head? with
  | some n =>
    match frameOf s n with
    | some f =>
      match destAt f p with
      | some d => if admits s p f d then some n else none
      | none => none
    | none => none
  | none => none

/-- The frame the scheduler selects among the queues that `f` admits (R188). -/
def selectFrame (s : State) (p : Nat) (f : Nat → Bool) : Option Nat := (queuesDown.filter f).findSome? (eligibleHead s p)

/-! What leaves the MAC (R153, R288). -/

/-- The frame carries an outer VLAN tag. -/
def isTagged (c : Bytes) : Bool := fieldBe c 12 2 == 0x8100 || fieldBe c 12 2 == 0x88A8

/-- A tag removal leaves at least 64 bytes, FCS included: zeros are appended (R153). -/
def padFrame (c : Bytes) : Bytes := c ++ List.replicate (60 - c.length) 0

/-- An edit entry applies to a frame (Table 6.4). -/
def applyEdit (sec : Bytes) (i p cls : Nat) (c : Bytes) : Bytes :=
  let o := 65728 + 16 * fieldLe sec 4 2 + 8 * i
  if !bit (fieldLe sec (o + 4) 4) p then c
  else
    let pcp := if bit (byteAt sec (o + 1)) 3 then cls else byteAt sec (o + 1) % 8
    let tci := beBytes 2 (pcp * 8192 + fieldLe sec (o + 2) 2 % 4096)
    match byteAt sec o with
    | 1 => if isTagged c then padFrame (c.take 12 ++ c.drop 16) else c
    | 2 => c.take 12 ++ [0x81, 0x00] ++ tci ++ c.drop 12
    | 3 => c.take 12 ++ [0x88, 0xA8] ++ tci ++ c.drop 12
    | 4 =>
      if isTagged c then
        let dei := fieldBe c 14 2 / 4096 % 2
        c.take 14 ++ beBytes 2 (pcp * 8192 + dei * 4096 + fieldLe sec (o + 2) 2 % 4096) ++ c.drop 16
      else c
    | _ => c

/-- A frame's bytes on egress from port `p`, before MACsec (R153). -/
def editedBytes (s : State) (p : Nat) (f : Frame) : Bytes :=
  if 28 ≤ p then f.content
  else
    let c := f.content
    let c := if bit (vlanOf s f.vid).untag p ∧ isTagged c then padFrame (c.take 12 ++ c.drop 16) else c
    match f.edit, liveSection s 0x0005 with
    | some i, some sec => applyEdit sec i p (frameCls f) c
    | _, _ => c

/-- Port `p` protects the frames it sends that carry no SecTAG (R288). -/
def protects (s : State) (p : Nat) (c : Bytes) : Bool :=
  decide (p < 24) && bit (portCfg s p).flags 6 && bit (portCfg s p).secy 1 && fieldBe c 12 2 != 0x88E5

/-- XPN cipher of Table 10.3. -/
def isXpn (cipher : Nat) : Bool := cipher == 3 || cipher == 4

/-- Greatest packet number of a cipher (R290). -/
def pnMax (cipher : Nat) : Nat := if isXpn cipher then 2 ^ 64 - 1 else 2 ^ 32 - 1

/-- Packet number at which the warning of R290 comes. -/
def pnWarn (cipher : Nat) : Nat := if isXpn cipher then 0xC000000000000000 else 0xC0000000

/-- The protected frame of a transmit SA (R288, R289): SecTAG, secure data and ICV. -/
def sealFrame (c : PortCfg) (an : Nat) (sa : Sa) (b : Bytes) : Bytes :=
  let conf := bit c.secy 2
  let sc := bit c.secy 0
  let user := b.drop 12
  let tci := flagBit sc 5 + flagBit conf 3 + flagBit conf 2 + an
  let tag := [0x88, 0xE5, BitVec.ofNat 8 tci, BitVec.ofNat 8 (if user.length < 48 then user.length else 0)]
    ++ beBytes 4 sa.pn ++ (if sc then c.sci else [])
  let inp : MacsecIn :=
    { cipher := c.cipher, key := sa.key, salt := sa.salt, ssci := sa.ssci, sci := c.sci, pn := sa.pn, conf := conf
      offset := c.confOffset, aad := b.take 12 ++ tag }
  b.take 12 ++ tag ++ macsecSeal inp user

/-- What the MAC makes of a frame it starts: the bytes, or why they cannot be sent: 0 TX_NO_SA, 1 TX_SA_EXHAUSTED. -/
def macOut (s : State) (p : Nat) (b : Bytes) : Except Nat Bytes :=
  if !protects s p b then .ok b
  else
    let e := port s p
    match e.txAn with
    | none => .error 0
    | some an =>
      match e.txSas.lookup an with
      | none => .error 0
      | some sa => if pnMax (portCfg s p).cipher < sa.pn then .error 1 else .ok (sealFrame (portCfg s p) an sa b)

/-- Changes the transmit SA in use, or the SA 0 of a port that has none in use. -/
def updTxSa (p : Nat) (g : Sa → Sa) (s : State) : State :=
  let e := port s p
  setPort p { e with txSas := Tab.upd e.txSas (e.txAn.getD 0) {} g } s

/-- A protected frame used a packet number (R290). -/
def usePn (p : Nat) (s : State) : State :=
  let c := (portCfg s p).cipher
  let s := updTxSa p (fun a => { a with pn := a.pn + 1, good := a.good + 1 }) s
  match (port s p).txAn with
  | some an =>
    let a := Tab.get (port s p).txSas an {}
    if pnWarn c ≤ a.pn ∧ !a.warned then
      raiseInt 3 (record 0x0805 [BitVec.ofNat 8 p, BitVec.ofNat 8 an] (updTxSa p (fun a => { a with warned := true }) s))
    else s
  | none => s

/-! Flow control frames (R165, R189). -/

/-- Pause time of `q` quanta at a port's rate, in ns. -/
def quantaNs (s : State) (p q : Nat) : Nat := let r := rateOf s p; if r = 0 then 0 else q * 512 * 1000 / r

/-- The PFC or PAUSE frame of an ingress port: quanta 0xFFFF for each raised class, 0 for one that cleared (R165). -/
def pauseFrame (s : State) (p : Nat) : Bytes :=
  let m := raisedMask s p
  let head := beBytes 6 0x0180C2000001 ++ beBytes 6 s.otp.mpAddress ++ [0x88, 0x08]
  let body := if fcMode s p = 2 then
      [0x01, 0x01] ++ beBytes 2 (m ||| (egress s p).cleared)
        ++ (List.range 8).flatMap (fun c => beBytes 2 (if bit m c then 0xFFFF else 0))
    else [0x00, 0x01] ++ beBytes 2 (if m = 0 then 0 else 0xFFFF)
  padFrame (head ++ body)

/-- A due PFC or PAUSE frame is sent. -/
def sendPause (p : Nat) (s : State) : State :=
  let s := reachClock (egress s p).wakeAt s
  let s := stat p 22 1 (emit (.pauseFrame p (pauseFrame s p)) s)
  setEgress p { egress s p with pauseDue := false, cleared := 0, pauseSent := s.clk } s

/-- Meaning of PFC_RX: a PFC or PAUSE frame from the partner (R189). -/
def execPfcRx (p : Port) (frame : Bytes) (s : State) : Host.Outcome State Fault Refusal :=
  .next (
    let op := fieldBe frame 14 2
    if 28 ≤ p.val ∨ fieldBe frame 12 2 ≠ 0x8808 ∨ (op ≠ 0x0001 ∧ op ≠ 0x0101) then s
    else
      let s := settle p.val (stat p.val 17 1 s)
      let named := if op = 1 then [(8, fieldBe frame 16 2)]
        else ((List.range 8).filter (bit (fieldBe frame 16 2))).map (fun c => (c, fieldBe frame (18 + 2 * c) 2))
      let s := setEgress p.val { egress s p.val with pauseRx := (egress s p.val).pauseRx + 1 } s
      named.foldl (fun s (x : Nat × Nat) =>
        let e := egress s p.val
        if x.2 = 0 then
          setEgress p.val { e with pausedTill := Tab.del e.pausedTill x.1, pausedFrom := Tab.del e.pausedFrom x.1
                                   stuckAt := Tab.del e.stuckAt x.1 } s
        else
          let held := decide (s.clk < Tab.get e.pausedTill x.1 0)
          setEgress p.val { e with
            pausedTill := Tab.set e.pausedTill x.1 (s.clk + quantaNs s p.val x.2)
            pausedFrom := if held then e.pausedFrom else Tab.set e.pausedFrom x.1 s.clk
            stuckAt := if held then e.stuckAt else Tab.del e.stuckAt x.1 } s) s)

/-- Key of a pause: a class, or 8 for the whole port. -/
def pauseKey (c : Option (Fin 8)) : Nat :=
  match c with
  | some c => c.val
  | none => 8

/-- Meaning of PAUSE_EXPIRY: a pause time runs out (R189). -/
def execPauseExpiry (p : Port) (c : Option (Fin 8)) (s : State) : Host.Outcome State Fault Refusal :=
  .next (
    let k := pauseKey c
    match (egress s p.val).pausedTill.lookup k with
    | some t =>
      let s := settle p.val (reachClock t s)
      let e := egress s p.val
      setEgress p.val { e with pausedTill := Tab.del e.pausedTill k, pausedFrom := Tab.del e.pausedFrom k
                               stuckAt := Tab.del e.stuckAt k } s
    | none => s)

/-- Meaning of PFC_REFRESH: half the pause time has passed and the class is still raised (R165). -/
def execPfcRefresh (p : Port) (c : Fin 8) (s : State) : Host.Outcome State Fault Refusal :=
  .next (
    let m := if p.val < 28 then fcMode s p.val else 0
    let raised := raisedMask s p.val
    if (m = 2 ∧ bit raised c.val) ∨ (m = 1 ∧ raised ≠ 0) then
      let s := wakeLpi p.val (reachClock ((egress s p.val).pauseSent + quantaNs s p.val 0xFFFF / 2) s)
      setEgress p.val { egress s p.val with pauseDue := true } s
    else s)

/-- Meaning of PFC_STUCK: the partner has held a class or the port paused for 100 ms without interruption; recorded again
at most once per second (R167). -/
def execPfcStuck (p : Port) (c : Option (Fin 8)) (s : State) : Host.Outcome State Fault Refusal :=
  .next (
    let k := pauseKey c
    match (egress s p.val).pausedFrom.lookup k with
    | some t =>
      let due := match (egress s p.val).stuckAt.lookup k with
        | some x => x + 1000000000
        | none => t + 100000000
      let s := reachClock due s
      let s := record 0x0404 [BitVec.ofNat 8 p.val, BitVec.ofNat 8 (if k = 8 then 0xFF else k)] s
      setEgress p.val { egress s p.val with stuckAt := Tab.set (egress s p.val).stuckAt k s.clk } s
    | none => s)

/-- Meaning of PLCA_HOLD_EXPIRY: HOLD_US has passed and one cycle is released; once that has passed, the device holds again
while back-pressure stays raised (R166). -/
def execPlcaHoldExpiry (p : Port) (s : State) : Host.Outcome State Fault Refusal :=
  .next (
    let e := egress s p.val
    if p.val < 24 ∨ 28 ≤ p.val ∨ fcMode s p.val ≠ 3 ∨ raisedMask s p.val = 0 then s
    else if e.plcaHold then
      let s := reachClock (e.holdFrom + holdUs s p.val * 1000) s
      setEgress p.val { e with plcaHold := false } s
    else setEgress p.val { e with plcaHold := true, holdFrom := s.clk } s)

/-! Starting a frame (R188). -/

/-- Removes a frame from a port's queues. -/
def unqueue (n p : Nat) (s : State) : State :=
  let e := egress s p
  setEgress p { e with queues := e.queues.map (fun q => (q.1, q.2.filter (· != n))) } s

/-- The launch outcome of a frame that starts now: ON_TIME or LATE (R204). -/
def startOutcome (n p : Nat) (f : Frame) (s : State) : State :=
  match if hasLaunch p then f.launch else none with
  | some t => launchOutcome n p (if wNow s ≤ t + nsVal 8 then 0 else 1) s
  | none => s

/-- A frame that starts would start after its launch time's last instant: it is MISSED (R204). -/
def launchGone (p : Nat) (f : Frame) (s : State) : Bool :=
  match if hasLaunch p then f.launch else none with
  | some t => decide (t + nsVal (8 + ltLate s p) < wNow s)
  | none => false

/-- The transmission of a frame as `out` that begins now. -/
def sendingOf (s : State) (p n q : Nat) (out : Bytes) : Sending :=
  let left := (txTime s p (out.length + 4) + 2 ^ 60 - 1) / 2 ^ 60
  { frame := n, startClk := s.clk, left := left, preemptible := preemptible s p q, began := s.clk, stamp := wNow s, bytes := out
    slack := left * rateOf s p - 8000 * (out.length + 24) }

/-- Frame `n` goes on the wire of port `p`; a launch-time frame past its last instant is MISSED, and a stored frame that cannot be protected, or that protection makes too long, is
discarded before it starts (R288–R291); the flag tells whether it started. -/
def startFrame (n p : Nat) (s : State) : State × Bool :=
  match frameOf s n with
  | none => (unqueue n p s, false)
  | some f =>
    match destAt f p with
    | none => (unqueue n p s, false)
    | some d =>
      let b := editedBytes s p f
      let s := settle p (reachClock (egress s p).wakeAt s)
      match macOut s p b with
      | .error _ =>
        (discardQueued n p (updTxSa p (fun a => { a with lost := a.lost + 1 }) s), false)
      | .ok out =>
        let overs := protects s p b && decide ((portCfg s p).maxFrame < out.length + 4)
        if launchGone p f s then (discardQueued n p (launchOutcome n p 2 s), false)
        else if overs && !d.cut then (discardQueued n p s, false)
        else
          let s := startOutcome n p f (unqueue n p s)
          let s := updDest n p (fun d => { d with phase := .sending, spoil := d.spoil || overs }) s
          let s := setEgress p { egress s p with sending := some (sendingOf s p n f.res.queue out) } s
          (if protects s p b then usePn p s else s, true)

/-- The scheduler starts the first frame that applies among queues `g`. -/
def startFirst (p : Nat) (g : Nat → Bool) : Nat → State → State × Bool
  | 0, s => (s, false)
  | fuel + 1, s =>
    match selectFrame s p g with
    | none => (s, false)
    | some n =>
      let (s, ok) := startFrame n p s
      if ok then (s, true) else startFirst p g fuel s

/-- Line time of `n` bytes at a port's rate in ns, rounded up. -/
def byteNs (s : State) (p n : Nat) : Nat := let r := rateOf s p; if r = 0 then 0 else (8000 * n + r - 1) / r

/-- Smallest non-final fragment of a port, its mCRC included: 64 × (1 + ADD_FRAG_SIZE) bytes (R202). -/
def minFragment (s : State) (p : Nat) : Nat := 64 * (1 + bits (shaperField s p 33 1 0) 2 2)

/-- The first point at or after the present at which the preemptible frame in progress may be preempted: the smallest fragment has
been sent, and 64 bytes of the frame are still to go; none where no such point is left (R202, log 82). -/
def permittedPoint (s : State) (p : Nat) (x : Sending) : Option Nat :=
  let t := Nat.max s.clk (x.startClk + byteNs s p (minFragment s p + 4))
  if x.preemptible ∧ 8000 * 76 ≤ (x.left - (t - x.startClk)) * rateOf s p then some t else none

/-- The preemptible frame in progress is preempted at its first permitted point, where it has one: the fragment ends with its mCRC
and the inter-frame gap, and what is left of the frame goes on with a preamble of its own (R202, R203). -/
def preemptNow (p : Nat) (s : State) : State :=
  match (egress s p).sending with
  | some x =>
    match permittedPoint s p x with
    | some t =>
      let s := settle p (reachClock t s)
      let s := setEgress p { egress s p with
        sending := none, preempted := some { x with left := x.left - (t - x.startClk) + byteNs s p 8 } } s
      reachClock (t + byteNs s p 16) s
    | none => s
  | none => s

/-- Frames waiting in a port's queues. -/
def waiting (s : State) (p : Nat) : Nat := sumBy (fun q => q.2.length) (egress s p).queues

/-- The MAC can begin a frame: item 1, 2 or 3 of R188. -/
def selectNow (p : Nat) (s : State) : State :=
  let e := egress s p
  let n := waiting s p + 1
  if p < 28 ∧ !portUp s p then s
  else
    match e.sending with
    | some x =>
      if !x.preemptible ∨ e.preempt ≠ 2 ∨ e.preempted.isSome then s
      else
        match permittedPoint s p x with
        | some t =>
          if e.pauseDue then sendPause p (preemptNow p s)
          else if (selectFrame (reachClock t s) p (fun q => !preemptible s p q)).isSome then
            (startFirst p (fun q => !preemptible s p q) n (preemptNow p s)).1
          else s
        | none => s
    | none =>
      if e.pauseDue then sendPause p s
      else
        let (s, ok) := startFirst p (fun q => !preemptible s p q) n s
        if ok then s
        else
          match (egress s p).preempted with
          | some x =>
            if (egress s p).macHeld then s
            else setEgress p { egress s p with sending := some { x with startClk := s.clk }, preempted := none } (settle p s)
          | none => (startFirst p (preemptible s p) n s).1

/-! PLCA (R286). -/

/-- Bit time of a TS port in ns. -/
def tsBit : Nat := 100

/-- Bit times of a BEACON (IEEE 802.3cg). -/
def beaconBits : Nat := 20

/-- BURST_COUNT and BURST_TIMER (Table 10.3). -/
def burstCount (c : PortCfg) : Nat := c.plcaBurst % 256
/-- BURST_TIMER in ns. -/
def burstNs (c : PortCfg) : Nat := c.plcaBurst / 256 * tsBit

/-- A TS port under PLCA comes to a transmit opportunity of its own, or goes on with the burst of the present one; none where it has
none now.  The coordinator begins a cycle with the BEACON once the last is over, unless it holds the segment (R166); a node has one
opportunity after each BEACON, PLCA_NODE_ID opportunities after it at the earliest (R286, log 144). -/
def plcaTurn (p : Nat) (s : State) : Option State :=
  let c := portCfg s p
  let e := port s p
  if p < 24 ∨ 28 ≤ p ∨ (e.plca ≠ 1 ∧ e.plca ≠ 2) then some s
  else if 0 < e.burstLeft ∧ s.clk ≤ e.burstTill then some (setPort p { e with burstLeft := e.burstLeft - 1 } s)
  else if e.plca = 1 then
    if (egress s p).plcaHold then none
    else
      let s := emit (.beacon p) (reachClock e.cycleEnd s)
      let start := s.clk + beaconBits * tsBit
      some (reachClock start (setPort p { port s p with
        beaconAt := s.clk, cycleEnd := start + c.plcaCount * c.plcaTimer * tsBit, burstLeft := burstCount c } s))
  else if e.plcaUsed then none
  else
    let s := reachClock (e.beaconAt + (beaconBits + c.plcaId * c.plcaTimer) * tsBit) s
    some (setPort p { e with plcaUsed := true, burstLeft := burstCount c } s)

/-- A transmission of a port under PLCA is over: the burst may go on for BURST_TIMER, and the cycle is longer by the frame. -/
def plcaSent (p ns : Nat) (s : State) : State :=
  let e := port s p
  if p < 24 ∨ 28 ≤ p ∨ (e.plca ≠ 1 ∧ e.plca ≠ 2) then s
  else setPort p { e with burstTill := s.clk + burstNs (portCfg s p), cycleEnd := e.cycleEnd + ns } s

/-- An MG port with EEE whose transmit queues are empty enters low-power idle where the partner permits it, which is the line's free
choice (R284, log 143). -/
def enterLpi (p : Nat) (s : State) : State :=
  let e := egress s p
  if portType p ≠ 0 ∨ !bit (portCfg s p).flags 0 ∨ !portUp s p ∨ !e.queues.all (fun q => q.2.isEmpty) ∨ e.pauseDue
      ∨ e.preempted.isSome then s
  else
    let (n, s) := drawNat s
    setEgress p { egress s p with lpi := n % 2 == 1 } s

/-- Meaning of EGRESS_SELECT: the MAC begins the first frame that applies.  A queue of HP waits for its ring's descriptors and one of
GW for its channels' places; no rule says when the cluster holds MP back (R188, R190, log 135); a port under PLCA waits for its
opportunity (R286). -/
def execEgressSelect (p : Port) (reads : List CellError) (s : State) : Host.Outcome State Fault Refusal :=
  .next (
    if p.val = 31 then s
    else
      match plcaTurn p.val s with
      | some s => selectNow p.val (reads.foldl (fun s e => readRow e s) (settle p.val s))
      | none => s)

/-! The end of a transmission (R197, R237–R239). -/

/-- BOUND_NS of the certificate entry of a stream whose OUT_PORT is `p` (Table 3.10). -/
def certBound (s : State) (h p : Nat) : Option Nat :=
  match if h = 0xFFFF then none else liveSection s 0x00F0 with
  | some sec =>
    match (List.range (fieldLe sec 10 2)).find? (fun i =>
        fieldLe sec (64 + 16 * i) 2 == h && byteAt sec (64 + 16 * i + 3) == p) with
    | some i => some (fieldLe sec (64 + 16 * i + 8) 4)
    | none => none
  | none => none

/-- The latency of a transmitted frame is held against its certificate bound (R197). -/
def checkBound (f : Frame) (p : Nat) (start : Int) (s : State) : State :=
  match certBound s f.stream p with
  | some b =>
    let l := ((start - f.stamp) / 2 ^ 60).toNat
    if nsVal b < start - f.stamp then
      let e := egress s p
      let s := countSource 3 f.stream 6 1 (setEgress p { e with certExceeded := e.certExceeded + 1 } s)
      recordLimited 0x0501 p (fun _ => leBytes 2 f.stream ++ leBytes 4 l ++ leBytes 4 b) s
    else s
  | none => s

/-- Statistics of a frame sent with a correct FCS (Table 16.1). -/
def countSent (p : Nat) (b : Bytes) (s : State) : State :=
  let mac := fieldBe b 0 6
  let s := stat p 19 (b.length + 4) (stat p 18 1 s)
  if mac = 2 ^ 48 - 1 then stat p 21 1 s else if isGroup mac then stat p 20 1 s else s

/-- The frame on port `p`'s wire has left: whole with a correct FCS, or ended with an inverted one. -/
def finishSending (p : Nat) (s : State) : State :=
  match (egress s p).sending with
  | none => s
  | some x =>
    match frameOf s x.frame with
    | none => setEgress p { egress s p with sending := none } s
    | some f =>
      let s := endCharge p f.res.queue x.slack (settle p (reachClock (x.startClk + x.left) s))
      let d := (destAt f p).getD { port := p, seq := 0 }
      let out := x.bytes
      let bad := d.spoil || !f.ended || f.oversize
      let s := checkBound f p x.stamp (emit (.frame p out (!bad)) s)
      let s := if bad then stat p 23 1 s
        else
          let s := countQueue p f.res.queue 1 (out.length + 4) (countQueue p f.res.queue 0 1 (countSent p out s))
          let s := noteTraffic p s
          let stamp := timeBytes x.stamp
          match f.hpDesc with
          | some (r, i) =>
            let s := { s with hst := { s.hst with tx := Tab.upd s.hst.tx r {} (fun t => { t with
              work := t.work.map (fun y => if y.index = i ∧ y.frame.isSome then { y with status := some 0 } else y) }) } }
            updTxDesc x.frame p (fun y => if bit (byteAt y.bytes 10) 0 then { y with stamp := stamp } else y) s
          | none => s
      enterLpi p (dropDest x.frame p (setEgress p { egress s p with sending := none } (plcaSent p x.left s)))

/-- The frame that port `p` hands over is dropped and counted in statistic `k`: nothing of it leaves (Table 1.4). -/
def dropSending (p k : Nat) (s : State) : State :=
  match (egress s p).sending with
  | none => s
  | some x => dropDest x.frame p (setEgress p { egress s p with sending := none } (stat p k 1 s))

/-! Gates, holds, launches and preemption rows. -/

/-- Meaning of GATE_ENTRY_CHANGE: the list moves to its next entry; an entry that releases the MAC ends a hold (R191,
R203). -/
def execGateEntryChange (p : Port) (s : State) : Host.Outcome State Fault Refusal :=
  .next (match gateBlock s p.val with
    | some (sec, o) =>
      let (i, left) := gateEntry s sec o (wNow s)
      let s := settle p.val (reachW (wNow s + (left : Int)) s)
      let j := (i + 1) % fieldLe sec (o + 8) 2
      let e := egress s p.val
      if gateOp sec o j = 2 then setEgress p.val { e with macHeld := false } s
      else if gateOp sec o j = 1 ∧ e.preempt = 2 then setEgress p.val { e with macHeld := true } s
      else s
    | none => s)

/-- The 2^-60 ns until the next entry with OP 1 begins, from entry `i` of which `left` is to run. -/
def untilHold (sec : Bytes) (o : Nat) : Nat → Nat → Nat → Option Nat
  | 0, _, _ => none
  | fuel + 1, i, left =>
    let j := (i + 1) % fieldLe sec (o + 8) 2
    if gateOp sec o j = 1 then some left else untilHold sec o fuel j (left + gateDur sec o j * 2 ^ 60)

/-- Meaning of SET_AND_HOLD_MAC: HOLD_ADVANCE_NS before such an entry the preemptible MAC is held (R203). -/
def execSetAndHoldMac (p : Port) (s : State) : Host.Outcome State Fault Refusal :=
  .next (match gateBlock s p.val with
    | some (sec, o) =>
      if (egress s p.val).preempt ≠ 2 then s
      else
        let (i, left) := gateEntry s sec o (wNow s)
        match untilHold sec o (fieldLe sec (o + 8) 2) i left with
        | some w =>
          let s := reachW (wNow s + (w : Int) - nsVal (fieldLe sec (o + 28) 4)) s
          let s := preemptNow p.val s
          setEgress p.val { egress s p.val with macHeld := true } s
        | none => s
    | none => s)

/-- Meaning of LAUNCH_MISSED: a queued launch-time frame not started by T + 8 ns + LT_LATE_NS is discarded (R204). -/
def execLaunchMissed (p : Port) (n : Nat) (s : State) : Host.Outcome State Fault Refusal :=
  .next (match if hasLaunch p.val ∧ (egress s p.val).queues.any (fun q => q.2.contains n) then (frameOf s n).bind (fun f => f.launch) else none with
    | some t =>
      let s := reachW (t + nsVal (8 + ltLate s p.val)) s
      discardQueued n p.val (launchOutcome n p.val 2 s)
    | none => s)

/-- Preemption starts toward a link partner (R201). -/
def startPreemption (p : Nat) (s : State) : State :=
  let fl := shaperField s p 33 1 0
  let m := if !bit fl 0 then 0 else if bit fl 1 then 2 else 1
  setEgress p { egress s p with preempt := m, verifyTries := 0, verifyAt := s.clk } s

/-- VERIFY_TIME_MS after the last attempt the next one is due, or verification ends as failed (R201). -/
def verifyDue (s : State) (p : Nat) : Nat :=
  let e := egress s p
  if e.verifyTries = 0 then s.clk else e.verifyAt + shaperField s p 34 2 0 * 1000000

/-- Meaning of PREEMPT_VERIFY: a verify attempt every VERIFY_TIME_MS, at most three, or the end of verification as failed
(R201). -/
def execPreemptVerify (p : Port) (s : State) : Host.Outcome State Fault Refusal :=
  .next (
    let e := egress s p.val
    if e.preempt ≠ 1 ∨ !portUp s p.val then s
    else
      let s := reachClock (verifyDue s p.val) s
      if e.verifyTries < 3 then
        emit (.preempt p.val false) (setEgress p.val { e with verifyTries := e.verifyTries + 1, verifyAt := s.clk } s)
      else record 0x0502 [BitVec.ofNat 8 p.val] (setEgress p.val { e with preempt := 3 } s))

/-- Meaning of PREEMPT_RESPONSE_RX: verification succeeds (R201). -/
def execPreemptResponseRx (p : Port) (s : State) : Host.Outcome State Fault Refusal :=
  .next (if (egress s p.val).preempt = 1 then setEgress p.val { egress s p.val with preempt := 2 } s else s)

/-- A port's link is lost: its frames are removed and counted, with hole notices, and preemption ends (R168, R201). -/
def emptyPort (p : Nat) (s : State) : State :=
  let s := s.frames.foldl (fun s (e : Nat × Frame) =>
    match (frameOf s e.1).bind (fun f => destAt f p) with
    | some _ => discardCopy e.1 p (stat p 25 1 s)
    | none => s) s
  setEgress p { egress s p with
    sending := none, preempted := none, preempt := 0, macHeld := false, queues := [], pausedTill := [], pausedFrom := []
    stuckAt := [], pauseDue := false, lpi := false, wakeAt := 0 } s

/-! EGR_STATUS (R216). -/

/-- Credit in units of 2^-16 bit. -/
def creditUnits (s : State) (p q : Nat) : Int := Tab.get (egress s p).credit q 0 / 1000000

/-- The EGR_STATUS result of a port (Table 7.17). -/
def egrPortStatus (p : Nat) (s : State) : Bytes :=
  let s := settle p s
  let e := egress s p
  let entry := (gateBlock s p).map (fun (x : Bytes × Nat) => (gateEntry s x.1 x.2 (wNow s)).1)
  [BitVec.ofNat 8 (gatesAt s p (wNow s)), BitVec.ofNat 8 e.preempt] ++ leBytes 2 (entry.getD 0xFFFF) ++ [0, 0, 0, 0]
    ++ leBytes 8 e.pauseRx.toNat ++ leBytes 8 e.certExceeded.toNat ++ leBytes 8 e.atsDrops.toNat
    ++ (List.range 8).flatMap (fun q =>
        (List.range 7).flatMap (fun k => leBytes 8 (Tab.get e.counts (8 * q + k) 0).toNat) ++ leInt 8 (creditUnits s p q))

/-- The EGR_STATUS result of a stream (Table 7.18). -/
def egrStreamStatus (h : Nat) (s : State) : Bytes :=
  let sec := liveBytes s 0x0007
  let fo := filterOff sec h
  let gate := fieldLe sec fo 2
  let meter := fieldLe sec (fo + 2) 2
  let cnt := fun k => leBytes 8 (Tab.get s.egr.streams (8 * h + k) 0).toNat
  let g := if gate = 0xFFFF then [0xFF, 0xFF] else
    let e := streamGateEntry s sec gate (wNow s)
    [BitVec.ofNat 8 (byteAt sec (e + 4) % 2), BitVec.ofNat 8 (byteAt sec (e + 5))]
  let v := refillMeter sec (meterOff sec meter) (s.egr.meters.lookup meter) 0
  let lvl := fun (b : Int) => leInt 4 (b / bucketByte)
  (List.range 6).flatMap cnt ++ g ++ [0, 0]
    ++ (if meter = 0xFFFF then List.replicate 8 0 else lvl v.committed ++ lvl v.excess) ++ [0, 0, 0, 0]

/-- EGR_STATUS. -/
def egrStatusOp : OpDef :=
  { code := 0x0501
    params := fun r s =>
      let scope := byteAt r.payload 0
      let p := byteAt r.payload 1
      let h := fieldLe r.payload 2 2
      if r.payload.length ≠ 4 then some 0
      else if scope = 0 then (if p ≤ 30 ∧ h = 0 then none else some 0)
      else if scope = 1 then (if p = 0 ∧ h < filterCount (liveBytes s 0x0007) then none else some 0)
      else some 0
    commit := fun r s =>
      answer r stOk 0 (if byteAt r.payload 0 = 0 then egrPortStatus (byteAt r.payload 1) s
        else egrStreamStatus (fieldLe r.payload 2 2) s) s }

/-- Meaning of EGR_STATUS (R216). -/
def execEgrStatus (c : CmdSource) (s : State) : Host.Outcome State Fault Refusal := .next (runCommand egrStatusOp c s)

end Sys2Proof.Machine
end

