-- ==== Sys2Proof/Machine/Lanes.lean ====
section
/-!
DEFINITION. The frame path: entry at an ingress port, the sorting lanes and RP, the judgement at their output, the end of
a frame with MACsec validation, and the rule banks' status (stages 1 to 6 of Table 1.2).
-/
namespace Sys2Proof.Machine

/-- Rule bank `i`: 0 A, 1 B; any other is the ROM program. -/
def ruleBank (s : State) (i : Nat) : RuleBank := Tab.get s.lanes.banks i {}

/-- Lane of the next frame of port `p` (R90). -/
def laneOf (s : State) (p : Nat) : Nat := Tab.get s.lanes.next p (p % 8)

/-- The dispatcher's lane for port `p` advances. -/
def advanceLane (p : Nat) (s : State) : State :=
  { s with lanes := { s.lanes with next := Tab.set s.lanes.next p ((laneOf s p + 1) % 8) } }

/-- A frame enters at port `p` from source endpoint `ep`: lane, stamp and back-pressure state are taken; `wire` is its
length on the wire.  The number it takes is the state's next one. -/
def enterFrame (p ep wire : Nat) (content : Bytes) (ended secy : Bool) (launch : Option Int) (hp : Option (Nat × Nat))
    (s : State) : State :=
  let f : Frame :=
    { inPort := p, srcEp := ep, content := content, wireLen := wire, startClk := s.clk, stamp := wNow s
      bpAtStart := raisedMask s p, lane := laneOf s p, ended := ended, throughSecY := secy, launch := launch, hpDesc := hp }
  advanceLane p { s with frames := s.frames ++ [(s.nextFrame, f)], nextFrame := s.nextFrame + 1 }

/-- Statistics of a frame received with a correct FCS (Table 16.1). -/
def countReceived (p len : Nat) (c : Bytes) (s : State) : State :=
  let mac := fieldBe c 0 6
  let s := stat p 1 len (stat p 0 1 s)
  if mac = 2 ^ 48 - 1 then stat p 3 1 s else if isGroup mac then stat p 2 1 s else s

/-- A frame of an internal port enters whole; with a FRER entry it takes its R-TAG first (R212). -/
def enterInternal (p ep : Nat) (gen : Option Nat) (content : Bytes) (launch : Option Int) (hp : Option (Nat × Nat)) (s : State) :
    State :=
  let (s, c) := match gen with
    | some e => generate p e content s
    | none => (s, some content)
  match c with
  | some c => enterFrame p ep (c.length + 4) c true false launch hp (countReceived p (c.length + 4) c s)
  | none => s

/-- The receive channel of a port whose SCI is `sci`: its index in the port (Table 10.4). -/
def rxscOf (s : State) (c : PortCfg) (sci : Bytes) : Option Nat :=
  match liveSection s 0x000E with
  | some sec => (List.range c.rxscNum).find? (fun i => slice sec (1856 + 16 * (c.rxscFirst + i)) 8 == sci)
  | none => none

/-- SCI of a frame with a SecTAG: explicit, or the source address with port number 1. -/
def sciOf (b : Bytes) : Bytes := if bit (byteAt b 14) 5 then slice b 20 8 else slice b 6 6 ++ [0, 1]

/-- The port's SecY judges the frame at its end (R103, R180, R288): MACSEC is set, VALIDATE is not Disabled, and the frame has a
receive channel or Strict does not let it pass without one. -/
def secyValidates (s : State) (p : Nat) (b : Bytes) : Bool :=
  let c := portCfg s p
  let mode := bits c.secy 3 2
  decide (p < 24) && bit c.flags 6 && mode != 0
    && (if fieldBe b 12 2 = 0x88E5 then (rxscOf s c (sciOf b)).isSome || (mode == 2 && !bit c.secy 6) else mode == 2)

/-- The class under which a frame from the cluster would be charged: that of its first pass (R159, R164). -/
def mpClass (s : State) (content : Bytes) : Nat :=
  let b := ruleBank s (if s.lanes.rom then 2 else s.lanes.live)
  (firstPass b (firstWalk b 29 content true) false).cls

/-- The cluster's MAC may transmit a frame: its class is not back-pressured and the headroom has room for a whole frame (Table
6.10). -/
def mpFree (s : State) (content : Bytes) : Bool := !internalWaits 29 s && !bit (raisedMask s 29) (mpClass s content)

/-- A PFC or PAUSE frame, which the MAC consumes: PFC_RX is the row of its receipt (R189, R281). -/
def isPause (c : Bytes) : Bool := fieldBe c 12 2 == 0x8808 && (fieldBe c 14 2 == 0x0001 || fieldBe c 14 2 == 0x0101)

/-- Meaning of FRAME_START (R159): a frame begins at an external port that is up, or the cluster sends one from MP; the
other internal ports have rows of their own. -/
def execFrameStart (p : Port) (content : Bytes) (gen : Option (Fin 2048)) (s : State) : Host.Outcome State Fault Refusal :=
  .next (
    if !forwarding s.sys.mode ∨ dataPathDown s then s
    else if p.val < 28 then
      (if portUp s p.val ∧ !isPause content then
        enterFrame p.val p.val (content.length + 4) content false (secyValidates s p.val content) none none s
       else s)
    else if p.val = 29 ∧ clusterServes s ∧ mpFree s content then
      enterInternal 29 32 (gen.map Fin.val) content none none s
    else s)

/-- A lane's next slot for a first pass: the slot reserved for RP is left to it (R91). -/
def firstSlot (n : Nat) : Nat := if n = 3 then 1 else n + 1

/-- A waiting frame may begin its first pass: its first 64 bytes have arrived, or the whole frame where a SecY validates it
(R93, R103). -/
def passReady (s : State) (f : Frame) : Bool :=
  f.phase == .waiting && (f.ended || (!f.throughSecY && decide (512000 ≤ (s.clk - f.startClk) * rateOf s f.inPort)))

/-- Frames ready for a first pass in a lane, in order of arrival. -/
def laneWaiting (s : State) (lane : Nat) : List (Nat × Frame) :=
  s.frames.filter (fun e => e.2.lane == lane && passReady s e.2)

/-- The frame whose turn it is in a lane: the first of the next port in round-robin order (R91). -/
def laneTurn (s : State) (lane : Nat) : Option Nat :=
  let l := laneWaiting s lane
  (List.range 32).findSome? (fun k =>
    (l.find? (fun e => e.2.inPort == (Tab.get s.lanes.served lane 31 + 1 + k) % 32)).map (fun e => e.1))

/-- Frames in RP. -/
def rpFrames (s : State) : List (Nat × Frame) := s.frames.filter (fun e => e.2.phase == .rinse)

/-- The frame that stands first in RP: strict priority by class, arrival order within a class (R90, R94).  Nothing overtakes it
while it is not stored whole (R93). -/
def rpFirst (s : State) : Option (Nat × Frame) :=
  let better := fun (a b : Nat × Frame) =>
    decide (frameCls b.2 < frameCls a.2) || (frameCls a.2 == frameCls b.2 && decide (a.2.rpOrder < b.2.rpOrder))
  match rpFrames s with
  | [] => none
  | a :: as =>
    let e := as.foldl (fun m x => if better x m then x else m) a
    if e.2.ended then some e else none

/-- The lane's next slot is the one reserved for RP, and RP has a frame waiting for that lane (R91). -/
def slotIsRps (s : State) (lane : Nat) : Bool :=
  Tab.get s.lanes.slot lane 0 == 3 && laneOf s 31 == lane && (rpFirst s).isSome

/-- Meaning of LANE_PASS_BEGIN: a first pass begins in a slot that is not RP's, when it is its frame's turn; a frame that a SecY
validates waits for its end (R91, R93, R103). -/
def execLanePassBegin (n : Nat) (s : State) : Host.Outcome State Fault Refusal :=
  .next (match frameOf s n with
    | some f =>
      if f.phase ≠ .waiting ∨ (f.throughSecY ∧ !f.ended) ∨ slotIsRps s f.lane ∨ (passReady s f ∧ laneTurn s f.lane ≠ some n) then s
      else
        let l := s.lanes
        setFrame n { f with phase := .firstPass, bank := if l.rom then 2 else l.live, epoch := l.epoch }
          { s with lanes := { l with first := Tab.upd l.first f.lane 0 (· + 1)
                                     slot := Tab.upd l.slot f.lane 0 firstSlot
                                     served := Tab.set l.served f.lane f.inPort } }
    | none => s)

/-! Reasons (R102). -/

/-- Index of a reason code in the order of Table 4.6. -/
def reasonIndex (r : Nat) : Nat := if r < 0x10 then r - 1 else if r = 0x20 then 16 else r - 0x10 + 4

/-- A lane counts a reason code. -/
def countReason (lane r : Nat) (s : State) : State :=
  if r = 0 then s
  else
    let s := { s with lanes := { s.lanes with reasons := Tab.upd s.lanes.reasons (17 * lane + reasonIndex r) 0 (· + 1) } }
    countSource 8 0xFFFF r 1 (countSource 8 lane r 1 s)

/-! Decision records (R398, R399). -/

/-- A digest stream's frame got its decision: it is checked and recorded, or counted as over DIGEST_MAX; a checker that
differs raises DECISION_FAULT. -/
def decide_ (f : Frame) (h cls colour queue outcome : Nat) (differs : Bool) (s : State) : State :=
  match liveSection s 0x0012 with
  | none => s
  | some sec =>
    if h = 0xFFFF ∨ !(List.range (fieldLe sec 0 2)).any (fun i => fieldLe sec (64 + 2 * i) 2 == h) then s
    else if fieldLe sec 2 2 ≤ s.pair.ownNow.length then { s with pair := { s.pair with overs := s.pair.overs + 1 } }
    else
      let r : DigestRec :=
        { handle := h, seq := (rtagSeq f.content).getD 0, byte4 := cls * 32 + colour * 8 + outcome, byte5 := queue }
      let s := { s with pair := { s.pair with ownNow := s.pair.ownNow ++ [r] } }
      if differs then escalate 3 { s with pair := { s.pair with disagreements := s.pair.disagreements + 1 } } else s

/-! Stages 3 to 6. -/

/-- PACE_SHED: PACE_MARGIN is raised with the SHED reaction and the class is one of SHED_CLASSES, in SAFE as well (R89,
R207). -/
def paceShed (s : State) (cls : Nat) : Bool :=
  s.img.margin && (match liveSection s 0x00F0 with
    | some c => fieldLe c 2 2 == 0 && bit (byteAt c 8) cls
    | none => false)

/-- SAFE_SHED: in SAFE a class outside SCHED_CLASSES is shed, and without an image all but the MP path (R33, R387). -/
def safeShed (s : State) (f : Frame) (cls : Nat) : Bool :=
  s.sys.mode == .safe && (match s.img.live with
    | some _ => !bit (schedClasses s) cls
    | none => f.inPort != 29 && !f.ports.contains 29)

/-- Shedding at the PSFP stage (R89, R207, R387). -/
def isShed (s : State) (f : Frame) (cls : Nat) : Bool := paceShed s cls || safeShed s f cls

/-- In SAFE entered from AUTONOMOUS only the MP path stays: the other copies of a frame to MP are not made (R33). -/
def safePath (s : State) (f : Frame) (eps : List Nat) : List Nat :=
  match s.sys.mode, s.img.live with
  | .safe, none => if f.inPort = 29 then eps else eps.filter (· == 32)
  | _, _ => eps

/-- The frame is cut through to port `q` (R180). -/
def cutsThrough (s : State) (f : Frame) (q : Nat) (rinsed : Bool) : Bool :=
  let e := egress s q
  decide (f.inPort < 24) && decide (q < 24) && decide (rateOf s q ≤ rateOf s f.inPort) && e.sending.isNone
    && e.preempted.isNone && (List.range 8).all (fun k => (basinQueue s q k).isEmpty)
    && !pausedAt e (frameCls f) s.clk && !rinsed && !f.throughSecY && f.launch.isNone
    && admits s q f { port := q, seq := 0, cut := true }

/-- A number is assigned for the next of the frame's ports (R174). -/
def assignSeqs (n : Nat) (rinsed : Bool) : List Nat → State → State
  | [], s => s
  | q :: qs, s =>
    match frameOf s n with
    | none => s
    | some f =>
      let s := settle q s
      let k := seqKey f.inPort q (frameCls f)
      let v := Tab.get s.bsn.seqs k 0
      let d : Dest := { port := q, seq := v, cut := cutsThrough s f q rinsed }
      let s := { s with bsn := { s.bsn with seqs := Tab.set s.bsn.seqs k ((v + 1) % 65536) } }
      let s := setFrame n { f with dests := f.dests ++ [d] } s
      let s := if d.cut ∨ f.ended then enterQueue n q s else s
      assignSeqs n rinsed qs s

/-- The frame's charges move under its final class (R159). -/
def relink (n : Nat) (c : Nat) (s : State) : State :=
  match frameOf s n with
  | some f => refreshBp (setFrame n { f with chargeCls := c } s)
  | none => s

/-- PAUSE_IGNORED: the frame is dropped whole at the hard limit (R161). -/
def dropIgnored (n p : Nat) (s : State) : State :=
  dropFrame n (recordLimited 0x0402 p (fun _ => [BitVec.ofNat 8 p]) (stat p 16 1 s))

/-- Stage 5 and 6: the frame is charged under the class `c` that the lanes gave it, or dropped at the hard limit, and
numbered for each egress port; a rinsed frame's cells are relinked under its final class (R159, R161, R174). -/
def writeFrame (n c : Nat) (rinsed : Bool) (s : State) : State :=
  match frameOf s n with
  | none => s
  | some f =>
    if !rinsed ∧ pauseIgnored f c s then dropIgnored n f.inPort s
    else
      let s := if rinsed then relink n (frameCls f) s else chargeFrame n c s
      let s := match frameOf s n with
        | some f => setFrame n { f with phase := .forwarded, rinsed := rinsed } s
        | none => s
      let s := assignSeqs n rinsed f.ports s
      let s := match f.hpDesc with
        | some (r, i) =>
          { s with hst := { s.hst with tx := Tab.upd s.hst.tx r {} (fun t => { t with
              work := t.work.map (fun x => if x.index = i ∧ x.frame = some n then { x with txPort := f.ports.foldl Nat.min 0xFF } else x) }) } }
        | none => s
      refreshBp s

/-- An uncorrectable connection entry that the look-up of a trackable frame reads is removed (R131, R132, R137). -/
def dropBadConn (w : Walk) (f : Frame) (eps : List Nat) (s : State) : State :=
  let sz := zoneOf s f.srcEp
  let zones := (eps.map (zoneOf s)).eraseDups
  match if zones.length = 1 ∧ zones.headD sz ≠ sz ∧ trackable w then connMatch s w sz (zones.headD sz) else none with
  | some (i, _, _) =>
    record 0x0303 (leBytes 4 i) { s with fwl := { s.fwl with conns := Tab.del s.fwl.conns i } }
  | none => s

/-- Stages 3 to 6 on a final result `r` whose pass left the fields `w` (Table 1.2). -/
def judgeFrame (n : Nat) (w : Walk) (flags : Nat) (r : LaneRes) (rinsed : Bool) (x : LaneFaults) (s : State) : State :=
  match frameOf s n with
  | none => s
  | some f =>
    let h := streamOf s w f.inPort
    let note := fun (cls colour queue o : Nat) (s : State) => decide_ f h cls colour queue o x.checkerDiffers s
    let s := setFrame n { f with res := r } s
    match r.drop with
    | some rule => dropFrame n (note r.cls r.colour r.queue 1 (stat f.inPort (if rule then 11 else 12) 1 s))
    | none =>
      let eps := safePath s f (destEndpoints f.ports f.funcs f.channels)
      let s := if x.connError ∧ !r.zoneLock then dropBadConn w f eps s else s
      let (s, left) := firewallStage w flags f.srcEp r.cls r.colour r.zoneLock eps s
      if left.isEmpty then dropFrame n (note r.cls r.colour r.queue 2 (stat f.inPort 13 1 s))
      else if isShed s f r.cls then dropFrame n (note r.cls r.colour r.queue 5 (stat f.inPort 15 1 s))
      else
        let (s, o) := psfpSteps w f.inPort f.stamp (if f.ended then some (frameLen f) else none) r s
        let s := note o.cls o.colour o.queue o.outcome s
        let lane := r.cls
        let r := { r with cls := o.cls, queue := o.queue, colour := o.colour }
        let f := { f with res := r, stream := o.stream, assumed := o.assumed, ports := (left.map endpointPort).eraseDups
                          funcs := endpointFuncs left, channels := endpointChannels left }
        let s := setFrame n f s
        if o.outcome ≠ 0 then dropFrame n s else writeFrame n lane rinsed s

/-- The frame exceeds its filter's MAX_SDU: it is counted, and each egress MAC ends it with an inverted FCS (R210). -/
def judgeOversize (n : Nat) (s : State) : State :=
  match frameOf s n with
  | none => s
  | some f =>
    if overSdu f s ∧ !f.oversize then
      countStream f.stream 5 (setFrame n { f with oversize := true } s)
    else s

/-- A frame whose end has come and whose result is known is learned from and held against MAX_SDU (R154, R210). -/
def settleEnd (n : Nat) (s : State) : State :=
  match frameOf s n with
  | none => s
  | some f => if f.ended ∧ f.phase = .forwarded then freeIfDone n (judgeOversize n (learn f s)) else s

/-! Results of the lanes (R92, R94, R100, R112). -/

/-- An earlier frame of the same port whose first pass is not released yet (R92). -/
def earlierPending (s : State) (n p : Nat) : Bool :=
  s.frames.any (fun e => decide (e.1 < n) && e.2.inPort == p && (e.2.phase == .waiting || e.2.phase == .firstPass))

/-- A rule-bank entry read for the frame is uncorrectable: a record, and the device's own refresh falls due (R120). -/
def bankFault (n : Nat) (s : State) : State :=
  record 0x0201 [BitVec.ofNat 8 n] { s with lanes := { s.lanes with refreshDue := true } }

/-- RP holds the frame after its first pass (R24, R94, R112). -/
def enterRp (n : Nat) (s : State) : State :=
  match frameOf s n with
  | none => s
  | some f =>
    if pauseIgnored f (frameCls f) s then dropIgnored n f.inPort s
    else
      let s := setFrame n { f with phase := .rinse, rpOrder := s.lanes.rpCount } s
      chargeFrame n (frameCls f) { s with lanes := { s.lanes with rpCount := s.lanes.rpCount + 1 } }

/-- The result of a first pass leaves the reorder stage. -/
def firstResult (n : Nat) (f : Frame) (x : LaneFaults) (s : State) : State :=
  let b := ruleBank s f.bank
  let w := firstWalk b f.inPort f.content f.ended
  if earlierPending s n f.inPort ∨ (!f.ended ∧ w.reason = 0x10) then s
  else
    let r := if x.bankError then applyMal b { cls := Tab.get w.fields 0x06 0, queue := Tab.get w.fields 0x06 0 }
      else firstPass b w f.validated
    let full := (rpFrames s).length
    if r.rinse.isSome ∧ r.drop.isNone ∧ (512 ≤ full ∨ (s.lanes.rpHold.contains f.inPort ∧ 448 < full)) then
      refreshBp { s with lanes := { s.lanes with rpHold := f.inPort :: s.lanes.rpHold.filter (· != f.inPort) } }
    else
      let s := { s with lanes := { s.lanes with
        corrected := s.lanes.corrected + BitVec.ofNat 64 x.corrected
        rpHold := s.lanes.rpHold.filter (· != f.inPort) } }
      let s := countReason f.lane (if x.bankError then 0x20 else w.reason) s
      let s := if x.bankError then bankFault f.bank s else s
      let fwd := forwardLookup s w f.inPort
      let f := { f with res := r, ports := fwd.ports, funcs := fwd.funcs, channels := fwd.channels, edit := fwd.edit
                        vid := if fwd.vlanOk then fwd.vid else 4096 }
      let s := setFrame n f s
      if r.drop.isNone ∧ fwd.drop.isSome then
        dropFrame n (stat f.inPort (fwd.drop.getD 9) 1 (if fwd.down = 0 then s else stat f.inPort 10 fwd.down s))
      else
        let s := if fwd.down = 0 ∨ r.drop.isSome then s else stat f.inPort 10 fwd.down s
        if r.drop.isNone ∧ r.rinse.isSome then enterRp n s
        else judgeFrame n w (parseFlags w false f.validated) r false x s

/-- The result of a second pass, with the rule bank of the frame's epoch (R112, R115). -/
def secondResult (n : Nat) (f : Frame) (x : LaneFaults) (s : State) : State :=
  let b := ruleBank s f.bank
  let (layer, node, meta_) := f.res.rinse.getD (1, 0, 0)
  let w := secondWalk b f.inPort f.content layer node meta_
  let (r, reason) := if x.bankError then (applyMal b { f.res with rinse := none }, 0x20) else secondPass b w f.validated f.res
  let s := { s with lanes := { s.lanes with corrected := s.lanes.corrected + BitVec.ofNat 64 x.corrected } }
  let s := countReason f.lane reason s
  let s := if x.bankError then bankFault f.bank s else s
  judgeFrame n w (parseFlags w true f.validated) r true x s

/-- Meaning of LANE_RESULT (R92, R101, R109, R124, R207). -/
def execLaneResult (n : Nat) (x : LaneFaults) (s : State) : Host.Outcome State Fault Refusal :=
  .next (match frameOf s n with
    | none => s
    | some f =>
      match f.phase with
      | .firstPass => settleEnd n (firstResult n f x s)
      | .secondPass => settleEnd n (secondResult n f x s)
      | _ => s)

/-- Meaning of RINSE_DISPATCH: RP's first frame goes to lane L(31), in the slot reserved for RP or in one that no first pass
claims (R25, R90, R91). -/
def execRinseDispatch (s : State) : Host.Outcome State Fault Refusal :=
  .next (match rpFirst s with
    | none => s
    | some (n, f) =>
      let lane := laneOf s 31
      if Tab.get s.lanes.slot lane 0 ≠ 3 ∧ !(laneWaiting s lane).isEmpty then s else
      let l := s.lanes
      let s := { s with lanes := { l with second := Tab.upd l.second lane 0 (· + 1)
                                          slot := Tab.upd l.slot lane 0 (fun k => (k + 1) % 4) } }
      advanceLane 31 (setFrame n { f with phase := .secondPass, lane := lane } s))

/-! The end of a frame (R101, R181, R281, R288). -/

/-- What the SecY of a port makes of a frame at its end (R288). -/
inductive SecyOut
  /-- Passes as it is, unvalidated. -/
  | asIs
  /-- Validated: the frame without its SecTAG and ICV, and the SA's key in the port. -/
  | valid (content : Bytes) (sa : Nat)
  /-- Fails or is late by replay: counted against an SA, and dropped where the flag says so. -/
  | fails (sa : Nat) (late drop : Bool)
  /-- No tag, channel or SA serves: counter `k` of the SecY counts it, and it is dropped where the flag says so. -/
  | unserved (k : Nat) (drop : Bool)

/-- The full packet number of a received frame: for XPN the greatest candidate near the lowest acceptable one. -/
def fullPn (xpn : Bool) (low lowest : Nat) : Nat :=
  if !xpn then low
  else
    let cand := lowest / 2 ^ 32 * 2 ^ 32 + low
    if cand + 2 ^ 31 < lowest then cand + 2 ^ 32 else cand

/-- Validation under VALIDATE, REPLAY_PROTECT and TRANSIT, with the counter of IEEE 802.1AE-2018 that a frame without a validation
falls to (R288, log 145). -/
def secyReceive (s : State) (p : Nat) (b : Bytes) : SecyOut :=
  let c := portCfg s p
  let mode := bits c.secy 3 2
  if !bit c.flags 6 then .asIs
  else if fieldBe b 12 2 ≠ 0x88E5 then (if mode = 2 then .unserved 1 true else .unserved 0 false)
  else
    let tci := byteAt b 14
    let sc := bit tci 5
    let sci := sciOf b
    match rxscOf s c sci with
    | none => if bit c.secy 6 then .asIs else if mode = 2 then .unserved 4 true else .unserved 3 false
    | some i =>
      if mode = 0 then .unserved 5 false
      else
        let an := tci % 4
        let k := 4 * i + an
        match (port s p).rxSas.lookup k with
        | none => if mode = 2 then .unserved 6 true else .unserved 7 false
        | some sa =>
          let pn := fullPn (isXpn c.cipher) (fieldBe b 16 4) sa.pn
          if bit c.secy 5 ∧ pn < sa.pn then .fails k true (mode == 2)
          else
            let head := if sc then 28 else 20
            let inp : MacsecIn :=
              { cipher := c.cipher, key := sa.key, salt := sa.salt, ssci := sa.ssci, sci := sci, pn := pn, conf := bit tci 3
                offset := c.confOffset, aad := b.take head }
            let short := byteAt b 15 % 64
            let secure := if short = 0 then b.drop head else slice b head (short + 16)
            match macsecOpen inp secure with
            | some user => .valid (b.take 12 ++ user) k
            | none => .fails k false (mode == 2)

/-- Changes an installed receive SA. -/
def updRxSa (p k : Nat) (g : Sa → Sa) (s : State) : State :=
  let e := port s p
  match e.rxSas.lookup k with
  | some sa => setPort p { e with rxSas := Tab.set e.rxSas k (g sa) } s
  | none => s

/-- A counter of the SecY rises (R288): 0 InPktsUntagged, 1 NoTag, 2 BadTag, 3 UnknownSCI, 4 NoSCI, 5 Unchecked, 6 NotUsingSA,
7 UnusedSA, 8 Invalid, 9 NotValid, 10 Late, 11 OK. -/
def countSecy (p k : Nat) (s : State) : State :=
  let e := port s p
  setPort p { e with secyCounts := Tab.upd e.secyCounts k 0 (· + 1) } s

/-- A frame whose first-pass result RP's filling holds at the reorder stage fails: the hold on its port ends with it (R94). -/
def releaseHold (n : Nat) (f : Frame) (s : State) : State :=
  if f.phase = .firstPass ∧ !earlierPending s n f.inPort then
    { s with lanes := { s.lanes with rpHold := s.lanes.rpHold.filter (· != f.inPort) } }
  else s

/-- A frame fails at its end: copies on the wire end with an inverted FCS, others are discarded; a cut-through copy not
begun counts in TX_DISCARD (R175, R181, R281). -/
def failFrame (n : Nat) (s : State) : State :=
  match frameOf s n with
  | none => s
  | some f =>
    let s := setFrame n { f with ended := true, assumed := none } (refundMeter f s)
    if f.phase ≠ .forwarded then freeIfDone n (dropFrame n (releaseHold n f s))
    else
      let s := f.dests.foldl (fun s d =>
        if d.phase = .sending then updDest n d.port (fun d => { d with spoil := true }) s
        else discardCopy n d.port (if d.cut then stat d.port 26 1 s else s)) s
      freeIfDone n s

/-- Late end-of-data checks (R101): reason 0x1B, then DROP or ZONE_LOCK of MAL_ACTION destination by destination. -/
def lateChecks_ (n : Nat) (s : State) : State :=
  match frameOf s n with
  | none => s
  | some f =>
    let b := ruleBank s f.bank
    let before := firstWalk b f.inPort f.content false
    let after := firstWalk b f.inPort f.content true
    if isMal before.reason ∨ !isMal after.reason ∨ f.res.malformed ∨ f.rinsed then s
    else
      let s := setFrame n { f with res := { f.res with malformed := true } } (countReason f.lane 0x1B s)
      let act := applyMal b {}
      let sz := zoneOf s f.srcEp
      let all := destEndpoints (f.dests.map (fun d => d.port)) f.funcs f.channels
      let left := if act.drop.isSome then [] else if act.zoneLock then all.filter (fun e => zoneOf s e == sz) else all
      let removed := all.length - left.length
      let s := if act.drop.isSome ∨ removed = 0 then s
        else countSource 5 0xFFFF 2 removed
          { s with fwl := { s.fwl with zoneLock := s.fwl.zoneLock + BitVec.ofNat 64 removed } }
      let s := match frameOf s n with
        | some f => setFrame n { f with funcs := endpointFuncs left, channels := endpointChannels left } s
        | none => s
      f.dests.foldl (fun s d =>
        if (left.map endpointPort).contains d.port then s
        else if d.phase = .sending then updDest n d.port (fun d => { d with spoil := true }) s
        else discardCopy n d.port s) s

/-- A good frame's last byte: its late checks are made, it is entered in the queues it is left for, and learned from (R101, R154,
R157). -/
def goodEnd (n : Nat) (s : State) : State :=
  match frameOf s n with
  | none => s
  | some f =>
    let s := if f.phase = .forwarded then refundMeter f s else s
    let s := setFrame n { f with ended := true, assumed := none } s
    let s := if f.phase = .forwarded ∧ !f.throughSecY then lateChecks_ n s else s
    let left := ((frameOf s n).map (fun f => f.dests)).getD []
    let s := left.foldl (fun s d => if d.cut then s else enterQueue n d.port s) s
    settleEnd n (refreshBp s)

/-- Meaning of FRAME_END: length and FCS checks of the MAC, then the SecY, then the end of the stored frame. -/
def execFrameEnd (n : Nat) (fcsOk : Bool) (s : State) : Host.Outcome State Fault Refusal :=
  .next (match frameOf s n with
    | none => s
    | some f =>
      let p := f.inPort
      if f.ended then s
      else if f.wireLen < 64 then failFrame n (stat p 5 1 s)
      else if 10240 < f.wireLen ∨ (portCfg s p).maxFrame < f.wireLen then failFrame n (stat p 6 1 s)
      else if !fcsOk then failFrame n (stat p 4 1 s)
      else
        let s := noteTraffic p (countReceived p f.wireLen f.content s)
        if !f.throughSecY then
          goodEnd n (match secyReceive s p f.content with
            | .unserved k _ => countSecy p k s
            | _ => s)
        else
          match secyReceive s p f.content with
          | .asIs => goodEnd n s
          | .valid c k =>
            let next := fun (a : Sa) => fullPn (isXpn (portCfg s p).cipher) (fieldBe f.content 16 4) a.pn + 1 - (portCfg s p).replayWindow
            let s := updRxSa p k (fun a => { a with good := a.good + 1, pn := Nat.max a.pn (next a) }) s
            goodEnd n (setFrame n { f with content := c, validated := true } (countSecy p 11 s))
          | .fails k late drop =>
            let s := updRxSa p k (fun a => if late then { a with late := a.late + 1 } else { a with bad := a.bad + 1 }) s
            let s := countSecy p (if late then 10 else if drop then 9 else 8) s
            if drop then failFrame n s else goodEnd n s
          | .unserved k drop =>
            let s := countSecy p k s
            if drop then failFrame n s else goodEnd n s)

/-! Lane status and the release of a bank (R116, R121). -/

/-- Frames whose classification by the non-live bank is not final (R116). -/
def drainingFrames (s : State) : Nat :=
  sumBy (fun e => if e.2.bank = 1 - s.lanes.live ∧ (e.2.phase = .firstPass ∨ e.2.phase = .rinse ∨ e.2.phase = .secondPass)
    then 1 else 0) s.frames

/-- Meaning of RULE_BANK_RELEASE: the count has reached zero (R116). -/
def execRuleBankRelease (s : State) : Host.Outcome State Fault Refusal :=
  .next (if s.lanes.other = 1 ∧ drainingFrames s = 0 then { s with lanes := { s.lanes with other := 0 } } else s)

/-- The PRS_LANE_STATUS result (Table 4.12). -/
def laneStatus (s : State) : Bytes :=
  let l := s.lanes
  leBytes 2 l.epoch ++ [BitVec.ofNat 8 l.live, BitVec.ofNat 8 l.other] ++ leBytes 4 (drainingFrames s)
    ++ leBytes 8 l.corrected.toNat
    ++ (List.range 8).flatMap (fun n =>
        leBytes 8 (Tab.get l.first n 0).toNat ++ leBytes 8 (Tab.get l.second n 0).toNat
          ++ (List.range 17).flatMap (fun i => leBytes 8 (Tab.get l.reasons (17 * n + i) 0).toNat) ++ List.replicate 8 0)

/-- PRS_LANE_STATUS. -/
def prsLaneStatusOp : OpDef := { code := 0x0202, params := noPayload, commit := fun r s => answer r stOk 0 (laneStatus s) s }

/-- Meaning of PRS_LANE_STATUS (R121). -/
def execPrsLaneStatus (c : CmdSource) (s : State) : Host.Outcome State Fault Refusal := .next (runCommand prsLaneStatusOp c s)

end Sys2Proof.Machine
end

