-- ==== Sys2Proof/Machine/HostIf.lean ====
section
/-!
DEFINITION. The PCIe functions and the DMA rings of HP: ring set-up, descriptor fetch, write-backs, delivery to the host,
MSI-X pacing, and function resets (chapter Host interfaces and bridges, R297–R308).
-/
namespace Sys2Proof.Machine

/-- The PCIe core answers: the endpoint is ready and no episode of reach L0 to L2 holds it in reset (R300). -/
def pcieUp (s : State) : Bool :=
  s.hst.ready && (match s.rst.episode with
    | some e => decide (3 ≤ e.reach)
    | none => true)

/-- The lock held for the peer covers one of `n` bytes of the direct window from `off` on: an access there waits (R320). -/
def lockedDirect (off n : Nat) (s : State) : Bool :=
  match s.pb.lock with
  | some l => (List.range l.size).any (fun k =>
      match Config.internalMap (l.base + k) with
      | .direct o => decide (off ≤ o) && decide (o < off + n)
      | _ => false)
  | none => false

/-! Rings stopping (R303, R300). -/

/-- The descriptors from `i` on that a ring of `n` entries still owes up to its tail, as flushed ones. -/
def flushedFrom (n tail : Nat) : Nat → Nat → List TxDesc
  | 0, _ => []
  | fuel + 1, i => if i = tail then [] else { index := i, bytes := [], status := some 4 } :: flushedFrom n tail fuel ((i + 1) % n)

/-- The receive write-back of a flushed descriptor: no data, with the ring's PHASE. -/
def flushRx (f n : Nat) : Nat → State → State
  | 0, s => s
  | k + 1, s =>
    let r := hstRing s true n
    let s := emit (.hostWrite f (r.base.toNat + 32 * r.head) (List.replicate 28 0 ++ leBytes 4 (flagBit r.phase 31))) s
    let next := (r.head + 1) % hstEntries r
    flushRx f n k (setHstRing true n { r with head := next, phase := if next = 0 then !r.phase else r.phase
                                              posted := r.posted.drop 1 } s)

/-- A ring stops: a transmit ring's descriptors that have not entered the switch become flushed ones, a receive ring's
posted descriptors are written back as flushed (R303). -/
def stopRing (receive : Bool) (n : Nat) (s : State) : State :=
  let r := hstRing s receive n
  if !r.enable then s
  else if receive then
    let s := setHstRing true n { r with enable := false } s
    match r.owner with
    | some f =>
      let s := flushRx f n r.posted.length s
      if r.posted.isEmpty then s else sendVector f r.vec s
    | none => s
  else
    let size := hstEntries r
    let work := r.work.map (fun d => if d.frame.isNone ∧ d.status.isNone then { d with status := some 4 } else d)
    setHstRing false n { r with
      enable := false, work := work ++ flushedFrom size r.tail size r.fetchAt, fetchAt := r.tail } s

/-- A DMA ring is silenced: nothing more of it is written to the host (R300). -/
def silenceRing (receive : Bool) (n : Nat) (s : State) : State :=
  setHstRing receive n { hstRing s receive n with enable := false, work := [], posted := [] } s

/-- A Function Level Reset of function `f`: its rings are disabled and written no more, its commands run to a final reply
that is discarded, and their tags free as if it had been delivered (R300). -/
def functionReset (f : Nat) (s : State) : State :=
  let owned := fun (rings : Tab HstRing) => (rings.filter (fun e => e.2.owner == some f)).map (·.1)
  let s := (owned s.hst.tx).foldl (fun s n => silenceRing false n s) s
  let s := (owned s.hst.rx).foldl (fun s n => silenceRing true n s) s
  if 2 ≤ f then s
  else
    let r := cmdRing s f
    let s := r.held.foldl (fun s c => if c.frees then freeTag c.tag s else s) (setCmdRing f { r with enable := false, held := [], offered := [] } s)
    { s with cmd := { s.cmd with inflight := s.cmd.inflight.map (fun e =>
        match e.via with
        | .ring g _ _ _ => if g.val = f then { e with discard := true } else e
        | _ => e) } }

/-- Meaning of PCIE_FLR (R300). -/
def execPcieFlr (f : Fin 4) (s : State) : Host.Outcome State Fault Refusal :=
  .next (if pcieUp s then functionReset f.val s else s)

/-- Meaning of PCIE_BME_CLEAR (R300). -/
def execPcieBmeClear (f : Fin 4) (s : State) : Host.Outcome State Fault Refusal :=
  .next (if pcieUp s then functionReset f.val s else s)

/-- Meaning of PCIE_HOT_RESET: the core is reset, and all four functions with it (R300). -/
def execPcieHotReset (s : State) : Host.Outcome State Fault Refusal :=
  .next (
    let s := [0, 1, 2, 3].foldl (fun s f => functionReset f s) s
    { s with hst := { s.hst with ready := false } })

/-- Meaning of PCIE_READY: the endpoint answers configuration requests again (R300). -/
def execPcieReady (s : State) : Host.Outcome State Fault Refusal :=
  .next (
    match s.rst.episode with
    | some e => if e.reach ≤ 2 then s else { s with hst := { s.hst with ready := true } }
    | none => { s with hst := { s.hst with ready := true } })

/-! MSI-X (R301). -/

/-- A vector is unmasked, and its pending message leaves. -/
def unmask (f v : Nat) (s : State) : State :=
  let e := vector s f v
  let s := setVector f v { e with masked := false, pending := false } s
  if e.pending then sendVector f v s else s

/-- Meaning of MSIX_UNMASK (R301). -/
def execMsixUnmask (f : Fin 4) (vec : Fin 64) (s : State) : Host.Outcome State Fault Refusal := .next (unmask f.val vec.val s)

/-- Meaning of MSIX_HOLDOFF_END: the message that covers later write-backs leaves (R301). -/
def execMsixHoldoffEnd (f : Fin 4) (vec : Fin 64) (s : State) : Host.Outcome State Fault Refusal :=
  .next (
    let e := vector s f.val vec.val
    let s := setVector f.val vec.val { e with holdoff := false, again := false } s
    if e.again then sendVector f.val vec.val s else s)

/-! Ring registers (R302, R303). -/

/-- The function owns the ring, or OWN_ERR is set and nothing else happens (R303).  While the peer's lock covers the ring's
registers the access waits, and its row changes nothing (R320, log 146). -/
def asOwner (f : Nat) (receive : Bool) (n : Nat) (g : State → State) (s : State) : State :=
  if !pcieUp s ∨ lockedDirect ((if receive then 0xD00 else 0xC00) + 16 * n) 16 s then s
  else if (hstRing s receive n).owner = some f then g s
  else setPciFn f { pciFn s f with ownErr := true } s

/-- A write of HST_TXn_CFG or HST_RXn_CFG by the owner (Table 11.3, R303). -/
def writeCfg (receive : Bool) (n : Nat) (v : Word) (s : State) : State :=
  let r := hstRing s receive n
  let w := v.toNat
  let size := bits w 20 4
  let r := { r with vec := bits w 24 6, err := r.err && !bit w 30
                    size := if r.enable ∨ 8 < size then r.size else size }
  if bit w 31 then
    if r.enable ∨ blockHeld (if receive then 3 else 2) n s then setHstRing receive n r s
    else
      setHstRing receive n
        { r with enable := true, head := 0, tail := 0, phase := true, fetchAt := 0, work := [], posted := [] } s
  else stopRing receive n (setHstRing receive n r s)

/-- Meaning of HST_TX_CFG_WRITE (R303). -/
def execHstTxCfgWrite (f : Fin 4) (ring : Fin 16) (v : Word) (s : State) : Host.Outcome State Fault Refusal :=
  .next (asOwner f.val false ring.val (writeCfg false ring.val v) s)

/-- Meaning of HST_RX_CFG_WRITE (R303). -/
def execHstRxCfgWrite (f : Fin 4) (ring : Fin 16) (v : Word) (s : State) : Host.Outcome State Fault Refusal :=
  .next (asOwner f.val true ring.val (writeCfg true ring.val v) s)

/-- A write of BASE_LO or BASE_HI by the owner: ignored while the ring runs (R303). -/
def writeBase (receive : Bool) (n : Nat) (high : Bool) (v : Word) (s : State) : State :=
  let r := hstRing s receive n
  if r.enable then s
  else
    let lo := r.base.toNat % 2 ^ 32
    let hi := r.base.toNat / 2 ^ 32
    let b := if high then v.toNat * 2 ^ 32 + lo else hi * 2 ^ 32 + v.toNat / 4096 * 4096
    setHstRing receive n { r with base := BitVec.ofNat 64 b } s

/-- The write-back of a descriptor, fetched or not, that R304 refuses: a reserved bit, LEN, or FRER_ENTRY. -/
def badTxDesc (d : Bytes) (s : State) : Bool :=
  let fl := byteAt d 10
  decide (fieldLe d 8 2 < 60) || decide (10236 < fieldLe d 8 2) || decide (8 ≤ fl) || byteAt d 11 != 0
    || fieldLe d 14 2 != 0 || fieldLe d 28 4 != 0
    || (!bit fl 1 && !allZero (slice d 16 12))
    || (bit fl 2 && !frerGenerates s (fieldLe d 12 2))

/-- HP's descriptor fetch stalls for a ring: its ring class is back-pressured, or HP's headroom is nearly spent (R164,
R304). -/
def fetchStalls (n : Nat) (s : State) : Bool :=
  bit (raisedMask s 28) (hstRing s false n).sel || internalWaits 28 s

/-- Descriptors fetched from a transmit ring in ring order, up to its tail (R304). -/
def fetchTx (n : Nat) : List Bytes → State → State
  | [], s => s
  | d :: ds, s =>
    let r := hstRing s false n
    if !r.enable ∨ r.fetchAt = r.tail ∨ fetchStalls n s then s
    else
      let x : TxDesc := { index := r.fetchAt, bytes := fit 32 d, status := if badTxDesc (fit 32 d) s then some 3 else none }
      fetchTx n ds (setHstRing false n { r with work := r.work ++ [x], fetchAt := (r.fetchAt + 1) % hstEntries r } s)

/-- A doorbell of a ring: TAIL, or DB_ERR where it lies outside the ring (R303). -/
def writeTail (f : Nat) (receive : Bool) (n : Nat) (v : Word) (s : State) : State × Bool :=
  let r := hstRing s receive n
  let t := v.toNat % 4096
  if hstEntries r ≤ t then (setPciFn f { pciFn s f with dbErr := true } s, false)
  else (setHstRing receive n { r with tail := t } s, true)

/-- Meaning of HST_TX_TAIL_WRITE: TAIL moves, and the descriptors up to it are fetched, `fetched` in ring order (R304). -/
def execHstTxTailWrite (f : Fin 4) (ring : Fin 16) (v : Word) (fetched : List Bytes) (s : State) :
    Host.Outcome State Fault Refusal :=
  .next (asOwner f.val false ring.val (fun s =>
    let (s, ok) := writeTail f.val false ring.val v s
    if ok then fetchTx ring.val fetched s else s) s)

/-- Empty descriptors fetched from a receive ring in ring order, up to its tail (R307). -/
def fetchRx (n : Nat) : List Bytes → State → State
  | [], s => s
  | d :: ds, s =>
    let r := hstRing s true n
    if !r.enable ∨ r.fetchAt = r.tail then s
    else
      fetchRx n ds (setHstRing true n { r with posted := r.posted ++ [fit 32 d], fetchAt := (r.fetchAt + 1) % hstEntries r } s)

/-- Meaning of HST_RX_TAIL_WRITE: empty descriptors are posted (R307). -/
def execHstRxTailWrite (f : Fin 4) (ring : Fin 16) (v : Word) (fetched : List Bytes) (s : State) :
    Host.Outcome State Fault Refusal :=
  .next (asOwner f.val true ring.val (fun s =>
    let (s, ok) := writeTail f.val true ring.val v s
    if ok then fetchRx ring.val fetched s else s) s)

/-- Meaning of DMA_FETCH_ERROR: ENABLE is cleared, ERR set, and HST_DMA_ERR names function and ring (R308). -/
def execDmaFetchError (receive : Bool) (ring : Fin 16) (s : State) : Host.Outcome State Fault Refusal :=
  .next (
    let r := hstRing s receive ring.val
    match r.owner with
    | some f =>
      if !r.enable then s
      else
        let s := stopRing receive ring.val s
        let s := setHstRing receive ring.val { hstRing s receive ring.val with err := true } s
        record 0x0901 [BitVec.ofNat 8 f, BitVec.ofNat 8 ring.val] s
    | none => s)

/-! Transmission from the host (R304, R305). -/

/-- Changes the descriptor of a transmit ring with the given index. -/
def updWork (n index : Nat) (g : TxDesc → TxDesc) (s : State) : State :=
  let r := hstRing s false n
  setHstRing false n { r with work := r.work.map (fun x => if x.index = index then g x else x) } s

/-- A descriptor's frame has been read: it enters at HP with its owner as source endpoint (R304). -/
def enterFromHost (n f : Nat) (x : TxDesc) (data : Bytes) (s : State) : State :=
  let fl := byteAt x.bytes 10
  let wanted := bit fl 0 || bit fl 1
  let k := s.nextFrame
  let s := updWork n x.index (fun y => if wanted then { y with frame := some k } else { y with status := some 0 }) s
  let s := enterInternal 28 (28 + f) (if bit fl 2 then some (fieldLe x.bytes 12 2) else none)
    (fit (fieldLe x.bytes 8 2) data) (if bit fl 1 then some (timeOf (slice x.bytes 16 12)) else none)
    (if wanted then some (n, x.index) else none) s
  if wanted ∧ s.nextFrame = k then updWork n x.index (fun y => { y with frame := none, status := some 1 }) s else s

/-- Meaning of HP_TX_FRAME_READ: descriptors whose fetch had stalled are fetched, `fetched` in ring order, and the frame of the
ring's oldest unread descriptor is read from host memory, or its read fails (R304, R308). -/
def execHpTxFrameRead (ring : Fin 16) (x : HpTxRead) (s : State) : Host.Outcome State Fault Refusal :=
  .next (
    let s := fetchTx ring.val x.fetched s
    let r := hstRing s false ring.val
    match r.owner, r.work.find? (fun x => x.frame.isNone && x.status.isNone) with
    | some f, some d =>
      if internalWaits 28 s ∨ !forwarding s.sys.mode ∨ dataPathDown s then s
      else
        match x.data with
        | none => updWork ring.val d.index (fun y => { y with status := some 2 }) s
        | some b => enterFromHost ring.val f d b s
    | _, _ => s)

/-- The 32-byte transmit write-back (Table 11.5). -/
def txWriteback (x : TxDesc) (phase : Bool) : Bytes :=
  fit 12 x.stamp ++ [BitVec.ofNat 8 x.outcome, BitVec.ofNat 8 (x.status.getD 0), BitVec.ofNat 8 x.txPort]
    ++ List.replicate 13 0 ++ leBytes 4 (flagBit phase 31)

/-- A descriptor's write-back is due: its status is decided and its frame has left the switch (R305). -/
def writebackDue (x : TxDesc) (s : State) : Bool :=
  x.status.isSome && (match x.frame with
    | none => true
    | some k => (frameOf s k).isNone)

/-- Meaning of TX_WRITEBACK: the oldest descriptor of the ring is written back, HEAD advances, and the ring's vector reports
it (R305). -/
def execTxWriteback (ring : Fin 16) (s : State) : Host.Outcome State Fault Refusal :=
  .next (
    let r := hstRing s false ring.val
    match r.owner, r.work with
    | some f, x :: rest =>
      if writebackDue x s then
        let s := emit (.hostWrite f (r.base.toNat + 32 * x.index) (txWriteback x r.phase)) s
        let next := (r.head + 1) % hstEntries r
        sendVector f r.vec (setHstRing false ring.val
          { r with work := rest, head := next, phase := if next = 0 then !r.phase else r.phase } s)
      else s
    | _, _ => s)

/-! Reception to the host (R306, R307). -/

/-- The receive write-back of one descriptor (Table 11.7). -/
def rxWriteback (f : Frame) (len total : Nat) (sop eop phase : Bool) : Bytes :=
  (if sop then timeBytes f.stamp else List.replicate 12 0) ++ leBytes 2 len
    ++ [BitVec.ofNat 8 (flagBit sop 0 + flagBit eop 1 + flagBit f.validated 2 + flagBit f.rinsed 3), BitVec.ofNat 8 f.inPort]
    ++ leBytes 2 f.stream ++ [BitVec.ofNat 8 (f.res.cls + 8 * f.res.colour + 32 * f.res.queue), 0]
    ++ leBytes 4 (if eop then total else 0) ++ leBytes 4 0 ++ leBytes 4 (flagBit phase 31)

/-- Writes a frame's buffers, then the write-backs they make, which `acc` collects: index and bytes. -/
def fillBuffers (fn n total : Nat) (f : Frame) : List Bytes → Bytes → Bool → List Bytes → State → List Bytes × State
  | [], _, _, acc, s => (acc, s)
  | d :: ds, c, sop, acc, s =>
    let len := Nat.min (fieldLe d 8 2) c.length
    let rest := c.drop len
    let s := emit (.hostWrite fn (fieldLe d 0 8) (c.take len)) s
    let acc := acc ++ [rxWriteback f len total sop rest.isEmpty false]
    if rest.isEmpty then (acc, s) else fillBuffers fn n total f ds rest false acc s

/-- One write-back of a receive ring at its head, with the ring's PHASE. -/
def pushRx (fn n : Nat) (wb : Bytes) (s : State) : State :=
  let r := hstRing s true n
  let s := emit (.hostWrite fn (r.base.toNat + 32 * r.head) (wb.take 28 ++ leBytes 4 (flagBit r.phase 31))) s
  let next := (r.head + 1) % hstEntries r
  setHstRing true n { r with head := next, phase := if next = 0 then !r.phase else r.phase, posted := r.posted.drop 1 } s

/-- Delivery of a frame's content to one function (R306, R307). -/
def deliverTo (fn : Nat) (f : Frame) (c : Bytes) (s : State) : State :=
  match rxRingOf s fn f.res.queue with
  | none => stat 28 30 1 s
  | some (n, r) =>
    if rxTooLong r c.length then stat 28 30 1 s
    else if (buffersFor r.posted c.length).isNone then s
    else
      let (wbs, s) := fillBuffers fn n c.length f r.posted c true [] s
      sendVector fn r.vec (wbs.foldl (fun s wb => pushRx fn n wb s) s)

/-- The rings of every function that the frame goes to hold enough descriptors for `len` bytes, or never can (R307). -/
def ringsReady (f : Frame) (len : Nat) (s : State) : Bool :=
  ((List.range 4).filter (bit f.funcs)).all (fun k =>
    match rxRingOf s k f.res.queue with
    | some (_, r) => (buffersFor r.posted len).isSome || rxTooLong r len
    | none => true)

/-- Meaning of HP_RX_DELIVERY: the frame that HP has taken is written to each function that R152 names for it; a frame that
ends with an inverted FCS is delivered to none (R171, R306). -/
def execHpRxDelivery (frame : Nat) (s : State) : Host.Outcome State Fault Refusal :=
  .next (
    match (egress s 28).sending, frameOf s frame with
    | some x, some f =>
      if x.frame ≠ frame ∨ !f.ended ∨ !ringsReady f (editedBytes s 28 f).length s then s
      else
        let bad := f.oversize || (match destAt f 28 with
          | some d => d.spoil
          | none => false)
        let c := editedBytes s 28 f
        let s := if bad then s else ((List.range 4).filter (bit f.funcs)).foldl (fun s fn => deliverTo fn f c s) s
        finishSending 28 s
    | _, _ => s)

/-! HST_RING_CTL (R302). -/

/-- The parameters of HST_RING_CTL. -/
def ringCtlBad (r : Req) (s : State) : Bool :=
  let n := byteAt r.payload 0
  let f := byteAt r.payload 2
  let sel := byteAt r.payload 3
  r.payload.length != 8 || decide (15 < n) || decide (1 < byteAt r.payload 1) || (decide (3 < f) && f != 0xFF)
    || !allZero (slice r.payload 4 4)
    || (if byteAt r.payload 1 = 0 then decide (7 < sel)
        else f != 0xFF && s.hst.rx.any (fun e => e.1 != n && e.2.owner == some f && (e.2.sel &&& sel) != 0))

/-- HST_RING_CTL. -/
def hstRingCtlOp : OpDef :=
  { code := 0x0901
    params := fun r s => if ringCtlBad r s then some 0 else none
    checks := fun r s => if (hstRing s (byteAt r.payload 1 == 1) (byteAt r.payload 0)).enable then some (stBusy, 0) else none
    commit := fun r s =>
      let rx := byteAt r.payload 1 == 1
      let n := byteAt r.payload 0
      let f := byteAt r.payload 2
      answer r stOk 0 [] (setHstRing rx n { hstRing s rx n with
        owner := if f = 0xFF then none else some f, sel := byteAt r.payload 3 } s) }

/-- Meaning of HST_RING_CTL (R302). -/
def execHstRingCtl (c : CmdSource) (s : State) : Host.Outcome State Fault Refusal := .next (runCommand hstRingCtlOp c s)

end Sys2Proof.Machine
end

