-- ==== Sys2Proof/Machine/Ports.lean ====
section
/-!
DEFINITION. The external Ethernet ports: bring-up and loss of a link, PLCA, MDIO, PORT_LINK_CTL and PORT_STATUS, the MACsec
security associations, and what an activation does to a port (chapter Ethernet ports and integrated PHYs).
-/
namespace Sys2Proof.Machine

/-! Bring-up (R282, R283, R294). -/

/-- PLCA standing of a port as it starts (R286, Table of R296). -/
def plcaStart (c : PortCfg) (p : Nat) : Nat :=
  if p < 24 ∨ c.plcaId = 0xFF then 0 else if c.plcaId = 0 then 1 else 2

/-- What is lost with a link: the frames toward the port, the addresses learned there, the link delay and the source of
every time domain that measures there (R152, R154, R168, R228). -/
def flushPort (p : Nat) (s : State) : State :=
  let s := emptyPort p s
  let s := { s with bsn := { s.bsn with learned := s.bsn.learned.filter (fun e => e.2.port != p) } }
  let s := setDelay p { seq := (delay s p).seq } s
  if !clusterServes s then s
  else (List.range 4).foldl (fun s d =>
    if (dom s d).st ≠ .disabled ∧ measurePort s d = p then sourceLost d s else s) s

/-- The stored set: that of a copy that passes its CRC (R283). -/
def storedSet (e : EthPort) : Option Bytes :=
  let good := fun (c : Option (Bytes × Word)) => c.bind (fun x => if Config.coeffCrc x.1 = x.2 then some x.1 else none)
  (good e.copyA).or (good e.copyB)

/-- A set is stored in both copies where it differs from the stored one (R283). -/
def storeCoeffs (set : Bytes) (e : EthPort) : EthPort :=
  if storedSet e = some set then e
  else { e with copyA := some (set, Config.coeffCrc set), copyB := some (set, Config.coeffCrc set) }

/-- The stored set is discarded (R283). -/
def dropCoeffs (e : EthPort) : EthPort := { e with copyA := none, copyB := none, coeff := 0 }

/-- The port is taken down into a state other than up: its link is lost on the line. -/
def takeDown (p : Nat) (st : PortState) (s : State) : State :=
  let s := if (port s p).st = .up then flushPort p s else s
  setPort p { port s p with st := st, rate := 0, role := 0xFF, pcsLock := false, tc10 := 0, polledAt := none } s

/-- The device enables the PHY or PCS of a port: bring-up begins, from the stored coefficients where R283 says so. -/
def bringUp (p : Nat) (s : State) : State :=
  let c := portCfg s p
  if !c.enabled then takeDown p .disabled s
  else
    let s := takeDown p .training s
    let e := port s p
    let stored := if portType p = 0 ∧ bit c.flags 3 then storedSet e else none
    setPort p { e with mode := c.mode, coeff := b2n stored.isSome, coeffs := stored.getD [], enabledAt := s.clk, plca := plcaStart c p } s

/-- Link rate in Mb/s that a report code names for a mode whose rate the external PHY reports, where the mode admits it
(R278, Table 10.1): codes 0 to 5 are 10, 100, 1,000, 2,500, 5,000 and 10,000 Mb/s. -/
def reportedRate (mode code : Nat) : Option Nat :=
  let r := match code with
    | 0 => 10
    | 1 => 100
    | 2 => 1000
    | 3 => 2500
    | 4 => 5000
    | 5 => 10000
    | _ => 0
  if mode = 0x13 then (if 100 ≤ r then some r else none)
  else if mode = 0x14 then (if 10 ≤ r ∧ r ≤ 1000 then some r else none)
  else some (modeRate mode)

/-- An XS port has an external PHY whose link the device reads (R287). -/
def hasPhy (s : State) (p : Nat) : Bool := portType p == 1 && (portCfg s p).enabled && (portCfg s p).mdioAddr != 0xFF

/-- Master or slave once the link is up: forced, or resolved by auto-negotiation, whose outcome the next free number
stands for (R278, R296). -/
def resolveRole (p : Nat) (s : State) : Nat × State :=
  let c := portCfg s p
  if portType p = 1 ∨ portType p = 3 then (0xFF, s)
  else if bit c.flags 1 then
    let (n, s) := drawNat s
    (n % 2, s)
  else (b2n (bit c.flags 2), s)

/-- The port is up (R282): it counts, its link delay is yet to be measured (R228), a full training's coefficients are stored,
PLCA starts and preemption verifies. -/
def becomeUp (p : Nat) (s : State) : State :=
  let (role, s) := resolveRole p s
  let s := setDelay p { seq := (delay s p).seq } s
  let e := port s p
  let fresh := portType p == 0 && e.coeff != 1
  let set := Config.coeffSet s.freeCtr
  let s := if fresh then { s with freeCtr := s.freeCtr + 1 } else s
  let e := if fresh then { storeCoeffs set e with coeff := 2, coeffs := set } else e
  let s := setPort p { e with
    st := .up, role := role, linkUps := e.linkUps + 1, upAt := s.clk, beaconAt := s.clk, cycleEnd := s.clk, plcaUsed := true
    burstLeft := 0, searchDone := e.searchDone || (s.img.live.isNone && portType p == 1) } s
  enterLpi p (startPreemption p s)

/-- Meaning of LINK_UP: the PHY or PCS of a port in bring-up reports the link usable; behind an external PHY the port is up
only when that PHY's last read reports link as well (R282, R287). -/
def execLinkUp (p : Port) (rate : Byte) (s : State) : Host.Outcome State Fault Refusal :=
  .next (
    let e := port s p.val
    match e.st, reportedRate e.mode rate.toNat with
    | .training, some r =>
      if 28 ≤ p.val then s
      else
        let s := setPort p.val { e with pcsLock := true, rate := r } s
        if hasPhy s p.val ∧ !e.phyLink then s else becomeUp p.val s
    | _, _ => s)

/-- The port's link is lost and its retraining begins as a new bring-up (R168, R283). -/
def linkLost (p : Nat) (s : State) : State := bringUp p s

/-- Meaning of LINK_DOWN (R168): the link of a port that is up, or the lock of one behind an external PHY, is lost. -/
def execLinkDown (p : Port) (s : State) : Host.Outcome State Fault Refusal :=
  .next (
    let e := port s p.val
    if e.st = .up ∨ (e.st = .training ∧ e.pcsLock) then linkLost p.val s else s)

/-- Meaning of PHY_COEFF_STALE: an MG link is not up 30 ms after a bring-up from stored coefficients (R283). -/
def execPhyCoeffStale (p : Port) (s : State) : Host.Outcome State Fault Refusal :=
  .next (
    let e := port s p.val
    if portType p.val = 0 ∧ e.st = .training ∧ e.coeff = 1 then
      let s := reachClock (e.enabledAt + 30000000) s
      record 0x0801 [BitVec.ofNat 8 p.val] (setPort p.val (dropCoeffs e) s)
    else s)

/-- Meaning of XS_MODE_SEARCH: in AUTONOMOUS a trial of 500 ms ends without block lock and the next mode is tried (R294). -/
def execXsModeSearch (p : Port) (s : State) : Host.Outcome State Fault Refusal :=
  .next (
    let e := port s p.val
    if portType p.val = 1 ∧ s.img.live.isNone ∧ s.sys.mode = .autonomous ∧ e.st = .training ∧ !e.searchDone then
      let s := reachClock (e.enabledAt + 500000000) s
      bringUp p.val (setPort p.val { e with search := e.search + 1 } s)
    else s)

/-! MDIO (R287). -/

/-- An MDIO access without a turnaround is counted. -/
def noTurnaround (p : Nat) (s : State) : State := setPort p { port s p with mdioNoResponse := (port s p).mdioNoResponse + 1 } s

/-- Register of a PHY's link status: Clause 45 register 1.1 or Clause 22 register 1 (R287). -/
def linkReg (c : PortCfg) : Nat := if c.mdioClause = 1 then 0x10001 else 1

/-- Meaning of MDIO_POLL: the read of an external PHY's link status, every 10 ms.  Without a turnaround the read returns 0xFFFF,
whose link bit is set. -/
def execMdioPoll (p : Port) (link : Option Bool) (s : State) : Host.Outcome State Fault Refusal :=
  .next (
    if !hasPhy s p.val ∨ !clusterServes s ∨ blockHeld 4 0 s then s
    else
      let s := match (port s p.val).polledAt with
        | some l => reachClock (l + 10000000) s
        | none => s
      let s := if link.isNone then noTurnaround p.val s else s
      let e := port s p.val
      let up := link.getD true
      let c := portCfg s p.val
      let s := emit (.mdio p.val c.mdioAddr (linkReg c) none) (setPort p.val { e with phyLink := up, polledAt := some s.clk } s)
      if up ∧ e.st = .training ∧ e.pcsLock then becomeUp p.val s
      else if !up ∧ e.st = .up then
        let s := takeDown p.val .training s
        setPort p.val { port s p.val with pcsLock := true, rate := e.rate, enabledAt := s.clk } s
      else s)

/-! PLCA (R286). -/

/-- Meaning of PLCA_BEACON_RX: a coordinator counts another coordinator's BEACON; a node follows it, resuming PLCA. -/
def execPlcaBeaconRx (p : Port) (s : State) : Host.Outcome State Fault Refusal :=
  .next (
    let e := port s p.val
    if portType p.val ≠ 3 ∨ e.st ≠ .up then s
    else if e.plca = 1 then
      recordLimited 0x0803 p.val (fun n => [BitVec.ofNat 8 p.val] ++ leBytes 8 n)
        (setPort p.val { e with plcaDup := e.plcaDup + 1 } s)
    else if e.plca = 0 then s
    else setPort p.val { e with plca := 2, beaconAt := s.clk, plcaUsed := false, burstLeft := 0 } s)

/-- Meaning of PLCA_LOST: a node hears no BEACON for 4 ms and falls back to CSMA/CD. -/
def execPlcaLost (p : Port) (s : State) : Host.Outcome State Fault Refusal :=
  .next (
    let e := port s p.val
    if portType p.val = 3 ∧ e.st = .up ∧ e.plca = 2 then
      let s := reachClock (e.beaconAt + 4000000) s
      record 0x0804 [BitVec.ofNat 8 p.val] (setPort p.val { e with plca := 3 } s)
    else s)

/-! Activation (R293). -/

/-- The fields of a port block whose change takes the port down. -/
def linkFields (c : PortCfg) : List Nat :=
  [b2n c.enabled, c.mode, b2n (bit c.flags 1), b2n (bit c.flags 2), c.plcaId, c.plcaCount, c.plcaTimer, c.plcaBurst, c.mdioAddr,
   c.mdioClause]

/-- The fields of a port's SecY. -/
def secyFields (c : PortCfg) : List Nat :=
  [b2n (bit c.flags 6), c.cipher, c.secy, c.confOffset, ofLe c.sci, c.replayWindow]

/-- Every other field of a port block. -/
def otherFields (c : PortCfg) : List Nat := [c.flags, c.maxFrame, c.rxscFirst, c.rxscNum]

/-- SCIs of a port's receive channels, by index. -/
def rxscis (sec : Option Bytes) (c : PortCfg) : List Bytes :=
  match sec with
  | some b => (List.range c.rxscNum).map (fun i => slice b (1856 + 16 * (c.rxscFirst + i)) 8)
  | none => []

/-- The receive SAs that follow their channel's SCI from one list of channels to another (R293). -/
def followSas (old new : List Bytes) (sas : Tab Sa) : Tab Sa :=
  (sas.filterMap (fun (e : Nat × Sa) =>
    match old[e.1 / 4]? with
    | some sci => (new.findIdx? (· == sci)).map (fun j => (4 * j + e.1 % 4, e.2))
    | none => none)).foldl (fun t e => Tab.set t e.1 e.2) []

/-- A port meets the block of a new image: `old` is its configuration before, `oldSec` the section it stood in (R293). -/
def activatePort (p : Nat) (old : PortCfg) (oldSec : Option Bytes) (s : State) : State :=
  let new := portCfg s p
  let e := port s p
  let rx := followSas (rxscis oldSec old) (rxscis (liveSection s 0x000E) new) e.rxSas
  let linkChange := linkFields old != linkFields new
  let s := if linkChange || old.cipher != new.cipher then setPort p { e with txSas := [], txAn := none, rxSas := [] } s
    else setPort p { e with rxSas := rx } s
  if linkChange then bringUp p s
  else if e.st = .heldDown ∧ (secyFields old != secyFields new ∨ otherFields old != otherFields new) then bringUp p s
  else s

/-- Every external port meets the blocks of a new image, given its configuration before (R293). -/
def activatePorts (old : List PortCfg) (oldSec : Option Bytes) (s : State) : State :=
  (List.range 28).foldl (fun s p =>
    match old[p]? with
    | some c => activatePort p c oldSec s
    | none => s) s

/-! PORT_STATUS (R296). -/

/-- State code of a port. -/
def portCode : PortState → Nat
  | .disabled => 0
  | .down => 1
  | .training => 2
  | .up => 3
  | .asleep => 4
  | .heldDown => 5

/-- The port's transmit queues and wire are empty. -/
def portIdle (s : State) (p : Nat) : Bool :=
  (egress s p).queues.all (fun q => q.2.isEmpty) && (egress s p).sending.isNone && (egress s p).preempted.isNone

/-- EEE as PORT_STATUS reports it: 0 off, 1 awake, 2 in low-power idle (R284). -/
def eeeCode (s : State) (p : Nat) : Nat :=
  if portType p ≠ 0 ∨ !bit (portCfg s p).flags 0 ∨ !portUp s p then 0 else if (egress s p).lpi then 2 else 1

/-- The 64-byte PORT_STATUS result. -/
def portStatus (p : Nat) (s : State) : Bytes :=
  let e := port s p
  [BitVec.ofNat 8 e.mode, BitVec.ofNat 8 (portCode e.st), BitVec.ofNat 8 e.role, BitVec.ofNat 8 e.coeff] ++ leBytes 4 e.rate
    ++ [BitVec.ofNat 8 e.plca, BitVec.ofNat 8 (eeeCode s p)] ++ List.replicate 6 0 ++ leBytes 8 e.linkUps.toNat
    ++ leBytes 8 (statOf s p 5).toNat ++ leBytes 8 (statOf s p 6).toNat ++ leBytes 8 e.tc10Count.toNat
    ++ leBytes 8 ((s.clk - e.upAt) / 1000) ++ leBytes 8 e.mdioNoResponse.toNat

/-- PORT_STATUS. -/
def portStatusOp : OpDef :=
  { code := 0x0801
    params := fun r _ => if r.payload.length ≠ 1 ∨ 27 < byteAt r.payload 0 then some 0 else none
    commit := fun r s => answer r stOk 0 (portStatus (byteAt r.payload 0) s) s }

/-- Meaning of PORT_STATUS (R296). -/
def execPortStatus (c : CmdSource) (s : State) : Host.Outcome State Fault Refusal := .next (runCommand portStatusOp c s)

/-! PORT_LINK_CTL (R295). -/

/-- The port belongs to a segment that sleeps. -/
def portSleeps (p : Nat) (s : State) : Bool :=
  (List.range (segCount s)).any (fun i => bit (segField s i 4 4) p && (Tab.get s.wake.segs i {}).st == .asleep)

/-- The parameters of PORT_LINK_CTL. -/
def linkCtlBad (r : Req) (s : State) : Bool :=
  let p := byteAt r.payload 0
  let a := byteAt r.payload 1
  r.payload.length != 12 || decide (27 < p) || decide (4 < a) || !allZero (slice r.payload 2 2) || !allZero (slice r.payload 10 2)
    || !(portCfg s p).enabled || (decide (3 ≤ a) && (portCfg s p).mdioAddr == 0xFF)

/-- The hand-over of the action to the port; a read's value, or its want of a turnaround, is the PHY's, which the next
free number stands for. -/
def linkCtl (r : Req) (s : State) : State :=
  let p := byteAt r.payload 0
  let reg := fieldLe r.payload 4 2 * 65536 + fieldLe r.payload 6 2
  match byteAt r.payload 1 with
  | 0 => answer r stOk 0 [] (takeDown p .heldDown s)
  | 1 => answer r stOk 0 [] (bringUp p s)
  | 2 => answer r stOk 0 [] (bringUp p (setPort p (dropCoeffs (port s p)) s))
  | 3 =>
    let (n, s) := drawNat (emit (.mdio p (portCfg s p).mdioAddr reg none) s)
    if n % 65537 = 65536 then answer r stOk 0 [0xFF, 0xFF] (noTurnaround p s)
    else answer r stOk 0 (leBytes 2 (n % 65537)) s
  | _ => answer r stOk 0 [] (emit (.mdio p (portCfg s p).mdioAddr reg (some (fieldLe r.payload 8 2))) s)

/-- PORT_LINK_CTL. -/
def portLinkCtlOp : OpDef :=
  { code := 0x0802
    wrongMode := fun r s => r.payload.length == 12 && decide (byteAt r.payload 0 < 28) && portSleeps (byteAt r.payload 0) s
    params := fun r s => if linkCtlBad r s then some 0 else none
    commit := linkCtl }

/-- The port, or the MDIO master an MDIO action needs, is held in reset (R357). -/
def linkCtlHeld (s : State) (p : Packet) : Bool :=
  let b := if isAtTime p then p.payload.drop 12 else p.payload
  blockHeld 0 (byteAt b 0) s || (decide (3 ≤ byteAt b 1) && blockHeld 4 0 s)

/-- Meaning of PORT_LINK_CTL (R295). -/
def execPortLinkCtl (c : CmdSource) (s : State) : Host.Outcome State Fault Refusal :=
  .next (runUnlessHeld (linkCtlHeld s) portLinkCtlOp c s)

/-! MACsec SAs (R289–R291). -/

/-- A port has a SecY. -/
def hasSecy (s : State) (p : Nat) : Bool := decide (p < 24) && bit (portCfg s p).flags 6

/-- The port, direction, association number and channel of a MACsec payload are admitted. -/
def saBad (pl : Bytes) (s : State) : Bool :=
  let p := byteAt pl 0
  let dir := byteAt pl 1
  !hasSecy s p || decide (1 < dir) || decide (3 < byteAt pl 2)
    || (if dir = 0 then fieldLe pl 4 2 != 0 else decide ((portCfg s p).rxscNum ≤ fieldLe pl 4 2))

/-- The parameters of MSEC_SA_INSTALL (Table 10.6). -/
def saInstallBad (r : Req) (s : State) : Bool :=
  let pl := r.payload
  let xpn := isXpn (portCfg s (byteAt pl 0)).cipher
  pl.length != 36 || saBad pl s || decide (3 < byteAt pl 3) || (bit (byteAt pl 3) 0 && byteAt pl 1 == 1)
    || decide (63 < fieldLe pl 6 2) || (!xpn && decide (2 ^ 32 ≤ fieldLe pl 8 8)) || (!xpn && !allZero (slice pl 16 16))
    || !allZero (slice pl 32 4)

/-- Key of a receive SA: its channel and association number. -/
def rxKey (pl : Bytes) : Nat := 4 * fieldLe pl 4 2 + byteAt pl 2

/-- The SA a payload describes. -/
def saOf (pl : Bytes) (s : State) : Sa :=
  { key := (keySlot s (fieldLe pl 6 2)).material, slot := fieldLe pl 6 2, pn := fieldLe pl 8 8, ssci := fieldLe pl 16 4
    salt := slice pl 20 12, enabled := bit (byteAt pl 3) 0 || byteAt pl 1 == 1 }

/-- The commit of MSEC_SA_INSTALL (R289). -/
def saInstall (r : Req) (s : State) : State :=
  let pl := r.payload
  let p := byteAt pl 0
  let an := byteAt pl 2
  let e := port s p
  let remove := bit (byteAt pl 3) 1
  let e := if byteAt pl 1 = 0 then
      (if remove then { e with txSas := Tab.del e.txSas an, txAn := if e.txAn = some an then none else e.txAn }
       else { e with txSas := Tab.set e.txSas an (saOf pl s), txAn := if bit (byteAt pl 3) 0 then some an else e.txAn })
    else if remove then { e with rxSas := Tab.del e.rxSas (rxKey pl) }
    else { e with rxSas := Tab.set e.rxSas (rxKey pl) (saOf pl s) }
  answer r stOk 0 [] (setPort p e s)

/-- MSEC_SA_INSTALL. -/
def msecSaInstallOp : OpDef :=
  { code := 0x0803
    lifecycle := fun _ s => if s.otp.lcState = .retired then some 0 else none
    denied := fun r s => r.payload.length == 36 && decide (fieldLe r.payload 6 2 < 64)
      && !slotPermits (keySlot s (fieldLe r.payload 6 2)) 3 1 4 s
    params := fun r s => if saInstallBad r s then some 0 else none
    commit := saInstall }

/-- Meaning of MSEC_SA_INSTALL (R289). -/
def execMsecSaInstall (c : CmdSource) (s : State) : Host.Outcome State Fault Refusal := .next (runCommand msecSaInstallOp c s)

/-- The 48-byte MSEC_SA_STATUS result (R291): an SA is in use when it is the transmit SA in use, or an installed receive
SA. -/
def saStatus (pl : Bytes) (s : State) : Bytes :=
  let e := port s (byteAt pl 0)
  let tx := byteAt pl 1 == 0
  let an := byteAt pl 2
  let a := if tx then Tab.get e.txSas an {} else Tab.get e.rxSas (rxKey pl) {}
  let use := if tx then e.txAn == some an else Tab.has e.rxSas (rxKey pl)
  [BitVec.ofNat 8 (b2n use), BitVec.ofNat 8 (b2n a.enabled)] ++ leBytes 2 a.slot ++ List.replicate 4 0 ++ leBytes 8 a.pn
    ++ leBytes 8 a.good.toNat ++ leBytes 8 a.bad.toNat ++ leBytes 8 a.late.toNat ++ leBytes 8 a.lost.toNat

/-- MSEC_SA_STATUS. -/
def msecSaStatusOp : OpDef :=
  { code := 0x0804
    params := fun r s =>
      if r.payload.length ≠ 6 ∨ saBad r.payload s ∨ byteAt r.payload 3 ≠ 0 then some 0 else none
    commit := fun r s => answer r stOk 0 (saStatus r.payload s) s }

/-- Meaning of MSEC_SA_STATUS (R291). -/
def execMsecSaStatus (c : CmdSource) (s : State) : Host.Outcome State Fault Refusal := .next (runCommand msecSaStatusOp c s)

end Sys2Proof.Machine
end

