-- ==== Sys2Proof/Machine/Channels.lean ====
section
/-!
DEFINITION. The legacy channels: their blocks in section 0x000D, starting and stopping a channel, its transmit places and
its counters (chapter Legacy buses and the Seam gateway).
-/
namespace Sys2Proof.Machine

/-! Blocks (Tables 9.2–9.8, R275). -/

/-- AUTONOMOUS: the channels run under R275. -/
def legAuto (s : State) : Bool := s.img.live.isNone

/-- Section 0x000D. -/
def legSec (s : State) : Bytes := liveBytes s 0x000D

/-- LIN channel. -/
def isLin (ep : Nat) : Bool := decide (64 ≤ ep) && decide (ep < 72)
/-- FlexRay. -/
def isFr (ep : Nat) : Bool := ep == 72

/-- A channel is configured by a section 0x000D; in AUTONOMOUS every CAN and LIN channel runs and FR is off. -/
def chPresent (sec : Option Bytes) (ep : Nat) : Bool :=
  match sec with
  | some b =>
    if isCan ep then bit (fieldLe b 0 2) (ep - 48) else if isLin ep then bit (byteAt b 2) (ep - 64) else isFr ep && byteAt b 3 == 1
  | none => isCan ep || isLin ep

/-- Section 0x000D, or none in AUTONOMOUS; under an image without it no channel is configured. -/
def chSection (s : State) : Option Bytes := if legAuto s then none else some (legSec s)

/-- A channel is configured. -/
def chConfigured (s : State) (ep : Nat) : Bool := chPresent (chSection s) ep

/-- Offset of a channel's block (Table 9.2). -/
def chOff (ep : Nat) : Nat := if isCan ep then 64 + 32 * (ep - 48) else if isLin ep then 576 + 32 * (ep - 64) else 832

/-- Bytes of a channel's block, empty where it is not configured. -/
def chBlock (sec : Option Bytes) (ep : Nat) : Bytes :=
  match sec with
  | some b => if chPresent sec ep then slice b (chOff ep) (if isFr ep then 1088 else 32) else []
  | none => []

/-- A byte of a channel's block, or its value in AUTONOMOUS. -/
def chByte (s : State) (ep off auto : Nat) : Nat := if legAuto s then auto else byteAt (legSec s) (chOff ep + off)

/-- ENGINE of a channel. -/
def chEngine (s : State) (ep : Nat) : Nat :=
  if legAuto s then Config.romEngine ep % 4
  else byteAt (legSec s) (chOff ep + (if isCan ep then 2 else if isLin ep then 1 else 50))

/-- FALLBACK of a channel. -/
def chFallback (s : State) (ep : Nat) : Nat := chByte s ep (if isCan ep then 3 else if isLin ep then 2 else 51) 0xFF

/-- CAN MODE: 1 CC, 2 FD, 3 XL; AUTONOMOUS receives every format. -/
def canMode (s : State) (ep : Nat) : Nat := chByte s ep 0 3

/-- LISTEN_ONLY of a CAN channel (R248). -/
def listenOnly (s : State) (ep : Nat) : Bool := isCan ep && bit (chByte s ep 1 1) 0

/-- AUTO_RECOVER of a channel. -/
def autoRecover (s : State) (ep : Nat) : Bool :=
  if isCan ep then bit (chByte s ep 1 1) 1 else chByte s ep (if isLin ep then 3 else 52) 0 == 1

/-- A LIN channel is master. -/
def linMaster (s : State) (ep : Nat) : Bool := chByte s ep 0 2 == 1

/-- Nominal rate of AUTONOMOUS's search after `n` trials (R275). -/
def searchRate (n : Nat) : Nat :=
  match n % 4 with
  | 0 => 500000
  | 1 => 250000
  | 2 => 125000
  | _ => 1000000

/-! Channel state. -/

/-- Replaces a channel. -/
def setCh (ep : Nat) (c : LegCh) (s : State) : State := { s with leg := { s.leg with chs := Tab.set s.leg.chs ep c } }

/-- Event of KIND 0x06 that a channel counter of Table 9.15 is (Table 16.4). -/
def legEvent (k : Nat) : Option Nat :=
  match k with
  | 0 => some 0
  | 1 => some 1
  | 2 => some 2
  | 4 => some 3
  | 5 => some 4
  | 6 => some 5
  | 7 => some 6
  | 8 => some 7
  | 9 => some 8
  | _ => none

/-- A channel counter rises: 0 received, 1 transmitted, 2 errors, 3 bus-off entries, 4 STALE, 5 REPLACED, 6 SLEEP_DROP,
7 CHANNEL_DOWN_DROP, 8 BAD_MSG, 9 NO_MAPPING, 10 XL_UNMAPPED, 11 ENGINE_DOWN_DROP. -/
def countCh (ep k inc : Nat) (s : State) : State :=
  if inc = 0 then s
  else
    let c := chOf s ep
    let s := setCh ep { c with counts := Tab.upd c.counts k 0 (· + BitVec.ofNat 64 inc) } s
    match legEvent k with
    | some e => countSource 6 ep e inc s
    | none => s

/-- State a channel runs in once it is on: error active, listen-only, or FlexRay before its first cycle. -/
def runState (s : State) (ep : Nat) : Nat := if listenOnly s ep then 4 else if isFr ep then 2 else 1

/-- The channel restarts under its block, or is off where none configures it. -/
def startChannel (ep : Nat) (s : State) : State :=
  let c := chOf s ep
  if chConfigured s ep then
    setStb ep false (setCh ep { c with
      st := runState s ep, tec := 0, recv := 0, recovering := isFr ep, slotAt := 0, trialAt := s.clk, awaiting := none }
      s)
  else setStb ep true (setCh ep { c with st := 0, recovering := false, awaiting := none } s)

/-- The engine that serves a channel at its start: ENGINE, or FALLBACK while that engine has stopped (R272). -/
def assignEngine (ep : Nat) (s : State) : State :=
  let stopped := fun n => (Tab.get s.leg.engines n {}).stopped
  let e := chEngine s ep
  let f := chFallback s ep
  setCh ep { chOf s ep with
    engine := if !stopped e then some e else if f < 4 ∧ !stopped f then some f else none } s

/-- The frames that wait in a channel's queue and buffers are discarded under a counter: for FlexRay its written dynamic
buffers. -/
def discardTx (ep k : Nat) (s : State) : State :=
  let c := chOf s ep
  countCh ep k (c.tx.length + c.fresh.length) (setCh ep { c with tx := [], fresh := [] } s)

/-- Bus-off, halt or a stop: the state is entered and every waiting frame is discarded (R270). -/
def channelDown (ep st : Nat) (s : State) : State :=
  let s := discardTx ep 7 s
  setCh ep { chOf s ep with st := st, recovering := false, downAt := s.clk } s

/-- The order of R250: a base identifier counts as its 11 bits followed by 18 zero bits. -/
def busOrder (f : LegacyFrame) : Nat := if f.ext then f.id else f.id * 2 ^ 18

/-- Index of the first item with the lowest order. -/
def lowestItem : List LegItem → Option Nat
  | [] => none
  | x :: xs =>
    match lowestItem xs with
    | none => some 0
    | some j =>
      match xs[j]? with
      | some y => if busOrder y.frame < busOrder x.frame then some (j + 1) else some 0
      | none => some 0

/-- An item has waited longer than its MAX_AGE_US (R269). -/
def overAge (s : State) (x : LegItem) : Bool := decide (x.since + x.maxAge < s.clk)

/-- Frames past their age leave a channel's transmit places, counted as STALE (R269). -/
def dropStaleTx (ep : Nat) (s : State) : State :=
  let c := chOf s ep
  let old := c.tx.filter (overAge s)
  if old.isEmpty then s else countCh ep 4 old.length (setCh ep { c with tx := c.tx.filter (fun x => !overAge s x) } s)

/-- Where the bus is free for the channel, the waiting frame with the lowest identifier enters arbitration; frames past their age are
removed before (R250, R269).  A channel that waits to restart sends nothing more (R274). -/
def arbitrate (ep : Nat) (s : State) : State :=
  if !chTransmits (chOf s ep) ∨ (chOf s ep).onBus.isSome ∨ (chOf s ep).restart then s
  else
    let s := dropStaleTx ep s
    let c := chOf s ep
    match lowestItem c.tx with
    | some i => setCh ep { c with onBus := c.tx[i]?, tx := c.tx.eraseIdx i } s
    | none => s

/-- A channel whose block changed restarts under the new one, once no frame of its own is on the bus (R274). -/
def restartChannel (ep : Nat) (s : State) : State :=
  let c := chOf s ep
  let s := setCh ep { c with
    values := [], slot := 0, slotAt := 0, trials := 0, rateKept := false, restart := false } s
  assignEngine ep (startChannel ep s)

/-- Another node's frame took the bus: the frame that contended for it waits again, in its place before later ones.  One of a
LATEST route is replaced by a newer frame of its route that waits (R265); one of a channel that waits to restart is discarded
(R274). -/
def releaseBus (ep : Nat) (s : State) : State :=
  let c := chOf s ep
  match c.onBus with
  | none => s
  | some x =>
    let s := setCh ep { c with onBus := none } s
    if c.restart then restartChannel ep (countCh ep 7 1 s)
    else if x.kind = 2 ∧ c.tx.any (fun y => y.kind == 2 && y.owner == x.owner) then countCh ep 5 1 s
    else setCh ep { chOf s ep with tx := x :: (chOf s ep).tx } s

/-- Header bytes 0–11 of Table 9.9 as one number. -/
def legHeader (ep : Nat) (f : LegacyFrame) : Bytes :=
  [BitVec.ofNat 8 ep, BitVec.ofNat 8 f.fmt] ++ leBytes 2 f.data.length ++ leBytes 4 f.id
    ++ [BitVec.ofNat 8 (flagBit f.ext 0 + flagBit f.rtr 1 + flagBit f.esi 2 + flagBit f.chA 3 + flagBit f.chB 4),
        BitVec.ofNat 8 f.cycle, BitVec.ofNat 8 f.sdt, BitVec.ofNat 8 f.vcid]

/-- A frame is driven on a channel's bus, counted, and noted as traffic of its segment. -/
def driveFrame (ep : Nat) (f : LegacyFrame) (s : State) : State :=
  noteTraffic ep (countCh ep 1 1 (emit (.legacy ep (ofLe (legHeader ep f)) f.data) s))

/-! LIN checksums (R251, ISO 17987). -/

/-- Protected identifier: the identifier with its two parity bits. -/
def linPid (id : Nat) : Nat :=
  let b := fun k => b2n (bit id k)
  id + 64 * ((b 0 + b 1 + b 2 + b 4) % 2) + 128 * ((b 1 + b 3 + b 4 + b 5 + 1) % 2)

/-- The inverted sum with carry of a start value and the data. -/
def linSum (start : Nat) (data : Bytes) : Byte :=
  BitVec.ofNat 8 (255 - data.foldl (fun a b => let t := a + b.toNat; if 255 < t then t - 255 else t) start)

/-- The checksum of a LIN frame: the enhanced one covers the protected identifier; identifiers 60 and 61 always have the classic one
(R251). -/
def linChecksum (enhanced : Bool) (id : Nat) (data : Bytes) : Byte :=
  linSum (if enhanced && id != 60 && id != 61 then linPid id else 0) data

end Sys2Proof.Machine
end

