-- ==== Sys2Proof/Machine/Dusk.lean ====
section
/-!
DEFINITION. The Dusk ring: the sleep section, Dusk frames, stay-awake conditions and wake requests, the ring states, and the
power-down they lead to (chapter Sleep, wake and partial operation).
-/
namespace Sys2Proof.Machine

/-! The sleep section (Table 12.3). -/

/-- A number of section 0x0010; 0 where it is absent. -/
def sleepField (s : State) (off n : Nat) : Nat := fieldLe (liveBytes s 0x0010) off n

/-- The device is a member of a ring. -/
def ringMember (s : State) : Bool := (liveSection s 0x0010).isSome && sleepField s 0 2 != 0

/-- NODE_ID. -/
def nodeId (s : State) : Nat := sleepField s 2 1
/-- NODE_COUNT. -/
def nodeCount (s : State) : Nat := sleepField s 3 1
/-- PEER_NODE_ID. -/
def peerNode (s : State) : Nat := sleepField s 4 1
/-- The node after `n` in visiting order. -/
def nodeAfter (s : State) (n : Nat) : Nat := if nodeCount s = 0 then 0 else (n + 1) % nodeCount s

/-- A byte of the wake settings in the backup domain (bytes 16–27 of Table 12.3), or its ROM default. -/
def setting (s : State) (off n dflt : Nat) : Nat :=
  match s.wake.settings with
  | some b => fieldLe b off n
  | none => dflt

/-- WAKE_EN. -/
def wakeEn (s : State) : Nat := setting s 3 1 0x7F
/-- WAKE_FWD; its AUTONOMOUS value where no section sets it (R344, log 20). -/
def wakeFwd (s : State) : Nat := setting s 4 1 0x7E
/-- LWAKE_KEEP. -/
def lwakeKeep (s : State) : Nat := setting s 5 1 0
/-- CAN_WAKE_MASK. -/
def canWakeMask (s : State) : Nat := setting s 6 2 0xFFFF
/-- TC10_WAKE_MASK. -/
def tc10WakeMask (s : State) : Nat := setting s 8 4 0x0FFFFFFF
/-- WAKE_OUT_MS. -/
def wakeOutMs (s : State) : Nat := if (liveSection s 0x0010).isSome then sleepField s 14 2 else 10

/-- Enabled ports with TC10 set: those of the others have no wake detector (R279, R285). -/
def tc10Ports (s : State) : Nat :=
  sumBy (fun p => if (portCfg s p).enabled && bit (portCfg s p).flags 4 then 2 ^ p else 0) (List.range 28)

/-- The settings an image gives the backup domain (R327). -/
def imageSettings (s : State) : Option Bytes := (liveSection s 0x0010).map (fun b => slice b 16 12)

/-! Dusk frames (Table 12.5). -/

/-- ROUND and INITIATOR of a frame. -/
def duskPair (b : Bytes) : Nat × Nat := (fieldBe b 4 4, byteAt b 8)

/-- The order of pairs, ROUND first (R328). -/
def pairLt (a b : Nat × Nat) : Bool := decide (a.1 < b.1) || (a.1 == b.1 && decide (a.2 < b.2))

/-- The AUTH field over bytes 0–31. -/
def duskAuth (s : State) (b : Bytes) : Bytes :=
  if bit (sleepField s 5 1) 0 then (hmac512 (keySlot s (sleepField s 12 1)).material (b.take 32)).take 16
  else List.replicate 16 0

/-- The payload of a Dusk frame of this node. -/
def duskPayload (s : State) (ty : Nat) (pair : Nat × Nat) (next consent quiet reason timeout : Nat) : Bytes :=
  let b := [1, BitVec.ofNat 8 ty] ++ beBytes 2 (sleepField s 0 2) ++ beBytes 4 pair.1
    ++ [BitVec.ofNat 8 pair.2, BitVec.ofNat 8 next, BitVec.ofNat 8 (nodeCount s), BitVec.ofNat 8 (nodeId s)]
    ++ beBytes 8 consent ++ beBytes 2 quiet ++ beBytes 2 reason ++ beBytes 2 timeout ++ List.replicate 6 0
  b ++ duskAuth s b

/-- A Dusk payload leaves through MP (Table 12.5).  Where no section gives DUSK_TCI the tag is the next free number. -/
def sendPayload (b : Bytes) (s : State) : State :=
  let (tci, s) := if (liveSection s 0x0010).isSome then (sleepField s 6 2, s)
    else
      let (n, s) := drawNat s
      (n % 65536, s)
  enterInternal 29 32 none
    (beBytes 6 duskAddress ++ beBytes 6 s.otp.mpAddress ++ [0x81, 0x00] ++ beBytes 2 tci ++ [0x88, 0xB6] ++ b) none none s

/-- Changes the sleep state. -/
def updWake (g : Wake → Wake) (s : State) : State := { s with wake := g s.wake }

/-- A NAK of the round in progress is sent (R329). -/
def sendNak (pair : Nat × Nat) (reason : Nat) (s : State) : State :=
  sendPayload (duskPayload s 2 pair 0xFF 0 0 reason s.wake.timeoutMs) (updWake (fun w => { w with naks := w.naks + 1 }) s)

/-- WAKE_OUT is driven high (R343). -/
def driveWakeOut (s : State) : State :=
  let s := if s.wake.wakeOut then s else emit (.pin "WAKE_OUT" true) s
  updWake (fun w => { w with wakeOut := true, wakeOutAt := s.clk }) s

/-- A DAWN is sent with the wake cause as its REASON and its initiator's timeout (R329, R343). -/
def sendDawn (pair : Nat × Nat) (cause timeout : Nat) (s : State) : State :=
  sendPayload (duskPayload s 4 pair 0xFF 0 0 cause timeout) (updWake (fun w => { w with dawns := w.dawns + 1 }) s)

/-! Stay-awake conditions and wake requests (R330, R334). -/

/-- The device hold has not expired. -/
def deviceHeld (s : State) : Bool :=
  match s.wake.hold with
  | some t => decide (s.clk < t)
  | none => false

/-- A wake request was made in AWAKE less than RING_TIMEOUT_MS ago. -/
def requestFresh (s : State) : Bool :=
  match s.wake.requestAt with
  | some t => decide (s.clk < t + sleepField s 10 2 * 1000000)
  | none => false

/-- An activation is armed, a patch is pending, or an update session is between UPD_BEGIN and UPD_STAGE. -/
def changePending (s : State) : Bool :=
  s.img.armed.isSome || s.img.pending.isSome || (match s.upd.session with
    | some u => decide (u.state < 3)
    | none => false)

/-- An LWAKE input that withholds consent is high. -/
def lwakeKeeps (s : State) : Bool := (s.wake.lwake &&& lwakeKeep s) != 0

/-- The stay-awake condition that holds, as the REASON of the NAK it causes: where several hold, the first in the order of
R330 (log 21). -/
def stayAwake (s : State) : Option Nat :=
  if s.wake.wakeIn && bit (wakeEn s) 0 then some 2
  else if lwakeKeeps s || deviceHeld s then some 2
  else if requestFresh s then some 1
  else if changePending s then some 5
  else if s.sys.mode = .boot ∨ s.sys.mode = .recovery then some 2
  else none

/-- The final reply of the WAKE_SLEEP_REQUEST whose round ends (R345). -/
def replyRound (outcome sender reason : Nat) (s : State) : State :=
  match s.wake.tag with
  | some t =>
    let res := leBytes 4 s.wake.round.1 ++ [BitVec.ofNat 8 outcome, BitVec.ofNat 8 sender] ++ leBytes 2 reason
    finalReply t stOk 0 res (updWake (fun w => { w with tag := none }) s)
  | none => s

/-- The ring returns to AWAKE; the round has ended for this device. -/
def ringAwake (s : State) : State := updWake (fun w => { w with ring := .awake, ended := true }) s

/-- A wake request at the device, with the wake cause bits of the detection that made it, or 0 (R329, R330, R334). -/
def wakeRequest (cause : Nat) (s : State) : State :=
  match s.wake.ring with
  | .awake => updWake (fun w => { w with requestAt := some s.clk, idleFrom := s.clk }) s
  | .initiating | .consented =>
    ringAwake (replyRound 1 (nodeId s) 1 (sendNak s.wake.round 1 s))
  | .quiet =>
    if s.wake.down then s else ringAwake (driveWakeOut (sendDawn s.wake.round cause s.wake.timeoutMs s))

/-- INH is driven high (R326). -/
def driveInh (s : State) : State :=
  if s.wake.inh then s else emit (.pin "INH" true) (updWake (fun w => { w with inh := true }) s)

/-- A detection of an enabled source: a wake request in a powered mode; latched from the end of a quiet window on, and in
STANDBY with INH driven high (R325, R326, R334). -/
def detect (cause : Nat) (s : State) : State :=
  let latch := fun (bits : Nat) (s : State) =>
    { s with bkp := { s.bkp with wakeCause := s.bkp.wakeCause ||| BitVec.ofNat 16 bits } }
  match s.sys.mode with
  | .backup => s
  | .standby => driveInh (latch cause s)
  | _ => if s.wake.down then latch (cause + 0x80) s else wakeRequest cause s

/-- Meaning of WAKE_IN_DETECT: the level of WAKE_IN passes its filter (R324, R330). -/
def execWakeInDetect (high : Bool) (s : State) : Host.Outcome State Fault Refusal :=
  .next (
    let s := updWake (fun w => { w with wakeIn := high, idleFrom := s.clk }) s
    if high && bit (wakeEn s) 0 then detect 1 s else s)

/-- Meaning of LWAKE_DETECT: the level of an LWAKE input passes its filter.  An input that is not enabled but withholds
consent begins a stay-awake condition (R324, R330). -/
def execLwakeDetect (n : Fin 4) (high : Bool) (s : State) : Host.Outcome State Fault Refusal :=
  .next (
    let rest := s.wake.lwake - (if bit s.wake.lwake n.val then 2 ^ n.val else 0)
    let s := updWake (fun w => { w with lwake := rest + flagBit high n.val, idleFrom := s.clk }) s
    if high && bit (wakeEn s) (n.val + 1) then detect (2 ^ (n.val + 1)) s
    else if high && bit (lwakeKeep s) n.val && s.sys.mode != .standby && s.sys.mode != .backup then wakeRequest 0 s
    else s)

/-- Meaning of WAKE_OUT_END: WAKE_OUT_MS has passed (R343). -/
def execWakeOutEnd (s : State) : Host.Outcome State Fault Refusal :=
  .next (if s.wake.wakeOut then
      let s := reachClock (s.wake.wakeOutAt + wakeOutMs s * 1000000) s
      emit (.pin "WAKE_OUT" false) (updWake (fun w => { w with wakeOut := false }) s)
    else s)

/-- Meaning of WAKE_REQUEST_EXPIRY: the condition a wake request made in AWAKE ends (R330). -/
def execWakeRequestExpiry (s : State) : Host.Outcome State Fault Refusal :=
  .next (match s.wake.requestAt with
    | some t =>
      let s := reachClock (t + sleepField s 10 2 * 1000000) s
      updWake (fun w => { w with requestAt := none, idleFrom := s.clk }) s
    | none => s)

/-! Received frames (R328, R329, R333, R344). -/

/-- The cluster takes Dusk frames in: it runs, no episode keeps MP silent, and the mode is not BOOT or RECOVERY. -/
def duskServed (s : State) : Bool := clusterServes s && forwarding s.sys.mode && !dataPathDown s

/-- A frame passes R328 but for staleness. -/
def duskAccepted (s : State) (b : Bytes) : Bool :=
  byteAt b 0 == 1 && fieldBe b 2 2 == sleepField s 0 2 && byteAt b 10 == nodeCount s
    && (!bit (sleepField s 5 1) 0 || slice b 32 16 == duskAuth s b)

/-- A frame is rejected and counted. -/
def duskReject (s : State) : State := updWake (fun w => { w with rejected := w.rejected + 1 }) s

/-- A frame of type `ty` reaches a member: `g` acts on it when R328 accepts it. -/
def duskFrame (ty : Nat) (b : Bytes) (g : State → State) (s : State) : State :=
  if b.length ≠ 48 ∨ byteAt b 1 ≠ ty ∨ !duskServed s ∨ !ringMember s then s
  else if duskAccepted s b then g s else duskReject s

/-- Bit `n` of CONSENT. -/
def consents (b : Bytes) (n : Nat) : Bool := bit (fieldBe b 12 8) n

/-- R333 is satisfied: the device is not a frozen SECONDARY, or the PRIMARY has consented or is yet to be asked. -/
def peerAllows (s : State) (b : Bytes) : Bool :=
  if !frozen s then true
  else
    let n := nodeCount s
    let ahead := fun (x : Nat) => (x + n - byteAt b 8 % n) % n
    consents b (peerNode s) || decide (ahead (nodeId s) < ahead (peerNode s))

/-- The device's answer to a TOKEN that names it, in AWAKE: consent, or NAK. -/
def answerToken (b : Bytes) (s : State) : State :=
  let pair := duskPair b
  match if peerAllows s b then stayAwake s else some 4 with
  | some reason => updWake (fun w => { w with ended := true }) (sendNak pair reason s)
  | none =>
    let me := nodeId s
    let s := sendPayload (duskPayload s 1 pair (nodeAfter s me) (fieldBe b 12 8 ||| 2 ^ me) 0 0 (fieldBe b 24 2)) s
    updWake (fun w => { w with ring := .consented, round := pair, timeoutMs := fieldBe b 24 2, timeoutAt := s.clk }) s

/-- QUIET is entered with its window (R329); a waiting return to AUTONOMOUS and an armed activation yield to it (R35). -/
def enterQuiet (ms : Nat) (s : State) : State :=
  discardArmed <| updWake (fun w => { w with ring := .quiet, quietMs := ms, quietAt := s.clk, committed := w.committed + 1, ended := true }) s

/-- The TOKEN of the device's own round has come back with every consent (Table 12.6). -/
def ownToken (b : Bytes) (s : State) : State :=
  let all := (List.range (nodeCount s)).all (consents b)
  if byteAt b 9 ≠ byteAt b 8 ∨ !all then s
  else
    match stayAwake s with
    | some reason => ringAwake (replyRound 1 (nodeId s) reason (sendNak s.wake.round reason s))
    | none =>
      let ms := if sleepField s 8 2 = 0 then 2 else sleepField s 8 2
      let s := sendPayload (duskPayload s 3 s.wake.round 0xFF (fieldBe b 12 8) ms 0 s.wake.timeoutMs) s
      replyRound 0 0xFF 0 (enterQuiet ms s)

/-- An accepted TOKEN: stale or of a round that opens or goes on (R328, R329). -/
def token (b : Bytes) (s : State) : State :=
  let pair := duskPair b
  let w := s.wake
  if pairLt pair w.greatest ∨ (pair = w.greatest ∧ w.ended) then duskReject s
  else
    let greater := pairLt w.greatest pair
    let s := if greater then updWake (fun w => { w with greatest := pair, ended := false }) s else s
    let s := if greater && (w.ring == .initiating || w.ring == .consented) then
        updWake (fun w => { w with ring := .awake }) (replyRound 3 0xFF 0 s)
      else s
    match s.wake.ring with
    | .awake =>
      let s := updWake (fun w => { w with round := pair, timeoutMs := fieldBe b 24 2 }) s
      if byteAt b 9 = nodeId s then answerToken b s else s
    | .initiating => ownToken b s
    | _ => s

/-- Meaning of DUSK_TOKEN (R329). -/
def execDuskToken (frame : Bytes) (s : State) : Host.Outcome State Fault Refusal := .next (duskFrame 1 frame (token frame) s)

/-- Meaning of DUSK_NAK: it acts on the pair it names (R328, R329). -/
def execDuskNak (frame : Bytes) (s : State) : Host.Outcome State Fault Refusal :=
  .next (duskFrame 2 frame (fun s =>
    let s := updWake (fun w => { w with naks := w.naks + 1 }) s
    let s := if duskPair frame = s.wake.greatest then updWake (fun w => { w with ended := true }) s else s
    if duskPair frame ≠ s.wake.round then s
    else
      match s.wake.ring with
      | .initiating => ringAwake (replyRound 1 (byteAt frame 11) (fieldBe frame 22 2) s)
      | .consented => ringAwake s
      | _ => s) s)

/-- In AUTONOMOUS a COMMIT of any ring is taken without authentication: QUIET, or a DAWN while a stay-awake condition
holds (R344). -/
def autoCommit (b : Bytes) (s : State) : State :=
  if b.length ≠ 48 ∨ byteAt b 0 ≠ 1 ∨ byteAt b 1 ≠ 3 ∨ !duskServed s ∨ s.wake.ring = .quiet then s
  else if (stayAwake s).isSome then
    let p := [1, 4] ++ slice b 2 2 ++ slice b 4 5 ++ [0xFF, BitVec.ofNat 8 (byteAt b 10), 0xFF] ++ List.replicate 12 0
      ++ slice b 24 2 ++ List.replicate 22 0
    sendPayload p (updWake (fun w => { w with dawns := w.dawns + 1 }) s)
  else enterQuiet (fieldBe b 20 2) (updWake (fun w => { w with round := duskPair b }) s)

/-- Meaning of DUSK_COMMIT (R329, R344). -/
def execDuskCommit (frame : Bytes) (s : State) : Host.Outcome State Fault Refusal :=
  .next (
    if s.sys.mode = .autonomous then autoCommit frame s
    else duskFrame 3 frame (fun s =>
      let s := if duskPair frame = s.wake.greatest then updWake (fun w => { w with ended := true }) s else s
      if duskPair frame = s.wake.round ∧ s.wake.ring = .consented then enterQuiet (fieldBe frame 20 2) s else s) s)

/-- A DAWN reaches the device. -/
def dawnRx (s : State) : State :=
  if s.wake.ring = .quiet then (if s.wake.down then s else ringAwake s)
  else updWake (fun w => { w with dawnsIgnored := w.dawnsIgnored + 1 }) s

/-- Meaning of DAWN: it acts on a node in QUIET whatever pair it names (R328, R329). -/
def execDawn (frame : Bytes) (s : State) : Host.Outcome State Fault Refusal :=
  .next (
    if s.sys.mode = .autonomous then
      (if frame.length = 48 ∧ byteAt frame 0 = 1 ∧ byteAt frame 1 = 4 ∧ duskServed s ∧ s.wake.ring = .quiet then dawnRx s else s)
    else duskFrame 4 frame dawnRx s)

/-- Meaning of RING_TIMEOUT (R329). -/
def execRingTimeout (s : State) : Host.Outcome State Fault Refusal :=
  .next (
    let s' := reachClock (s.wake.timeoutAt + s.wake.timeoutMs * 1000000) s
    match s.wake.ring with
    | .initiating => ringAwake (replyRound 2 0xFF 3 (sendNak s.wake.round 3 s'))
    | .consented => ringAwake s'
    | _ => s)

/-! Beginning a round (R331, R345). -/

/-- The device begins a round: its ROUND is one above the greatest it has accepted. -/
def initiate (s : State) : State :=
  let me := nodeId s
  let pair := ((s.wake.greatest.1 + 1) % 2 ^ 32, me)
  let ms := sleepField s 10 2
  let s := updWake (fun w => { w with
    ring := .initiating, round := pair, greatest := pair, ended := false, timeoutMs := ms, timeoutAt := s.clk }) s
  sendPayload (duskPayload s 1 pair (nodeAfter s me) (2 ^ me) 0 0 ms) s

/-- Meaning of IDLE_INITIATE: IDLE_INITIATE_S has passed without a stay-awake condition (R331). -/
def execIdleInitiate (s : State) : Host.Outcome State Fault Refusal :=
  .next (
    let n := sleepField s 28 4
    if n = 0 ∨ !ringMember s ∨ !duskServed s ∨ !bit (sleepField s 5 1) 1 ∨ s.wake.ring ≠ .awake ∨ frozen s ∨ (stayAwake s).isSome
    then s
    else initiate (reachClock (s.wake.idleFrom + n * 1000000000) s))

/-- WAKE_SLEEP_REQUEST: its commit point is the sending of the first TOKEN, its reply the end of the round (R345). -/
def wakeSleepRequestOp : OpDef :=
  { code := 0x0A01
    denied := fun _ s => ringMember s && s.sys.mode != .autonomous && !frozen s && !bit (sleepField s 5 1) 1
    wrongMode := fun _ s => !ringMember s || s.sys.mode == .autonomous || frozen s
    params := noPayload
    checks := fun _ s =>
      if s.wake.ring ≠ .awake then some (stBusy, 0)
      else if (stayAwake s).isSome then some (stBusy, 0x0A01)
      else none
    commit := fun r s => initiate (updWake (fun w => { w with tag := some r.tag }) s) }

/-- Meaning of WAKE_SLEEP_REQUEST (R345). -/
def execWakeSleepRequest (c : CmdSource) (s : State) : Host.Outcome State Fault Refusal := .next (runCommand wakeSleepRequestOp c s)

/-! Power-down (R335, R336). -/

/-- TC10 sleep requests go out on every port with TC10 that is up (R335 step 2). -/
def askAllPorts (s : State) : State :=
  (List.range 28).foldl (fun s p =>
    if portUp s p && bit (portCfg s p).flags 4 then emit (.tc10 p 0) (setPort p { port s p with tc10 := 2 } s) else s) s

/-- STB of every CAN channel goes high and the channels stop. -/
def stopChannels (s : State) : State :=
  (List.range 25).foldl (fun s i =>
    let c := chOf s (48 + i)
    if c.st = 0 then s else setStb (48 + i) true (setCh (48 + i) { c with st := 5, tx := [], onBus := none, restart := false } s)) s

/-- The five steps of R335, from the end of the quiet window on. -/
def powerDown (s : State) : State :=
  let s := discardArmed s
  let s := updWake (fun w => { w with
    down := true, portModes := (List.range 28).map (fun p => (p, (port s p).mode)) }) s
  let s := stopChannels (askAllPorts s)
  let s := recordNow 0x0A01 (leBytes 4 s.wake.round.1 ++ [BitVec.ofNat 8 s.wake.round.2]) s
  let s := { s with
    sys := { s.sys with opSeconds := s.sys.opSeconds + s.bkp.opTick.toNat }
    bkp := { s.bkp with opTick := 0 } }
  let s := updWake (fun w => { w with settings := imageSettings s, tc10Ports := tc10Ports s }) s
  emit (.pin "INH" false) (updWake (fun w => { w with inh := false, inhAt := s.clk }) s)

/-- Meaning of QUIET_WINDOW_END: QUIET_MS has passed since QUIET was entered (R329, R335). -/
def execQuietWindowEnd (s : State) : Host.Outcome State Fault Refusal :=
  .next (if s.wake.ring = .quiet ∧ !s.wake.down ∧ s.rst.episode.isNone then
      powerDown (reachClock (s.wake.quietAt + s.wake.quietMs * 1000000) s)
    else s)

/-- STANDBY is reached: a latched wake drives INH high at once (R335, R336). -/
def reachStandby (s : State) : State :=
  let s := { s with sys := { s.sys with mode := .standby, clusterUp := false } }
  if s.bkp.wakeCause ≠ 0 then driveInh s else s

end Sys2Proof.Machine
end

