-- ==== Sys2Proof/Machine/Segments.lean ====
section
/-!
DEFINITION. Sleep segments and PARTIAL: how a segment goes to sleep and wakes, the TC10 handshake of its ports, holds, and
WAKE_STATUS (chapter Sleep, wake and partial operation; R285).
-/
namespace Sys2Proof.Machine

/-- Replaces segment `i`. -/
def setSeg (i : Nat) (g : Segment) (s : State) : State := updWake (fun w => { w with segs := Tab.set w.segs i g }) s

/-- Member ports of segment `i` (Table 12.4). -/
def segPorts (s : State) (i : Nat) : List Nat := (List.range 28).filter (bit (segField s i 4 4))

/-- The segment of a port. -/
def segOfPort (s : State) (p : Nat) : Option Nat := (List.range (segCount s)).find? (fun i => (segPorts s i).contains p)

/-- Some segment sleeps. -/
def someAsleep (s : State) : Bool := (List.range (segCount s)).any (fun i => (segOf s i).st == .asleep)

/-- A hold of the segment has not expired. -/
def segHeld (s : State) (i : Nat) : Bool :=
  match (segOf s i).hold with
  | some t => decide (s.clk < t)
  | none => false

/-- The SLEEP command of a segment is answered with its outcome (R346). -/
def replySegment (i outcome : Nat) (s : State) : State :=
  let g := segOf s i
  match g.tag with
  | some t => finalReply t stOk 0 [BitVec.ofNat 8 outcome, 0, 0, 0] (setSeg i { g with tag := none } s)
  | none => s

/-- A port comes back from sleep: a TC10 wake-up request to the partner, and bring-up (R285, R338). -/
def wakePort (p : Nat) (s : State) : State :=
  let s := if bit (portCfg s p).flags 4 then emit (.tc10 p 3) s else s
  bringUp p s

/-- Member ports that are asleep are woken, and members asked but not yet answered are no longer asked. -/
def wakeSegPorts (i : Nat) (s : State) : State :=
  (segPorts s i).foldl (fun s p => if (port s p).st = .asleep then wakePort p s else s) s

/-- The segment is asleep: its channels stop, the record is written, and CONFIGURED becomes PARTIAL (R337 steps 3, 4). -/
def segSleep (i : Nat) (s : State) : State :=
  let s := (segChannels s i).foldl (fun s ep => setStb ep true (setCh ep { chOf s ep with st := 5, onBus := none, restart := false } s)) s
  let s := record 0x0A02 [BitVec.ofNat 8 i] (setSeg i { segOf s i with st := .asleep, asked := [], accepted := [] } s)
  let s := if s.sys.mode = .configured then enterMode .partialNet s else s
  replySegment i 0 s

/-- Every member channel has completed its frame and holds none. -/
def segDrained (i : Nat) (s : State) : Bool :=
  (segChannels s i).all (fun ep => (chOf s ep).onBus.isNone && (chOf s ep).tx.isEmpty)

/-- Step 2 of R337 begins: the members' channels drain, and the segment sleeps as soon as they are empty. -/
def segDrain (i : Nat) (s : State) : State :=
  let s := setSeg i { segOf s i with st := .draining, asked := [], drainAt := s.clk } s
  if segDrained i s then segSleep i s else s

/-- A draining segment is looked at again after one of its channels sent a frame. -/
def segProgress (ep : Nat) (s : State) : State :=
  match segOfChannel s ep with
  | some i => if (segOf s i).st = .draining ∧ segDrained i s then segSleep i s else s
  | none => s

/-- A segment begins to sleep: TC10 sleep requests on its ports that are up (R337 step 1). -/
def segBegin (i : Nat) (tag : Option Word16) (s : State) : State :=
  let ask := (segPorts s i).filter (fun p => portUp s p)
  let s := ask.foldl (fun s p => emit (.tc10 p 0) (setPort p { port s p with tc10 := 2 } s)) s
  let s := setSeg i { segOf s i with st := .asking, asked := ask, accepted := [], tag := tag } s
  if ask.isEmpty then segDrain i s else s

/-- The sleep of a segment stops: the members that sleep are woken and it stays awake; `outcome` answers its SLEEP
(R337, R339). -/
def segStop (i outcome : Nat) (s : State) : State :=
  let s := setSeg i { segOf s i with st := .awake, asked := [], accepted := [], traffic := s.clk } s
  replySegment i outcome (wakeSegPorts i s)

/-- A request wakes segment `i`; it is a wake request of the device as well (R330, R338, R339). -/
def wakeSegment (i : Nat) (s : State) : State :=
  match (segOf s i).st with
  | .awake => s
  | .asking | .draining => segStop i 3 (wakeRequest 0 s)
  | .asleep =>
    let s := wakeRequest 0 s
    let s := setSeg i { segOf s i with st := .awake, traffic := s.clk } s
    let s := (segChannels s i).foldl (fun s ep => startChannel ep s) s
    let s := record 0x0A04 [BitVec.ofNat 8 i] (wakeSegPorts i s)
    let s := (segChannels s i).foldl (fun s ep => arbitrate ep s) s
    if s.sys.mode = .partialNet ∧ !someAsleep s then enterMode .configured s else s

/-! TC10 (R285). -/

/-- Meaning of TC10_SLEEP_REQUEST_RX: accepted when the port accepts sleep and nothing waits for it. -/
def execTc10SleepRequestRx (p : Port) (s : State) : Host.Outcome State Fault Refusal :=
  .next (
    let c := portCfg s p.val
    let e := port s p.val
    if e.st ≠ .up ∨ 28 ≤ p.val ∨ !bit c.flags 4 then s
    else
      let s := setPort p.val { e with tc10Count := e.tc10Count + 1 } s
      if bit c.flags 5 && (egress s p.val).queues.all (fun q => q.2.isEmpty) then
        let s := takeDown p.val .asleep (emit (.tc10 p.val 1) s)
        setPort p.val { port s p.val with tc10 := 1 } s
      else emit (.tc10 p.val 2) s)

/-- The partner's answer to a sleep request while a segment asks. -/
def segAnswer (i p : Nat) (accepted : Bool) (s : State) : State :=
  let g := segOf s i
  if accepted then
    let s := setSeg i { g with asked := g.asked.filter (· != p), accepted := g.accepted ++ [p] } s
    if (segOf s i).asked.isEmpty then segDrain i s else s
  else record 0x0A03 [BitVec.ofNat 8 i] (segStop i 1 s)

/-- Meaning of TC10_SLEEP_RESPONSE_RX: the partner's answer to the device's request, for a segment or for the power-down
(R285, R335, R337). -/
def execTc10SleepResponseRx (p : Port) (accepted : Bool) (s : State) : Host.Outcome State Fault Refusal :=
  .next (
    let e := port s p.val
    if e.tc10 ≠ 2 then s
    else
      let s := setPort p.val { e with tc10 := 0, tc10Count := e.tc10Count + 1 } s
      let s := if accepted then takeDown p.val .asleep s else record 0x0802 [BitVec.ofNat 8 p.val] s
      if s.wake.down then s
      else
        match segOfPort s p.val with
        | some i =>
          if (segOf s i).st = .asking then segAnswer i p.val accepted s
          else if accepted ∧ (segOf s i).st = .awake then wakePort p.val s else s
        | none => if accepted then wakePort p.val s else s)

/-- Meaning of TC10_WAKE: on a sleeping port in a powered mode the segment logic hears of it and bring-up follows; in
STANDBY the backup domain does (R285, R324, R338). -/
def execTc10Wake (p : Port) (s : State) : Host.Outcome State Fault Refusal :=
  .next (
    if 28 ≤ p.val then s
    else if s.sys.mode = .standby ∨ s.wake.down then
      if bit (tc10WakeMask s) p.val ∧ bit s.wake.tc10Ports p.val ∧ bit (wakeEn s) 6 ∧ portType p.val ≠ 1 then
        detect 0x40 (updWake (fun w => { w with tc10Latched := w.tc10Latched ||| 2 ^ p.val }) s)
      else s
    else if (port s p.val).st ≠ .asleep ∨ s.sys.mode = .backup then s
    else
      let s := if bit (wakeEn s) 6 then wakeRequest 0x40 s else s
      match segOfPort s p.val with
      | some i =>
        if (segOf s i).st = .awake then bringUp p.val s
        else if !bit (segField s i 8 1) 1 then s
        else wakeSegment i s
      | none => bringUp p.val s)

/-- Meaning of CAN_WAKE_PATTERN: a wake source of STANDBY on the channels of the mask; in PARTIAL it wakes the segment of a
sleeping channel with WAKE_ON_PATTERN (R324, R338). -/
def execCanWakePattern (ch : Fin 16) (s : State) : Host.Outcome State Fault Refusal :=
  .next (
    if s.sys.mode = .standby ∨ s.wake.down then
      if bit (canWakeMask s) ch.val ∧ bit (wakeEn s) 5 then
        detect 0x20 (updWake (fun w => { w with canLatched := w.canLatched ||| 2 ^ ch.val }) s)
      else s
    else
      match segOfChannel s (48 + ch.val) with
      | some i =>
        if (segOf s i).st = .asleep ∧ bit (segField s i 8 1) 0 then
          wakeSegment i (if bit (wakeEn s) 5 then wakeRequest 0x20 s else s)
        else s
      | none => s)

/-! Segment rows (R337, R346). -/

/-- Meaning of SEGMENT_IDLE: IDLE_S has passed without traffic on a segment that is awake and not held. -/
def execSegmentIdle (i : Fin 32) (s : State) : Host.Outcome State Fault Refusal :=
  .next (
    let n := segField s i.val 12 4
    if segCount s ≤ i.val ∨ n = 0 ∨ !imageMode s.sys.mode ∨ (segOf s i.val).st ≠ .awake ∨ segHeld s i.val then s
    else segBegin i.val none (reachClock ((segOf s i.val).traffic + n * 1000000000) s))

/-- Meaning of SEGMENT_DRAIN_TIMEOUT: 10 ms after step 2 began, frames still queued are discarded as SLEEP_DROP. -/
def execSegmentDrainTimeout (i : Fin 32) (s : State) : Host.Outcome State Fault Refusal :=
  .next (
    if segCount s ≤ i.val ∨ (segOf s i.val).st ≠ .draining then s
    else
      let s := reachClock ((segOf s i.val).drainAt + 10000000) s
      let s := (segChannels s i.val).foldl (fun s ep => discardTx ep 6 s) s
      if segDrained i.val s then segSleep i.val s else s)

/-- Meaning of HOLD_EXPIRY: the hold of a segment or of the device runs out. -/
def execHoldExpiry (segment : Option (Fin 32)) (s : State) : Host.Outcome State Fault Refusal :=
  .next (match segment with
    | some i =>
      match (segOf s i.val).hold with
      | some t => let s := reachClock t s; setSeg i.val { segOf s i.val with hold := none } s
      | none => s
    | none =>
      match s.wake.hold with
      | some t => let s := reachClock t s; updWake (fun w => { w with hold := none, idleFrom := s.clk }) s
      | none => s)

/-! WAKE_SEGMENT (R346). -/

/-- SEGMENT of WAKE_SEGMENT. -/
def wsSegment (r : Req) : Nat := byteAt r.payload 0
/-- ACTION of WAKE_SEGMENT. -/
def wsAction (r : Req) : Nat := byteAt r.payload 1
/-- HOLD_S of WAKE_SEGMENT. -/
def wsHold (r : Req) : Nat := fieldLe r.payload 2 2

/-- The parameters of WAKE_SEGMENT. -/
def wakeSegmentBad (r : Req) (s : State) : Bool :=
  r.payload.length != 8 || !allZero (slice r.payload 4 4) || decide (3 < wsAction r)
    || (wsSegment r != 0xFF && decide (segCount s ≤ wsSegment r)) || (wsSegment r == 0xFF && decide (wsAction r < 2))
    || (if wsAction r = 2 then wsHold r == 0 || decide (3600 < wsHold r) else wsHold r != 0)

/-- The 4-byte result with an outcome. -/
def wsResult (outcome : Nat) : Bytes := [BitVec.ofNat 8 outcome, 0, 0, 0]

/-- The effect of WAKE_SEGMENT, on each member of a pair at the sync point (R346, R391). -/
def wakeSegmentEffect (r : Req) (s : State) : State :=
  let i := wsSegment r
  let g := segOf s i
  match wsAction r with
  | 0 =>
    if g.st = .awake then answer r stOk 0 (wsResult 2) s else answer r stOk 0 (wsResult 0) (wakeSegment i s)
  | 1 =>
    if g.st = .awake then segBegin i (if r.fromPeer then none else some r.tag) s else answer r stOk 0 (wsResult 2) s
  | a =>
    let t := if a = 2 then some (s.clk + wsHold r * 1000000000) else none
    let s := if i = 0xFF then updWake (fun w => { w with hold := t, idleFrom := s.clk }) s else setSeg i { g with hold := t } s
    let s := if a = 2 ∧ i = 0xFF then wakeRequest 0 s else s
    answer r stOk 0 (wsResult 0) s

/-- WAKE_SEGMENT. -/
def wakeSegmentOp : OpDef :=
  { code := 0x0A03
    wrongMode := fun _ s => s.sys.mode == .autonomous || s.wake.ring == .quiet || isStandby s
    params := fun r s => if wakeSegmentBad r s then some 0 else none
    checks := fun r s => if wsAction r = 1 ∧ segHeld s (wsSegment r) then some (stBusy, 0) else none
    commit := relayOrRun wakeSegmentEffect
    effect := wakeSegmentEffect }

/-- Meaning of WAKE_SEGMENT (R346). -/
def execWakeSegment (c : CmdSource) (s : State) : Host.Outcome State Fault Refusal := .next (runCommand wakeSegmentOp c s)

/-! WAKE_STATUS (R347). -/

/-- Ring state code of Table 12.6, 0 for no membership. -/
def ringCode (s : State) : Nat :=
  if !ringMember s then 0
  else
    match s.wake.ring with
    | .awake => 1
    | .initiating => 2
    | .consented => 3
    | .quiet => 4

/-- The 64-byte WAKE_STATUS result (Table 12.10). -/
def wakeStatus (s : State) : Bytes :=
  let w := s.wake
  let mask := fun (f : Nat → Bool) => sumBy (fun i => if f i then 2 ^ i else 0) (List.range (segCount s))
  let left := match w.hold with
    | some t => (t - s.clk + 999999999) / 1000000000
    | none => 0
  [BitVec.ofNat 8 (ringCode s), 0] ++ leBytes 2 w.lastCause ++ leBytes 4 w.round.1 ++ leBytes 4 w.greatest.1
    ++ leBytes 2 w.lastCan ++ [0, 0] ++ leBytes 4 w.lastTc10 ++ leBytes 2 (mask (fun i => (segOf s i).st == .asleep))
    ++ leBytes 2 (mask (segHeld s)) ++ leBytes 4 left
    ++ [BitVec.ofNat 8 (flagBit (w.wakeIn && bit (wakeEn s) 0) 0 + flagBit (lwakeKeeps s) 1 + flagBit (deviceHeld s) 2
        + flagBit (changePending s) 3), 0, 0, 0]
    ++ leBytes 8 w.committed.toNat ++ leBytes 8 w.naks.toNat ++ leBytes 8 w.dawns.toNat ++ leBytes 8 w.rejected.toNat

/-- WAKE_STATUS. -/
def wakeStatusOp : OpDef := { code := 0x0A02, params := noPayload, commit := fun r s => answer r stOk 0 (wakeStatus s) s }

/-- Meaning of WAKE_STATUS (R347). -/
def execWakeStatus (c : CmdSource) (s : State) : Host.Outcome State Fault Refusal := .next (runCommand wakeStatusOp c s)

/-- An activation meets the segments: where the definitions change, every segment is awake again; where they do not, each
keeps its state (log 22). -/
def activateSegments (old : Option Bytes) (s : State) : State :=
  let defs := fun (b : Option Bytes) => b.map (fun b => slice b 13 1 ++ b.drop 64)
  if defs old = defs (liveSection s 0x0010) then s
  else
    let b := old.getD []
    let slept := s.wake.segs.filter (fun (e : Nat × Segment) => e.2.st == .asleep)
    let s := updWake (fun w => { w with segs := [] }) s
    let s := (List.range 25).foldl (fun s i => if (chOf s (48 + i)).st = 5 then startChannel (48 + i) s else s) s
    slept.foldl (fun s (e : Nat × Segment) =>
      ((List.range 28).filter (bit (fieldLe b (64 + 16 * e.1 + 4) 4))).foldl (fun s p =>
        if (port s p).st = .asleep then wakePort p s else s) s) s

/-- The wake settings of the image in force go to the backup domain (R327, R344). -/
def applyWakeSettings (s : State) : State := updWake (fun w => { w with settings := imageSettings s, tc10Ports := tc10Ports s }) s

/-- The first entry to AUTONOMOUS or CONFIGURED after a boot with a forwarded wake cause: WAKE_OUT and one DAWN of ROUND 0
(R343). -/
def firstEntry (s : State) : State :=
  if !s.wake.firstEntry then s
  else
    let s := updWake (fun w => { w with firstEntry := false }) s
    let c := s.wake.lastCause
    let fwd := (c % 256) &&& (wakeFwd s ||| (if wakeFwd s = 0 then 0 else 0x80))
    if fwd ≠ 0 then sendDawn (0, nodeId s) c (sleepField s 10 2) (driveWakeOut s) else s

end Sys2Proof.Machine
end

