-- ==== Sys2Proof/Machine/Gateway.lean ====
section
/-!
DEFINITION. The Seam gateway's shared operations: routes and mappings, entry into a channel's transmit places, translation to
and from IEEE 1722, bundles, and the jobs of an engine (chapter Legacy buses and the Seam gateway).
-/
namespace Sys2Proof.Machine

/-! Section 0x000B (Tables 9.11, 9.12) and section 0x000C (Table 9.13). -/

/-- Offset of the handler table of a Seam section. -/
def handlerOff (b : Bytes) : Nat := 64 + 48 * fieldLe b 0 2
/-- Offset of the code. -/
def codeOff (b : Bytes) : Nat := (handlerOff b + 8 * fieldLe b 2 2 + 15) / 16 * 16
/-- Offset of the constants. -/
def constOff (b : Bytes) : Nat := codeOff b + 4 * fieldLe b 4 2

/-- Instructions of handler `h`. -/
def handlerCode (b : Bytes) (h : Nat) : Bytes :=
  let o := handlerOff b + 8 * h
  slice b (codeOff b + 4 * fieldLe b o 2) (4 * fieldLe b (o + 2) 2)

/-- The constants. -/
def handlerConsts (b : Bytes) : Bytes := slice b (constOff b) (4 * fieldLe b 6 2)

/-- The ROM mapping of CAN channel `n` under profile 0b01 (R275). -/
def romMapping (s : State) (n : Nat) : Bytes :=
  [0, 0, BitVec.ofNat 8 (48 + n), 2] ++ leBytes 4 0 ++ leBytes 4 0xFFFFFFFF ++ leBytes 2 0xFFFF ++ [1, 0]
    ++ [0x03, 0x96, 0x20, 0x00, 0x0A, 0xCF] ++ leBytes 2 4094 ++ leBytes 8 (s.otp.mpAddress * 65536 + n)
    ++ leBytes 2 10000 ++ leBytes 2 0 ++ leBytes 2 0xFFFF ++ leBytes 2 0 ++ [BitVec.ofNat 8 n] ++ List.replicate 7 0

/-- The mappings in force, with their indices. -/
def mappings (s : State) : List (Nat × Bytes) :=
  match s.img.live with
  | some _ =>
    let b := liveBytes s 0x000B
    (List.range (fieldLe b 0 2)).map (fun i => (i, slice b (64 + 48 * i) 48))
  | none => if s.sys.straps.profile.toNat = 1 then (List.range 16).map (fun n => (n, romMapping s n)) else []

/-- Fields of a mapping. -/
def mapDir (c : Bytes) : Nat := byteAt c 0
/-- FORMAT. -/
def mapFormat (c : Bytes) : Nat := byteAt c 1
/-- CHANNEL. -/
def mapChannel (c : Bytes) : Nat := byteAt c 2
/-- MFLAGS. -/
def mapFlags (c : Bytes) : Nat := byteAt c 3
/-- HANDLER. -/
def mapHandler (c : Bytes) : Nat := fieldLe c 12 2
/-- The mapping's class: PCP of TCI. -/
def mapClass (c : Bytes) : Nat := bits (fieldLe c 22 2) 13 3
/-- MAX_AGE_US in ns. -/
def mapAge (c : Bytes) : Nat := fieldLe c 32 2 * 1000
/-- STREAM_ID. -/
def mapStream (c : Bytes) : Nat := fieldLe c 24 8

/-- A mapping covers an identifier; for CAN its EXT equals the format, which a ROM mapping does not ask. -/
def mapCovers (rom : Bool) (c : Bytes) (f : LegacyFrame) : Bool :=
  decide (fieldLe c 4 4 ≤ f.id) && decide (f.id ≤ fieldLe c 8 4)
    && (rom || !isCan (mapChannel c) || bit (mapFlags c) 0 == f.ext)

/-- The DIR 0 mapping of a channel that takes a frame (R258). -/
def mappingFor (s : State) (ep : Nat) (f : LegacyFrame) : Option (Nat × Bytes) :=
  (mappings s).find? (fun m => mapDir m.2 == 0 && mapChannel m.2 == ep && mapCovers (legAuto s) m.2 f)

/-- The route entry that takes a frame of CAN channel `ch`; a CAN XL frame takes OUT_FMT 0 only (R263). -/
def routeFor (s : State) (ch : Nat) (f : LegacyFrame) : Option (Nat × Bytes) :=
  let b := liveBytes s 0x000C
  ((List.range (fieldLe b 0 2)).map (fun i => (i, slice b (64 + 32 * i) 32))).find? (fun e =>
    byteAt e.2 0 == ch && bit (byteAt e.2 1) 0 == f.ext && decide (fieldLe e.2 4 4 ≤ f.id) && decide (f.id ≤ fieldLe e.2 8 4)
      && (f.fmt != 3 || byteAt e.2 16 == 0))

/-! Entry into a channel (R261, R263, R265, R270, R273). -/

/-- Payload lengths a CAN format permits (R261). -/
def canLenOk (fmt n : Nat) : Bool :=
  match fmt with
  | 0 => decide (n ≤ 8)
  | 1 | 2 => decide (n ≤ 8) || [12, 16, 20, 24, 32, 48, 64].contains n
  | 3 => decide (1 ≤ n) && decide (n ≤ 2048)
  | _ => false

/-- MODE a CAN format needs. -/
def fmtMode (fmt : Nat) : Nat := if fmt = 0 then 1 else if fmt < 3 then 2 else 3

/-- Offset of LIN channel `ep`'s frame entry for an identifier (Table 9.7). -/
def linEntry (s : State) (ep id : Nat) : Option Nat :=
  if legAuto s then none
  else
    let b := legSec s
    let o := chOff ep
    ((List.range (fieldLe b (o + 10) 2)).map (fun i => 1920 + 16 * (fieldLe b (o + 8) 2 + i))).find? (fun e => byteAt b e == id)

/-- DIR of a LIN frame entry: 1 published, 2 subscribed. -/
def linDir (s : State) (e : Nat) : Nat := bits (byteAt (legSec s) (e + 2)) 1 2

/-- FlexRay buffers by index (Table 9.6). -/
def frBufs (s : State) : List Nat := List.range (byteAt (legSec s) 835)

/-- A field of a FlexRay buffer. -/
def frField (s : State) (i off n : Nat) : Nat := fieldLe (legSec s) (896 + 8 * i + off) n

/-- The cycle filter of a FlexRay buffer selects a cycle. -/
def frSelects (s : State) (i cycle : Nat) : Bool := cycle % Nat.max 1 (frField s i 4 1) == frField s i 3 1

/-- The TX buffer that a FlexRay message names: its slot, its channels and its cycle (R261). -/
def frTxBuffer (s : State) (f : LegacyFrame) : Option Nat :=
  (frBufs s).find? (fun i =>
    let fl := frField s i 2 1
    bit fl 2 && frField s i 0 2 == f.id && frSelects s i f.cycle && (!f.chA || bit fl 0) && (!f.chB || bit fl 1))

/-- A FlexRay slot is dynamic. -/
def frDynamic (s : State) (slot : Nat) : Bool := decide (fieldLe (legSec s) 838 2 < slot)

/-- A message may not go to the channel: BAD_MSG (R261, R263). -/
def badMessage (s : State) (ep : Nat) (f : LegacyFrame) : Bool :=
  if isCan ep then !canLenOk f.fmt f.data.length || decide (canMode s ep < fmtMode f.fmt)
  else if isLin ep then
    match linEntry s ep f.id with
    | some e => linDir s e != 1 || f.data.length != byteAt (legSec s) (e + 1)
    | none => true
  else
    match frTxBuffer s f with
    | some i => f.data.length != 2 * frField s i 5 1
    | none => true

/-- The channel's segment sleeps (R276). -/
def channelAsleep (s : State) (ep : Nat) : Bool :=
  match segOfChannel s ep with
  | some i => (segOf s i).st == .asleep
  | none => false

/-- A frame enters its place in a CAN channel: a LATEST route's own buffer, or the queue (R265). -/
def enqueue (ep : Nat) (x : LegItem) (s : State) : State :=
  let c := chOf s ep
  let old := c.tx.filter (fun y => x.kind == 2 && y.kind == 2 && y.owner == x.owner)
  let s := setCh ep { c with tx := (c.tx.filter (fun y => !(x.kind == 2 && y.kind == 2 && y.owner == x.owner))) ++ [x] } s
  arbitrate ep (countCh ep 5 old.length s)

/-- A LIN or FlexRay message is written into its frame buffer (R261). -/
def writeBuffer (ep : Nat) (f : LegacyFrame) (s : State) : State :=
  let c := chOf s ep
  if isLin ep then setCh ep { c with values := Tab.set c.values f.id f.data } s
  else
    match frTxBuffer s f with
    | some i =>
      setCh ep { c with values := Tab.set c.values i f.data
                        fresh := if frDynamic s f.id ∧ !c.fresh.contains i then c.fresh ++ [i] else c.fresh } s
    | none => s

/-- A frame that a route or a DIR 1 mapping produced reaches its channel. -/
def toChannel (ep : Nat) (x : LegItem) (wakeOnRoute : Bool) (s : State) : State :=
  let f := x.frame
  if badMessage s ep f then countCh ep 8 1 s
  else if channelSleeps s ep ∧ !wakeOnRoute then countCh ep 6 1 s
  else
    let s := if channelSleeps s ep then
        (match segOfChannel s ep with
         | some i => wakeSegment i s
         | none => s)
      else s
    let c := chOf s ep
    if !chTransmits c ∨ c.engine.isNone then countCh ep 7 1 s
    else if isCan ep then
      let (s, ok) := canAdmit (ep - 48) 1 f.id f.ext s
      if ok then enqueue ep x s else s
    else writeBuffer ep f s

/-! Translation to IEEE 1722 (R258, R259). -/

/-- Seconds and nanoseconds fields of a stamp on W. -/
def stampNanos (v : Int) : Nat := (v / 2 ^ 60 % 1000000000).toNat

/-- A stamp as a 64-bit count of nanoseconds. -/
def stampCount (v : Int) : Nat := (v / 2 ^ 60 % 2 ^ 64).toNat

/-- The ACF message of a legacy frame under a mapping; none for CAN XL (R258). -/
def acfMessage (c : Bytes) (f : LegacyFrame) (stamp : Int) : Option Bytes :=
  let pad := (4 - f.data.length % 4) % 4
  let body := padTo 4 f.data
  let bus := byteAt c 40 % 32
  let mtv := bit (mapFlags c) 1
  let ts := beBytes 8 (stampCount stamp)
  let head := fun (ty n b2 b3 : Nat) => beBytes 2 (ty * 512 + n / 4 % 512) ++ [BitVec.ofNat 8 b2, BitVec.ofNat 8 b3]
  match f.fmt with
  | 3 => none
  | 4 => some (head 3 (12 + body.length) (pad * 64 + 32 + bus) (f.id % 64) ++ ts ++ body)
  | 5 =>
    some (head 0 (16 + body.length) (pad * 64 + 32 + bus) (flagBit f.chB 5 + flagBit f.chA 4) ++ ts
      ++ beBytes 4 (f.id % 2048 * 2 ^ 21 + f.cycle % 64) ++ body)
  | fmt =>
    let fl := pad * 64 + flagBit mtv 5 + flagBit f.rtr 4 + flagBit f.ext 3 + flagBit (fmt == 2) 2
      + flagBit (fmt != 0) 1 + flagBit f.esi 0
    let n := (if mtv then 16 else 8) + body.length
    some (head (if mtv then 1 else 2) n fl bus ++ (if mtv then ts else []) ++ beBytes 4 (f.id % 2 ^ 29) ++ body)

/-- The frame of a bundle (R259). -/
def bundleFrame (s : State) (b : Bundle) : Bytes :=
  let c := b.cfg
  let msgs := b.messages.flatten
  let stream := beBytes 8 (mapStream c)
  let head := if mapFormat c = 0 then
      [0x82, BitVec.ofNat 8 (0x80 + msgs.length / 256 % 8), BitVec.ofNat 8 msgs.length, BitVec.ofNat 8 b.seq] ++ stream
    else [0x05, 0x81, BitVec.ofNat 8 b.seq, 0] ++ stream ++ beBytes 4 (stampCount b.firstStamp) ++ List.replicate 4 0
      ++ beBytes 2 msgs.length ++ [0, 0]
  slice c 16 6 ++ beBytes 6 s.otp.mpAddress ++ [0x81, 0x00] ++ beBytes 2 (fieldLe c 22 2) ++ [0x22, 0xF0] ++ head ++ msgs

/-- A frame of an engine enters GW: its R-TAG, launch time and counter (R212, R259). -/
def toGw (ep : Nat) (c : Bytes) (stamp : Int) (content : Bytes) (s : State) : State :=
  let gen := if fieldLe c 36 2 = 0xFFFF then none else some (fieldLe c 36 2)
  let launch := if bit (mapFlags c) 2 then some (stamp + nsVal (fieldLe c 38 2 * 1000)) else none
  let s := match (chOf s ep).engine with
    | some n => { s with leg := { s.leg with engines := Tab.upd s.leg.engines n {} (fun e => { e with toGw := e.toGw + 1 }) } }
    | none => s
  enterInternal 30 ep gen content launch none s

/-- A mapping's collected messages leave as one frame. -/
def flushBundle (i : Nat) (s : State) : State :=
  let b := Tab.get s.leg.bundles i {}
  if b.messages.isEmpty then s
  else
    let s := toGw b.channel b.cfg b.firstStamp (bundleFrame s b) s
    { s with leg := { s.leg with bundles := Tab.set s.leg.bundles i { b with messages := [], seq := (b.seq + 1) % 256 } } }

/-- A message joins its mapping's bundle, which leaves when it is full, or when the message would take the payload beyond
1,476 bytes (R259). -/
def addMessage (i ep : Nat) (c : Bytes) (m : Bytes) (stamp : Int) (s : State) : State :=
  let size := sumBy List.length (Tab.get s.leg.bundles i {}).messages
  let s := if 0 < size ∧ 1476 < size + m.length then flushBundle i s else s
  let b := Tab.get s.leg.bundles i {}
  let b := if b.messages.isEmpty then { b with cfg := c, channel := ep, firstStamp := stamp, firstAt := s.clk } else b
  let s := { s with leg := { s.leg with bundles := Tab.set s.leg.bundles i { b with messages := b.messages ++ [m] } } }
  if byteAt c 14 ≤ b.messages.length + 1 ∨ fieldLe c 34 2 = 0 then flushBundle i s else s

/-- GW takes no frame of a class now (R164). -/
def gwHeld (s : State) (cls : Nat) : Bool := bit (raisedMask s 30) cls || internalWaits 30 s

/-! Translation from IEEE 1722 (R260). -/

/-- The ACF messages of a payload. -/
def acfSplit : Nat → Bytes → List Bytes
  | 0, _ => []
  | fuel + 1, b =>
    let n := 4 * (fieldBe b 0 2 % 512)
    if n < 4 ∨ b.length < n then [] else b.take n :: acfSplit fuel (b.drop n)

/-- The legacy frame an ACF message carries, with its bus identifier; none for a type that no channel takes. -/
def acfFrame (m : Bytes) : Option (Nat × LegacyFrame) :=
  let ty := byteAt m 0 / 2
  let fl := byteAt m 2
  let pad := fl / 64
  let data := fun (o : Nat) => slice m o (m.length - o - pad)
  let f : LegacyFrame :=
    { fmt := 0, ext := false, rtr := false, esi := false, id := 0, chA := false, chB := false, cycle := 0, sdt := 0, vcid := 0
      data := [] }
  if ty = 1 ∨ ty = 2 then
    let o := if ty = 1 then 12 else 4
    some (byteAt m 3 % 32,
      { f with fmt := if bit fl 1 then (if bit fl 2 then 2 else 1) else 0, ext := bit fl 3, rtr := bit fl 4, esi := bit fl 0
               id := fieldBe m o 4 % 2 ^ 29, data := data (o + 4) })
  else if ty = 3 then some (fl % 32, { f with fmt := 4, id := byteAt m 3 % 64, data := data 12 })
  else if ty = 0 then
    some (fl % 32, { f with fmt := 5, id := fieldBe m 12 4 / 2 ^ 21, cycle := byteAt m 15 % 64, chA := bit (byteAt m 3) 4
                            chB := bit (byteAt m 3) 5, data := data 16 })
  else none

/-- A message type suits a channel (R260). -/
def suits (ep fmt : Nat) : Bool := if isCan ep then decide (fmt < 3) else if isLin ep then fmt == 4 else fmt == 5

/-- The jobs that a frame from GW makes for a channel, and the messages nothing takes (R260). -/
def gwJobs (s : State) (ep : Nat) (g : GwItem) : List SeamJob × Nat :=
  let content := g.content
  let o := afterTags content content.length 12
  let sub := byteAt content (o + 2)
  let maps := ((mappings s).map (fun m => m.2)).filter (fun c => mapDir c == 1 && mapChannel c == ep)
  if fieldBe content o 2 = 0x22F0 ∧ (sub = 0x82 ∨ sub = 0x05) then
    let stream := fieldBe content (o + 6) 8
    let hl := if sub = 0x82 then 12 else 24
    let n := if sub = 0x82 then fieldBe content (o + 3) 2 % 2048 else fieldBe content (o + 22) 2
    let msgs := acfSplit content.length (slice content (o + 2 + hl) n)
    let set := maps.filter (fun c => mapFormat c != 2 && mapStream c == stream)
    if set.isEmpty then ([], 1)
    else
      let one := fun (m : Bytes) =>
        match acfFrame m with
        | some (bus, f) =>
          (set.find? (fun c => byteAt c 40 == bus && mapCovers false c f && suits ep f.fmt)).map (fun c =>
            SeamJob.fromMsg c g.src { frame := f, stamp := g.stamp, since := g.since, maxAge := mapAge c, owner := 0 })
        | none => none
      let jobs := msgs.filterMap one
      (jobs, msgs.length - jobs.length)
  else
    match maps.find? (fun c => mapFormat c == 2) with
    | some c => ([.fromEth c content g.src g.stamp g.since], 0)
    | none => ([], 1)

/-! Buffers of a handler (Table 9.9). -/

/-- The header and content of a buffer. -/
def bufferOf (ep : Nat) (f : LegacyFrame) (stamp : Int) : Bytes := legHeader ep f ++ leBytes 4 (stampNanos stamp) ++ f.data

/-- The frame a buffer describes. -/
def frameOfBuffer (b : Bytes) : LegacyFrame :=
  let fl := byteAt b 8
  { fmt := byteAt b 1, ext := bit fl 0, rtr := bit fl 1, esi := bit fl 2, id := fieldLe b 4 4, chA := bit fl 3, chB := bit fl 4
    cycle := byteAt b 9, sdt := byteAt b 10, vcid := byteAt b 11, data := fit (fieldLe b 2 2) (b.drop 16) }

/-- Size of a buffer: header and 2,048 bytes of content. -/
def bufferSize : Nat := 2064

/-- Destinations of a route entry. -/
def routeDests (c : Bytes) : List Nat := (List.range 16).filter (bit (fieldLe c 2 2))

/-- The header values a route fixes (R263). -/
def routeFrame (c : Bytes) (f : LegacyFrame) : LegacyFrame :=
  let out := fieldLe c 12 4
  { f with id := if out = 0xFFFFFFFF then f.id else out + (f.id - fieldLe c 4 4)
           fmt := match byteAt c 16 with
             | 1 => 0
             | 2 => 1
             | 3 => 2
             | _ => f.fmt }

/-- HANDLER of a job; 0xFFFF for a copy or the built-in translation. -/
def jobHandler : SeamJob → Nat
  | .route _ c _ => fieldLe c 18 2
  | .toEth _ c _ => mapHandler c
  | .fromMsg c _ _ => mapHandler c
  | .fromEth c _ _ _ _ => mapHandler c

/-- The input and output buffers of a job at entry, their content short of the buffers' end still unfilled.  Header fields
that the spec gives no value for a frame from GW are free. -/
def jobBuffers (j : SeamJob) (s : State) : (Bytes × Bytes) × State :=
  match j with
  | .route _ c x =>
    ((bufferOf (48 + byteAt c 0) x.frame x.stamp, bufferOf (48 + (routeDests c).headD 0) (routeFrame c x.frame) x.stamp), s)
  | .toEth _ c x =>
    let b := bufferOf (mapChannel c) x.frame x.stamp
    ((b, if mapFormat c = 2 then [0xFE, 6] ++ b.drop 2 else b), s)
  | .fromMsg c src x =>
    ((bufferOf src x.frame x.stamp, bufferOf (mapChannel c) x.frame x.stamp), s)
  | .fromEth c content src stamp _ =>
    let (v, s) := drawBytes 8 s
    let rest := [6] ++ leBytes 2 content.length ++ v ++ leBytes 4 (stampNanos stamp) ++ content.take 2048
    ((BitVec.ofNat 8 src :: rest, BitVec.ofNat 8 (mapChannel c) :: rest), s)

/-- Engine `n`. -/
def engineOf (s : State) (n : Nat) : Engine := Tab.get s.leg.engines n {}

/-- Changes an engine. -/
def updEngine (n : Nat) (g : Engine → Engine) (s : State) : State :=
  { s with leg := { s.leg with engines := Tab.upd s.leg.engines n {} g } }

/-- HANDLER_DROP and HANDLER_FAULT (Table 9.16). -/
def countHandler (n : Nat) (s : State) : State := updEngine n (fun e => { e with dropFault := e.dropFault + 1 }) s

/-- The output of a job leaves (R256, R258–R263): to every destination of a route that is not denied, to GW, or to the
mapping's channel.  An output header that names another channel is a HANDLER_FAULT. -/
def sendOutput (n : Nat) (j : SeamJob) (out : Bytes) (s : State) : State :=
  let dest := byteAt out 0
  let f := frameOfBuffer out
  match j with
  | .route e c x =>
    if !((routeDests c).contains (dest - 48) && decide (48 ≤ dest)) then countHandler n s
    else
      (routeDests c).foldl (fun s d =>
        if s.fwl.routeDenied.contains (16 * e + d) then
          countSource 7 e 1 1 { s with leg := { s.leg with
            routeCounts := Tab.upd s.leg.routeCounts e (0, 0) (fun v => (v.1, v.2 + 1)) } }
        else
          let latest := bit (byteAt c 1) 1
          toChannel (48 + d) { x with frame := f, kind := (if latest then 2 else 1), owner := e } (bit (byteAt c 1) 2) s) s
  | .toEth i c x =>
    if mapFormat c = 2 then
      if dest ≠ 0xFE ∨ 2048 < fieldLe out 2 2 then countHandler n s
      else toGw (mapChannel c) c x.stamp (f.data ++ List.replicate (60 - f.data.length) 0) s
    else if dest ≠ mapChannel c ∨ 2048 < fieldLe out 2 2 then countHandler n s
    else
      match acfMessage c f x.stamp with
      | some m => addMessage i (mapChannel c) c m x.stamp s
      | none => countCh (mapChannel c) 10 1 s
  | .fromMsg c _ x =>
    if dest ≠ mapChannel c then countHandler n s
    else toChannel dest { x with frame := f } (bit (mapFlags c) 3) s
  | .fromEth c _ _ stamp since =>
    if dest ≠ mapChannel c then countHandler n s
    else toChannel dest { frame := f, stamp := stamp, since := since, maxAge := mapAge c, owner := 0 } (bit (mapFlags c) 3) s

/-- A job may begin: one toward a CAN channel whose places for frames from GW are full waits, unless the channel sleeps or
is down. -/
def jobReady (s : State) (j : SeamJob) : Bool :=
  match j with
  | .fromMsg c _ _ => channelTakes s (mapChannel c)
  | .fromEth c _ _ _ _ => channelTakes s (mapChannel c)
  | _ => true

/-- A job begins on an engine: the built-in translation or copy at once, or its handler with its buffers (R255). -/
def beginJob (n : Nat) (j : SeamJob) (s : State) : State :=
  let ((inp, out), s) := jobBuffers j s
  if jobHandler j = 0xFFFF then sendOutput n j out s
  else
    let b := liveBytes s 0x000B
    let (fill, s) := drawBytes (bufferSize - inp.length) s
    updEngine n (fun e => { e with run := some {
        job := j, handler := jobHandler j, pc := 0, code := handlerCode b (jobHandler j), consts := handlerConsts b
        input := inp ++ fill, output := fit bufferSize (out ++ fill), regs := [] } }) s

end Sys2Proof.Machine
end

