-- ==== Sys2Proof/Machine/Legacy.lean ====
section
/-!
DEFINITION. The events of the legacy buses: reception and transmission on CAN, LIN and FlexRay, errors and recovery, ages,
the frames from GW, LEG_CHANNEL_CTL, LEG_STATUS, and what an activation does to the channels.
-/
namespace Sys2Proof.Machine

/-! CAN (R141, R247–R250, R263, R268, R270, R275). -/

/-- The channel receives: its controller is on. -/
def chReceives (c : LegCh) : Bool := c.st == 1 || c.st == 2 || c.st == 4

/-- Legacy channels run: no episode of reach L0 to L3 holds the data path. -/
def legRuns (s : State) : Bool := forwarding s.sys.mode && !dataPathDown s

/-- A channel's store has room for a frame: 512 frames and 32 KiB of content for CAN, 64 frames for LIN (R268). -/
def storeRoom (ep : Nat) (c : LegCh) (n : Nat) : Bool :=
  if isCan ep then decide (c.store.length < 512) && decide (sumBy (fun x => x.frame.data.length) c.store + n ≤ 32768)
  else decide (c.store.length < 64)

/-- A frame that a DIR 0 mapping takes waits in its channel's store, from the local clock `at_` of its stamp; one that finds the store
full is lost (R258, R268, log 93). -/
def storeFrame (ep : Nat) (f : LegacyFrame) (at_ : Nat) (s : State) : State :=
  match mappingFor s ep f with
  | some (i, c) =>
    let h := chOf s ep
    if !storeRoom ep h f.data.length then s
    else setCh ep { h with store := h.store ++ [{
      frame := f, stamp := wValue s at_, since := at_, maxAge := mapAge c, owner := i }] } s
  | none => s

/-- A frame that a route entry takes waits for the engine (R263). -/
def routeFrameIn (ch : Nat) (f : LegacyFrame) (at_ : Nat) (s : State) : State :=
  match routeFor s ch f with
  | some (e, c) =>
    let h := chOf s (48 + ch)
    let s := setCh (48 + ch) { h with routes := h.routes ++ [{
      frame := f, stamp := wValue s at_, since := at_, maxAge := fieldLe c 20 2 * 1000, owner := e, kind := 1
      order := s.clk }] } s
    countSource 7 e 0 1 { s with leg := { s.leg with
      routeCounts := Tab.upd s.leg.routeCounts e (0, 0) (fun v => (v.1 + 1, v.2)) } }
  | none => s

/-- A frame received whole on a channel, stamped at local clock `at_`: its checks, then the route and the mapping that take it;
without an engine it is discarded before either (R141, R264, R272). -/
def received (ep : Nat) (f : LegacyFrame) (at_ : Nat) (s : State) : State :=
  let s := noteTraffic ep (countCh ep 0 1 s)
  let (s, ok) := if isCan ep then canAdmit (ep - 48) 0 f.id f.ext s else (s, true)
  if !ok then s
  else if (chOf s ep).engine.isNone then countCh ep 11 1 s
  else
    let s := if isCan ep then routeFrameIn (ep - 48) f at_ s else s
    storeFrame ep f at_ s

/-- A CAN channel counts an error as ISO 11898-1 says of a transmitter, whose TEC rises by 8, or a receiver, whose REC rises by 1; a
listening one counts none of these (R247, R248). -/
def canError (ep : Nat) (s : State) : State :=
  let c := chOf s ep
  let s := countCh ep 2 1 s
  if listenOnly s ep then s
  else if c.onBus.isSome then setCh ep { chOf s ep with tec := Nat.min 255 (c.tec + 8) } s
  else setCh ep { chOf s ep with recv := Nat.min 255 (c.recv + 1) } s

/-- A CAN channel acknowledges a frame it received without error, and its REC falls: by 1, or from above 127 to a value of 119 to 127
that ISO 11898-1 leaves open; a listening channel does neither (R247, R248). -/
def canGood (ep : Nat) (s : State) : State :=
  if listenOnly s ep then s
  else
    let s := emit (.canAck ep) s
    let c := chOf s ep
    if 127 < c.recv then
      let (n, s) := drawNat s
      setCh ep { c with recv := 119 + n % 9 } s
    else setCh ep { c with recv := c.recv - 1 } s

/-- Meaning of CAN_FRAME_RX: a frame ends on the bus, so a frame that contended for it goes back among those that wait and
the lowest identifier enters arbitration next.  A frame that failed, or whose format is beyond the channel's MODE, is an error; any
other is acknowledged before its checks (R141, R247, R275). -/
def execCanFrameRx (ch : Fin 16) (x : CanRx) (s : State) : Host.Outcome State Fault Refusal :=
  .next (
    let ep := 48 + ch.val
    if !legRuns s ∨ !chReceives (chOf s ep) then s
    else if x.failed ∨ canMode s ep < fmtMode x.frame.fmt ∨ !canLenOk x.frame.fmt x.frame.data.length then
      arbitrate ep (releaseBus ep (canError ep s))
    else
      let s := canGood ep (releaseBus ep s)
      arbitrate ep (received ep x.frame (s.clk - x.ago) (setCh ep { chOf s ep with rateKept := true } s)))

/-- Meaning of CAN_TX_DONE: the frame on the bus was sent; the next enters arbitration, a channel that LEG_CHANNEL_CTL
stopped is off from here on, and one whose block changed restarts (R246, R250, R274, R276). -/
def execCanTxDone (ch : Fin 16) (s : State) : Host.Outcome State Fault Refusal :=
  .next (
    let ep := 48 + ch.val
    match (chOf s ep).onBus with
    | some x =>
      let c := chOf s ep
      let s := driveFrame ep x.frame (setCh ep { c with onBus := none, tec := c.tec - 1 } s)
      if c.restart then segProgress ep (restartChannel ep s)
      else
        let s := if c.st = 6 then setStb ep true s else s
        segProgress ep (arbitrate ep s)
    | none => s)

/-- Meaning of LEG_ERROR_PASSIVE: a CAN channel becomes error passive and keeps operating (R270). -/
def execLegErrorPassive (ch : Fin 16) (tec recv : Nat) (s : State) : Host.Outcome State Fault Refusal :=
  .next (
    let ep := 48 + ch.val
    let c := chOf s ep
    if c.st = 1 then
      record 0x0701 [BitVec.ofNat 8 ep] (setCh ep { c with st := 2, tec := tec, recv := recv } s)
    else s)

/-- Bus-off of a CAN channel, or what R271 treats as it: the record, the count, the discards, that of the frame on the bus with them,
which holds its place (R250), and recovery where AUTO_RECOVER begins it. -/
def busOff (ep ty : Nat) (s : State) : State :=
  let s := channelDown ep 3 (countCh ep 3 1 (record ty [BitVec.ofNat 8 ep] s))
  let c := chOf s ep
  let s := countCh ep 7 (b2n c.onBus.isSome) (setCh ep { c with onBus := none, recovering := autoRecover s ep } s)
  if c.restart then restartChannel ep s else s

/-- Meaning of LEG_BUS_OFF (R270). -/
def execLegBusOff (ch : Fin 16) (s : State) : Host.Outcome State Fault Refusal :=
  .next (if chTransmits (chOf s (48 + ch.val)) then busOff (48 + ch.val) 0x0702 s else s)

/-- A return to error active (R270). -/
def recoverCh (ep : Nat) (s : State) : State :=
  let s := setCh ep { chOf s ep with st := 1, recovering := false } s
  arbitrate ep (record 0x0703 [BitVec.ofNat 8 ep] s)

/-- Meaning of LEG_RECOVER: a CAN channel returns to error active, from bus-off with its error counters at 0, or from
error passive with counters below 128; a free number stands for one that the rows since have not brought there. -/
def execLegRecover (ch : Fin 16) (s : State) : Host.Outcome State Fault Refusal :=
  .next (
    let ep := 48 + ch.val
    let c := chOf s ep
    if c.st = 3 ∧ c.recovering then recoverCh ep (setCh ep { c with tec := 0, recv := 0 } s)
    else if c.st = 2 then
      let (a, s) := drawNat s
      let (b, s) := drawNat s
      recoverCh ep (setCh ep { c with
        tec := if c.tec < 128 then c.tec else a % 128, recv := if c.recv < 128 then c.recv else b % 128 } s)
    else s)

/-- Meaning of CAN_RATE_SEARCH: in AUTONOMOUS a trial of 100 ms ends without a good frame and the next rate is tried
(R275). -/
def execCanRateSearch (ch : Fin 16) (s : State) : Host.Outcome State Fault Refusal :=
  .next (
    let ep := 48 + ch.val
    let c := chOf s ep
    if legAuto s ∧ c.st = 4 ∧ !c.rateKept then
      let s := reachClock (c.trialAt + 100000000) s
      setCh ep { c with trials := c.trials + 1, trialAt := s.clk } s
    else s)

/-! LIN (R251, R271). -/

/-- A LIN or FlexRay channel that recovers is active again once the bus works (R270, R271). -/
def busWorks (ep : Nat) (s : State) : State :=
  let c := chOf s ep
  if c.st = 3 ∧ c.recovering then recoverCh ep s else s

/-- The response of a published LIN frame: its buffer, or INIT before the first value is written (Table 9.7). -/
def linValue (s : State) (ep e : Nat) : Bytes :=
  let b := legSec s
  Tab.get (chOf s ep).values (byteAt b e) (slice b (e + 8) (byteAt b (e + 1)))

/-- ENHANCED of a LIN frame entry (Table 9.7). -/
def linEnhanced (s : State) (e : Nat) : Bool := bit (byteAt (legSec s) (e + 2)) 0

/-- A LIN frame. -/
def linFrame (id : Nat) (data : Bytes) : LegacyFrame :=
  { fmt := 4, ext := false, rtr := false, esi := false, id := id, chA := false, chB := false, cycle := 0, sdt := 0, vcid := 0, data := data }

/-- The response of a published frame goes out, its checksum last (R251). -/
def linRespond (ep id e : Nat) (s : State) : State :=
  let v := linValue s ep e
  noteTraffic ep (countCh ep 1 1 (emit (.legacy ep (ofLe (legHeader ep (linFrame id v))) (v ++ [linChecksum (linEnhanced s e) id v])) s))

/-- A LIN header with an identifier is on the bus: the device answers what it publishes and awaits what it subscribes to. -/
def linHeader (ep id : Nat) (s : State) : State :=
  match linEntry s ep id with
  | some e =>
    if linDir s e = 1 then linRespond ep id e s
    else setCh ep { chOf s ep with awaiting := some id } s
  | none => if legAuto s then setCh ep { chOf s ep with awaiting := some id } s else s

/-- Schedule entry of a LIN master at its position (Table 9.8): identifier and slot time in ns. -/
def linSched (s : State) (ep i : Nat) : Nat × Nat :=
  let b := legSec s
  let o := 1920 + 16 * fieldLe b 4 2 + 8 * (fieldLe b (chOff ep + 12) 2 + i)
  (byteAt b o, fieldLe b (o + 4) 4 * 1000)

/-- SCHED_NUM of a LIN master. -/
def schedNum (s : State) (ep : Nat) : Nat := Nat.max 1 (fieldLe (legSec s) (chOff ep + 14) 2)

/-- Meaning of LIN_SLOT_START: a master's next slot begins with its header; a response still awaited did not come. -/
def execLinSlotStart (ch : Fin 8) (s : State) : Host.Outcome State Fault Refusal :=
  .next (
    let ep := 64 + ch.val
    if !legRuns s ∨ legAuto s ∨ !linMaster s ep then s
    else
      let s := busWorks ep s
      let c := chOf s ep
      if c.st ≠ 1 then s
      else
        let n := schedNum s ep
        let last := (linSched s ep ((c.slot + n - 1) % n)).2
        let s := if c.slotAt = 0 then s else reachClock (c.slotAt + last) s
        let s := if c.awaiting.isSome then countCh ep 2 1 s else s
        let c := chOf s ep
        let id := (linSched s ep c.slot).1
        linHeader ep id (emit (.linHeader ep id) (setCh ep { c with
          slot := (c.slot + 1) % n, slotAt := s.clk, awaiting := none, breakAt := s.clk } s)))

/-- Meaning of LIN_HEADER_RX: a slave hears a header, whose break began `ago` ns before (R251, R255). -/
def execLinHeaderRx (ch : Fin 8) (x : LinHeader) (s : State) : Host.Outcome State Fault Refusal :=
  .next (
    let ep := 64 + ch.val
    if !legRuns s ∨ linMaster s ep then s
    else
      let s := busWorks ep s
      let c := chOf s ep
      if c.st ≠ 1 then s
      else
        let s := if c.awaiting.isSome then countCh ep 2 1 s else s
        linHeader ep x.id.val (setCh ep { chOf s ep with awaiting := none, breakAt := s.clk - x.ago } s))

/-- A response is the frame's: its length and the checksum that its entry names; in AUTONOMOUS either checksum serves, since no entry
names one (R251, R275, log 141). -/
def linFits (s : State) (ep id : Nat) (d : Bytes) (sum : Byte) : Bool :=
  match linEntry s ep id with
  | some e => d.length == byteAt (legSec s) (e + 1) && sum == linChecksum (linEnhanced s e) id d
  | none => decide (1 ≤ d.length) && decide (d.length ≤ 8) && (sum == linChecksum false id d || sum == linChecksum true id d)

/-- Meaning of LIN_RESPONSE_RX: the response the device awaits is received whole, or fails and is counted; its stamp is the start of
the break (R251, R255). -/
def execLinResponseRx (ch : Fin 8) (id : Fin 64) (data : Option (Bytes × Byte)) (s : State) : Host.Outcome State Fault Refusal :=
  .next (
    let ep := 64 + ch.val
    let c := chOf s ep
    if c.awaiting ≠ some id.val ∨ c.st ≠ 1 then s
    else
      let s := setCh ep { c with awaiting := none } s
      match data with
      | some (d, sum) => if linFits s ep id.val d sum then received ep (linFrame id.val d) c.breakAt s else countCh ep 2 1 s
      | none => countCh ep 2 1 s)

/-- Meaning of LIN_BUS_STUCK: held dominant for 100 ms, the bus is treated as bus-off (R271). -/
def execLinBusStuck (ch : Fin 8) (s : State) : Host.Outcome State Fault Refusal :=
  .next (if (chOf s (64 + ch.val)).st = 1 then busOff (64 + ch.val) 0x0702 s else s)

/-! FlexRay (R252, R268, R271). -/

/-- A FlexRay frame of a TX buffer in a cycle. -/
def frFrame (s : State) (i cycle : Nat) (data : Bytes) : LegacyFrame :=
  let fl := frField s i 2 1
  { fmt := 5, ext := false, rtr := false, esi := false, id := frField s i 0 2, chA := bit fl 0, chB := bit fl 1, cycle := cycle
    sdt := 0, vcid := 0, data := data }

/-- The indicators of a frame sent in a slot: the buffer's PPI, a null frame, and in the key slot the sync and, for a coldstart node,
the startup indicator (R252, Tables 9.5, 9.6). -/
def frIndicators (s : State) (i : Nat) (empty : Bool) : Nat :=
  let b := legSec s
  let key := fieldLe b 852 2 != 0 && fieldLe b 852 2 == frField s i 0 2
  flagBit (bit (frField s i 2 1) 3 && !empty) 0 + flagBit empty 1 + flagBit (key && bit (byteAt b 854) 0) 2
    + flagBit (key && bit (byteAt b 854) 1 && byteAt b 832 == 2) 3

/-- A frame of TX buffer `i` goes out: its value, or a null frame before the first one. -/
def frDrive (cycle i : Nat) (s : State) : State :=
  let v := (chOf s 72).values.lookup i
  let data := v.getD (List.replicate (2 * frField s i 5 1) 0)
  noteTraffic 72 (countCh 72 1 1
    (emit (.flexray (frField s i 0 2) cycle (frField s i 2 1 % 4) (frIndicators s i v.isNone) data) s))

/-- TX buffer `i` in the cycle that begins: a static one always, a null frame before its first value; a dynamic one when it
was written since its last transmission. -/
def frSend (cycle i : Nat) (s : State) : State :=
  let c := chOf s 72
  if !bit (frField s i 2 1) 2 ∨ !frSelects s i cycle then s
  else if frDynamic s (frField s i 0 2) then
    if c.fresh.contains i then frDrive cycle i (setCh 72 { c with fresh := c.fresh.filter (· != i) } s) else s
  else frDrive cycle i s

/-- Meaning of FR_CYCLE_START: the cycle's start is stamped and its TX buffers are sent; a controller that integrated is
active from here on. -/
def execFrCycleStart (cycle : Fin 64) (s : State) : Host.Outcome State Fault Refusal :=
  .next (
    if !legRuns s ∨ !chConfigured s 72 then s
    else
      let s := busWorks 72 s
      let c := chOf s 72
      let s := if c.st = 2 ∧ c.recovering then setCh 72 { c with st := 1, recovering := false } s else s
      let s := { s with leg := { s.leg with frCycle := cycle.val, frCycleAt := s.clk } }
      if (chOf s 72).st = 1 then (frBufs s).foldl (fun s i => frSend cycle.val i s) s else s)

/-- Meaning of FR_FRAME_RX: a frame is received whole into its RX buffer's entry, which a newer one replaces; a syntax or content
error is counted (R268, R277). -/
def execFrFrameRx (slot : Nat) (cycle : Fin 64) (channel : Fin 2) (x : FrRx) (s : State) :
    Host.Outcome State Fault Refusal :=
  .next (
    if !legRuns s ∨ !chReceives (chOf s 72) then s
    else
      match x.data, (frBufs s).find? (fun i =>
          let fl := frField s i 2 1
          !bit fl 2 && bit fl channel.val && frField s i 0 2 == slot && frSelects s i cycle.val) with
      | none, _ => countCh 72 2 1 s
      | some _, none => s
      | some d, some i =>
        let f := { frFrame s i cycle.val d with chA := channel.val == 0, chB := channel.val == 1 }
        let s := noteTraffic 72 (countCh 72 0 1 s)
        if (chOf s 72).engine.isNone then countCh 72 11 1 s
        else
          match mappingFor s 72 f with
          | none => s
          | some (m, c) =>
            let s := if Tab.has s.leg.frRx i then countCh 72 5 1 s else s
            let at_ := s.clk - x.ago
            let last := s.leg.frRx.foldl (fun n (e : Nat × LegItem) => Nat.max n e.2.order) 0
            let e : LegItem := { frame := f, stamp := wValue s at_, since := at_, maxAge := mapAge c, owner := m, order := last + 1 }
            { s with leg := { s.leg with frRx := Tab.set s.leg.frRx i e } })

/-- Meaning of FR_POC_HALT: halt is treated as bus-off (R271). -/
def execFrPocHalt (s : State) : Host.Outcome State Fault Refusal :=
  .next (
    let c := chOf s 72
    if c.st = 1 ∨ c.st = 2 then
      let s := busOff 72 0x0704 s
      setCh 72 { chOf s 72 with recovering := false } s
    else s)

/-- Meaning of FR_HALT_RESTART: with AUTO_RECOVER, integration restarts 100 ms after halt (R271). -/
def execFrHaltRestart (s : State) : Host.Outcome State Fault Refusal :=
  .next (
    let c := chOf s 72
    if c.st = 3 ∧ autoRecover s 72 ∧ !c.recovering then
      let s := reachClock (c.downAt + 100000000) s
      setCh 72 { c with recovering := true } s
    else s)

/-! Ages, bundles and frames from GW (R259, R260, R269). -/

/-- Meaning of LEGACY_AGE_EXPIRY: the item at a place, counted over the receive store and then the transmit places, has
waited longer than its MAX_AGE_US; FR counts over its RX buffers' entries. -/
def execLegacyAgeExpiry (ch : Fin 25) (index : Nat) (s : State) : Host.Outcome State Fault Refusal :=
  .next (
    let ep := 48 + ch.val
    let c := chOf s ep
    if isFr ep then
      match s.leg.frRx[index]? with
      | some (i, x) =>
        let s := reachClock (x.since + x.maxAge) s
        countCh ep 4 1 { s with leg := { s.leg with frRx := Tab.del s.leg.frRx i } }
      | none => s
    else
      match (c.store ++ c.tx)[index]? with
      | some x =>
        let s := reachClock (x.since + x.maxAge) s
        let c := if index < c.store.length then { c with store := c.store.eraseIdx index }
          else { c with tx := c.tx.eraseIdx (index - c.store.length) }
        segProgress ep (countCh ep 4 1 (setCh ep c s))
      | none => s)

/-- Meaning of BUNDLE_TIMEOUT: BUNDLE_US has passed since a bundle's first message; while GW is held the frame waits
(R164, R259). -/
def execBundleTimeout (mapping : Nat) (s : State) : Host.Outcome State Fault Refusal :=
  .next (
    let b := Tab.get s.leg.bundles mapping {}
    if b.messages.isEmpty ∨ gwHeld s (mapClass b.cfg) then s
    else flushBundle mapping (reachClock (b.firstAt + fieldLe b.cfg 34 2 * 1000) s))

/-- Meaning of GW_FRAME_TO_SEAM: the frame that GW sends is delivered to the engine of each of its channels; it waits while
a channel's places for frames from GW are full (R260, R265). -/
def execGwFrameToSeam (frame : Nat) (s : State) : Host.Outcome State Fault Refusal :=
  .next (
    match (egress s 30).sending, frameOf s frame with
    | some x, some f =>
      let eps := frameChannels f
      if x.frame ≠ frame ∨ !f.ended ∨ !eps.all (channelTakes s) then s
      else
        let bad := f.oversize || (match destAt f 30 with
          | some d => d.spoil
          | none => false)
        let c := editedBytes s 30 f
        let s := finishSending 30 s
        if bad then s
        else
          let down := eps.filter (fun ep => (chOf s ep).engine.isNone)
          let s := down.foldl (fun s ep => countCh ep 7 1 s) s
          (List.range 4).foldl (fun s n =>
            let m := sumBy (fun ep => if (chOf s ep).engine = some n then 2 ^ (ep - 48) else 0) eps
            if m = 0 then s
            else updEngine n (fun e => { e with
              gwIn := e.gwIn ++ [{ content := c, mask := m, stamp := wNow s, since := s.clk, src := f.srcEp }] }) s) s
    | _, _ => s)

/-! Engines (R254, R272). -/

/-- The route event an engine serves next: the earliest reference instant, ties to the lower channel. -/
def nextRoute (s : State) (n : Nat) : Option (Nat × LegItem) :=
  (List.range 16).foldl (fun best ch =>
    let c := chOf s (48 + ch)
    if c.engine ≠ some n then best
    else
      match c.routes, best with
      | x :: _, some (b, y) => if x.order < y.order then some (ch, x) else some (b, y)
      | x :: _, none => some (ch, x)
      | [], _ => best) none

/-- The first frame of a channel's store whose class is not held, under the mapping now in force (R268, R274), with its
place. -/
def storeNext (s : State) (ep : Nat) : Option (Nat × LegItem) :=
  let items := if isFr ep then s.leg.frRx else (chOf s ep).store.zipIdx.map (fun x => (x.2, x.1))
  items.foldl (fun best (e : Nat × LegItem) =>
    if (match mappingFor s ep e.2.frame with
      | some m => gwHeld s (mapClass m.2)
      | none => false) then best
    else
      match best with
      | some b => if isFr ep ∧ e.2.order < b.2.order then some e else some b
      | none => some e) none

/-- Frames past their age leave the receive stores of an engine's channels, counted as STALE, before it serves one (R269). -/
def dropStaleStores (n : Nat) (s : State) : State :=
  ((List.range 25).map (48 + ·)).foldl (fun s ep =>
    let c := chOf s ep
    if c.engine ≠ some n then s
    else if isFr ep then
      let old := s.leg.frRx.filter (fun e => overAge s e.2)
      if old.isEmpty then s
      else countCh ep 4 old.length { s with leg := { s.leg with frRx := s.leg.frRx.filter (fun e => !overAge s e.2) } }
    else
      let old := c.store.filter (overAge s)
      if old.isEmpty then s else countCh ep 4 old.length (setCh ep { c with store := c.store.filter (fun x => !overAge s x) } s)) s

/-- The slot after `last` of the round robin that has an event: 0–24 the channels, 25 the GW input, from which nothing is taken
while jobs of its last frame wait for a channel's places (R254, R265). -/
def nextSlot (s : State) (n : Nat) : Option Nat :=
  let e := engineOf s n
  ((List.range 26).map (fun i => (e.last + 1 + i) % 26)).find? (fun k =>
    if k = 25 then !e.gwIn.isEmpty && e.jobs.isEmpty else (chOf s (48 + k)).engine == some n && (storeNext s (48 + k)).isSome)

/-- A frame leaves its store. -/
def takeStored (ep place : Nat) (s : State) : State :=
  if isFr ep then { s with leg := { s.leg with frRx := Tab.del s.leg.frRx place } }
  else setCh ep { chOf s ep with store := (chOf s ep).store.eraseIdx place } s

/-- An event's jobs are queued on its engine ahead of what waits there, and the first begins. -/
def serve (n : Nat) (jobs : List SeamJob) (s : State) : State :=
  let s := updEngine n (fun e => { e with served := e.served + 1 }) s
  match jobs with
  | [] => s
  | j :: rest =>
    if jobReady s j then beginJob n j (updEngine n (fun e => { e with jobs := rest ++ e.jobs }) s)
    else updEngine n (fun e => { e with jobs := j :: rest ++ e.jobs }) s

/-- The jobs of a frame from GW, for each of its channels in turn; what nothing takes is counted (R260). -/
def gwEvent (n : Nat) (g : GwItem) (s : State) : State :=
  let eps := ((List.range 25).filter (bit g.mask)).map (48 + ·)
  let s := eps.foldl (fun s ep => countCh ep 9 (gwJobs s ep g).2 s) s
  serve n (eps.flatMap (fun ep => (gwJobs s ep g).1)) s

/-- The earliest route event, else the next translation event or frame from GW, is served (R254). -/
def serveNext (n : Nat) (s : State) : State :=
  match nextRoute s n with
  | some (ch, x) =>
    let c := chOf s (48 + ch)
    let s := setCh (48 + ch) { c with routes := c.routes.drop 1 } s
    serve n (match routeFor s ch x.frame with
      | some (e, c) => [.route e c x]
      | none => []) s
  | none =>
    let s := dropStaleStores n s
    match nextSlot s n with
    | none => s
    | some k =>
      let s := updEngine n (fun e => { e with last := k }) s
      if k = 25 then
        match (engineOf s n).gwIn with
        | g :: rest => gwEvent n g (updEngine n (fun e => { e with gwIn := rest }) s)
        | [] => s
      else
        match storeNext s (48 + k) with
        | some (place, x) =>
          serve n (match mappingFor s (48 + k) x.frame with
            | some (i, c) => [.toEth i c x]
            | none => []) (takeStored (48 + k) place s)
        | none => s

/-- Meaning of SEAM_EVENT_SERVE: an idle engine goes on with the event in service where its channel has room, else serves the
next event (R254, R265). -/
def execSeamEventServe (engine : Fin 4) (s : State) : Host.Outcome State Fault Refusal :=
  .next (
    let n := engine.val
    let e := engineOf s n
    if e.stopped ∨ e.run.isSome ∨ !legRuns s then s
    else
      match e.jobs with
      | j :: rest => if jobReady s j then beginJob n j (updEngine n (fun e => { e with jobs := rest }) s) else serveNext n s
      | [] => serveNext n s)

/-- Meaning of LEG_ENGINE_FAULT: the engine stops, the event in execution is lost, and its channels move to their fallback; what
waits for the engine of one without a fallback is discarded and counted (R272). -/
def execLegEngineFault (engine : Fin 4) (s : State) : Host.Outcome State Fault Refusal :=
  .next (
    let n := engine.val
    let e := engineOf s n
    if e.stopped then s
    else
      let busy := e.run.isSome || !e.jobs.isEmpty
      let s := record 0x0705 [BitVec.ofNat 8 n] (updEngine n (fun e => { e with
        stopped := true, run := none, jobs := [], gwIn := [], lost := if busy then e.lost + 1 else e.lost }) s)
      let mine := ((List.range 25).map (48 + ·)).filter (fun ep => (chOf s ep).engine == some n)
      let s := mine.foldl (fun s ep =>
        let f := chFallback s ep
        let ok := decide (f < 4) && !(engineOf s f).stopped
        let waiting := sumBy (fun (g : GwItem) => b2n (bit g.mask (ep - 48))) e.gwIn
        let s := if ok then s else countCh ep 11 (chOf s ep).routes.length (countCh ep 7 waiting s)
        setCh ep { chOf s ep with engine := if ok then some f else none
                                  routes := if ok then (chOf s ep).routes else [] } s) s
      e.gwIn.foldl (fun s (g : GwItem) =>
        (List.range 4).foldl (fun s m =>
          let mask := sumBy (fun ep => if bit g.mask (ep - 48) ∧ (chOf s ep).engine = some m then 2 ^ (ep - 48) else 0) mine
          if mask = 0 then s else updEngine m (fun x => { x with gwIn := x.gwIn ++ [{ g with mask := mask }] }) s) s) s)

/-! LEG_CHANNEL_CTL (R276). -/

/-- The action's write to the controller. -/
def channelCtl (r : Req) (s : State) : State :=
  let ep := byteAt r.payload 0
  let c := chOf s ep
  match byteAt r.payload 1 with
  | 0 => if c.st = 3 then setCh ep { c with recovering := true } s else s
  | 1 =>
    if c.st = 0 ∨ c.st = 6 then s
    else
      let s := channelDown ep 6 s
      if c.onBus.isNone then setStb ep true s else s
  | _ => if c.st = 6 then startChannel ep s else s

/-- LEG_CHANNEL_CTL. -/
def legChannelCtlOp : OpDef :=
  { code := 0x0702
    wrongMode := fun r s => r.payload.length == 4 && channelAsleep s (byteAt r.payload 0)
    params := fun r s =>
      let ep := byteAt r.payload 0
      if r.payload.length ≠ 4 ∨ !allZero (r.payload.drop 2) ∨ ep < 48 ∨ 72 < ep ∨ !chConfigured s ep ∨ 2 < byteAt r.payload 1
      then some 0 else none
    commit := fun r s => answer r stOk 0 [] (channelCtl r s) }

/-- The controller that a LEG_CHANNEL_CTL names is held in reset (R357). -/
def channelCtlHeld (s : State) (p : Packet) : Bool :=
  blockHeld 1 (byteAt (if isAtTime p then p.payload.drop 12 else p.payload) 0) s

/-- Meaning of LEG_CHANNEL_CTL (R276); it waits while its controller is held in reset (R357). -/
def execLegChannelCtl (c : CmdSource) (s : State) : Host.Outcome State Fault Refusal :=
  .next (runUnlessHeld (channelCtlHeld s) legChannelCtlOp c s)

/-! LEG_STATUS (R277). -/

/-- Nominal rate of a channel in bit/s (R249, Tables 9.4, 9.5). -/
def nominalRate (s : State) (ep : Nat) : Nat :=
  let b := legSec s
  let o := chOff ep
  if isCan ep then
    (if legAuto s then searchRate (chOf s ep).trials
     else
       let d := byteAt b (o + 4) * (1 + fieldLe b (o + 6) 2 + byteAt b (o + 5))
       if d = 0 then 0 else 80000000 / d)
  else if isLin ep then (if legAuto s then 0 else fieldLe b (o + 4) 4)
  else if chConfigured s ep then 10000000 / 2 ^ byteAt b (o + 1) else 0

/-- The 96-byte channel result (Table 9.15). -/
def channelStatus (ep rate : Nat) (s : State) : Bytes :=
  let c := chOf s ep
  let n := fun (k : Nat) => leBytes 8 (Tab.get c.counts k 0).toNat
  let sum := fun (k j : Nat) => leBytes 8 (Tab.get c.counts k 0 + Tab.get c.counts j 0).toNat
  [BitVec.ofNat 8 c.st, BitVec.ofNat 8 c.tec, BitVec.ofNat 8 c.recv, BitVec.ofNat 8 (c.engine.getD 0xFF)] ++ leBytes 4 rate
    ++ n 0 ++ n 1 ++ n 2 ++ n 3 ++ n 4 ++ n 5 ++ n 6 ++ n 7 ++ sum 8 9 ++ sum 10 11 ++ List.replicate 8 0

/-- The 260-byte engine result (Table 9.16). -/
def engineStatus (s : State) : Bytes :=
  (List.range 4).map (fun n => BitVec.ofNat 8 (b2n (engineOf s n).stopped))
    ++ (List.range 4).flatMap (fun n =>
      let e := engineOf s n
      leBytes 8 e.served.toNat ++ leBytes 8 e.toGw.toNat ++ leBytes 8 e.dropFault.toNat ++ leBytes 8 e.lost.toNat
        ++ (List.range 4).flatMap (fun k => leBytes 8 (Tab.get e.launch k 0).toNat))

/-- LEG_STATUS.  The rate a LIN channel takes from the sync fields in AUTONOMOUS is the next free number's. -/
def legStatusOp : OpDef :=
  { code := 0x0701
    params := fun r _ =>
      let x := byteAt r.payload 0
      if r.payload.length ≠ 1 ∨ ((x < 48 ∨ 72 < x) ∧ x ≠ 0xFF) then some 0 else none
    commit := fun r s =>
      let x := byteAt r.payload 0
      if x = 0xFF then answer r stOk 0 (engineStatus s) s
      else if isLin x ∧ legAuto s then
        let (n, s) := drawNat s
        answer r stOk 0 (channelStatus x n s) s
      else answer r stOk 0 (channelStatus x (nominalRate s x) s) s }

/-- Meaning of LEG_STATUS (R277). -/
def execLegStatus (c : CmdSource) (s : State) : Host.Outcome State Fault Refusal := .next (runCommand legStatusOp c s)

/-! Activation (R274). -/

/-- A channel meets its new block: unchanged, it runs on; changed, it finishes the frame on its bus, discards its queue and
buffers, and restarts. -/
def activateChannel (old : Option Bytes) (ep : Nat) (s : State) : State :=
  let new := chSection s
  if chBlock old ep = chBlock new ep ∧ chPresent old ep = chPresent new ep ∧ old.isSome = new.isSome then s
  else
    let s := discardTx ep 7 s
    if (chOf s ep).onBus.isSome then setCh ep { chOf s ep with restart := true } s else restartChannel ep s

/-- Bundles meet the new mappings: an unchanged mapping keeps its messages and sequence number; messages of any other leave
first, and it starts at 0 (R274, log 23). -/
def activateBundles (s : State) : State :=
  let new := mappings s
  let kept := fun (c : Bytes) => (new.find? (fun m => m.2 == c)).map (fun m => m.1)
  let s := s.leg.bundles.foldl (fun s (e : Nat × Bundle) => if (kept e.2.cfg).isNone then flushBundle e.1 s else s) s
  { s with leg := { s.leg with
      bundles := (s.leg.bundles.filterMap (fun (e : Nat × Bundle) => (kept e.2.cfg).map (fun i => (i, e.2)))).foldl
        (fun t e => Tab.set t e.1 e.2) [] } }

/-- The legacy side of an activation; `old` is the channel section before it. -/
def activateLegacy (old : Option Bytes) (s : State) : State :=
  activateBundles ((List.range 25).foldl (fun s i => activateChannel old (48 + i) s) s)

end Sys2Proof.Machine
end

