-- ==== Sys2Proof/Machine/Counters.lean ====
section
/-!
DEFINITION. Counter units and snapshots: source defaults, CNT_SELECT, CNT_SNAPSHOT_AT and the snapshot banks (chapter
Counters and event recorder, R425–R435).
-/
namespace Sys2Proof.Machine

/-! Counter sources (Table 16.4). -/

/-- Number of events of a KIND and OBJECT, where the pair is defined at all by Table 16.4. -/
def sourceEvents (kind obj : Nat) : Nat :=
  match kind with
  | 1 => if obj ≤ 30 then 31 else 0
  | 2 => if obj < 248 then 9 else 0
  | 3 => if obj < 4096 then 8 else 0
  | 4 => if obj < 2048 then 9 else 0
  | 5 => if obj < 256 then 1 else if obj = 0xFFFF then 5 else 0
  | 6 => if 48 ≤ obj ∧ obj ≤ 72 then 13 else 0
  | 7 => if obj < 8192 then 2 else 0
  | 8 => if obj < 8 ∨ obj = 0xFFFF then 17 else 0
  | 9 => if obj = 0 then 7 else 0
  | _ => 0

/-- The SOURCE is no source, or is not reserved (Table 16.4). -/
def sourceKnown (w : Nat) : Bool :=
  let kind := bits w 24 8
  let obj := bits w 8 16
  let ev := bits w 0 8
  w == 0 || (decide (ev < sourceEvents kind obj) && !(kind == 5 && obj == 0xFFFF && ev == 0))

/-- A section table of an image, as a look-up by SECTION_ID. -/
abbrev Secs := Nat → Option Bytes

/-- A legacy endpoint is configured in section 0x000D (Table 9.2); all are without an image. -/
def channelConfigured (sec : Option Bytes) (ep : Nat) : Bool :=
  match sec with
  | some b =>
    if ep < 64 then bit (fieldLe b 0 2) (ep - 48) else if ep < 72 then bit (byteAt b 2) (ep - 64) else byteAt b 3 == 1
  | none => false

/-- A stream handle is defined in section 0x0007 (R211): a filter exists for it. -/
def handleDefined (sec : Option Bytes) (h : Nat) : Bool :=
  match sec with
  | some b => decide (h < filterCount b)
  | none => false

/-- The OBJECT of a source is one the image defines (R428). -/
def sourceDefined (secs : Secs) (w : Nat) : Bool :=
  let obj := bits w 8 16
  match bits w 24 8 with
  | 3 => handleDefined (secs 0x0007) obj
  | 4 => decide (obj < fieldLe ((secs 0x0008).getD []) 0 2)
  | 6 => channelConfigured (secs 0x000D) obj
  | 7 => decide (obj < fieldLe ((secs 0x000C).getD []) 0 2)
  | _ => true

/-- The SOURCE may be configured under the tables in force; every legacy channel stands in AUTONOMOUS. -/
def sourceOk (s : State) (w : Nat) : Bool :=
  sourceKnown w && (sourceDefined (liveSection s) w || (s.img.live.isNone && bits w 24 8 == 6))

/-- Configuration `n` of section 0x0011. -/
def defaultConf (sec : Option Bytes) (n : Nat) : Nat × Nat :=
  match sec with
  | some b => (fieldLe b (64 + 8 * n) 4, byteAt b (64 + 8 * n + 4))
  | none => (0, 0)

/-- Unit counter `n`. -/
def counter (s : State) (n : Nat) : Counter := Tab.get s.cnt.units n {}

/-- Replaces unit counter `n`. -/
def setCounter (n : Nat) (c : Counter) (s : State) : State :=
  { s with cnt := { s.cnt with units := Tab.set s.cnt.units n c } }

/-- The defaults of a section 0x0011 come into force: a counter whose default changes loses its override, value and flags,
and CHANGED is set (R429). -/
def applyDefaults (sec : Option Bytes) (s : State) : State :=
  let s := (List.range 384).foldl (fun s n =>
    let d := defaultConf sec n
    if (counter s n).dflt = d then s else setCounter n { dflt := d, changed := true } s) s
  { s with cnt := { s.cnt with autoPeriod := fieldLe (sec.getD []) 0 2 } }

/-- The counters at an activation: the defaults of its image come into force, and a counter whose object the image does not
define counts nothing until it is configured again (R429). -/
def activateCounters (sec : Option Bytes) (s : State) : State :=
  let s := applyDefaults sec s
  if s.img.live.isNone then s
  else
    { s with cnt := { s.cnt with
        units := s.cnt.units.map (fun e => (e.1, { e.2 with void := e.2.void || !sourceOk s (counterConf e.2).1 })) } }

/-! CNT_SELECT (R430). -/

/-- A configuration applies to a counter as SET applies it (R430). -/
def configure (c : Counter) (override : Option (Nat × Nat)) : Counter :=
  let c' := { c with override := override }
  if counterConf c' = counterConf c then { c' with void := false } else { dflt := c.dflt, override := override, changed := true }

/-- One action of CNT_SELECT on one counter (R430). -/
def selectAction (action : Nat) (conf : Nat × Nat) (c : Counter) : Counter :=
  match action with
  | 0 => configure c (some conf)
  | 1 => { dflt := c.dflt, override := c.override, void := c.void }
  | 2 => { c with ovf := false, sat := false, changed := false }
  | _ => configure c none

/-- The counters a CNT_SELECT names. -/
def selectedCounters (r : Req) : List Nat :=
  let u := 16 * byteAt r.payload 0
  if byteAt r.payload 1 = 0xFF then (List.range 16).map (u + ·) else [u + byteAt r.payload 1]

/-- The write of the action in one REF clock period (R430). -/
def selectCounters (r : Req) (s : State) : State :=
  let conf := (fieldLe r.payload 8 4, byteAt r.payload 12)
  (selectedCounters r).foldl (fun s n => setCounter n (selectAction (byteAt r.payload 2) conf (counter s n)) s) s

/-- The parameters of a CNT_SELECT (R430). -/
def selectBad (r : Req) (s : State) : Bool :=
  let c := byteAt r.payload 1
  let a := byteAt r.payload 2
  r.payload.length != 16 || decide (23 < byteAt r.payload 0) || (decide (15 < c) && c != 0xFF) || decide (3 < a)
    || !allZero (slice r.payload 3 5)
    || (if a = 0 then !sourceOk s (fieldLe r.payload 8 4) || decide (2 < byteAt r.payload 12) || !allZero (slice r.payload 13 3)
        else !allZero (slice r.payload 8 8))

/-- CNT_SELECT: relayed in a pair (R391, R430). -/
def cntSelectOp : OpDef :=
  { code := 0x0E02
    wrongMode := fun _ s => isStandby s
    params := fun r s => if selectBad r s then some 0 else none
    commit := relayOrRun (fun r s => answer r stOk 0 [] (selectCounters r s))
    effect := fun r s => answer r stOk 0 [] (selectCounters r s) }

/-- Meaning of CNT_SELECT (R430). -/
def execCntSelect (c : CmdSource) (s : State) : Host.Outcome State Fault Refusal := .next (runCommand cntSelectOp c s)

/-! Snapshot banks (Table 16.5). -/

/-- The counter word of a counter (Table 16.2). -/
def counterWord (c : Counter) : Nat :=
  flagBit ((counterConf c).1 != 0) 63 + flagBit c.ovf 62 + flagBit c.sat 61 + flagBit c.changed 60 + c.value % 2 ^ 48

/-- A configuration in the 8 bytes of Table 16.3. -/
def confBytes (x : Nat × Nat) : Bytes := leBytes 4 x.1 ++ [BitVec.ofNat 8 x.2, 0, 0, 0]

/-- Snapshot bank `b`. -/
def snapBank (s : State) (b : Nat) : SnapBank := Tab.get s.cnt.banks b {}

/-- Bytes 0x0000–0x3BFF of a bank (Table 16.5); every statistic slot of RP reads 0. -/
def bankBytes (b : SnapBank) : Bytes :=
  leBytes 4 b.seq ++ [BitVec.ofNat 8 b.state, BitVec.ofNat 8 b.trigger, 0, 0] ++ fit 12 b.w ++ fit 12 b.local_
    ++ leBytes 4 b.tag ++ List.replicate 28 0
    ++ ((List.range 384).map (fun n => leBytes 8 (counterWord (Tab.get b.counters n {})))).flatten
    ++ List.replicate (0x1000 - 0x40 - 3072) 0
    ++ ((List.range 1024).map (fun k => leBytes 8 (Tab.get b.stats k 0).toNat)).flatten
    ++ ((List.range 384).map (fun n => confBytes (counterConf (Tab.get b.counters n {})))).flatten

/-- Instants of snapshots that commands have armed or handed over. -/
def armedInstants (s : State) : List Int :=
  (s.cmd.inflight.filterMap (fun e => if e.opcode = 0x0E01 ∧ e.phase ≠ .replied then e.instant else none))
    ++ s.cnt.armed.map (·.instant)

/-- The period of automatic snapshots in 2^-60 ns; 0 where there are none (R435). -/
def autoPeriodVal (s : State) : Int := nsVal (s.cnt.autoPeriod * cycleNs s)

/-- An instant is automatic (R435). -/
def isAutoInstant (i : Int) (s : State) : Bool :=
  autoPeriodVal s != 0 && (i - nsVal (baseNs s)) % autoPeriodVal s == 0

/-- The instant lies within 100 us of an armed or automatic one without being equal to it (R434). -/
def tooNear (i : Int) (s : State) : Bool :=
  let lim := nsVal 100000
  let near := fun (j : Int) => j != i && decide (j - lim ≤ i) && decide (i ≤ j + lim)
  let p := autoPeriodVal s
  let m := (i - nsVal (baseNs s)) % p
  (armedInstants s).any near || (p != 0 && m != 0 && (decide (m ≤ lim) || decide (p - m ≤ lim)))

/-- DMA of a CNT_SNAPSHOT_AT. -/
def snapDma (payload : Bytes) : Bool := bit (byteAt payload 12) 0

/-- The parameters of a CNT_SNAPSHOT_AT (R434). -/
def snapParams (r : Req) (s : State) : Option Nat :=
  let p := r.payload
  if p.length ≠ 32 ∨ 1 < byteAt p 12 ∨ !allZero (slice p 13 3) ∨ !allZero (slice p 24 8)
      ∨ 1000000000 ≤ fieldLe p 6 4 ∨ fieldLe p 10 2 ≠ 0 then some 0
  else if tooNear (timeOf (slice p 0 12)) s then some 0x0E01
  else if snapDma p ∧ (2 < r.transport ∨ fieldLe p 16 8 % 64 ≠ 0) then some 0x0E02
  else none

/-- A snapshot is handed to the time-triggered unit; a command whose instant equals one already there joins it (R434). -/
def armSnapshot (r : Req) (s : State) : State :=
  let i := timeOf (slice r.payload 0 12)
  let armed := s.cnt.armed
  let armed := if armed.any (fun a => a.instant == i) then
      armed.map (fun a => if a.instant = i then { a with tags := a.tags ++ [r.tag] } else a)
    else armed ++ [{ instant := i, automatic := false, tags := [r.tag] }]
  { s with cnt := { s.cnt with armed := armed } }

/-- CNT_SNAPSHOT_AT: the hand-over is its commit point (R63, R434). -/
def cntSnapshotAtOp : OpDef :=
  { code := 0x0E01
    params := snapParams
    ownInstant := fun r => some (timeOf (slice r.payload 0 12))
    handOver := armSnapshot
    commit := fun _ s => s }

/-- Meaning of CNT_SNAPSHOT_AT (R434). -/
def execCntSnapshotAt (c : CmdSource) (s : State) : Host.Outcome State Fault Refusal := .next (runCommand cntSnapshotAtOp c s)

/-! Taking a snapshot (R431, R432, R435). -/

/-- The bank of a snapshot in writing. -/
def writingBank (s : State) : Nat := ((s.cnt.nextSeq + 2 ^ 32 - 1) % 2 ^ 32) % 2

/-- The reply and DMA of one command that a completed snapshot served; a discarded command writes nothing to its function
(R300, R434). -/
def snapReply (t : Word16) (s : State) : State :=
  match findTag s t with
  | none => s
  | some e =>
    let k := writingBank s
    let b := snapBank s k
    let p := e.packet.payload
    let s := if snapDma p ∧ !e.discard ∧ (tagTransport t = 1 ∨ tagTransport t = 2) then
        emit (.hostWrite (tagTransport t - 1) (fieldLe p 16 8) (bankBytes b)) s
      else s
    finalReply t stOk 0 (leBytes 4 b.seq ++ [BitVec.ofNat 8 k, 0, 0, 0] ++ fit 12 b.w ++ List.replicate 4 0) s

/-- Every word of the bank is written: STATE becomes 2 and source CNT raises; the replies follow once the cluster serves
(R432, R434). -/
def completeSnapshot (s : State) : State :=
  match s.cnt.writing with
  | none => s
  | some x =>
    let k := writingBank s
    let b := snapBank s k
    let s := if b.state = 2 then s
      else raiseInt 7 { s with cnt := { s.cnt with
        banks := Tab.set s.cnt.banks k { b with state := 2 }
        snapSeq := BitVec.ofNat 32 b.seq, snapAny := true, snapBank := k } }
    if !clusterServes s then s
    else
      let s := x.tags.foldl (fun s t => snapReply t s) s
      { s with cnt := { s.cnt with writing := none } }

/-- Meaning of SNAPSHOT_COMPLETE (R432). -/
def execSnapshotComplete (s : State) : Host.Outcome State Fault Refusal := .next (completeSnapshot s)

/-- All counters and statistics latch at the instant the clocks stand at, and the snapshot takes the next number (R431,
R432). -/
def latchSnapshot (x : Snapshot) (s : State) : State :=
  let s := { completeSnapshot s with cnt := { (completeSnapshot s).cnt with writing := none } }
  let seq := s.cnt.nextSeq % 2 ^ 32
  let b : SnapBank :=
    { seq := seq, state := 1, trigger := if x.automatic then (if x.tags = [] then 1 else 2) else 0
      w := timeBytes (wNow s), local_ := localBytes s, tag := (x.tags.headD 0).toNat
      counters := s.cnt.units, stats := s.cnt.stats }
  { s with cnt := { s.cnt with
      banks := Tab.set s.cnt.banks (seq % 2) b, nextSeq := (seq + 1) % 2 ^ 32, writing := some x
      armed := s.cnt.armed.filter (fun a => a.instant != x.instant) } }

/-- The index of the cycle an automatic instant begins. -/
def autoIndex (i : Int) (s : State) : Int := (i - nsVal (baseNs s)) / nsVal (cycleNs s)

/-- Meaning of SNAPSHOT_LATCH: the earliest snapshot handed over is taken at its instant, or at once where a step of W has
passed it; an automatic snapshot at the same instant is the same one (R431, R434, R435). -/
def execSnapshotLatch (s : State) : Host.Outcome State Fault Refusal :=
  .next (
    match s.cnt.armed with
    | [] => s
    | a :: rest =>
      let x := rest.foldl (fun m b => if b.instant < m.instant then b else m) a
      let auto := isAutoInstant x.instant s && decide (wNow s ≤ x.instant)
      let s := reachW x.instant s
      let s := if auto then { s with cnt := { s.cnt with lastAuto := some (autoIndex x.instant s) } } else s
      latchSnapshot { x with automatic := auto } s)

/-- Meaning of AUTO_SNAPSHOT: at the next cycle boundary whose index is a multiple of AUTO_PERIOD (R435). -/
def execAutoSnapshot (s : State) : Host.Outcome State Fault Refusal :=
  .next (
    let a := s.cnt.autoPeriod
    if a = 0 ∨ s.img.live.isNone then s
    else
      let i0 := boundaryFrom (wNow s) (baseNs s) (a * cycleNs s)
      let i := if s.cnt.lastAuto = some (autoIndex i0 s) then i0 + autoPeriodVal s else i0
      let s := reachW i s
      let tags := (s.cnt.armed.filter (fun x => x.instant == i)).flatMap (·.tags)
      latchSnapshot { instant := i, automatic := true, tags := tags }
        { s with cnt := { s.cnt with lastAuto := some (autoIndex i s) } })

end Sys2Proof.Machine
end

