-- ==== Sys2Proof/Machine/Sections.lean ====
section
/-!
DEFINITION. The internal checks of sections 0x0001 to 0x0009: what verification check 11 judges in the sections of the
lanes, the firewall, the switch core and the egress (R98, R108, R130, R142, R155, R162, R193, R211, R215).
-/
namespace Sys2Proof.Machine

/-- Every index below `n` satisfies `f`. -/
def allBelow (n : Nat) (f : Nat → Bool) : Bool := (List.range n).all f

/-- `lo ≤ v ≤ hi`. -/
def within (lo hi v : Nat) : Bool := decide (lo ≤ v) && decide (v ≤ hi)

/-- Bytes `off` to `off + n - 1` are zero. -/
def zeroAt (b : Bytes) (off n : Nat) : Bool := allZero (slice b off n)

/-- No two elements of a list satisfy `r`. -/
def noPair {α : Type} (r : α → α → Bool) : List α → Bool
  | [] => true
  | x :: xs => !xs.any (r x) && noPair r xs

/-- Each element stands in relation `r` to its successor. -/
def chained {α : Type} (r : α → α → Bool) : List α → Bool
  | [] => true
  | [_] => true
  | x :: y :: xs => r x y && chained r (y :: xs)

/-- Every byte of `b` outside the ranges (offset, length) is zero. -/
def zeroOutside (b : Bytes) (ranges : List (Nat × Nat)) : Bool :=
  allBelow b.length (fun k => byteAt b k == 0 || ranges.any (fun r => decide (r.1 ≤ k) && decide (k < r.1 + r.2)))

/-- Two ranges (offset, length) share a byte. -/
def rangesMeet (a b : Nat × Nat) : Bool := decide (a.1 < b.1 + b.2) && decide (b.1 < a.1 + a.2)

/-- What the internal checks read beside the section itself: the image's header and sections, the PAIR_ROLE strap of the
target, and which key slots carry the Dusk usage. -/
structure ImgView where
  header : Bytes
  secs : Secs
  secondary : Bool
  duskSlot : Nat → Bool

/-- A section of the image under judgement, empty where it is absent. -/
def ImgView.sec (v : ImgView) (id : Nat) : Bytes := (v.secs id).getD []

/-- CYCLE_NS of the image under judgement. -/
def ImgView.cycle (v : ImgView) : Nat := fieldLe v.header 32 4

/-! Lanes (R98, R108, R110). -/

/-- A node index below NODE_COUNT, or 0xFF. -/
def nodeOrEnd (count n : Nat) : Bool := n == 0xFF || decide (n < count)

/-- A parse node obeys Tables 4.3 and 4.4, R96 and R98. -/
def nodeOk (sec : Bytes) (profiles o : Nat) : Bool :=
  let b := slice sec o 32
  let f := byteAt b
  within 1 0x0F (f 0) && decide (f 1 < 8) && decide (f 2 ≤ 3) && decide (1 ≤ f 3)
    && (f 7 == 0 || f 7 == 8 || f 7 == 16) && decide (f 10 ≤ 64)
    && decide (fieldLe b 8 2 + f 10 ≤ fieldLe sec 2 2) && nodeOrEnd (fieldLe sec 0 2) (f 11)
    && decide (f 12 < profiles) && zeroAt b 13 3
    && allBelow 4 (fun i =>
      let g := 16 + 4 * i
      (f g == 0xFF || (decide (f g < 4) && within 1 4 (f (g + 2)))) && f (g + 3) == 0)
    && (f 0 != 4 || (f 2 == 0 && f 3 == 16 && f 4 == 0 && f 5 == 0 && f 6 == 0 && f 7 == 16))
    && (f 7 != 8 || allBelow (f 10) (fun i =>
      byteAt sec (64 + 32 * fieldLe sec 0 2 + 8 * (fieldLe b 8 2 + i) + 3) == 0))

/-- Section 0x0001 (R98). -/
def parseOk (v : ImgView) (sec : Bytes) : Bool :=
  let nodes := fieldLe sec 0 2
  let trans := fieldLe sec 2 2
  within 1 255 nodes && decide (trans ≤ 4096) && sec.length == 64 + 32 * nodes + 8 * trans && zeroAt sec 4 28
    && allBelow 31 (fun p => decide (byteAt sec (32 + p) < nodes)) && byteAt sec 63 == 0
    && allBelow nodes (fun n => nodeOk sec (fieldLe (v.sec 0x0002) 2 2) (64 + 32 * n))
    && allBelow trans (fun t =>
      let o := 64 + 32 * nodes + 8 * t
      nodeOrEnd nodes (byteAt sec (o + 4)) && zeroAt sec (o + 5) 3)

/-- An action is valid (R110). -/
def actionOk (nodes : Nat) (a : Bytes) : Bool :=
  let w := fieldLe a 0 2
  w &&& 0xFF81 == 0 && byteAt a 2 / 32 == 0 && bits (byteAt a 2) 3 2 != 3 && byteAt a 3 / 8 == 0 && byteAt a 4 / 16 == 0
    && zeroAt a 8 8
    && (!bit w 3 || (within 1 11 (byteAt a 4 % 16) && decide (byteAt a 5 < nodes)))

/-- A default action: all zero, or valid without RINSE, MAL_ACTION with DROP or ZONE_LOCK (R110, Table 4.9). -/
def defaultActionOk (nodes : Nat) (mal : Bool) (a : Bytes) : Bool :=
  allZero a || (actionOk nodes a && !bit (fieldLe a 0 2) 3 && (!mal || bit (fieldLe a 0 2) 2 || bit (fieldLe a 0 2) 1))

/-- Bytes of one entry of a table with descriptor offset `d` (Table 4.10). -/
def entrySize (sec : Bytes) (d : Nat) : Nat :=
  let u := byteAt sec (d + 1)
  16 * u * (if byteAt sec d = 0 then 1 else 2) + 16

/-- The range of the entries of a table. -/
def entryRange (sec : Bytes) (d : Nat) : Nat × Nat := (fieldLe sec (d + 8) 4, fieldLe sec (d + 4) 4 * entrySize sec d)

/-- One table descriptor with its entries (Table 4.10, R108). -/
def tableOk (nodes : Nat) (sec : Bytes) (d : Nat) : Bool :=
  let ty := byteAt sec d
  let u := byteAt sec (d + 1)
  let tn := byteAt sec (d + 2)
  let n := fieldLe sec (d + 4) 4
  let o := fieldLe sec (d + 8) 4
  let size := entrySize sec d
  decide (ty ≤ 1) && within 1 3 u && within 1 12 tn && byteAt sec (d + 3) == 0 && o % 16 == 0 && zeroAt sec (d + 12) 4
    && zeroAt sec (d + 80) 16 && decide (o + n * size ≤ sec.length) && actionOk nodes (slice sec (d + 16) 16)
    && allBelow tn (fun i =>
      let t := d + 32 + 4 * i
      byteAt sec (t + 3) == 0 && within 1 128 (byteAt sec (t + 2)) &&
        (match fieldWidth (byteAt sec t) with
         | some w => decide (byteAt sec (t + 1) + byteAt sec (t + 2) ≤ w)
         | none => false))
    && zeroAt sec (d + 32 + 4 * tn) (48 - 4 * tn)
    && decide (sumBy (fun i => byteAt sec (d + 34 + 4 * i)) (List.range tn) ≤ 128 * u)
    && allBelow n (fun i =>
      let e := o + size * i
      actionOk nodes (slice sec (e + size - 16) 16) &&
        (ty == 0 || fieldLe sec e (16 * u) &&& fieldLe sec (e + 16 * u) (16 * u) == fieldLe sec e (16 * u)))
    && (ty == 1 || noPair (· == ·) ((List.range n).map (fun i => slice sec (o + size * i) (16 * u))))

/-- Storage that tables of a type take, in key units (R107). -/
def storageOf (sec : Bytes) (ty tables : Nat) : Nat :=
  sumBy (fun t =>
    let d := descOffset sec t
    if byteAt sec d = ty then byteAt sec (d + 1) * fieldLe sec (d + 4) 4 else 0) (List.range tables)

/-- Section 0x0002 (R108, Table 4.9). -/
def keysOk (v : ImgView) (sec : Bytes) : Bool :=
  let tables := fieldLe sec 0 2
  let profiles := fieldLe sec 2 2
  let nodes := fieldLe (v.sec 0x0001) 0 2
  let descEnd := descOffset sec tables
  let ranges := (List.range tables).map (fun t => entryRange sec (descOffset sec t))
  within 1 16 tables && within 1 64 profiles && decide (descEnd ≤ sec.length)
    && defaultActionOk nodes false (slice sec 4 16) && defaultActionOk nodes true (slice sec 20 16)
    && allBelow profiles (fun p =>
      byteAt sec (67 + 4 * p) == 0
        && allBelow 3 (fun i => byteAt sec (64 + 4 * p + i) == 0xFF || decide (byteAt sec (64 + 4 * p + i) < tables)))
    && allBelow tables (fun t => tableOk nodes sec (descOffset sec t))
    && decide (storageOf sec 0 tables ≤ 65536) && decide (storageOf sec 1 tables ≤ 8192)
    && noPair rangesMeet ((0, descEnd) :: ranges.filter (fun r => r.2 != 0))
    && sec.length == ranges.foldl (fun e r => if r.2 = 0 then e else Nat.max e (r.1 + r.2)) descEnd
    && zeroOutside sec ([(0, 36), (64, 4 * profiles), (descOffset sec 0, 96 * tables)] ++ ranges)

/-! Zone firewall (R130, R142). -/

/-- Endpoint numbers that Table 5.1 lists. -/
def endpointDefined (n : Nat) : Bool := decide (n ≤ 32) || within 48 72 n

/-- Width of an input field of the diagram (Tables 4.7 and 5.2). -/
def inputWidth (id : Nat) : Option Nat :=
  match fieldWidth id with
  | some w => some w
  | none => [(0x40, 5), (0x41, 5), (0x42, 8), (0x43, 8), (0x44, 3), (0x45, 3), (0x46, 2), (0x47, 2)].lookup id

/-- A diagram node (Table 5.4, R130). -/
def diagramNodeOk (sec : Bytes) (count k : Nat) : Bool :=
  let b := slice sec (2240 + 16 * k) 16
  if byteAt b 0 = 2 then zeroAt b 1 3 && zeroAt b 8 8 && bits (fieldLe b 4 4) 3 5 == 0
  else
    decide (byteAt b 0 < 2) && byteAt b 3 == 0
      && (match inputWidth (byteAt b 1) with
          | some w => decide (byteAt b 2 < w)
          | none => false)
      && decide (k < fieldLe b 12 2) && decide (fieldLe b 12 2 < count)
      && decide (k < fieldLe b 14 2) && decide (fieldLe b 14 2 < count)

/-- The most tests on a path from each node, for the nodes from `k` on; nodes from `k + l.length` on are not counted. -/
def testDepths (sec : Bytes) : Nat → List Nat → List Nat
  | 0, l => l
  | k + 1, l =>
    let b := slice sec (2240 + 16 * k) 16
    let at_ := fun n => l.getD (n - (k + 1)) 0
    testDepths sec k ((if byteAt b 0 = 2 then 0 else 1 + Nat.max (at_ (fieldLe b 12 2)) (at_ (fieldLe b 14 2))) :: l)

/-- Ranges of the timeouts (Table 5.7). -/
def timeoutRanges : List (Nat × Nat) := [(5, 120), (60, 86400), (5, 240), (5, 600), (10, 86400), (2, 120)]

/-- Section 0x0003 (R130). -/
def firewallOk (sec : Bytes) : Bool :=
  let count := fieldLe sec 0 2
  let zones := byteAt sec 2
  within 1 32768 count && within 1 32 zones && byteAt sec 3 == 0 && zeroAt sec 28 36 && sec.length == 2240 + 16 * count
    && allBelow 6 (fun i => within ((timeoutRanges.getD i (0, 0)).1) ((timeoutRanges.getD i (0, 0)).2) (fieldLe sec (4 + 4 * i) 4))
    && allBelow 128 (fun n =>
      if endpointDefined n then decide (byteAt sec (64 + n) < zones) else byteAt sec (64 + n) == 0xFF)
    && allBelow count (fun k => diagramNodeOk sec count k)
    && (let depths := testDepths sec count []
        allBelow 1024 (fun i =>
          let r := fieldLe sec (192 + 2 * i) 2
          if r = 0xFFFF then true
          else i / 32 != i % 32 && decide (i / 32 < zones) && decide (i % 32 < zones) && decide (r < count)
            && decide (depths.getD r 0 ≤ 32)))

/-- A rate group of a channel block exists: its RATE is not 0 (R142). -/
def groupUsed (sec : Bytes) (o g : Nat) : Bool := decide (g < 32) && fieldLe sec (o + 576 + 8 * g) 2 != 0

/-- A channel block at offset `o` (Table 5.10, R142). -/
def canBlockOk (sec : Bytes) (o : Nat) : Bool :=
  let ext := fieldLe sec (o + 512) 2
  let sgrp := fieldLe sec (o + 514) 2
  let extAt := fun i => o + 1088 + 16 * i
  decide (ext ≤ 256) && decide (sgrp ≤ 32) && zeroAt sec (o + 516) 60
    && allBelow 32 (fun g =>
      let r := o + 576 + 8 * g
      decide (byteAt sec (r + 3) < 4) && zeroAt sec (r + 4) 4 && (fieldLe sec r 2 == 0 || decide (1 ≤ byteAt sec (r + 2))))
    && allBelow sgrp (fun i =>
      let r := o + 832 + 8 * i
      decide (fieldLe sec r 2 ≤ fieldLe sec (r + 2) 2) && decide (fieldLe sec (r + 2) 2 < 2048) && groupUsed sec o (byteAt sec (r + 4))
        && zeroAt sec (r + 5) 3)
    && allBelow ext (fun i =>
      let r := extAt i
      decide (fieldLe sec r 4 ≤ fieldLe sec (r + 4) 4) && decide (fieldLe sec (r + 4) 4 < 2 ^ 29) && decide (byteAt sec (r + 8) < 4)
        && (byteAt sec (r + 9) == 0xFF || groupUsed sec o (byteAt sec (r + 9))) && zeroAt sec (r + 10) 6)
    && noPair rangesMeet ((List.range ext).map (fun i =>
      (fieldLe sec (extAt i) 4, fieldLe sec (extAt i + 4) 4 + 1 - fieldLe sec (extAt i) 4)))

/-- End of the block at offset `o`. -/
def canBlockEnd (sec : Bytes) (o : Nat) : Nat := o + 1088 + 16 * fieldLe sec (o + 512) 2

/-- Section 0x0004 without the bound of R266 (R142). -/
def canPolicyOk (sec : Bytes) : Bool :=
  let offs := ((List.range 16).map (fun ch => canBlock sec ch)).filterMap id
  zeroAt sec 2 62 && offs.all (fun o => canBlockOk sec o)
    && sec.length == offs.foldl (fun e o => Nat.max e (canBlockEnd sec o)) 64
    && zeroOutside sec ((0, 2) :: offs.map (fun o => (o, canBlockEnd sec o - o)))

/-! Switch core (R155, R162). -/

/-- Section 0x0005 (R155). -/
def forwardOk (sec : Bytes) : Bool :=
  let fdb := fieldLe sec 0 4
  let dsets := fieldLe sec 4 2
  let edits := fieldLe sec 6 2
  let editAt := 65728 + 16 * dsets
  let fdbAt := fdbOffset sec
  let key := fun i => fieldLe sec (fdbAt + 16 * i + 6) 2 * 2 ^ 48 + fieldBe sec (fdbAt + 16 * i) 6
  decide (fdb ≤ 32768) && within 1 4096 dsets && decide (edits ≤ 4096) && within 10 1000000 (fieldLe sec 8 4)
    && zeroAt sec 12 52 && zeroAt sec 128 64 && sec.length == fdbAt + 16 * fdb
    && zeroAt sec (editAt + 8 * edits) (fdbAt - (editAt + 8 * edits))
    && allBelow 32 (fun p => decide (fieldLe sec (64 + 2 * p) 2 < 4096)) && fieldLe sec 126 2 == 0
    && allBelow 4096 (fun n =>
      let o := 192 + 16 * n
      decide (fieldLe sec o 4 < 2 ^ 31) && decide (fieldLe sec (o + 4) 4 < 2 ^ 31)
        && (fieldLe sec (o + 8) 2 == 0xFFFF || decide (fieldLe sec (o + 8) 2 < dsets)) && decide (byteAt sec (o + 10) < 8)
        && zeroAt sec (o + 11) 5)
    && allBelow dsets (fun n =>
      let o := 65728 + 16 * n
      decide (fieldLe sec o 4 < 2 ^ 31) && decide (fieldLe sec (o + 4) 4 < 2 ^ 25) && decide (byteAt sec (o + 8) < 16)
        && decide (byteAt sec (o + 9) < 2) && (fieldLe sec (o + 10) 2 == 0xFFFF || decide (fieldLe sec (o + 10) 2 < edits))
        && zeroAt sec (o + 12) 4 && (bit (fieldLe sec o 4) 30 == (fieldLe sec (o + 4) 4 != 0))
        && (bit (fieldLe sec o 4) 28 == (byteAt sec (o + 8) != 0)))
    && allBelow edits (fun n =>
      let o := editAt + 8 * n
      decide (byteAt sec o ≤ 4) && decide (byteAt sec (o + 1) < 16) && decide (fieldLe sec (o + 2) 2 < 4096)
        && decide (fieldLe sec (o + 4) 4 < 2 ^ 31))
    && allBelow fdb (fun n =>
      let o := fdbAt + 16 * n
      decide (fieldLe sec (o + 6) 2 < 4096) && decide (fieldLe sec (o + 8) 2 < dsets) && zeroAt sec (o + 10) 6)
    && chained (fun a b => decide (a < b)) ((List.range fdb).map key)

/-- Section 0x0006 (R162). -/
def poolsOk (sec : Bytes) : Bool :=
  let shared := fieldLe sec 4 4
  let head := fun p => fieldLe sec (128 + 8 * p) 2
  let fc := fun p => byteAt sec (130 + 8 * p)
  sec.length == 384 && decide (fieldLe sec 0 4 ≤ 32768) && decide (1280 ≤ fieldLe sec 8 4)
    && decide (fieldLe sec 8 4 < fieldLe sec 12 4) && decide (fieldLe sec 12 4 ≤ shared)
    && decide (fieldLe sec 0 4 + shared + sumBy head (List.range 31) + 256 ≤ 65536)
    && zeroAt sec 18 46 && zeroAt sec 96 32 && zeroAt sec 376 8
    && allBelow 8 (fun c => within 1 32767 (fieldLe sec (64 + 2 * c) 2) && decide (fieldLe sec (80 + 2 * c) 2 < fieldLe sec (64 + 2 * c) 2))
    && allBelow 31 (fun p =>
      let o := 128 + 8 * p
      within 80 8192 (head p) && decide (fc p ≤ 3) && byteAt sec (o + 3) == 0 && zeroAt sec (o + 6) 2
        && (if fc p = 3 then within 1 320 (fieldLe sec (o + 4) 2) && within 24 27 p else fieldLe sec (o + 4) 2 == 0)
        && (decide (p < 28) || fc p == 0))

/-! Stream protection (R211, R215). -/

/-- The KEY of an identification entry at offset `o` has its unused bytes zero and its fields in range (Table 7.11). -/
def idKeyOk (sec : Bytes) (o : Nat) : Bool :=
  match byteAt sec o with
  | 0 | 1 => decide (fieldLe sec (o + 14) 2 < 4096) && zeroAt sec (o + 16) 16
  | 2 => (byteAt sec (o + 8) == 4 && zeroAt sec (o + 16) 16) || (byteAt sec (o + 8) == 6 && zeroAt sec (o + 28) 4)
  | 3 => zeroAt sec (o + 16) 16
  | _ => false

/-- Section 0x0007 (R211). -/
def psfpOk (v : ImgView) (sec : Bytes) : Bool :=
  let ids := idCount sec
  let filters := filterCount sec
  let gates := fieldLe sec 4 2
  let meters := fieldLe sec 6 2
  let entries := fieldLe sec 8 2
  let idAt := fun i => 64 + 32 * i
  decide (ids ≤ 4096) && within 1 4096 filters && decide (gates ≤ 4096) && decide (meters ≤ 4096) && decide (entries ≤ 16384)
    && zeroAt sec 10 54 && sec.length == meterOff sec meters
    && allBelow ids (fun i =>
      let o := idAt i
      byteAt sec (o + 1) == 0 && decide (fieldLe sec (o + 2) 2 < filters) && fieldLe sec (o + 4) 4 != 0
        && decide (fieldLe sec (o + 4) 4 < 2 ^ 31) && idKeyOk sec o)
    && noPair (fun i j => byteAt sec (idAt i) == byteAt sec (idAt j) && slice sec (idAt i + 8) 24 == slice sec (idAt j + 8) 24
        && fieldLe sec (idAt i + 4) 4 &&& fieldLe sec (idAt j + 4) 4 != 0) (List.range ids)
    && allBelow filters (fun h =>
      let o := filterOff sec h
      let sdu := fieldLe sec (o + 4) 2
      (fieldLe sec o 2 == 0xFFFF || decide (fieldLe sec o 2 < gates)) && (fieldLe sec (o + 2) 2 == 0xFFFF || decide (fieldLe sec (o + 2) 2 < meters))
        && (sdu == 0 || within 64 10240 sdu) && zeroAt sec (o + 6) 10)
    && allBelow gates (fun g =>
      let o := gateOff sec g
      let cycle := fieldLe sec o 4
      let first := fieldLe sec (o + 8) 2
      let n := fieldLe sec (o + 10) 2
      within 1000 1000000000 cycle && v.cycle % cycle == 0 && decide (fieldLe sec (o + 4) 4 < cycle) && within 1 1024 n
        && decide (first + n ≤ entries) && zeroAt sec (o + 12) 4
        && sumBy (fun i => fieldLe sec (gentryOff sec (first + i)) 4) (List.range n) == cycle)
    && allBelow entries (fun i =>
      let o := gentryOff sec i
      decide (16 ≤ fieldLe sec o 4) && decide (byteAt sec (o + 4) < 2) && (byteAt sec (o + 5) == 0xFF || decide (byteAt sec (o + 5) < 8))
        && zeroAt sec (o + 6) 2)
    && allBelow meters (fun m =>
      let o := meterOff sec m
      let burst := fun k => fieldLe sec (o + k) 4 == 0 || decide (64 ≤ fieldLe sec (o + k) 4)
      burst 4 && burst 12 && decide (byteAt sec (o + 16) < 8) && zeroAt sec (o + 17) 15)

/-- Bits set in the low 32 of a number. -/
def popCount (v : Nat) : Nat := sumBy (fun i => b2n (bit v i)) (List.range 32)

/-- Section 0x0008 (R215). -/
def frerOk (v : ImgView) (sec : Bytes) : Bool :=
  let n := fieldLe sec 0 2
  let at_ := fun e => 64 + 32 * e
  let recovers := fun e => bit (byteAt sec (at_ e + 2)) 1
  decide (n ≤ 2048) && zeroAt sec 2 62 && sec.length == 64 + 32 * n
    && allBelow n (fun e =>
      let o := at_ e
      let f := byteAt sec (o + 2)
      let ports := fieldLe sec (o + 4) 4
      decide (f < 16) && (bit f 0 || bit f 1) && within 2 64 (byteAt sec (o + 3)) && decide (ports < 2 ^ 28)
        && decide (1 ≤ fieldLe sec (o + 8) 2) && within 2 8 (byteAt sec (o + 10)) && byteAt sec (o + 11) == 0
        && decide (1 ≤ fieldLe sec (o + 14) 2) && within 1 3600000 (fieldLe sec (o + 16) 4) && zeroAt sec (o + 20) 12
        && (if bit f 1 then handleDefined (v.secs 0x0007) (fieldLe sec o 2) && ports != 0 else ports == 0)
        && (fieldLe sec o 2 == 0xFFFF || decide (fieldLe sec o 2 < 4096)))
    && noPair (fun a b => recovers a && recovers b && fieldLe sec (at_ a) 2 == fieldLe sec (at_ b) 2) (List.range n)
    && decide (sumBy (fun e => popCount (fieldLe sec (at_ e + 4) 4)) (List.range n) ≤ 4096)

/-! Gates and shapers (R193, R200). -/

/-- The rate in Mb/s that the checks take for a mode: its link rate, or the lowest an external PHY may report (R193). -/
def checkRate (m : Nat) : Nat := if m = 0x13 then 100 else if m = 0x14 then 10 else modeRate m

/-- The check rate of a port of the image; none where section 0x000E does not enable it. -/
def ImgView.rate (v : ImgView) (p : Nat) : Option Nat :=
  let c := portCfgOf (v.sec 0x000E) p
  if c.enabled && checkRate c.mode != 0 then some (checkRate c.mode) else none

/-- FC_MODE of a port in the image. -/
def ImgView.fc (v : ImgView) (p : Nat) : Nat := byteAt (v.sec 0x0006) (130 + 8 * p)

/-- PREEMPT_ENABLE of a port in the image. -/
def ImgView.preempts (v : ImgView) (p : Nat) : Bool :=
  let sec := v.sec 0x000A
  bit (fieldLe sec 0 4) p && bit (byteAt sec (64 + 64 * shaperRank sec p + 33)) 0

/-- G_MIN in ns of a port at a rate in Mb/s (R193). -/
def guardMin (fc rate : Nat) : Nat := if fc = 1 ∨ fc = 2 then 16 + (672000 + rate - 1) / rate else 16

/-- Gates that entry `i` closes: open in it and closed in the next, entry 0 following the last (R192). -/
def closesAt (sec : Bytes) (o n i : Nat) : Nat :=
  let a := gateMask sec o i
  a - (a &&& gateMask sec o ((i + 1) % n))

/-- The longest open run of gate `q` less its guard band, over runs that end at an entry that closes it (R193). -/
def openRun (sec : Bytes) (o n q : Nat) : Nat → Nat → Nat → Nat
  | 0, _, best => best
  | k + 1, run, best =>
    let i := (2 * n - (k + 1)) % n
    if bit (gateMask sec o i) q then
      let run := run + gateDur sec o i
      if bit (closesAt sec o n i) q then openRun sec o n q k 0 (Nat.max best (run - gateGuard sec o i))
      else openRun sec o n q k run best
    else openRun sec o n q k 0 best

/-- A gate block at offset `o` for port `p` (R193). -/
def gateBlockOk (v : ImgView) (sec : Bytes) (p o : Nat) : Bool :=
  let cycle := fieldLe sec o 4
  let n := fieldLe sec (o + 8) 2
  match v.rate p with
  | none => false
  | some rate =>
    within 1000 1000000000 cycle && v.cycle % cycle == 0 && decide (fieldLe sec (o + 4) 4 < cycle) && within 1 1024 n
      && zeroAt sec (o + 10) 2 && allBelow 8 (fun q => within 64 10240 (fieldLe sec (o + 12 + 2 * q) 2))
      && decide (fieldLe sec (o + 28) 4 ≤ 65535) && zeroAt sec (o + 32) 32
      && sumBy (fun i => gateDur sec o i) (List.range n) == cycle
      && allBelow n (fun i =>
        decide (16 ≤ gateDur sec o i) && decide (gateOp sec o i ≤ 2) && (gateOp sec o i == 0 || v.preempts p)
          && (if closesAt sec o n i = 0 then gateGuard sec o i == 0 else decide (guardMin (v.fc p) rate ≤ gateGuard sec o i)))
      && allBelow 8 (fun q =>
        (List.range n).all (fun i => bit (gateMask sec o i) q)
          || decide ((8000 * (fieldLe sec (o + 12 + 2 * q) 2 + 20) + rate - 1) / rate ≤ openRun sec o n q (2 * n) 0 0))

/-- Section 0x0009 (R193, Table 7.2). -/
def gatesOk (v : ImgView) (sec : Bytes) : Bool :=
  let mask := fieldLe sec 0 4
  let blocks := ((List.range 28).filter (fun p => bit mask p)).map (fun p => (p, (gateBlockOff sec p).getD 0))
  let size := fun o => 64 + 8 * fieldLe sec (o + 8) 2
  decide (mask < 2 ^ 28) && zeroAt sec 4 60 && blocks.all (fun b => gateBlockOk v sec b.1 b.2)
    && sec.length == blocks.foldl (fun e b => Nat.max e (b.2 + size b.2)) 64
    && zeroOutside sec ((0, 4) :: blocks.map (fun b => (b.2, size b.2)))

/-- Section 0x000A (R200). -/
def shapersOk (v : ImgView) (sec : Bytes) : Bool :=
  let mask := fieldLe sec 0 4
  let ats := fieldLe sec 4 2
  let groups := byteAt sec 6
  let ports := (List.range 28).filter (fun p => bit mask p)
  let groupAt := 64 + 64 * ports.length
  let atsAt := groupAt + 16 * groups
  let sched := fun i => atsAt + 16 * i
  let psfp := v.sec 0x0007
  decide (mask < 2 ^ 28) && decide (ats ≤ 512) && decide (groups ≤ 64) && zeroAt sec 7 57 && sec.length == atsAt + 16 * ats
    && ports.all (fun p =>
      let o := 64 + 64 * shaperRank sec p
      let f := byteAt sec (o + 33)
      decide (f < 16) && within 1 128 (fieldLe sec (o + 34) 2) && within 1 1000000 (fieldLe sec (o + 36) 4) && zeroAt sec (o + 42) 22
        && decide (sumBy (fun q => fieldLe sec (o + 4 * q) 4) (List.range 8) ≤ 1000 * (v.rate p).getD 0)
        && !(bit f 0 && within 24 27 p))
    && allBelow groups (fun g =>
      let o := groupAt + 16 * g
      decide (byteAt sec o < 28) && zeroAt sec (o + 1) 3 && within 1000 1000000000 (fieldLe sec (o + 4) 4)
        && decide (fieldLe sec (o + 8) 4 ≤ 1000000) && zeroAt sec (o + 12) 4)
    && allBelow ats (fun i =>
      let o := sched i
      let h := fieldLe sec o 2
      let p := byteAt sec (o + 2)
      let sdu := fieldLe psfp (filterOff psfp h + 4) 2
      handleDefined (v.secs 0x0007) h && decide (p < 28) && decide (byteAt sec (o + 3) < groups)
        && byteAt sec (groupAt + 16 * byteAt sec (o + 3)) == p && within 1 (1000 * (v.rate p).getD 0) (fieldLe sec (o + 4) 4)
        && decide ((if sdu = 0 then 81920 else 8 * sdu) ≤ fieldLe sec (o + 8) 4) && zeroAt sec (o + 12) 4)
    && noPair (fun i j => slice sec (sched i) 3 == slice sec (sched j) 3) (List.range ats)

end Sys2Proof.Machine
end

