-- ==== Sys2Proof/Machine/Sections2.lean ====
section
/-!
DEFINITION. The internal checks of sections 0x000B to 0x0012 and the latency certificate: what verification checks 11 and
12 judge in the sections of the legacy buses, the ports, time, sleep, counters and the pair (R88, R183, R229, R253, R257,
R262, R266, R280, R327, R393, R428).
-/
namespace Sys2Proof.Machine

/-- Two ranges of identifiers, given by their lowest and highest, share one. -/
def idsMeet (a b : Nat × Nat) : Bool := decide (a.1 ≤ b.2) && decide (b.1 ≤ a.2)

/-! Channels (R249, R253). -/

/-- One CAN phase: its rate in bit/s lies within bounds and its quanta reach the least (R249, Table 9.1). -/
def phaseOk (brp tseg1 tseg2 sjw loRate hiRate quanta : Nat) : Bool :=
  let tq := 1 + tseg1 + tseg2
  decide (1 ≤ brp) && decide (brp ≤ 32) && decide (quanta ≤ tq) && within 1 tseg2 sjw
    && decide (80000000 ≤ hiRate * brp * tq) && decide (loRate * brp * tq ≤ 80000000)

/-- A CAN block of a configured channel (Table 9.3). -/
def canCfgOk (b : Bytes) : Bool :=
  let f := byteAt b
  let mode := f 0
  within 1 3 mode && decide (f 1 < 16) && decide (f 2 ≤ 3) && (f 3 == 0xFF || (decide (f 3 ≤ 3) && f 3 != f 2))
    && within 1 128 (f 5) && within 1 255 (fieldLe b 6 2) && phaseOk (f 4) (fieldLe b 6 2) (f 5) (f 8) 50000 1000000 8
    && within 1 63 (f 10) && within 1 32 (f 11) && within 1 (f 11) (f 12)
    && (if mode = 1 then f 9 == 0 else phaseOk (f 9) (f 10) (f 11) (f 12) 0 8000000 5)
    && decide (f 13 ≤ 127)
    && within 1 63 (f 15) && within 1 32 (f 16) && within 1 (f 16) (f 17)
    && (if mode = 3 then phaseOk (f 14) (f 15) (f 16) (f 17) 0 10000000 5 else f 14 == 0)
    && decide (f 18 ≤ 127) && zeroAt b 19 13

/-- Offset of LIN frame entry `i`. -/
def linFrameAt (i : Nat) : Nat := 1920 + 16 * i

/-- Offset of LIN schedule entry `i`. -/
def linSchedAt (sec : Bytes) (i : Nat) : Nat := 1920 + 16 * fieldLe sec 4 2 + 8 * i

/-- A LIN block of a configured channel (Table 9.4). -/
def linCfgOk (sec : Bytes) (b : Bytes) : Bool :=
  let f := byteAt b
  let first := fieldLe b 8 2
  let num := fieldLe b 10 2
  let sched := fieldLe b 12 2
  let scheds := fieldLe b 14 2
  let ids := (List.range num).map (fun i => byteAt sec (linFrameAt (first + i)))
  within 1 2 (f 0) && decide (f 1 ≤ 3) && (f 2 == 0xFF || (decide (f 2 ≤ 3) && f 2 != f 1)) && decide (f 3 ≤ 1)
    && within 1000 20000 (fieldLe b 4 4) && within 1 64 num && decide (first + num ≤ fieldLe sec 4 2)
    && (if f 0 = 1 then within 1 256 scheds && decide (sched + scheds ≤ fieldLe sec 6 2) else sched == 0 && scheds == 0)
    && zeroAt b 16 16 && noPair (· == ·) ids
    && allBelow scheds (fun i => ids.contains (byteAt sec (linSchedAt sec (sched + i))))

/-- A FlexRay buffer of the section (Table 9.6). -/
def frBufOk (fr b : Bytes) : Bool :=
  let slot := fieldLe b 0 2
  within 1 2047 slot && decide (byteAt b 2 < 16) && [1, 2, 4, 8, 16, 32, 64].contains (byteAt b 4)
    && decide (byteAt b 3 < byteAt b 4) && decide (byteAt b 5 ≤ 127)
    && (decide (fieldLe fr 6 2 < slot) || byteAt b 5 == byteAt fr 10) && zeroAt b 6 2

/-- Two FlexRay buffers of one direction share a slot, a channel and a selected cycle (R253). -/
def frBufsMeet (a b : Bytes) : Bool :=
  let m := Nat.min (byteAt a 4) (byteAt b 4)
  bit (byteAt a 2) 2 == bit (byteAt b 2) 2 && fieldLe a 0 2 == fieldLe b 0 2 && byteAt a 2 &&& byteAt b 2 &&& 3 != 0
    && byteAt a 3 % m == byteAt b 3 % m

/-- The FlexRay block and its buffers (Tables 9.5, 9.6). -/
def frCfgOk (sec : Bytes) : Bool :=
  let b := slice sec 832 64
  let f := byteAt b
  let bufs := (List.range (f 3)).map (fun i => slice sec (896 + 8 * i) 8)
  within 1 2 (f 0) && decide (f 1 ≤ 2) && within 1 3 (f 2) && within 1 128 (f 3) && decide (f 22 < 4) && decide (f 50 ≤ 3)
    && (f 51 == 0xFF || (decide (f 51 ≤ 3) && f 51 != f 50)) && decide (f 52 ≤ 1) && zeroAt b 53 11
    && Config.frParamsPermitted b && bufs.all (frBufOk b) && noPair frBufsMeet bufs
    && zeroAt sec (896 + 8 * f 3) (8 * (128 - f 3))

/-- Section 0x000D (R253). -/
def channelsOk (sec : Bytes) : Bool :=
  let frames := fieldLe sec 4 2
  let scheds := fieldLe sec 6 2
  decide (byteAt sec 3 ≤ 1) && decide (frames ≤ 512) && decide (scheds ≤ 1024) && zeroAt sec 8 56
    && sec.length == 1920 + 16 * frames + 8 * scheds
    && allBelow 16 (fun n =>
      if bit (fieldLe sec 0 2) n then canCfgOk (slice sec (64 + 32 * n) 32) else zeroAt sec (64 + 32 * n) 32)
    && allBelow 8 (fun n =>
      if bit (byteAt sec 2) n then linCfgOk sec (slice sec (576 + 32 * n) 32) else zeroAt sec (576 + 32 * n) 32)
    && (if byteAt sec 3 = 1 then frCfgOk sec else zeroAt sec 832 1088)
    && allBelow frames (fun i =>
      let o := linFrameAt i
      decide (byteAt sec o ≤ 63) && within 1 8 (byteAt sec (o + 1)) && decide (byteAt sec (o + 2) < 8)
        && within 1 2 (bits (byteAt sec (o + 2)) 1 2) && zeroAt sec (o + 3) 5)
    && allBelow scheds (fun i =>
      let o := linSchedAt sec i
      decide (byteAt sec o ≤ 63) && zeroAt sec (o + 1) 3 && within 1000 1000000 (fieldLe sec (o + 4) 4))

/-! Seam engines and mappings (R257, R262). -/

/-- Offset of handler entry `h` in a section 0x000B. -/
def handlerAt (sec : Bytes) (h : Nat) : Nat := 64 + 48 * fieldLe sec 0 2 + 8 * h

/-- Offset of the code array. -/
def codeAt (sec : Bytes) : Nat := (handlerAt sec (fieldLe sec 2 2) + 15) / 16 * 16

/-- Code word `k`. -/
def codeWord (sec : Bytes) (k : Nat) : Nat := fieldLe sec (codeAt sec + 4 * k) 4

/-- An instruction's OP is in Table 9.10 and its IMM in range (R257). -/
def seamWordOk (w : Nat) : Bool :=
  let op := bits w 26 6
  let imm := bits w 0 18
  (decide (op ≤ 0x13) || within 0x18 0x1C op)
    && (!within 0x0B 0x0D op || decide (imm < 32))
    && (op != 0x0F || within 2 4 imm)
    && (!(op == 0x10 || op == 0x11) || decide (bits imm 12 6 < 32))
    && (!within 0x18 0x1B op || decide (1 ≤ imm % 256))

/-- The instructions a path may take after instruction `i`. -/
def seamReach (w i : Nat) : List Nat :=
  let op := bits w 26 6
  if op ≤ 1 then []
  else if op = 0x1C then [i + 1 + w % 256]
  else if 0x18 ≤ op then [i + 1, i + 1 + w % 256]
  else [i + 1]

/-- A branch of instruction `i` stays within a handler of `len` words. -/
def branchStays (w i len : Nat) : Bool := !within 0x18 0x1C (bits w 26 6) || decide (i + 1 + w % 256 < len)

/-- Instruction `len - 1` is reached from the handler's start: branches only move forward, so one pass over the words in
order finds every reached one. -/
def lastReached (sec : Bytes) (entry len : Nat) : Bool :=
  ((List.range (len - 1)).foldl (fun (l : List Nat) i => if l.contains i then seamReach (codeWord sec (entry + i)) i ++ l else l) [0]).contains
    (len - 1)

/-- A handler entry (R257). -/
def handlerOk (sec : Bytes) (h : Nat) : Bool :=
  let o := handlerAt sec h
  let entry := fieldLe sec o 2
  let len := fieldLe sec (o + 2) 2
  within 1 512 len && decide (entry + len ≤ fieldLe sec 4 2) && zeroAt sec (o + 4) 4
    && allBelow len (fun i => branchStays (codeWord sec (entry + i)) i len)
    && (decide (bits (codeWord sec (entry + len - 1)) 26 6 ≤ 1) || !lastReached sec entry len)

/-- The value of a register where the code fixes it; G0 reads 0 (R255). -/
def knownReg (regs : Tab Nat) (r : Nat) : Option Nat := if r = 0 then some 0 else regs.lookup r

/-- A register takes a value that the code fixes, or one that it does not. -/
def noteReg (regs : Tab Nat) (r : Nat) (v : Option Nat) : Tab Nat :=
  match v with
  | some x => Tab.set regs r x
  | none => Tab.del regs r

/-- The registers that the code fixes after one instruction: LDI and MOV carry a fixed value, END, DROP and PUTF write none, a branch
or any other instruction leaves DST open (Table 9.10). -/
def knownAfter (regs : Tab Nat) (w : Nat) : Tab Nat :=
  let dst := bits w 22 4
  match bits w 26 6 with
  | 0x00 | 0x01 | 0x11 => regs
  | 0x02 => noteReg regs dst (some (bits w 0 18))
  | 0x04 => noteReg regs dst (knownReg regs (bits w 18 4))
  | op => if 0x18 ≤ op then [] else noteReg regs dst none

/-- A PUTF keeps the output on the channel: its field lies past ENDPOINT, or writes there what the channel's number has; none where
the code does not fix it (Table 9.9). -/
def putStays (regs : Tab Nat) (w ch : Nat) : Option Bool :=
  match knownReg regs (bits w 18 4) with
  | none => none
  | some base =>
    let a := base + bits w 0 12
    if 8 ≤ a then some true
    else
      (knownReg regs (bits w 22 4)).map (fun v =>
        let n := Nat.min (bits w 12 6 + 1) (8 - a)
        v % 2 ^ n == bits ch a n)

/-- What the PUTFs of a handler's code do to ENDPOINT, one after the other; past a branch nothing stays fixed. -/
def putsStay (ch : Nat) : List Nat → Tab Nat → List (Option Bool)
  | [], _ => []
  | w :: ws, regs =>
    if bits w 26 6 = 0x11 then putStays regs w ch :: putsStay ch ws regs else putsStay ch ws (knownAfter regs w)

/-- The handler keeps its output on the channel (R262): no PUTF gives ENDPOINT, bits 0 to 7 of the output, another channel; where a
PUTF's place or value is not fixed by the code, as the device judges it (log 25). -/
def staysOnChannel (sec : Bytes) (h ch : Nat) : Bool :=
  let o := handlerAt sec h
  let code := (List.range (fieldLe sec (o + 2) 2)).map (fun i => codeWord sec (fieldLe sec o 2 + i))
  let puts := putsStay ch code []
  if puts.contains (some false) then false
  else if puts.all (fun x => x == some true) then true
  else Config.handlerStays (slice sec (codeAt sec + 4 * fieldLe sec o 2) (4 * fieldLe sec (o + 2) 2)) ch

/-- The greatest identifier of a channel, LIN ID or FlexRay slot. -/
def idLimit (ch : Nat) (ext : Bool) : Nat := if ch < 64 then (if ext then 2 ^ 29 - 1 else 2047) else if ch < 72 then 63 else 2047

/-- A mapping entry (Table 9.12, R258–R262). -/
def mappingOk (v : ImgView) (sec : Bytes) (m : Bytes) : Bool :=
  let f := byteAt m
  let ch := f 2
  let h := fieldLe m 12 2
  let frer := fieldLe m 36 2
  let frerSec := v.sec 0x0008
  decide (f 0 ≤ 1) && decide (f 1 ≤ 2) && within 48 72 ch && channelConfigured (v.secs 0x000D) ch && decide (f 3 < 16)
    && decide (fieldLe m 4 4 ≤ fieldLe m 8 4) && decide (fieldLe m 8 4 ≤ idLimit ch (bit (f 3) 0))
    && (h == 0xFFFF || decide (h < fieldLe sec 2 2)) && (f 0 == 1 || within 1 16 (f 14)) && f 15 == 0
    && within 100 10000 (fieldLe m 32 2) && decide (fieldLe m 34 2 ≤ 1000)
    && (frer == 0xFFFF || (decide (frer < fieldLe frerSec 0 2) && bit (byteAt frerSec (64 + 32 * frer + 2)) 0))
    && decide (f 40 ≤ 31) && zeroAt m 41 7
    && (if f 1 = 2 then h != 0xFFFF else h == 0xFFFF || staysOnChannel sec h ch)

/-- Two mappings of one channel and format cover a common identifier. -/
def mappingsMeet (a b : Bytes) : Bool :=
  byteAt a 2 == byteAt b 2 && (decide (64 ≤ byteAt a 2) || bit (byteAt a 3) 0 == bit (byteAt b 3) 0)
    && idsMeet (fieldLe a 4 4, fieldLe a 8 4) (fieldLe b 4 4, fieldLe b 8 4)

/-- Section 0x000B (R257, R258, R262). -/
def seamOk (v : ImgView) (sec : Bytes) : Bool :=
  let maps := fieldLe sec 0 2
  let handlers := fieldLe sec 2 2
  let words := fieldLe sec 4 2
  let consts := fieldLe sec 6 2
  let ms := (List.range maps).map (fun i => slice sec (64 + 48 * i) 48)
  decide (maps ≤ 1024) && decide (handlers ≤ 512) && decide (words ≤ 4096) && decide (consts ≤ 1024) && zeroAt sec 8 56
    && sec.length == codeAt sec + 4 * words + 4 * consts
    && zeroAt sec (handlerAt sec handlers) (codeAt sec - handlerAt sec handlers)
    && allBelow handlers (handlerOk sec) && allBelow words (fun k => seamWordOk (codeWord sec k)) && ms.all (mappingOk v sec)
    && noPair (fun a b => byteAt a 0 == 0 && byteAt b 0 == 0 && mappingsMeet a b) ms
    && noPair (fun a b => byteAt a 0 == 1 && byteAt b 0 == 1 && byteAt a 1 == 2 && byteAt b 1 == 2 && byteAt a 2 == byteAt b 2) ms
    && noPair (fun a b => byteAt a 0 == 1 && byteAt b 0 == 1 && slice a 24 8 == slice b 24 8 && byteAt a 40 == byteAt b 40
        && mappingsMeet a b) ms

/-! CAN routes (R266). -/

/-- Destinations of a route entry. -/
def dstList (r : Bytes) : List Nat := (List.range 16).filter (fun n => bit (fieldLe r 2 2) n)

/-- A route entry (Table 9.13, R266). -/
def routeOk (v : ImgView) (r : Bytes) : Bool :=
  let f := byteAt r
  let lo := fieldLe r 4 4
  let hi := fieldLe r 8 4
  let limit := idLimit 48 (bit (f 1) 0)
  let out := fieldLe r 12 4
  let h := fieldLe r 18 2
  let cfg := channelConfigured (v.secs 0x000D)
  decide (f 0 ≤ 15) && decide (f 1 < 8) && !bit (fieldLe r 2 2) (f 0) && decide (lo ≤ hi) && decide (hi ≤ limit)
    && (out == 0xFFFFFFFF || decide (out + (hi - lo) ≤ limit)) && decide (f 16 ≤ 3) && f 17 == 0
    && (h == 0xFFFF || decide (h < fieldLe (v.sec 0x000B) 2 2)) && within 100 10000 (fieldLe r 20 2) && zeroAt r 22 10
    && cfg (48 + f 0) && (dstList r).all (fun d => cfg (48 + d))

/-- The RX rate groups of a source channel that hold identifiers of a QUEUED route; none where an identifier of the route
lies in no such group (R140, R266). -/
def queuedGroups (v : ImgView) (r : Bytes) : Option (List (Nat × Nat)) :=
  let pol := v.sec 0x0004
  let src := byteAt r 0
  let lo := fieldLe r 4 4
  let hi := fieldLe r 8 4
  match canBlock pol src with
  | none => none
  | some o =>
    let rx := fun g => bit (byteAt pol (o + 576 + 8 * g + 3)) 0 && groupUsed pol o g
    if bit (byteAt r 1) 0 then
      let exts := ((List.range (fieldLe pol (o + 512) 2)).map (fun i => o + 1088 + 16 * i)).filter (fun e =>
        idsMeet (lo, hi) (fieldLe pol e 4, fieldLe pol (e + 4) 4))
      let covered := sumBy (fun e => Nat.min hi (fieldLe pol (e + 4) 4) + 1 - Nat.max lo (fieldLe pol e 4)) exts
      if covered = hi + 1 - lo ∧ exts.all (fun e => rx (byteAt pol (e + 9))) then some (exts.map (fun e => (src, byteAt pol (e + 9))))
      else none
    else
      let groups := (List.range (hi + 1 - lo)).map (fun i => canGroup pol o (lo + i) false)
      if groups.all (fun g => match g with | some k => rx k | none => false) then some ((groups.filterMap id).map (fun g => (src, g)))
      else none

/-- Frames that may wait for destination `d` from the QUEUED routes (R266), rounded up. -/
def queuedBound (v : ImgView) (routes : List Bytes) (d : Nat) : Option Nat :=
  let pol := v.sec 0x0004
  let into := routes.filter (fun r => !bit (byteAt r 1) 1 && bit (fieldLe r 2 2) d)
  if into.any (fun r => (queuedGroups v r).isNone) then none
  else
    let groups := ((into.map (fun r => (queuedGroups v r).getD [])).flatten).eraseDups
    let micro := sumBy (fun (g : Nat × Nat) =>
      let fed := into.filter (fun r => ((queuedGroups v r).getD []).contains g)
      let age := fed.foldl (fun a r => Nat.max a (fieldLe r 20 2)) 0
      let o := (canBlock pol g.1).getD 0 + 576 + 8 * g.2
      1000000 * byteAt pol (o + 2) + fieldLe pol o 2 * age) groups
    some ((micro + 999999) / 1000000)

/-- The routes of a section 0x000C. -/
def routesOf (sec : Bytes) : List Bytes := (List.range (fieldLe sec 0 2)).map (fun i => slice sec (64 + 32 * i) 32)

/-- The bound on waiting frames of QUEUED routes holds at every destination (R266). -/
def queuedOk (v : ImgView) : Bool :=
  let routes := routesOf (v.sec 0x000C)
  allBelow 16 (fun d =>
    match queuedBound v routes d with
    | some n => decide (n ≤ 128)
    | none => false)

/-- Section 0x000C (R264, R266). -/
def routesOk (v : ImgView) (sec : Bytes) : Bool :=
  let n := fieldLe sec 0 2
  let routes := routesOf sec
  let key := fun r => (byteAt r 0 * 2 + b2n (bit (byteAt r 1) 0)) * 2 ^ 32 + fieldLe r 4 4
  decide (n ≤ 8192) && zeroAt sec 2 62 && sec.length == 64 + 32 * n && routes.all (routeOk v)
    && chained (fun a b => decide (key a < key b)) routes
    && noPair (fun a b => byteAt a 0 == byteAt b 0 && bit (byteAt a 1) 0 == bit (byteAt b 1) 0
        && idsMeet (fieldLe a 4 4, fieldLe a 8 4) (fieldLe b 4 4, fieldLe b 8 4)) routes
    && decide (sumBy (fun r => (dstList r).length) routes ≤ 8192)
    && allBelow 16 (fun d => decide ((routes.filter (fun r => bit (byteAt r 1) 1 && bit (fieldLe r 2 2) d)).length ≤ 64))
    && queuedOk v

/-- Section 0x0004 (R142), with the bound of R266 that a change of its rates may break. -/
def canSectionOk (v : ImgView) (sec : Bytes) : Bool := canPolicyOk sec && ((v.secs 0x000C).isNone || queuedOk v)

/-! Ports (R280). -/

/-- Ports that certificate entries name as IN_PORT or OUT_PORT. -/
def certNames (v : ImgView) (p : Nat) : Bool :=
  let c := v.sec 0x00F0
  (List.range (fieldLe c 10 2)).any (fun i => byteAt c (64 + 16 * i + 2) == p || byteAt c (64 + 16 * i + 3) == p)

/-- MODE is admitted for the port's type (Table 10.1). -/
def modeAdmitted (p m : Nat) : Bool :=
  if p < 8 then within 0x01 0x03 m else if p < 12 then within 0x10 0x14 m else if p < 24 then within 0x20 0x21 m else m == 0x30

/-- An enabled port's block (Table 10.3, R280). -/
def portBlockOk (v : ImgView) (sec : Bytes) (p : Nat) : Bool :=
  let c := portCfgOf sec p
  let o := 64 + 64 * p
  let ts := decide (24 ≤ p)
  let xs := within 8 11 p
  let macsec := bit c.flags 6
  modeAdmitted p c.mode && decide (c.flags < 128) && within 64 10240 c.maxFrame
    && (!bit c.flags 0 || (decide (p < 8) && !certNames v p)) && (!(xs || ts) || bits c.flags 1 3 == 0)
    && (if ts then
          (decide (c.plcaId ≤ 15) || c.plcaId == 0xFF)
            && (if c.plcaId = 0 then within 2 16 c.plcaCount else c.plcaCount == 0)
            && (if c.plcaId = 0xFF then c.plcaTimer == 0 && c.plcaBurst == 0 else decide (1 ≤ c.plcaTimer))
        else c.plcaId == 0 && c.plcaCount == 0 && c.plcaTimer == 0 && c.plcaBurst == 0)
    && (c.mdioAddr == 0xFF || (xs && decide (c.mdioAddr ≤ 31))) && decide (c.mdioClause ≤ 1) && byteAt sec (o + 11) == 0
    && (if macsec then within 1 4 c.cipher && !ts else c.cipher == 0)
    && decide (c.secy < 128) && decide (bits c.secy 3 2 ≤ 2) && (c.confOffset == 0 || c.confOffset == 30 || c.confOffset == 50)
    && byteAt sec (o + 15) == 0 && decide (c.rxscNum ≤ 16) && zeroAt sec (o + 31) 33
    && decide (c.rxscFirst + c.rxscNum ≤ fieldLe sec 4 2)
    && allBelow c.rxscNum (fun i => byteAt sec (1856 + 16 * (c.rxscFirst + i) + 8) == p)

/-- Section 0x000E (R280). -/
def portsOk (v : ImgView) (sec : Bytes) : Bool :=
  let n := fieldLe sec 4 2
  let rx := fun i => slice sec (1856 + 16 * i) 16
  decide (fieldLe sec 0 4 < 2 ^ 28) && decide (n ≤ 256) && zeroAt sec 6 58 && sec.length == 1856 + 16 * n
    && allBelow 28 (fun p => if bit (fieldLe sec 0 4) p then portBlockOk v sec p else zeroAt sec (64 + 64 * p) 64)
    && allBelow n (fun i => decide (byteAt (rx i) 8 ≤ 23) && zeroAt (rx i) 9 7)
    && noPair (fun i j => (rx i).take 9 == (rx j).take 9) (List.range n)

/-! Time (R229). -/

/-- Section 0x000F (R229). -/
def timeOk (sec : Bytes) : Bool :=
  let mask := byteAt sec 0
  let enabled := (List.range 4).filter (fun d => bit mask d)
  let named := fun n => n == 4 || (decide (n < 4) && bit mask n)
  let cfg := domCfgOf sec
  sec.length == 512 && bit mask 0 && decide (mask < 16) && (byteAt sec 1 == 0xFF || named (byteAt sec 1)) && decide (byteAt sec 2 < 2)
    && decide (byteAt sec 3 ≤ 7) && within 1 500000 (fieldLe sec 4 4)
    && decide (-3 ≤ signed 1 (byteAt sec 8)) && decide (signed 1 (byteAt sec 8) ≤ 3) && zeroAt sec 9 55 && zeroAt sec 384 128
    && allBelow 4 (fun i =>
      let o := 64 + 16 * i
      let period := fieldLe sec (o + 4) 4
      match byteAt sec o with
      | 0 => zeroAt sec (o + 1) 15
      | 1 => within 1 3 (byteAt sec (o + 1)) && named (byteAt sec (o + 2)) && zeroAt sec (o + 3) 13
      | 2 => byteAt sec (o + 1) == 0 && named (byteAt sec (o + 2)) && byteAt sec (o + 3) == 0 && within 100 1000000000 period
               && decide (fieldLe sec (o + 8) 4 < period) && within 20 (period - 20) (fieldLe sec (o + 12) 4)
      | _ => false)
    && allBelow 4 (fun d =>
      let o := 128 + 64 * d
      let c := cfg d
      if !bit mask d then zeroAt sec o 64
      else
        decide (c.number ≤ 127) && decide (c.source ≤ 2)
          && (if c.source = 0 then decide (c.slave ≤ 27) && c.fallback == 0xFF && c.gmId == 0
              else c.slave == 0xFF && (c.fallback == 0xFF || decide (c.fallback ≤ 27)))
          && decide (c.masters < 2 ^ 28) && !(decide (c.slave ≤ 27) && bit c.masters c.slave)
          && !(decide (c.fallback ≤ 27) && bit c.masters c.fallback)
          && decide (-7 ≤ c.logSync) && decide (c.logSync ≤ 0) && within 2 16 c.timeout && decide (c.kp ≤ 15) && within c.kp 15 c.ki
          && zeroAt sec (o + 12) 4 && zeroAt sec (o + 26) 38)
    && noPair (fun a b => (cfg a).number == (cfg b).number || ((cfg a).source == 2 && (cfg b).source == 2)) enabled

/-! Sleep (R327). -/

/-- A channel carries a stream of the certificate: an entry names GW and a mapping of section 0x000B joins the channel to it
(R327). -/
def certChannel (v : ImgView) (ep : Nat) : Bool :=
  let sec := v.sec 0x000B
  certNames v 30 && (List.range (fieldLe sec 0 2)).any (fun i => byteAt sec (64 + 48 * i + 2) == ep)

/-- A port has TC10 in the image. -/
def tc10Port (v : ImgView) (p : Nat) : Bool :=
  let c := portCfgOf (v.sec 0x000E) p
  c.enabled && bit c.flags 4

/-- A segment entry (Table 12.4, R327). -/
def segmentOk (v : ImgView) (o : Nat) : Bool :=
  let sec := v.sec 0x0010
  let chans := fieldLe sec o 4
  let ports := fieldLe sec (o + 4) 4
  let idle := fieldLe sec (o + 12) 4
  decide (chans < 2 ^ 25) && decide (ports < 2 ^ 28) && decide (byteAt sec (o + 8) < 4) && zeroAt sec (o + 9) 3 && decide (idle ≤ 86400)
    && (chans != 0 || ports != 0)
    && allBelow 25 (fun n => !bit chans n || (channelConfigured (v.secs 0x000D) (48 + n) && !certChannel v (48 + n)))
    && allBelow 28 (fun p => !bit ports p || (tc10Port v p && !certNames v p))

/-- Section 0x0010 (R327). -/
def sleepOk (v : ImgView) (sec : Bytes) : Bool :=
  let f := byteAt sec
  let segs := f 13
  let auth := bit (f 5) 0
  let idle := fieldLe sec 28 4
  sec.length == 64 + 16 * segs && decide (segs ≤ 16) && within 2 64 (f 3) && decide (f 2 < f 3)
    && (f 4 == 0xFF || (decide (f 4 < f 3) && (if v.secondary then decide (f 4 < f 2) else decide (f 2 < f 4))))
    && decide (f 5 < 4) && decide (fieldLe sec 8 2 ≤ 20)
    && within 10 5000 (fieldLe sec 10 2) && (if auth then decide (f 12 ≤ 63) && v.duskSlot (f 12) else f 12 == 0)
    && within 1 1000 (fieldLe sec 14 2) && within 1 64 (f 16) && within 1 64 (f 17) && within 1 10 (f 18) && decide (f 19 < 128)
    && decide (f 20 < 128) && decide (f 21 < 16)
    && allBelow 16 (fun n => !bit (fieldLe sec 22 2) n || channelConfigured (v.secs 0x000D) (48 + n))
    && decide (fieldLe sec 24 4 < 2 ^ 28) && allBelow 28 (fun p => !bit (fieldLe sec 24 4) p || tc10Port v p)
    && (idle == 0 || within 10 86400 idle) && zeroAt sec 32 32
    && allBelow segs (fun i => segmentOk v (64 + 16 * i))
    && noPair (fun i j =>
        fieldLe sec (64 + 16 * i) 4 &&& fieldLe sec (64 + 16 * j) 4 != 0
          || fieldLe sec (68 + 16 * i) 4 &&& fieldLe sec (68 + 16 * j) 4 != 0) (List.range segs)

/-! Counters and the pair (R393, R428). -/

/-- Section 0x0011 (R428). -/
def countersOk (v : ImgView) (sec : Bytes) : Bool :=
  let period := fieldLe sec 0 2
  sec.length == 3136 && zeroAt sec 2 62 && (period == 0 || decide (1000000 ≤ period * v.cycle))
    && allBelow 384 (fun n =>
      let o := 64 + 8 * n
      sourceKnown (fieldLe sec o 4) && sourceDefined v.secs (fieldLe sec o 4) && decide (byteAt sec (o + 4) ≤ 2) && zeroAt sec (o + 5) 3)

/-- The certificate entry of a handle carries the FRER member flag. -/
def certMember (v : ImgView) (h : Nat) : Bool :=
  let c := v.sec 0x00F0
  (List.range (fieldLe c 10 2)).any (fun i => fieldLe c (64 + 16 * i) 2 == h && bit (byteAt c (64 + 16 * i + 5)) 1)

/-- Section 0x0012 of an image whose PAIR_SET_ID is not zero (R393). -/
def pairOk (v : ImgView) (sec : Bytes) : Bool :=
  let n := fieldLe sec 0 2
  decide (100000 ≤ v.cycle) && sec.length == 64 + 2 * n && decide (n ≤ 256) && decide (fieldLe sec 2 2 ≤ 4096)
    && within 2 100 (fieldLe sec 4 2) && within 1 16 (byteAt sec 6) && decide (byteAt sec 7 ≤ 1) && zeroAt sec 8 56
    && allBelow n (fun i => handleDefined (v.secs 0x0007) (fieldLe sec (64 + 2 * i) 2) && certMember v (fieldLe sec (64 + 2 * i) 2))
    && chained (fun a b => decide (a < b)) ((List.range n).map (fun i => fieldLe sec (64 + 2 * i) 2))

/-! The latency certificate (R88, R183). -/

/-- The highest rate in Mb/s of a mode (Table 10.1). -/
def topRate (m : Nat) : Nat := if m = 0x13 then 10000 else if m = 0x14 then 1000 else modeRate m

/-- Configured link rate of a port in Mb/s; 0 for a disabled one (R183). -/
def ImgView.linkRate (v : ImgView) (p : Nat) : Nat :=
  let c := portCfgOf (v.sec 0x000E) p
  if p = 28 then 31500 else if p = 29 then 1000 else if p = 30 then 10000 else if c.enabled then topRate c.mode else 0

/-- t_in and t_out of a port in units of 0.01 ns (Table 6.13). -/
def portTimes (p rate : Nat) : Nat × Nat :=
  if within 8 11 p && decide (10000 < rate) then (1242, 1863)
  else if p < 12 then (2560, 3840)
  else if p < 28 ∨ p = 29 then (3200, 4800)
  else if p = 28 then (1600, 2400)
  else (5000, 7500)

/-- The latency floor in ns of an entry at pace `pace` (R183). -/
def latencyFloor (v : ImgView) (inPort outPort maxFrame pace : Nat) (cut : Bool) : Nat :=
  let r := v.linkRate inPort
  let accBits := if cut then 512 else 8 * maxFrame
  let ports := (portTimes inPort r).1 + (portTimes outPort (v.linkRate outPort)).2
  let num := ports * r * pace + 100000 * accBits * pace + 100 * 401408 * r
  let den := 100 * r * pace
  (num + den - 1) / den

/-- R180 can hold for the ports of an entry that assumes cut-through. -/
def cutThroughCan (v : ImgView) (inPort outPort : Nat) : Bool :=
  let out := (v.rate outPort).getD 0
  let c := portCfgOf (v.sec 0x000E) inPort
  decide (inPort < 24) && decide (outPort < 24) && out != 0 && decide (out ≤ v.linkRate inPort)
    && !(bit c.flags 6 && bits c.secy 3 2 == 2 && !bit c.secy 6)

/-- A certificate entry at offset `o` (Table 3.10, R88). -/
def certEntryOk (v : ImgView) (sec : Bytes) (o : Nat) : Bool :=
  let inP := byteAt sec (o + 2)
  let outP := byteAt sec (o + 3)
  let cut := bit (byteAt sec (o + 5)) 0
  decide (inP ≤ 30) && decide (outP ≤ 30) && decide (byteAt sec (o + 4) ≤ 7) && decide (byteAt sec (o + 5) < 4) && zeroAt sec (o + 6) 2
    && !bit (byteAt sec 8) (byteAt sec (o + 4)) && v.linkRate inP != 0 && v.linkRate outP != 0
    && (!cut || cutThroughCan v inP outP)
    && decide (latencyFloor v inP outP (fieldLe sec (o + 12) 4) (fieldLe sec 4 2) cut ≤ fieldLe sec (o + 8) 4)

/-- Section 0x00F0 (R88). -/
def certOk (v : ImgView) (sec : Bytes) : Bool :=
  let n := fieldLe sec 10 2
  let handles := (List.range n).map (fun i => fieldLe sec (64 + 16 * i) 2)
  let defined := match v.secs 0x0007 with
    | some p => filterCount p
    | none => 0
  fieldLe sec 0 2 == 1 && decide (fieldLe sec 2 2 ≤ 2) && within 3277 5530 (fieldLe sec 4 2) && decide (fieldLe sec 6 2 ≤ 1024)
    && byteAt sec 9 == 0 && decide (n ≤ 4096) && fieldLe sec 12 4 == v.cycle && zeroAt sec 16 48 && sec.length == 64 + 16 * n
    && (fieldLe sec 2 2 != 0 || byteAt sec 8 != 0) && handles == List.range defined
    && allBelow n (fun i => certEntryOk v sec (64 + 16 * i))

/-! All sections. -/

/-- The internal checks of one section of an image (check 11 of Table 3.6). -/
def sectionOk (v : ImgView) (id : Nat) (sec : Bytes) : Bool :=
  match id with
  | 0x0001 => parseOk v sec
  | 0x0002 => keysOk v sec
  | 0x0003 => firewallOk sec
  | 0x0004 => canSectionOk v sec
  | 0x0005 => forwardOk sec
  | 0x0006 => poolsOk sec
  | 0x0007 => psfpOk v sec
  | 0x0008 => frerOk v sec
  | 0x0009 => gatesOk v sec
  | 0x000A => shapersOk v sec
  | 0x000B => seamOk v sec
  | 0x000C => routesOk v sec
  | 0x000D => channelsOk sec
  | 0x000E => portsOk v sec
  | 0x000F => timeOk sec
  | 0x0010 => sleepOk v sec
  | 0x0011 => countersOk v sec
  | 0x0012 => allZero (slice v.header 56 16) || pairOk v sec
  | _ => true

end Sys2Proof.Machine
end

