-- ==== Sys2Proof/Machine/Verify.lean ====
section
/-!
DEFINITION. Verification of what the integrator signs: the run image container of Table 3.6 and the firmware manifest of
Table 13.13, with the trust of their keys (R68–R74, R479, R364, R413).
-/
namespace Sys2Proof.Machine

/-! Signature blocks (Table 3.4). -/

/-- The fields of a signature block that no later check judges (R479). -/
def sigFieldsOk (blk : Bytes) (pq : Bool) : Bool :=
  fieldLe blk 0 4 == b2n pq && fieldLe blk 8 4 == 65537 && decide (fieldLe blk 4 2 ≤ 63) && decide (fieldLe blk 6 2 ≤ 63)
    && (pq || fieldLe blk 6 2 == 0) && zeroAt blk 12 52 && (!pq || zeroAt blk 8307 13)

/-- A public key is trusted: its SHA-512 is the digest the slot holds, and the slot carries the usage, the verifier's master
and the life-cycle state (R71, R415); the manifest verifier may use slots 0–3 that admit FIELD in RETIRED (R413). -/
def keyTrusted (slot usage master : Nat) (key : Bytes) (s : State) : Bool :=
  let k := keySlot s slot
  k.kind == 3 && bit k.usage usage && bit k.masters master
    && (slotLc k s || (s.otp.lcState == .retired && usage == 2 && decide (slot < 4) && bit k.lc 2))
    && sha512 key == fit 64 k.material

/-- RSA_E followed by RSA_N of a signature block. -/
def blockRsaKey (blk : Bytes) : Bytes := slice blk 8 4 ++ slice blk 64 512

/-- PQ_PUB of a signature block. -/
def blockPqKey (blk : Bytes) : Bytes := slice blk 1088 2592

/-- The keys a signature block names are trusted (R71). -/
def blockTrusted (blk : Bytes) (pq : Bool) (usage master : Nat) (s : State) : Bool :=
  keyTrusted (fieldLe blk 4 2) usage master (blockRsaKey blk) s
    && (!pq || keyTrusted (fieldLe blk 6 2) usage master (blockPqKey blk) s)

/-- RSA_SIG is valid over a message (R70). -/
def blockRsaOk (blk msg : Bytes) : Bool := rsaPssVerify (fieldLe blk 8 4) (slice blk 64 512) (slice blk 576 512) msg

/-- PQ_SIG_VALUE is valid over a message (R70). -/
def blockPqOk (blk msg : Bytes) : Bool := mldsaVerify (blockPqKey blk) msg (slice blk 3680 4627)

/-! The container (R68, R69, R479). -/

/-- SECTION_COUNT. -/
def cntSections (b : Bytes) : Nat := fieldLe b 6 2
/-- FLAGS.PQ_SIG. -/
def imagePq (b : Bytes) : Bool := bit (fieldLe b 30 2) 0
/-- SIG_OFFSET. -/
def imageSigAt (b : Bytes) : Nat := fieldLe b 48 4
/-- The signature block of a container. -/
def imageSig (b : Bytes) : Bytes := b.drop (imageSigAt b)

/-- Check 2 of Table 3.6: the header and the signature block's fields (R479). -/
def containerOk (b : Bytes) : Bool :=
  let len := fieldLe b 8 4
  fieldLe b 0 4 == 0x96201A6E && fieldLe b 4 2 == 1 && len == b.length && len % 64 == 0 && decide (len ≤ 2097152)
    && within 1 32 (cntSections b) && decide (fieldLe b 28 2 ≤ 2) && decide (fieldLe b 30 2 < 2) && zeroAt b 104 24
    && within 1000 1000000000 (fieldLe b 32 4) && decide (fieldLe b 42 4 < 1000000000) && fieldLe b 46 2 == 0
    && imageSigAt b % 64 == 0 && decide (128 + 96 * cntSections b ≤ imageSigAt b)
    && fieldLe b 52 4 == (if imagePq b then 8320 else 1088) && imageSigAt b + fieldLe b 52 4 == len
    && sigFieldsOk (imageSig b) (imagePq b)

/-- Section table entry `i` (Table 3.2). -/
def sectionEntry (b : Bytes) (i : Nat) : Bytes := slice b (128 + 96 * i) 96

/-- SECTION_ID of an entry. -/
def entryId (e : Bytes) : Nat := fieldLe e 0 2

/-- Content of the section of an entry. -/
def entryContent (b e : Bytes) : Bytes := slice b (fieldLe e 4 4) (fieldLe e 8 4)

/-- The entries of the section table. -/
def sectionEntries (b : Bytes) : List Bytes := (List.range (cntSections b)).map (sectionEntry b)

/-- SECTION_IDs of Table 3.3. -/
def sectionKnown (id : Nat) : Bool := within 0x0001 0x0012 id || id == 0x00F0 || within 0x8000 0x80FF id

/-- Sections every image holds (Table 3.3). -/
def requiredSections : List Nat := [0x0001, 0x0002, 0x0003, 0x0005, 0x0006, 0x000E, 0x000F, 0x00F0]

/-- Sections that may be PATCHABLE (Table 3.3). -/
def patchableSections : List Nat := [0x0002, 0x0003, 0x0004, 0x0005, 0x000C, 0x0011]

/-- Check 9 of Table 3.6: the section table and the zero-filled gaps (R68, R69). -/
def tableFits (b : Bytes) : Bool :=
  let es := sectionEntries b
  let ends := 128 + 96 * cntSections b
  es.all (fun e =>
      let off := fieldLe e 4 4
      let len := fieldLe e 8 4
      sectionKnown (entryId e) && decide (fieldLe e 2 2 < 2) && (fieldLe e 2 2 == 0 || patchableSections.contains (entryId e))
        && off % 64 == 0 && decide (1 ≤ len) && decide (ends ≤ off) && decide (off + len ≤ imageSigAt b) && zeroAt e 14 18)
    && chained (fun a c => decide (entryId a < entryId c) && decide (fieldLe a 4 4 + fieldLe a 8 4 ≤ fieldLe c 4 4)) es
    && requiredSections.all (fun id => es.any (fun e => entryId e == id))
    && zeroOutside (b.take (imageSigAt b)) ((0, ends) :: es.map (fun e => (fieldLe e 4 4, fieldLe e 8 4)))

/-- The image of a container whose table fits. -/
def imageOf (b : Bytes) : RunImage :=
  let es := sectionEntries b
  { header := b.take 128
    sections := es.map (fun e => (entryId e, entryContent b e))
    patchable := (es.filter (fun e => bit (fieldLe e 2 2) 0)).map entryId
    digest := sha512 (b.take (imageSigAt b)) }

/-- What the internal checks see of an image on a target. -/
def viewOf (i : RunImage) (secondary : Bool) (s : State) : ImgView :=
  { header := i.header, secs := imgSection i, secondary := secondary
    duskSlot := fun n => bit (keySlot s n).usage 4 }

/-- The first section that fails check 11: its SFORMAT (R69) or its internal checks, or section 0x0012 where a pair's image
lacks it (R393). -/
def failingSection (b : Bytes) (v : ImgView) : Option Nat :=
  match (sectionEntries b).find? (fun e =>
      let id := entryId e
      id != 0x00F0 && decide (id < 0x8000) && (fieldLe e 12 2 != 1 || !sectionOk v id (entryContent b e))) with
  | some e => some (entryId e)
  | none => if !allZero (slice v.header 56 16) && (v.secs 0x0012).isNone then some 0x0012 else none

/-- The certificate's section table entry carries SFORMAT 0x0001 (R88). -/
def certFormatOk (b : Bytes) : Bool := (sectionEntries b).all (fun e => entryId e != 0x00F0 || fieldLe e 12 2 == 1)

/-- A failed verification: status, DETAIL and failing SECTION_ID. -/
structure VerifyFailure where
  status : Nat
  detail : Nat
  sectionId : Nat := 0

/-- What the device that verifies an image brings to the checks of Table 3.6. -/
structure Verifier where
  /-- MIN_REV and MIN_FW of the image are met (check 3). -/
  recent : Bool
  /-- PAIR_ROLE strap (check 4). -/
  secondary : Bool
  /-- The keys are trusted, and PQ_SIG is 1 where PQ_REQUIRED is blown (check 5). -/
  trusted : Bool
  /-- ROLLBACK reaches the stored counter (check 8). -/
  current : Bool
  /-- Key slots that carry the Dusk usage (check 11). -/
  duskSlot : Nat → Bool

/-- Checks 2 to 12 of Table 3.6 on a container. -/
def judgeBytes (b : Bytes) (x : Verifier) : Except VerifyFailure RunImage :=
  let fail := fun d => VerifyFailure.mk stVerifyFail d 0
  let msg := b.take (imageSigAt b)
  if !containerOk b then .error (fail 0x0103)
  else if fieldLe b 12 2 ≠ 0x9620 ∨ !x.recent then .error (fail 0x0104)
  else if fieldLe b 28 2 ≠ 0 ∧ (fieldLe b 28 2 == 2) ≠ x.secondary then .error (fail 0x0105)
  else if !x.trusted then .error (fail 0x0106)
  else if !blockRsaOk (imageSig b) msg then .error (fail 0x0107)
  else if imagePq b ∧ !blockPqOk (imageSig b) msg then .error (fail 0x0108)
  else if !x.current then .error ⟨stRollback, 0x0109, 0⟩
  else if !tableFits b then .error (fail 0x010A)
  else if !(sectionEntries b).all (fun e => sha512 (entryContent b e) == slice e 32 64) then .error (fail 0x010B)
  else
    let i := imageOf b
    let v : ImgView := { header := i.header, secs := imgSection i, secondary := x.secondary, duskSlot := x.duskSlot }
    match failingSection b v with
    | some id => .error ⟨stVerifyFail, 0x010C, id⟩
    | none =>
      if !certFormatOk b || !certOk v (v.sec 0x00F0) then .error ⟨stVerifyFail, 0x010D, 0x00F0⟩ else .ok i

/-- This device as a verifier of a container, with a firmware version and a PAIR_ROLE strap. -/
def ownVerifier (b : Bytes) (fw : Nat) (secondary : Bool) (s : State) : Verifier :=
  { recent := decide (fieldLe b 14 2 ≤ sysRev) && decide (fieldLe b 16 4 ≤ fw)
    secondary := secondary
    trusted := (!s.otp.pqRequired || imagePq b) && blockTrusted (imageSig b) (imagePq b) 1 6 s
    current := decide (s.img.rollback ≤ fieldLe b 20 4)
    duskSlot := fun n => bit (keySlot s n).usage 4 }

/-- Checks 2 to 12 of Table 3.6 on a container by this device. -/
def judgeImage (b : Bytes) (fw : Nat) (secondary : Bool) (s : State) : Except VerifyFailure RunImage :=
  judgeBytes b (ownVerifier b fw secondary s)

/-! Firmware manifests (R364, R365, Table 13.13). -/

/-- A part of a manifest (Table 13.10). -/
structure Part where
  ty : Nat
  size : Nat
  version : Nat
  rollback : Nat
  offset : Nat
  digest : Bytes

/-- What a manifest that passes its checks tells. -/
structure Manifest where
  digest : Bytes
  version : Nat
  trialLimit : Nat
  parts : List Part

/-- A failed manifest check: status, DETAIL and part index, 0xFFFF where no part is at fault. -/
structure ManifestFailure where
  status : Nat
  detail : Nat
  part : Nat := 0xFFFF

/-- SIG_OFFSET that a PART_COUNT gives. -/
def manSigAt (m : Bytes) : Nat := 64 + 128 * fieldLe m 6 2

/-- MFLAGS.PQ_SIG. -/
def manPq (m : Bytes) : Bool := bit (fieldLe m 20 2) 0

/-- The signature block of a manifest. -/
def manSig (m : Bytes) : Bytes := slice m (manSigAt m) 8320

/-- Check 1 of Table 13.13. -/
def manHeaderOk (m : Bytes) (bankLen : Nat) : Bool :=
  let len := fieldLe m 8 4
  fieldLe m 0 4 == 0x96203F4D && fieldLe m 4 2 == 1 && within 1 32 (fieldLe m 6 2) && decide (len ≤ 65536) && decide (len ≤ bankLen)
    && fieldLe m 24 4 == manSigAt m && fieldLe m 28 4 == (if manPq m then 8320 else 1088) && len == manSigAt m + fieldLe m 28 4
    && decide (fieldLe m 20 2 < 2) && decide (byteAt m 22 ≤ 7) && byteAt m 23 == 0 && zeroAt m 32 32 && sigFieldsOk (manSig m) (manPq m)

/-- Part entry `i`. -/
def partOf (m : Bytes) (i : Nat) : Part :=
  let e := slice m (64 + 128 * i) 128
  { ty := fieldLe e 0 2, size := fieldLe e 4 4, version := fieldLe e 8 4, rollback := fieldLe e 12 4, offset := fieldLe e 16 4
    digest := slice e 64 64 }

/-- The parts of a manifest. -/
def partsOf (m : Bytes) : List Part := (List.range (fieldLe m 6 2)).map (partOf m)

/-- A part's own fields (Table 13.10, R364). -/
def partFieldsOk (m : Bytes) (bankLen i : Nat) : Bool :=
  let e := slice m (64 + 128 * i) 128
  let p := partOf m i
  within 1 6 p.ty && decide (1 ≤ p.size) && p.offset % 4096 == 0 && decide (fieldLe m 8 4 ≤ p.offset) && decide (p.offset + p.size ≤ bankLen)
    && zeroAt e 2 2 && zeroAt e 20 44 && (p.ty != 6 || decide (p.size ≤ 2097152))

/-- Parts of a type. -/
def partsOfType (l : List Part) (ty : Nat) : List Part := l.filter (fun p => p.ty == ty)

/-- Index of the first part that fails check 6 of Table 13.13, or 0xFFFF for a fault of the table as a whole. -/
def badPart (m : Bytes) (bankLen : Nat) : Option Nat :=
  let l := partsOf m
  match (List.range l.length).find? (fun i => !partFieldsOk m bankLen i) with
  | some i => some i
  | none =>
    if (List.range 4).all (fun k => (partsOfType l (k + 1)).length == 1) && decide ((partsOfType l 5).length ≤ 1)
        && decide ((partsOfType l 6).length ≤ 1) && noPair rangesMeet (l.map (fun p => (p.offset, p.size)))
        && decide (sumBy (fun p => if p.ty = 6 then 0 else p.size) l ≤ 6291456)
      then none else some 0xFFFF

/-- Stored rollback counter of a part's type (R365). -/
def storedRollback (s : State) (ty : Nat) : Nat := if ty = 6 then s.img.rollback else partRollback s ty

/-- The bytes of a part in its bank. -/
def partBytes (bank : Mem) (p : Part) : Bytes := Mem.readAll bank p.offset p.size

/-- VERSION of the firmware part. -/
def firmwareVersion (l : List Part) : Nat :=
  match partsOfType l 1 with
  | p :: _ => p.version
  | [] => 0

/-- What the device that verifies a bank brings to the checks of Table 13.13. -/
structure BankVerifier where
  /-- The keys are trusted (check 3). -/
  trusted : Bool
  /-- PQ_REQUIRED is blown (check 5). -/
  pqRequired : Bool
  /-- A part's ROLLBACK reaches its stored counter (check 8). -/
  current : Part → Bool
  /-- The verifier of a run image part under a firmware version (check 9). -/
  image : Bytes → Nat → Verifier

/-- This device as a verifier of the manifest `m`. -/
def ownBankVerifier (m : Bytes) (s : State) : BankVerifier :=
  { trusted := blockTrusted (manSig m) (manPq m) 2 7 s
    pqRequired := s.otp.pqRequired
    current := fun p => decide (storedRollback s p.ty ≤ p.rollback)
    image := fun b fw => ownVerifier b fw s.sys.straps.secondary s }

/-- Checks 1 to 7 of Table 13.13 on a bank. -/
def judgeBankBy (bank : Mem) (bankLen : Nat) (x : BankVerifier) : Except ManifestFailure Manifest :=
  let m := Mem.readAll bank 0 65536
  let msg := m.take (manSigAt m)
  let blk := manSig m
  let fail := fun d => ManifestFailure.mk stVerifyFail d 0xFFFF
  if !manHeaderOk m bankLen then .error (fail 0x0B01)
  else if fieldLe m 12 2 ≠ 0x9620 ∨ sysRev < fieldLe m 14 2 then .error (fail 0x0B02)
  else if !x.trusted then .error (fail 0x0B03)
  else if !blockRsaOk blk msg then .error (fail 0x0B04)
  else if (x.pqRequired ∧ !manPq m) ∨ (manPq m ∧ !blockPqOk blk msg) then .error (fail 0x0B05)
  else
    match badPart m bankLen with
    | some i => .error ⟨stVerifyFail, 0x0B06, i⟩
    | none =>
      let l := partsOf m
      match (List.range l.length).find? (fun i => sha512 (partBytes bank (partOf m i)) != (partOf m i).digest) with
      | some i => .error ⟨stVerifyFail, 0x0B07, i⟩
      | none =>
        .ok { digest := sha512 msg, version := fieldLe m 16 4, trialLimit := if byteAt m 22 = 0 then 3 else byteAt m 22, parts := l }

/-- Checks 1 to 7 of Table 13.13 by this device. -/
def judgeBank (bank : Mem) (bankLen : Nat) (s : State) : Except ManifestFailure Manifest :=
  judgeBankBy bank bankLen (ownBankVerifier (Mem.readAll bank 0 65536) s)

/-- Check 8 of Table 13.13: index of the first part below its stored counter. -/
def oldPart (m : Manifest) (s : State) : Option Nat := m.parts.findIdx? (fun p => decide (p.rollback < storedRollback s p.ty))

/-- The run image part of a manifest with its index. -/
def imagePart (m : Manifest) : Option (Nat × Part) :=
  match m.parts.findIdx? (fun p => p.ty == 6) with
  | some i => (m.parts[i]?).map (fun p => (i, p))
  | none => none

/-- Checks 1 to 9 of Table 13.13. -/
def judgeManifestBy (bank : Mem) (bankLen : Nat) (x : BankVerifier) : Except ManifestFailure Manifest :=
  match judgeBankBy bank bankLen x with
  | .error e => .error e
  | .ok m =>
    match m.parts.findIdx? (fun p => !x.current p) with
    | some i => .error ⟨stRollback, 0x0B08, i⟩
    | none =>
      match imagePart m with
      | none => .ok m
      | some (i, p) =>
        let b := partBytes bank p
        match judgeBytes b (x.image b (firmwareVersion m.parts)) with
        | .error e => .error ⟨e.status, e.detail, i⟩
        | .ok _ => .ok m

/-- Checks 1 to 9 of Table 13.13 by this device. -/
def judgeManifest (bank : Mem) (bankLen : Nat) (s : State) : Except ManifestFailure Manifest :=
  judgeManifestBy bank bankLen (ownBankVerifier (Mem.readAll bank 0 65536) s)

end Sys2Proof.Machine
end

