-- ==== Sys2Proof/Machine/Switch.lean ====
section
/-!
DEFINITION. What changes when the data path switches from one bank to another: at the activation of an image, at the swap
of a patch, at a swap of the rule banks, and at a return to AUTONOMOUS (chapter The run image; R115, R229, R274, R293).
-/
namespace Sys2Proof.Machine

/-! Rule banks (R115–R117). -/

/-- The rule bank content of an image; the ROM program without one (R111). -/
def bankOf (i : Option RunImage) : RuleBank :=
  { prog := i.bind (fun i => imgSection i 0x0001), keys := i.bind (fun i => imgSection i 0x0002) }

/-- The non-live bank is loaded and held until its swap (R117). -/
def loadOther (b : RuleBank) (s : State) : State :=
  { s with lanes := { s.lanes with banks := Tab.set s.lanes.banks (1 - s.lanes.live) b, other := 2 } }

/-- The non-live bank is given up without a swap (R117). -/
def releaseOther (s : State) : State := if s.lanes.other = 2 then { s with lanes := { s.lanes with other := 0 } } else s

/-- The banks swap: the epoch rises and the old bank drains (R115, R116). -/
def swapBanks (s : State) : State :=
  { s with lanes := { s.lanes with
      live := 1 - s.lanes.live, rom := false, epoch := (s.lanes.epoch + 1) % 65536, other := 1 } }

/-- The lanes go over to the ROM program in a new epoch.  It stands in neither bank, so a bank that drains and a bank that
holds a staged image stay as they are; a refresh of the device's own is given up (R111, R115, R117, log 125). -/
def runRom (s : State) : State :=
  let s := if s.lanes.refreshAt.isSome then releaseOther s else s
  { s with lanes := { s.lanes with
      rom := true, epoch := (s.lanes.epoch + 1) % 65536, refreshDue := false, refreshAt := none } }

/-- The bank first loaded after a reset of the data path has epoch 0 (R115). -/
def firstBank (i : Option RunImage) (s : State) : State :=
  { s with lanes := { s.lanes with
      banks := [(0, bankOf i)], live := 0, rom := i.isNone, epoch := 0, other := 0, refreshDue := false, refreshAt := none } }

/-- Result of a PRS_BANK_SWAP: the new epoch and the new live bank (R118). -/
def swapResult (s : State) : Bytes := leBytes 2 s.lanes.epoch ++ [BitVec.ofNat 8 s.lanes.live, 0]

/-! Streams across an activation (R81). -/

/-- Everything sections of PSFP say of stream `h`: identification entries, filter, gate with its entries, and meter. -/
def streamParams (sec : Option Bytes) (h : Nat) : Option (List Bytes) :=
  match sec with
  | none => none
  | some b =>
    if filterCount b ≤ h then none
    else
      let ids := ((List.range (idCount b)).map (fun i => slice b (64 + 32 * i) 32)).filter (fun e => fieldLe e 2 2 == h)
      let f := slice b (filterOff b h) 16
      let g := fieldLe f 0 2
      let gate := if g = 0xFFFF then [] else slice b (gateOff b g) 16
      let entries := slice b (gentryOff b (fieldLe gate 8 2)) (8 * fieldLe gate 10 2)
      let m := fieldLe f 2 2
      some (ids ++ [f.drop 4, gate.take 8 ++ gate.drop 10, entries, if m = 0xFFFF then [] else slice b (meterOff b m) 32])

/-- Meter index of stream `h`. -/
def streamMeter (sec : Bytes) (h : Nat) : Nat := fieldLe sec (filterOff sec h + 2) 2

/-- Where each meter that a stream with unchanged parameters uses stood before: its new index and its old one. -/
def keptMeters (old new : Option Bytes) : List (Nat × Nat) :=
  match old, new with
  | some a, some b =>
    ((List.range (filterCount b)).filter (fun h => streamParams old h == streamParams new h && streamMeter b h != 0xFFFF)).map
      (fun h => (streamMeter b h, streamMeter a h))
  | _, _ => []

/-- Entry `e` of a FRER section (Table 7.16). -/
def frerBytes (sec : Option Bytes) (e : Nat) : Option Bytes :=
  match sec with
  | some b => if e < fieldLe b 0 2 then some (slice b (64 + 32 * e) 32) else none
  | none => none

/-- Entries of a FRER section. -/
def frerCount (sec : Option Bytes) : Nat :=
  match sec with
  | some b => fieldLe b 0 2
  | none => 0

/-- The entry that was FRER entry `n` before: the one of its stream handle, or of its number where it names no stream, if it
is unchanged (R81). -/
def frerBefore (old new : Option Bytes) (n : Nat) : Option Nat :=
  match frerBytes new n with
  | some x =>
    if fieldLe x 0 2 = 0xFFFF then (if frerBytes old n = some x then some n else none)
    else (List.range (frerCount old)).find? (fun m => frerBytes old m == some x)
  | none => none

/-- ATS scheduler `i` of a shaper section: its entry without the group's number, and its group's number and entry (Tables 7.7,
7.8). -/
def atsBytes (sec : Option Bytes) (i : Nat) : Option ((Bytes × Bytes) × Nat) :=
  match sec with
  | some b =>
    let g0 := 64 + 64 * shaperRank b 28
    let e := slice b (g0 + 16 * byteAt b 6 + 16 * i) 16
    let g := byteAt e 3
    if i < fieldLe b 4 2 then some ((e.take 3 ++ e.drop 4, slice b (g0 + 16 * g) 16), g) else none
  | none => none

/-- Schedulers of a shaper section. -/
def atsCount (sec : Option Bytes) : Nat :=
  match sec with
  | some b => fieldLe b 4 2
  | none => 0

/-- Where each scheduler whose stream handle, port and parameters are unchanged stood before: its new number and its old one,
each with its group's number (R81). -/
def keptSchedulers (old new : Option Bytes) : List ((Nat × Nat) × Nat × Nat) :=
  (List.range (atsCount new)).filterMap (fun i =>
    (atsBytes new i).bind (fun x =>
      (List.range (atsCount old)).findSome? (fun j =>
        (atsBytes old j).bind (fun y => if y.1 = x.1 then some ((i, x.2), j, y.2) else none))))

/-- A table whose entries move: each pair gives a new key and the old one whose value it takes. -/
def moved {α : Type} (t : Tab α) (l : List (Nat × Nat)) : Tab α :=
  l.foldl (fun u e => match t.lookup e.2 with
    | some v => Tab.set u e.1 v
    | none => u) []

/-- Meter, gate, FRER and ATS state is kept for each stream whose handle and parameters are unchanged, wherever its entries
stand in the new sections, and starts afresh for all others; `old` gives the sections before (R81, R213). -/
def activateStreams (old : Nat → Option Bytes) (s : State) : State :=
  let e := s.egr
  let before := frerBefore (old 0x0008) (liveSection s 0x0008)
  let entries := (List.range (frerCount (liveSection s 0x0008))).filterMap (fun n => (before n).map (fun m => (n, m)))
  let ats := keptSchedulers (old 0x000A) (liveSection s 0x000A)
  { s with egr := { e with
      meters := moved e.meters (keptMeters (old 0x0007) (liveSection s 0x0007))
      gens := moved e.gens entries
      recoveries := entries.foldl (fun u x => (List.range 28).foldl (fun u p =>
          match e.recoveries.lookup (32 * x.2 + p) with
          | some r => Tab.upd u (32 * x.1 + p) {} (fun c => { r with counts := c.counts })
          | none => u) u) (e.recoveries.map (fun r => (r.1, { counts := r.2.counts })))
      buckets := moved e.buckets (ats.map (fun a => (a.1.1, a.2.1)))
      groups := ats.foldl (fun u a => match e.groups.lookup a.2.2 with
          | some v => Tab.upd u a.1.2 v (fun w => max v w)
          | none => u) [] } }

/-! Egress and the Press (R166, R179, R198, R201). -/

/-- Preemption fields of a port: PREEMPTIBLE, flags and verify time. -/
def preemptFields (s : State) (p : Nat) : List Nat := [shaperField s p 32 1 0, shaperField s p 33 1 0, shaperField s p 34 2 0]

/-- A port meets its new shaper block: credit is kept where IDLE_SLOPE is unchanged, and preemption starts anew where its
fields change; `slopes` and `fields` are those before (R198, R201). -/
def activateEgress (p : Nat) (slopes fields : List Nat) (s : State) : State :=
  let e := egress s p
  let s := setEgress p { e with
    credit := e.credit.filter (fun c => slopes.getD c.1 0 == idleSlope s p c.1), creditAt := s.clk } s
  if fields != preemptFields s p && portUp s p then startPreemption p s else s

/-- Classes that go from SEQUENCED to PINNED: the first number assigned after the instant is still handled as SEQUENCED
(R179). -/
def repin (old : List Bool) (s : State) : State :=
  s.bsn.seqs.foldl (fun s (e : Nat × Nat) =>
    let c := e.1 % 8
    let input := e.1 / 256
    let out := e.1 / 8 % 32
    if !old.getD c false && isPinned s c then setPress out input c { pressOf s out input c with pinnedFrom := some e.2 } s
    else if !isPinned s c then setPress out input c { pressOf s out input c with pinnedFrom := none } s
    else s) s

/-- A port asked to hold by PLCA whose device is not coordinator is recorded (R166). -/
def notePlcaHold (s : State) : State :=
  [24, 25, 26, 27].foldl (fun s p =>
    if poolField s (130 + 8 * p) 1 3 = 3 ∧ !isCoordinator s p ∧ (portCfg s p).enabled then record 0x0403 [BitVec.ofNat 8 p] s
    else s) s

/-! Time domains (R222, R229). -/

/-- A domain meets its block: unchanged it keeps everything; enabled anew it starts FREE at the local clock; changed it
keeps value, rate and state.  A FREE LOCAL_GM domain locks with a step of zero (R222, R229). -/
def activateDomain (old : Option Bytes) (s : State) (d : Nat) : State :=
  let v := dom s d
  let new := liveSection s 0x000F
  let on := match new with
    | some b => bit (byteAt b 0) d
    | none => d == 0
  if !on then
    if v.st = .disabled then s else wOnDomain d v.st false (setDom d { v with st := .disabled } s)
  else
    let same := old.map (fun b => slice b (128 + 64 * d) 64) == new.map (fun b => slice b (128 + 64 * d) 64)
    let s :=
      if v.st = .disabled then
        setDom d { v with st := .free, a := nsVal s.clk, la := s.clk, r := 0, acc := 0, window := [], edges := []
                          pendingSync := none, lastValid := none, lost := false } s
      else if same then s
      else setDom d { v with window := [], edges := [], pendingSync := none, autoSlave := none } s
    if new.isSome ∧ (domCfg s d).source = 1 ∧ (dom s d).st = .free then firstLock d 0 0 s else s

/-! The switch (R80, R81). -/

/-- Learned addresses after a change of VLANs: all flushed on leaving AUTONOMOUS, those of VLANs no longer learnable
otherwise (R81, R154). -/
def flushLearned (leaving : Bool) (s : State) : State :=
  { s with bsn := { s.bsn with
      learned := if leaving then [] else s.bsn.learned.filter (fun e => (vlanOf s (e.1 / 2 ^ 48)).learnable) } }

/-- The firewall follows the sections in force: scrub references, rate buckets, denied routes and connections whose crossing
has no diagram (R136, R140, R143, R147). -/
def refreshFirewall (s : State) : State :=
  let f := s.fwl
  dropDeniedConns (rejudgeRoutes { s with fwl := { f with
    ref3 := liveCrc3 s, ref4 := liveCrc4 s, buckets := [], bucketsAt := s.clk } })

/-- Mode of a device whose image is in force: PARTIAL while a segment sleeps (Table 1.8). -/
def imageRunMode (s : State) : Mode := if someAsleep s then .partialNet else .configured

/-- The data path is loaded in AUTONOMOUS under the reserved value of PROFILE (R361, Table 1.9). -/
def noteProfile (s : State) : State := if s.sys.straps.profile.toNat = 3 then record 0x0003 [] s else s

/-- Every table of the data path takes the content of `new`, or the ROM's where it is none; what R81 keeps stays. -/
def switchTables (new : Option RunImage) (s : State) : State :=
  let old := fun id => liveSection s id
  let oldChannels := chSection s
  let cfgs := (List.range 28).map (portCfg s)
  let s := (List.range 31).foldl (fun s p => settle p s) s
  let slopes := (List.range 31).map (fun p => (List.range 8).map (idleSlope s p))
  let fields := (List.range 31).map (preemptFields s)
  let pins := (List.range 8).map (isPinned s)
  let leaving := s.img.live.isNone && new.isSome
  let act := s.sys.straps
  let s := { s with
    sys := { s.sys with straps := if new.isNone then { act with profile := s.sys.sampled.profile } else act }
    time := { s.time with kept := none }
    img := { s.img with live := new, margin := false, goodReadings := 0, paceLow := none }
    bsn := { s.bsn with overflowSeen := false, lowShared := 53480 } }
  let s := flushLearned leaving (refreshFirewall s)
  let s := repin pins (activateStreams old s)
  let s := (List.range 31).foldl (fun s p => activateEgress p (slopes.getD p []) (fields.getD p []) s) s
  let s := activatePorts cfgs (old 0x000E) s
  let s := activateLegacy oldChannels (activateSegments (old 0x0010) s)
  let s := applyWakeSettings (activateCounters (liveSection s 0x0011) s)
  let s := (List.range 4).foldl (activateDomain (old 0x000F)) s
  refreshBp (notePlcaHold (settlePins { s with bsn := { s.bsn with lowShared := freeShared s } }))

/-- The live image takes a patch's section content. -/
def putSection (id : Nat) (content : Bytes) (s : State) : State :=
  match s.img.live with
  | some i => { s with img := { s.img with live := some { i with sections := Tab.set i.sections id content } } }
  | none => s

/-- A section of the content with the replacement bytes applied. -/
def patched (p : Patch) (b : Bytes) : Bytes := patchAt b p.offset p.data

/-- The swap of a patch: the content of its section comes into force with what follows from it (R85, R136, R143, R154,
R429). -/
def swapPatch (p : Patch) (s : State) : State :=
  if s.img.live.isNone then (if p.section_ = 0x0002 then releaseOther s else s)
  else
  let s := putSection p.section_ (patched p (liveBytes s p.section_)) s
  if p.section_ = 0x0002 then swapBanks s
  else if p.section_ = 0x0003 then
    dropDeniedConns (rejudgeRoutes { s with fwl := { s.fwl with ref3 := p.crc } })
  else if p.section_ = 0x0004 then { s with fwl := { s.fwl with ref4 := some p.crc, buckets := [], bucketsAt := s.clk } }
  else if p.section_ = 0x0005 then flushLearned false s
  else if p.section_ = 0x000C then rejudgeRoutes s
  else applyDefaults (liveSection s 0x0011) s

/-- The image with the patch log reapplied in order: the image, and how many entries stood their RESULT_CRC (R86). -/
def reapply (i : RunImage) : List Patch → RunImage × Nat
  | [] => (i, 0)
  | p :: ps =>
    let b := patched p ((imgSection i p.section_).getD [])
    if (imgSection i p.section_).isSome ∧ p.offset + p.data.length ≤ ((imgSection i p.section_).getD []).length ∧ crc64 b = p.crc then
      let (j, n) := reapply { i with sections := Tab.set i.sections p.section_ b } ps
      (j, n + 1)
    else (i, 0)

/-- Loading of an image with the patch log: entries from the first that fails are discarded (R83, R86). -/
def loadImage (i : RunImage) (s : State) : State :=
  let (j, n) := reapply i s.img.patchLog
  let s := if n < s.img.patchLog.length then record 0x0103 [] s else s
  { s with img := { s.img with patchLog := s.img.patchLog.take n, loaded := some j, loadedAt := s.clk } }

/-! The MRAM run image banks (R30, R72, R77). -/

/-- Run image bank `b`. -/
def imgBank (s : State) (b : Nat) : Mem := Tab.get s.img.banks b (Mem.blank 0)

/-- The bank that holds no active image (R72). -/
def inactiveBank (s : State) : Nat := 1 - s.img.activeMark.getD 1

/-- The container a bank holds. -/
def bankContainer (s : State) (b : Nat) : Bytes := Mem.readAll (imgBank s b) 0 (Tab.get s.img.lens b 0)

/-- The signed image of the bank that holds the ACTIVE mark. -/
def activeContainer (s : State) : Option RunImage := s.img.activeMark.map (fun b => imageOf (bankContainer s b))

end Sys2Proof.Machine
end

