-- ==== Sys2Proof/Machine/Image.lean ====
section
/-!
DEFINITION. The run image commands: staging, verification, activation, patching, status, the pace monitors and the
switches that follow (chapter The run image; R118, R120, R148, R149).
-/
namespace Sys2Proof.Machine

/-! Byte ranges written (R73, R77). -/

/-- A half-open range joins a list of disjoint ranges in rising order. -/
def addRange (a b : Nat) (l : List (Nat × Nat)) : List (Nat × Nat) :=
  let apart := fun (e : Nat × Nat) => decide (e.2 < a) || decide (b < e.1)
  let touch := l.filter (fun e => !apart e)
  let lo := touch.foldl (fun m e => Nat.min m e.1) a
  let hi := touch.foldl (fun m e => Nat.max m e.2) b
  l.filter (fun e => decide (e.2 < a)) ++ [(lo, hi)] ++ l.filter (fun e => decide (b < e.1))

/-- Every byte below `n` is written. -/
def allWritten (l : List (Nat × Nat)) (n : Nat) : Bool := n == 0 || l.any (fun e => e.1 == 0 && decide (n ≤ e.2))

/-- A range meets one already written. -/
def overlapsWritten (a b : Nat) (l : List (Nat × Nat)) : Bool := l.any (fun e => decide (e.1 < b) && decide (a < e.2))

/-! Targets (Table 3.5, R72, R76). -/

/-- Byte of TARGET in an image command's payload. -/
def imgTarget (off : Nat) (r : Req) : Nat := byteAt r.payload off

/-- The target may be named: this device, or the peer by the ACTIVE of a pair that has one (R72); while the mirror link is
down a known peer cannot be reached and is answered as none (log 121). -/
def targetOk (t : Nat) (s : State) : Bool := t == 0 || (t == 1 && s.pair.peerKnown && s.pair.mlUp && !isStandby s)

/-- The staging session of a target. -/
def imgSession (t : Nat) (s : State) : Option ImgSession := if t = 0 then s.img.session else s.img.peerSession

/-- Replaces the staging session of a target. -/
def setImgSession (t : Nat) (x : Option ImgSession) (s : State) : State :=
  if t = 0 then { s with img := { s.img with session := x } } else { s with img := { s.img with peerSession := x } }

/-- An activation is armed or a patch is pending (R72, R78, R84, R118). -/
def imageBusy (s : State) : Bool := s.img.armed.isSome || s.img.pending.isSome

/-- The session is not the sender's (R72). -/
def notOwner (t : Nat) (r : Req) (s : State) : Bool :=
  match imgSession t s with
  | some x => x.owner != r.transport
  | none => true

/-- The operating mode or role does not admit an IMG command (R76). -/
def imgWrongMode (_ : Req) (s : State) : Bool := isStandby s

/-- An arming command in QUIET is refused (R332, R35). -/
def armWrongMode (_ : Req) (s : State) : Bool := isStandby s || s.wake.ring == .quiet

/-! IMG_BEGIN and IMG_CHUNK (R72, R73, R77). -/

/-- The session of a target opens: marks are cleared, bytes stay, and the written ranges stay with the same IMAGE_LEN; a
staged image is discarded (R72, R75, R77). -/
def imgBegin (r : Req) (s : State) : State :=
  let len := fieldLe r.payload 0 4
  if imgTarget 4 r = 0 then
    let b := inactiveBank s
    let old := if Tab.get s.img.lens b 0 = len then Tab.get s.img.ranges b [] else []
    let staged := s.img.shadow.isSome
    let s := if staged then releaseOther s else s
    { s with img := { s.img with
        session := some { owner := r.transport, bank := b, len := len, written := old, verified := false, staged := false }
        lens := Tab.set s.img.lens b len, ranges := Tab.set s.img.ranges b old, shadow := none } }
  else
    let keep := match s.img.peerSession with
      | some x => if x.len = len then x.written else []
      | none => []
    { s with img := { s.img with
        peerSession := some { owner := r.transport, bank := 0, len := len, written := keep, verified := false, staged := false } } }

/-- IMG_BEGIN. -/
def imgBeginOp : OpDef :=
  { code := 0x0101
    wrongMode := imgWrongMode
    params := fun r s =>
      if r.payload.length ≠ 8 ∨ !targetOk (imgTarget 4 r) s ∨ !allZero (slice r.payload 5 3) then some 0 else none
    checks := fun r s =>
      let other := match imgSession (imgTarget 4 r) s with
        | some x => x.owner != r.transport
        | none => false
      if other || imageBusy s then some (stBusy, 0) else none
    commit := fun r s => answer r stOk 0 [] (imgBegin r s) }

/-- Meaning of IMG_BEGIN (R72). -/
def execImgBegin (c : CmdSource) (s : State) : Host.Outcome State Fault Refusal := .next (runCommand imgBeginOp c s)

/-- A chunk is written into its bank, which holds 2 MiB (R30, R73). -/
def imgChunk (r : Req) (s : State) : State :=
  let t := imgTarget 4 r
  match imgSession t s with
  | none => s
  | some x =>
    let off := fieldLe r.payload 0 4
    let data := (r.payload.drop 8).take (2097152 - off)
    let w := if data.isEmpty then x.written else addRange off (off + data.length) x.written
    let s := setImgSession t (some { x with written := w }) s
    if t = 0 then
      { s with img := { s.img with
          banks := Tab.set s.img.banks x.bank (Mem.writeAll (imgBank s x.bank) off data)
          ranges := Tab.set s.img.ranges x.bank w } }
    else { s with img := { s.img with peerBank := Mem.writeAll s.img.peerBank off data } }

/-- IMG_CHUNK. -/
def imgChunkOp : OpDef :=
  { code := 0x0102
    wrongMode := imgWrongMode
    params := fun r s =>
      if r.payload.length < 9 ∨ !targetOk (imgTarget 4 r) s ∨ !allZero (slice r.payload 5 3) then some 0
      else
        match imgSession (imgTarget 4 r) s with
        | some x => if x.len < fieldLe r.payload 0 4 + (r.payload.length - 8) then some 0x0101 else none
        | none => none
    checks := fun r s =>
      let t := imgTarget 4 r
      let closed := match imgSession t s with
        | some x => x.verified
        | none => true
      if notOwner t r s || closed then some (stBusy, 0) else none
    commit := fun r s => answer r stOk 0 [] (imgChunk r s) }

/-- Meaning of IMG_CHUNK (R73). -/
def execImgChunk (c : CmdSource) (s : State) : Host.Outcome State Fault Refusal := .next (runCommand imgChunkOp c s)

/-! IMG_VERIFY (R74, Table 3.6). -/

/-- The container of this device's session. -/
def sessionBytes (x : ImgSession) (s : State) : Bytes := Mem.readAll (imgBank s x.bank) 0 x.len

/-- The checks of Table 3.6 on this device's session. -/
def verifyOwn (x : ImgSession) (s : State) : Except VerifyFailure RunImage :=
  if allWritten x.written x.len then judgeImage (sessionBytes x s) s.sys.fwVersion.toNat s.sys.straps.secondary s
  else .error ⟨stVerifyFail, 0x0102, 0⟩

/-- P_CERT + MARGIN of an image's certificate (R89). -/
def paceThreshold (i : RunImage) : Nat :=
  let c := (imgSection i 0x00F0).getD []
  fieldLe c 4 2 + fieldLe c 6 2

/-- The result payload of IMG_VERIFY (Table 3.5). -/
def verifyResult (digest : Bytes) (sectionId pace threshold : Nat) : Bytes :=
  fit 64 digest ++ leBytes 2 sectionId ++ leBytes 2 pace ++ leBytes 2 threshold

/-- A certificate above the worst corner is recorded (R88). -/
def noteCert (i : RunImage) (s : State) : State :=
  let c := (imgSection i 0x00F0).getD []
  if 4096 < fieldLe c 4 2 then record 0x0107 (slice c 4 4 ++ i.digest) s else s

/-- The result of a failed verification.  The digest is M's where check 2 has settled where M ends, and the threshold the
certificate's where check 9 has settled where it stands; before that both are free (log 122). -/
def failedResult (b : Bytes) (e : VerifyFailure) (pace : Nat) (s : State) : Bytes × State :=
  let (d, s) := if e.detail ≤ 0x0103 then drawBytes 64 s else (sha512 (b.take (imageSigAt b)), s)
  let (t, s) := if e.detail ≤ 0x010A then drawNat s else (paceThreshold (imageOf b), s)
  (verifyResult d e.sectionId pace t, s)

/-- Verification of this device's bank: the mark, or the failing status with its section. -/
def imgVerifyOwn (r : Req) (x : ImgSession) (s : State) : State :=
  match verifyOwn x s with
  | .ok i =>
    let s := noteCert i { s with img := { s.img with session := some { x with verified := true } } }
    answer r stOk 0 (verifyResult i.digest 0 s.img.pace (paceThreshold i)) s
  | .error e =>
    let (b, s) := failedResult (sessionBytes x s) e s.img.pace s
    answer r e.status e.detail b s

/-- The checks of Table 3.6 by the peer on the bytes sent to it: the checks that its own fuses, firmware and counters decide
go by the next free number, the others by the bytes (R72, log 26). -/
def verifyPeer (x : ImgSession) (s : State) : Except VerifyFailure RunImage :=
  let b := Mem.readAll s.img.peerBank 0 x.len
  let k := Config.freeNat s.freeCtr
  if allWritten x.written x.len then
    judgeBytes b
      { recent := bit k 0 && decide (fieldLe b 14 2 ≤ sysRev), secondary := !s.sys.straps.secondary, trusted := bit k 1
        current := bit k 2, duskSlot := fun n => bit k (3 + n) }
  else .error ⟨stVerifyFail, 0x0102, 0⟩

/-- Verification by the peer: its verdict, and the pace it measures, which is a free number here (log 26). -/
def imgVerifyPeer (r : Req) (x : ImgSession) (s : State) : State :=
  let v := verifyPeer x s
  let (_, s) := drawNat s
  let (pace, s) := drawNat s
  match v with
  | .ok i =>
    let s := { s with img := { s.img with peerSession := some { x with verified := true } } }
    answer r stOk 0 (verifyResult i.digest 0 pace (paceThreshold i)) s
  | .error e =>
    let (b, s) := failedResult (Mem.readAll s.img.peerBank 0 x.len) e pace s
    answer r e.status e.detail b s

/-- The parameters of IMG_VERIFY and IMG_STAGE. -/
def targetParams (r : Req) (s : State) : Option Nat :=
  if r.payload.length ≠ 4 ∨ !targetOk (imgTarget 0 r) s ∨ !allZero (slice r.payload 1 3) then some 0 else none

/-- IMG_VERIFY. -/
def imgVerifyOp : OpDef :=
  { code := 0x0103
    wrongMode := imgWrongMode
    params := targetParams
    checks := fun r s =>
      if notOwner (imgTarget 0 r) r s then some (stBusy, 0)
      else if r.dryrun then
        match imgSession (imgTarget 0 r) s with
        | some x => (match if imgTarget 0 r = 0 then verifyOwn x s else verifyPeer x s with
          | .ok _ => none
          | .error e => some (e.status, e.detail))
        | none => none
      else none
    commit := fun r s =>
      match imgSession (imgTarget 0 r) s with
      | some x => if imgTarget 0 r = 0 then imgVerifyOwn r x s else imgVerifyPeer r x s
      | none => s }

/-- Meaning of IMG_VERIFY (R74). -/
def execImgVerify (c : CmdSource) (s : State) : Host.Outcome State Fault Refusal := .next (runCommand imgVerifyOp c s)

/-! IMG_STAGE (R75). -/

/-- The verified image goes to the shadow banks and its mark is written. -/
def imgStage (r : Req) (s : State) : State :=
  match imgSession (imgTarget 0 r) s with
  | none => s
  | some x =>
    if imgTarget 0 r = 0 then
      let i := imageOf (sessionBytes x s)
      loadOther (bankOf (some i)) { s with img := { s.img with session := some { x with staged := true }, shadow := some i } }
    else
      let (_, s) := drawNat s
      { s with img := { s.img with peerSession := some { x with staged := true } } }

/-- The target's inactive rule bank is not released: it drains, or holds what a staged image or a pending swap has loaded.  Of
the peer's bank this device knows that a staged image holds it; whether it drains is the next free number (log 26). -/
def bankHeld (t : Nat) (x : ImgSession) (s : State) : Bool :=
  if t = 0 then s.lanes.other != 0 else x.staged || bit (Config.freeNat s.freeCtr) 0

/-- What keeps IMG_STAGE from its bank (R75, R117). -/
def stageChecks (r : Req) (s : State) : Option (Nat × Nat) :=
  let t := imgTarget 0 r
  match imgSession t s with
  | none => some (stBusy, 0)
  | some x =>
    if notOwner t r s then some (stBusy, 0)
    else if !x.verified then some (stBadParam, 0x0110)
    else if s.img.pending.isSome then some (stBusy, 0)
    else if bankHeld t x s then some (stBusyDraining, 0)
    else none

/-- IMG_STAGE. -/
def imgStageOp : OpDef :=
  { code := 0x0104
    wrongMode := imgWrongMode
    params := targetParams
    checks := stageChecks
    onFail := fun _ s => (drawNat s).2
    commit := fun r s => answer r stOk 0 [] (imgStage r s) }

/-- Meaning of IMG_STAGE (R75). -/
def execImgStage (c : CmdSource) (s : State) : Host.Outcome State Fault Refusal := .next (runCommand imgStageOp c s)

/-! IMG_ACTIVATE (R78, R79). -/

/-- This device is the ACTIVE member of a pair: its peer has not been found failed, and a link fault leaves it the pair's
ACTIVE (R78, R390, R402). -/
def pairActive (s : State) : Bool := s.pair.peerKnown && (s.pair.mlUp || s.pair.st != .alone) && !isStandby s

/-- The staged images of a pair agree (R78). -/
def pairMismatch (i : RunImage) (s : State) : Bool :=
  pairActive s && (slice i.header 56 16 != Mem.readAll s.img.peerBank 56 16 || slice i.header 32 14 != Mem.readAll s.img.peerBank 32 14
    || allZero (slice i.header 56 16))

/-- The instant is a cycle boundary of the peer's staged image, for the ACTIVE of a pair (R78). -/
def peerBoundary (i : Int) (s : State) : Bool :=
  let x : RunImage := { header := Mem.readAll s.img.peerBank 0 128, sections := [], patchable := [], digest := [] }
  !pairActive s || isBoundary i (imgBase x) (imgCycle x)

/-- A staged image exists here, and on the peer for the ACTIVE of a pair (R78). -/
def stagedImage (s : State) : Option RunImage :=
  let peer := match s.img.peerSession with
    | some x => x.staged
    | none => false
  if pairActive s && !peer then none else s.img.shadow

/-- The parameters of IMG_ACTIVATE in the order R78 gives them. -/
def activateParams (r : Req) (s : State) : Option Nat :=
  let i := timeOf (fit 12 (r.payload.take 10))
  if r.payload.length ≠ 12 ∨ fieldLe r.payload 10 2 ≠ 0 then some 0
  else
    match stagedImage s with
    | none => some 0x0120
    | some x =>
      if 1000000000 ≤ fieldLe r.payload 6 4 ∨ !instantInRange i s then some 0x0003
      else if !isBoundary i (imgBase x) (imgCycle x) ∨ (s.img.live.isSome ∧ !isBoundary i (baseNs s) (cycleNs s))
          ∨ !peerBoundary i s then some 0x0121
      else if pairMismatch x s then some 0x0122
      else none

/-- The journal record of an IMG_ACTIVATE: image digest, bank and instant (R145). -/
def activateRecord (r : Req) (s : State) : Bytes :=
  let digest := match s.img.shadow with
    | some x => x.digest
    | none => []
  journalBody 0x0105 r.tag 0 r.world r.slot (fit 64 digest ++ [BitVec.ofNat 8 (inactiveBank s)] ++ fit 12 r.payload)

/-- IMG_ACTIVATE: its journal record is written at acceptance, the command is armed, and the PENDING mark is written at
hand-over (R78, R79, R145). -/
def imgActivateOp : OpDef :=
  { code := 0x0105
    wrongMode := armWrongMode
    params := activateParams
    busy := fun _ s => imageBusy s
    onAccept := fun r s => writeRecord 0x0001 (activateRecord r s) s
    exhausted := fun _ s => recorderClosed 85 s
    onClosed := fun r s => if recorderClosed 85 s then writeRecord 0x0001 (activateRecord r s) s else s
    ownInstant := fun r => some (timeOf (fit 12 (r.payload.take 10)))
    checks := fun _ s => if imageBusy s then some (stBusy, 0) else none
    arm := fun r s =>
      wakeRequest 0 { s with img := { s.img with armed := some (r.tag, timeOf (fit 12 (r.payload.take 10))) } }
    handOver := fun _ s =>
      match s.img.armed with
      | some (_, i) => { s with img := { s.img with pendingMark := some (inactiveBank s, i) } }
      | none => s
    commit := fun _ s => s }

/-- Meaning of IMG_ACTIVATE (R78). -/
def execImgActivate (c : CmdSource) (s : State) : Host.Outcome State Fault Refusal := .next (runCommand imgActivateOp c s)

/-- The cluster's part of an activation that has taken place: ACTIVE mark, rollback counter, empty patch log, record and
final reply (R81, R86). -/
def finishActivation (s : State) : State :=
  match s.img.pendingMark, s.img.live with
  | some (b, _), some i =>
    let s := { s with img := { s.img with
      activeMark := some b, pendingMark := none, patchLog := [], rollback := Nat.max s.img.rollback (imgRollback i), session := none } }
    let s := record 0x0101 [] s
    match s.cmd.inflight.find? (fun e => e.opcode == 0x0105 && e.phase == .committed) with
    | some e => finalReply e.packet.tag stOk 0 [] s
    | none => s
  | _, _ => s

/-- The switch at the activation instant (R80): the tables, the rule banks and the mode. -/
def takeImage (i : RunImage) (s : State) : State :=
  let auto := s.sys.mode = .autonomous
  let s := switchTables (some i) (swapBanks <| noteBusy { s with img := { s.img with armed := none, shadow := none, peerSession := none } })
  let s := if runMode s.sys.mode then enterMode (imageRunMode s) s else s
  if auto then firstEntry s else s

/-- Meaning of IMAGE_SWITCH: the armed activation that was handed over takes effect at its instant, whether or not the
cluster runs; the marks and the reply follow once it does (R80–R82). -/
def execImageSwitch (s : State) : Host.Outcome State Fault Refusal :=
  .next (
    match s.img.armed, s.img.pendingMark, s.img.shadow with
    | some (_, t), some _, some i =>
      if s.fwl.st ≠ 0 then discardActivation s
      else if runMode s.sys.mode ∧ !s.wake.down then
        let s := takeImage i (reachW t s)
        if clusterServes s then finishActivation s else s
      else s
    | _, _, _ => s)

/-! IMG_STATUS (R76, Table 3.8). -/

/-- Staging state of Table 3.8. -/
def stagingState (s : State) : Nat :=
  if s.img.armed.isSome then 4
  else
    match s.img.session with
    | none => 0
    | some x => if x.staged then 3 else if x.verified then 2 else 1

/-- The IMG_STATUS result over the free bytes `d`, which stand where the field's subject does not exist: no ACTIVE mark, no
active image, no pace reading since the activation (log 27). -/
def imgStatus (d : Bytes) (s : State) : Bytes :=
  let m := s.img
  let field := fun (o n : Nat) (f : RunImage → Bytes) => match m.live with
    | some i => f i
    | none => fit n (slice d o n)
  (match m.activeMark with
    | some b => [BitVec.ofNat 8 b]
    | none => fit 1 d)
    ++ [BitVec.ofNat 8 (stagingState s)] ++ leBytes 2 m.patchLog.length
    ++ field 4 8 (fun i => leBytes 4 (imgVersion i) ++ leBytes 4 (imgRollback i))
    ++ leBytes 4 m.rollback
    ++ field 16 64 (fun i => fit 64 i.digest)
    ++ leBytes 2 m.pace
    ++ (match m.paceLow with
        | some v => leBytes 2 v
        | none => fit 2 (slice d 82 2))
    ++ field 84 2 (fun i => leBytes 2 (paceThreshold i))
    ++ [BitVec.ofNat 8 (b2n m.margin)]
    ++ field 87 1 (fun i => [BitVec.ofNat 8 (fieldLe ((imgSection i 0x00F0).getD []) 2 2)])
    ++ (match m.armed with
        | some (_, i) => timeBytes i
        | none => List.replicate 12 0)

/-- IMG_STATUS. -/
def imgStatusOp : OpDef :=
  { code := 0x0106
    params := noPayload
    commit := fun r s =>
      let (d, s) := drawBytes 100 s
      answer r stOk 0 (imgStatus d s) s }

/-- Meaning of IMG_STATUS (R76). -/
def execImgStatus (c : CmdSource) (s : State) : Host.Outcome State Fault Refusal := .next (runCommand imgStatusOp c s)

/-! IMG_PATCH (R84, R85, Table 3.7). -/

/-- The patch a payload describes. -/
def patchOf (b : Bytes) : Patch :=
  { section_ := fieldLe b 0 2, offset := fieldLe b 4 4, data := slice b 24 (fieldLe b 8 2), crc := fieldLe b 16 8 }

/-- The section is one of the active image that a patch may change (R84). -/
def patchableNow (id : Nat) (s : State) : Bool :=
  match s.img.live with
  | some i => i.patchable.contains id && (imgSection i id).isSome && id != 0x00F0
  | none => false

/-- The parameters of IMG_PATCH. -/
def patchParams (r : Req) (s : State) : Option Nat :=
  let b := r.payload
  let n := fieldLe b 8 2
  let p := patchOf b
  if b.length < 25 ∨ fieldLe b 2 2 ≠ 0 ∨ !allZero (slice b 10 6) ∨ b.length ≠ 24 + n ∨ (if r.instant.isSome then 4028 else 4040) < n
    then some 0
  else if !patchableNow p.section_ s then some 0x0130
  else if (liveBytes s p.section_).length < p.offset + n then some 0x0131
  else
    match r.instant with
    | some i => if isBoundary i (baseNs s) (cycleNs s) then none else some 0x0121
    | none => none

/-- The replaced content passes the section's internal checks (R84). -/
def patchedOk (p : Patch) (s : State) : Bool :=
  match s.img.live with
  | some i =>
    let b := patched p ((imgSection i p.section_).getD [])
    let v := viewOf { i with sections := Tab.set i.sections p.section_ b } s.sys.straps.secondary s
    sectionOk v p.section_ b
  | none => false

/-- The execution checks of IMG_PATCH in the order R84 lists them. -/
def patchChecks (r : Req) (s : State) : Option (Nat × Nat) :=
  let p := patchOf r.payload
  if crc64 (patched p (liveBytes s p.section_)) ≠ p.crc then some (stVerifyFail, 0x0132)
  else if !patchedOk p s then some (stVerifyFail, 0x0133)
  else if imageBusy s then some (stBusy, 0)
  else if p.section_ = 0x0002 ∧ s.lanes.other ≠ 0 then some (stBusyDraining, 0)
  else if recorderClosed 34 s then some (stNoResources, 0)
  else none

/-- The journal record of a patch that a command of the given tag, world and slot brought (R145). -/
def patchJournal (tag : Word16) (world slot : Nat) (p : Patch) (s : State) : Bytes :=
  journalBody 0x0110 tag 1 world slot (leBytes 2 p.section_ ++ leBytes 4 p.offset ++ leBytes 2 p.data.length ++ leBytes 8 p.crc
    ++ leBytes 8 (crc64 (liveBytes s p.section_)) ++ leBytes 2 s.img.patchLog.length)

/-- The journal record of the patch of a command (R145). -/
def patchRecord (r : Req) (s : State) : Bytes := patchJournal r.tag r.world r.slot (patchOf r.payload) s

/-- Steps 1 to 3 of R85: journal record, patch log and shadow bank; the patch is pending. -/
def commitPatch (r : Req) (tag : Option Word16) (s : State) : State :=
  let p := patchOf r.payload
  let s := recordNow 0x0001 (patchRecord r s) s
  let s := { s with img := { s.img with
    patchLog := s.img.patchLog ++ [p], pending := some { tag := tag, instant := r.instant.getD 0, patch := some p } } }
  let s := if p.section_ = 0x0002 then
      loadOther { prog := liveSection s 0x0001, keys := some (patched p (liveBytes s 0x0002)) } s
    else s
  wakeRequest 0 s

/-- Step 4 of R85: the swap waits for the first cycle boundary at least 50 us away, or for the instant given.  On the
STANDBY the patch the ACTIVE committed is entered first, where its CRC agrees (R391). -/
def patchEffect (r : Req) (s : State) : State :=
  let p := patchOf r.payload
  let s := if r.fromPeer ∧ patchableNow p.section_ s ∧ crc64 (patched p (liveBytes s p.section_)) = p.crc then commitPatch r none s else s
  match s.img.pending with
  | some x => { s with img := { s.img with pending := some { x with instant := r.instant.getD (nextBoundary 50000 s) } } }
  | none => s

/-- IMG_PATCH: its journal record is the commit point, AT_TIME or not (R63, R84, R85). -/
def imgPatchOp : OpDef :=
  { code := 0x0110
    wrongMode := armWrongMode
    params := patchParams
    exhausted := fun _ s => decide (256 ≤ s.img.patchLog.length)
    commitsAtOnce := true
    checks := patchChecks
    onFail := fun r s => if recorderClosed 34 s ∧ patchChecks r s = some (stNoResources, 0) then writeRecord 0x0001 (patchRecord r s) s else s
    commit := fun r s => relayAtOnce patchEffect r (commitPatch r (some r.tag) s)
    effect := patchEffect }

/-- Meaning of IMG_PATCH (R84). -/
def execImgPatch (c : CmdSource) (s : State) : Host.Outcome State Fault Refusal := .next (runCommand imgPatchOp c s)

/-- A swap whose command still waits for its sync point is not due (R391). -/
def swapDue (t : Option Word16) (s : State) : Bool :=
  match t with
  | some t => !awaitsSync t s
  | none => true

/-- The final reply of a swap's command, where it has one. -/
def replySwap (t : Option Word16) (detail : Nat) (result : Bytes) (s : State) : State :=
  match t with
  | some t => finalReply t stOk detail result s
  | none => s

/-- Meaning of PATCH_SWAP: the bank of the pending patch swaps at its instant and the final reply follows (R85). -/
def execPatchSwap (s : State) : Host.Outcome State Fault Refusal :=
  .next (
    match s.img.pending with
    | some x =>
      (match x.patch with
       | some p =>
         if swapDue x.tag s ∧ forwarding s.sys.mode ∧ !inL34 s ∧ s.fwl.st ≠ 1 then
           let s := swapPatch p (reachW x.instant s)
           replySwap x.tag 0 [] (noteBusy { s with img := { s.img with pending := none } })
         else s
       | none => s)
    | none => s)

/-! PRS_BANK_SWAP and the device's own refresh (R118, R120). -/

/-- The live content is rebuilt into the non-live bank from section 0x0002 of the active image and the patch log. -/
def rebuildBank (s : State) : State := loadOther (bankOf s.img.live) s

/-- The swap waits for the first cycle boundary at least 50 us away, or for the instant given (R118). -/
def bankSwapEffect (r : Req) (s : State) : State :=
  let s := if r.fromPeer ∧ s.lanes.other = 0 then rebuildBank s else s
  if s.lanes.other = 2 then
    { s with lanes := { s.lanes with swap := some (if r.fromPeer then peerTag else r.tag, r.instant.getD (nextBoundary 50000 s)) } }
  else s

/-- PRS_BANK_SWAP: the lanes' acceptance is its commit point (R118). -/
def prsBankSwapOp : OpDef :=
  { code := 0x0201
    wrongMode := fun r s => armWrongMode r s || s.sys.mode == .autonomous
    params := fun r s =>
      if !r.payload.isEmpty then some 0
      else
        match r.instant with
        | some i => if isBoundary i (baseNs s) (cycleNs s) then none else some 0x0121
        | none => none
    commitsAtOnce := true
    checks := fun _ s => if imageBusy s then some (stBusy, 0) else if s.lanes.other ≠ 0 then some (stBusyDraining, 0) else none
    commit := fun r s =>
      let s := rebuildBank s
      relayAtOnce bankSwapEffect r { s with lanes := { s.lanes with swap := some (r.tag, r.instant.getD 0) } }
    effect := bankSwapEffect }

/-- Meaning of PRS_BANK_SWAP (R118). -/
def execPrsBankSwap (c : CmdSource) (s : State) : Host.Outcome State Fault Refusal := .next (runCommand prsBankSwapOp c s)

/-- Meaning of RULE_BANK_REFRESH: the device's own refresh is loaded once the non-live bank is released and waits for its
cycle boundary (R117, R120). -/
def execRuleBankRefresh (s : State) : Host.Outcome State Fault Refusal :=
  .next (
    if s.lanes.refreshDue ∧ s.lanes.other = 0 ∧ forwarding s.sys.mode then
      let s := rebuildBank s
      { s with lanes := { s.lanes with refreshDue := false, refreshAt := some (nextBoundary 50000 s) } }
    else s)

/-- Meaning of RULE_BANK_SWAP: the armed PRS_BANK_SWAP or the device's refresh swaps at its cycle boundary (R118, R120); a
swap that a return to AUTONOMOUS overtook is given up (log 125). -/
def execRuleBankSwap (s : State) : Host.Outcome State Fault Refusal :=
  .next (
    match s.lanes.swap, s.lanes.refreshAt with
    | some (t, i), _ =>
      if awaitsSync t s then s
      else if s.sys.mode = .autonomous then
        finalReply t stWrongMode 0 [] (releaseOther { s with lanes := { s.lanes with swap := none } })
      else
        let s := swapBanks (reachW i (if s.lanes.other = 2 then s else rebuildBank s))
        finalReply t stOk 0 (swapResult s) { s with lanes := { s.lanes with swap := none } }
    | none, some i =>
      if s.lanes.other = 2 then
        let s := swapBanks (reachW i s)
        { s with lanes := { s.lanes with refreshAt := none } }
      else s
    | none, none => s)

/-! Return to AUTONOMOUS (R33). -/

/-- Meaning of AUTONOMOUS_SWITCH: SYS_SET_MODE to AUTONOMOUS takes effect at its cycle boundary. -/
def execAutonomousSwitch (s : State) : Host.Outcome State Fault Refusal :=
  .next (
    match s.sys.autonomousTag with
    | some t =>
      if s.sys.mode = .configured then
        let s := reachW s.sys.autonomousAt s
        let s := { s with sys := { s.sys with
          autonomousTag := none, straps := { s.sys.straps with profile := s.sys.sampled.profile } } }
        let s := noteProfile (enterMode .autonomous (switchTables none (runRom s)))
        finalReply t stOk 0 [] s
      else finalReply t stWrongMode 0 [] { s with sys := { s.sys with autonomousTag := none } }
    | none => s)

/-! The pace monitors (R21, R22, R87, R89). -/

/-- PACE_MARGIN is raised on a reading below the threshold: record, source PACE, and the reaction of Table 3.11. -/
def raisePace (reading reaction : Nat) (s : State) : State :=
  let s := record 0x0105 (leBytes 2 reading) { s with img := { s.img with
    margin := true, goodReadings := 0, marginAt := s.clk, marginLow := reading } }
  let s := raiseInt 0 s
  if reaction = 1 then enterSafe s else s

/-- A reading while PACE_MARGIN is raised: the 100th consecutive one at or above the threshold clears it (R89). -/
def followPace (reading threshold : Nat) (s : State) : State :=
  if reading < threshold then
    { s with img := { s.img with goodReadings := 0, marginLow := Nat.min s.img.marginLow reading } }
  else if s.img.goodReadings + 1 = 100 then
    record 0x0106 (leBytes 8 (s.clk - s.img.marginAt) ++ leBytes 2 s.img.marginLow)
      { s with img := { s.img with margin := false, goodReadings := 0 } }
  else { s with img := { s.img with goodReadings := s.img.goodReadings + 1 } }

/-- The REF clock runs: the device is powered and no episode of reach L0 or L1 is in progress (R21, R218). -/
def refRuns (s : State) : Bool :=
  s.sys.mode != .backup && s.sys.mode != .standby && (match s.rst.episode with
    | some e => decide (2 ≤ e.reach)
    | none => true)

/-- A monitor count in pace units, rounded down and held to the 16 bits that report it; it is free while the PACE_CAL fuse is
zero (R87, log 123). -/
def paceOf (count : Nat) (s : State) : Nat × State :=
  let (x, s) := if s.img.paceCal = 0 then drawNat s else (count * 4096 / s.img.paceCal, s)
  (Nat.min 65535 x, s)

/-- Meaning of PACE_READING: the slowest of the four monitors, in pace units of 1/4,096 of the count the fuse records for
the worst corner (R21, R87), compared with the certificate's threshold (R89) or, in AUTONOMOUS, with the worst corner
(R22). -/
def execPaceReading (m0 m1 m2 m3 : Nat) (s : State) : Host.Outcome State Fault Refusal :=
  .next (
    if !refRuns s then s
    else
      let s := reachClock (s.img.paceAt + 10000) s
      let (v, s) := paceOf (Nat.min (Nat.min m0 m1) (Nat.min m2 m3)) s
      let s := { s with img := { s.img with pace := v, paceLow := some (Nat.min (s.img.paceLow.getD v) v), paceAt := s.clk } }
      match s.img.live with
      | some i =>
        let c := (imgSection i 0x00F0).getD []
        if s.img.margin then followPace v (paceThreshold i) s
        else if v < paceThreshold i then raisePace v (fieldLe c 2 2) s
        else s
      | none => if s.sys.mode = .autonomous ∧ v < 4096 then record 0x0105 (leBytes 2 v) s else s)

/-! The revert (R148, R149, R150). -/

/-- The sections a revert reloads: those the patch log has touched, and the firewall's own. -/
def revertSections (s : State) : List Nat := ((s.img.patchLog.map (fun (p : Patch) => p.section_)) ++ [0x0003, 0x0004]).eraseDups

/-- A section of the active bank agrees with its DIGEST. -/
def digestHolds (b : Bytes) (id : Nat) : Bool :=
  (sectionEntries b).all (fun e => entryId e != id || sha512 (entryContent b e) == slice e 32 64)

/-- The pending patch is discarded with every earlier one: its reply is OK with DETAIL 0x0302 (R149). -/
def discardPending (s : State) : State :=
  match s.img.pending with
  | some x =>
    let s := noteBusy { s with
      img := { s.img with pending := none }
      pair := { s.pair with relayed := s.pair.relayed.filter (fun t => x.tag != some t) } }
    let s := match x.patch with
      | some p => if p.section_ = 0x0002 then releaseOther s else s
      | none => s
    replySwap x.tag 0x0302 [] s
  | none => s

/-- The signed sections swap in, the patch log empties and crossings are judged again (R148 step 4).  A patched section
0x0002 returns through the device's refresh. -/
def revertTo (i : RunImage) (ids : List Nat) (s : State) : State :=
  let s := ids.foldl (fun s id => match imgSection i id with
    | some b => putSection id b s
    | none => s) s
  let s := { s with
    img := { s.img with patchLog := [] }
    lanes := { s.lanes with refreshDue := s.lanes.refreshDue || ids.contains 0x0002 }
    fwl := { s.fwl with st := 0, suspended := false, reverts := s.fwl.reverts + 1 } }
  let s := if ids.contains 0x0005 then flushLearned false s else s
  let s := if ids.contains 0x0011 then applyDefaults (liveSection s 0x0011) s else s
  refreshFirewall s

/-- Meaning of FWL_REVERT_COMPLETE: the reloaded sections pass their digests and swap in, or the revert fails and the device
enters SAFE with every crossing still denied (R148, R149); in AUTONOMOUS the ROM is the source (R150). -/
def execFwlRevertComplete (s : State) : Host.Outcome State Fault Refusal :=
  .next (
    if s.fwl.st ≠ 1 then s
    else
      match s.img.live, s.img.activeMark with
      | some _, some b =>
        let bytes := bankContainer s b
        let ids := revertSections s
        if ids.all (digestHolds bytes) then revertTo (imageOf bytes) ids (discardPending s)
        else
          let s := { s with fwl := { s.fwl with st := 2 }, saf := { s.saf with revertFailed := true } }
          escalate 5 (record 0x0306 [] (discardPending s))
      | _, _ =>
        refreshFirewall { s with fwl := { s.fwl with st := 0, suspended := false, reverts := s.fwl.reverts + 1 } })

end Sys2Proof.Machine
end

