-- ==== Sys2Proof/Machine/Safety.lean ====
section
/-!
DEFINITION. Safety functions: the cores and their voters, SPLIT, the safety watchdog, the external safety monitor, FAULT_IN,
the supplies, and the side-band wires (chapters Safety, redundancy and the pair, and Electrical characteristics).
-/
namespace Sys2Proof.Machine

/-! The cores (R377–R381). -/

/-- Core `n` of the cluster. -/
def coreUnit (s : State) (n : Nat) : Core := Tab.get s.saf.cores n {}

/-- Replaces core `n`. -/
def setCore (n : Nat) (c : Core) (s : State) : State := { s with saf := { s.saf with cores := Tab.set s.saf.cores n c } }

/-- Cores whose copies are voted: neither masked nor retired (R378). -/
def votingCores (s : State) : List Nat := [0, 1, 2].filter (fun n => !(coreUnit s n).masked && !(coreUnit s n).retired)

/-- Cores that are retired. -/
def retiredCount (s : State) : Nat := ([0, 1, 2].filter (fun n => (coreUnit s n).retired)).length

/-- The triple cluster runs and its outputs are voted. -/
def votes (s : State) : Bool := s.sys.clusterUp && !s.sys.split && !s.sys.halted

/-- A core is masked and its self-test begins (R378, R380). -/
def maskCore (n : Nat) (s : State) : State := setCore n { coreUnit s n with masked := true, testing := true } s

/-- A core is retired and recorded; the second one is a safety escalation, in BOOT at the first configured state (R380,
R381). -/
def retireCore (n : Nat) (s : State) : State :=
  let s := record 0x0C02 [] (setCore n { coreUnit s n with retired := true, masked := true, testing := false } s)
  if retiredCount s = 2 ∧ s.sys.mode ≠ .boot then escalate 6 s else s

/-- Every core that is not retired self-tests at the restart (R381, Table 14.1). -/
def testAllCores (s : State) : State :=
  [0, 1, 2].foldl (fun s n => if (coreUnit s n).retired then s else setCore n { coreUnit s n with masked := false, testing := true } s) s

/-- A voter fault: source VOTER asserts with reach L4, and the cores are self-tested at the restart (R380). -/
def voterFault (s : State) : State := assertSource 13 (testAllCores { s with rst := { s.rst with voterRestart := true } })

/-- No majority: recorded and handled as a voter fault (Table 14.1). -/
def noMajority (s : State) : State := voterFault (record 0x0C03 [] s)

/-- One core's copy differs: among three it is masked; a compared pair has no majority (Table 14.1). -/
def coreDisagrees (n : Nat) (s : State) : State :=
  if (votingCores s).contains n then
    if (votingCores s).length = 3 then maskCore n s else if (votingCores s).length = 2 then noMajority s else s
  else s

/-- Meaning of VOTER_DISAGREEMENT: the core whose copy disagrees, or none where no two copies agree (R378, Table 14.1). -/
def execVoterDisagreement (n : Option (Fin 3)) (s : State) : Host.Outcome State Fault Refusal :=
  .next (
    if !votes s then s
    else
      match n with
      | some n => coreDisagrees n.val s
      | none => if 2 ≤ (votingCores s).length then noMajority s else s)

/-- The signatures of the voting cores are compared (R379). -/
def compareSignatures (sig : Nat → Word64) (s : State) : State :=
  match votingCores s with
  | [a, b, c] =>
    if sig a = sig b then (if sig c = sig a then s else maskCore c s)
    else if sig a = sig c then maskCore b s
    else if sig b = sig c then maskCore a s
    else noMajority s
  | [a, b] => if sig a = sig b then s else noMajority s
  | _ => s

/-- Meaning of SIGNATURE_WINDOW_END: the signatures are compared, and cores that passed their self-test return (R379, R380). -/
def execSignatureWindowEnd (s0 s1 s2 : Word64) (s : State) : Host.Outcome State Fault Refusal :=
  .next (
    if !votes s then s
    else
      let back := [0, 1, 2].filter (fun n => (coreUnit s n).masked && !(coreUnit s n).testing && !(coreUnit s n).retired)
      let s := compareSignatures (fun n => if n = 0 then s0 else if n = 1 then s1 else s2) s
      if s.rst.episode.isSome then s
      else back.foldl (fun s n => setCore n { coreUnit s n with masked := false } s) s)

/-- An alignment-path fault of a core: recorded, or the third within 3,600 s retires it (Table 14.1). -/
def alignFault (n : Nat) (s : State) : State :=
  let recent := (coreUnit s n).faults.filter (fun t => decide (s.clk < t + 3600000000000))
  if 2 ≤ recent.length then retireCore n s
  else record 0x0C01 [] (setCore n { coreUnit s n with faults := recent ++ [s.clk], testing := false } s)

/-- Meaning of CORE_SELF_TEST_DONE: a masked core has an alignment-path fault or a core fault; a test at the start of the
cluster only tells whether the core is retired (R380, R381). -/
def execCoreSelfTestDone (n : Fin 3) (pass : Bool) (s : State) : Host.Outcome State Fault Refusal :=
  .next (
    let c := coreUnit s n.val
    if !c.testing ∨ s.sys.split then s
    else if !pass then retireCore n.val s
    else if c.masked then alignFault n.val s
    else setCore n.val { c with testing := false } s)

/-- Meaning of VOTER_FAULT: voters A and B disagree (Table 14.1). -/
def execVoterFault (s : State) : Host.Outcome State Fault Refusal :=
  .next (if votes s then voterFault (record 0x0C04 [] s) else s)

/-! SPLIT (R382). -/

/-- Core 2 asserts source VOTER (R382). -/
def splitFault (s : State) : State := assertSource 13 { s with rst := { s.rst with voterRestart := true } }

/-- Meaning of HEARTBEAT_MISSED: core 0 or 1 has missed its heartbeat for 5 ms (R382). -/
def execHeartbeatMissed (n : Fin 2) (s : State) : Host.Outcome State Fault Refusal :=
  .next (
    if s.sys.split ∧ s.sys.clusterUp ∧ ¬s.sys.halted then splitFault (setCore n.val { coreUnit s n.val with silent := true } s) else s)

/-- Meaning of SPLIT_SELF_TEST: core 2's test of itself has ended (R382). -/
def execSplitSelfTest (pass : Bool) (s : State) : Host.Outcome State Fault Refusal :=
  .next (if s.sys.split ∧ s.sys.clusterUp ∧ ¬s.sys.halted ∧ ¬pass then splitFault s else s)

/-! The safety watchdog (R389). -/

/-- The watchdog expires: source SAFETY_WDT asserts, and where firmware runs on, its service starts anew (log 32). -/
def expireWdt (s : State) : State :=
  assertSource 9 { s with saf := { s.saf with wdtFirst := true, wdtFresh := true, wdtAt := s.clk } }

/-- A service comes within its bounds: the first within 200 ms of firmware start, each later one 1 to 20 ms after the last. -/
def kickInTime (s : State) : Bool :=
  let d := s.clk - s.saf.wdtAt
  if s.saf.wdtFresh then decide (d ≤ 200000000) else decide (1000000 ≤ d) && decide (d ≤ 20000000)

/-- The value the next service must write. -/
def kickValue (s : State) : Word16 := if s.saf.wdtFirst then 0x5A3C else 0xC3A5

/-- In SPLIT core 2 writes the service only while the heartbeats are current (R389). -/
def mayKick (s : State) : Bool :=
  s.saf.wdtRuns && s.sys.clusterUp && !s.sys.halted && !(s.sys.split && ((coreUnit s 0).silent || (coreUnit s 1).silent))

/-- A service value reaches SAF_WDT_KICK (R389). -/
def kickWdt (v : Word16) (s : State) : State :=
  if !mayKick s then s
  else if kickInTime s ∧ v = kickValue s then
    { s with saf := { s.saf with wdtFirst := !s.saf.wdtFirst, wdtFresh := false, wdtAt := s.clk } }
  else expireWdt s

/-- Meaning of SAF_WDT_KICK: firmware writes the service value (R389). -/
def execSafWdtKick (v : Word16) (s : State) : Host.Outcome State Fault Refusal := .next (kickWdt v s)

/-- Meaning of SAFETY_WDT: the last instant for a service has passed (R389). -/
def execSafetyWdt (s : State) : Host.Outcome State Fault Refusal :=
  .next (
    if s.saf.wdtRuns ∧ s.sys.clusterUp ∧ ¬s.sys.halted then
      expireWdt (reachClock (s.saf.wdtAt + (if s.saf.wdtFresh then 200000000 else 20000000)) s)
    else s)

/-! The external safety monitor and FAULT_IN (R388, R393). -/

/-- ESM_ACK takes a level. -/
def setEsmAck (high : Bool) (s : State) : State :=
  if s.saf.esmAck = high then s else emit (.pin "ESM_ACK" high) { s with saf := { s.saf with esmAck := high } }

/-- Meaning of ESM_REQ_RISE: the health bit is sampled and a good one drives ESM_ACK high (R388). -/
def execEsmReqRise (s : State) : Host.Outcome State Fault Refusal := .next (if healthGood s then setEsmAck true s else s)

/-- Meaning of ESM_REQ_FALL (R388). -/
def execEsmReqFall (s : State) : Host.Outcome State Fault Refusal := .next (setEsmAck false s)

/-- Meaning of FAULT_IN: a low phase of 2 us is recorded, and with FAULT_IN_ACTION = 1 it is a safety escalation (R393,
Table 14.3). -/
def execFaultIn (lowNs : Nat) (s : State) : Host.Outcome State Fault Refusal :=
  .next (
    if 2000 ≤ lowNs then
      let s := record 0x0C06 [] { s with saf := { s.saf with faultIn := true } }
      if forwarding s.sys.mode ∧ byteAt (liveBytes s 0x0012) 7 = 1 then escalate 7 s else s
    else { s with saf := { s.saf with faultIn := false } })

/-- Meaning of TIME_W_MISMATCH: the two units of W disagree and the one the cluster's computation does not bear out is ignored
(R236). -/
def execTimeWMismatch (agreesWithA : Bool) (s : State) : Host.Outcome State Fault Refusal :=
  .next (
    if s.time.w.ignored ≠ 0 then s
    else escalate 4 (record 0x0606 [] { s with time := { s.time with w := { s.time.w with ignored := if agreesWithA then 2 else 1 } } }))

/-! Supplies (R326, R348, R360, R464). -/

/-- PWR_GOOD follows the main supply monitors (Table 13.6). -/
def followPwrGood (s : State) : State :=
  if s.rst.pwrGood = mainValid s then s
  else emit (.pin "PWR_GOOD" (mainValid s)) { s with rst := { s.rst with pwrGood := mainValid s } }

/-- The main supplies are lost: STANDBY is reached where power-down has begun, BACKUP otherwise (Table 1.8, R335). -/
def mainLost (s : State) : State :=
  let sleeping := s.wake.down || s.sys.mode == .standby
  let s := assertSource 5 s
  if sleeping then reachStandby s
  else if s.rst.invalid.contains .vbkp then s
  else { s with sys := { s.sys with mode := .backup } }

/-- Meaning of SUPPLY_INVALID (R464): a main supply asserts MAIN_POR, VBKP asserts VBKP_POR. -/
def execSupplyInvalid (x : Supply) (s : State) : Host.Outcome State Fault Refusal :=
  .next (
    if s.rst.invalid.contains x then s
    else
      let s := { s with rst := { s.rst with invalid := s.rst.invalid ++ [x] } }
      let s := setEsmAckOff x s
      let s := hlthLow (followPwrGood s)
      if x = .vbkp then assertSource 4 s else mainLost s)
where
  /-- ESM_ACK is low while its supplies are not valid (Table 13.6). -/
  setEsmAckOff (x : Supply) (s : State) : State := if x = .vddCore then setEsmAck false s else s

/-- Meaning of SUPPLY_VALID (R464); the release of the source follows 2 ms later as a row of its own. -/
def execSupplyValid (x : Supply) (s : State) : Host.Outcome State Fault Refusal :=
  .next (followPwrGood { s with rst := { s.rst with invalid := s.rst.invalid.filter (fun y => y != x) } })

/-- Meaning of VMON_OK: its fall asserts MAIN_POR (R348). -/
def execVmonOk (high : Bool) (s : State) : Host.Outcome State Fault Refusal :=
  .next (
    let s := { s with rst := { s.rst with vmonOk := high } }
    if high then s else assertSource 5 s)

/-- Meaning of STANDBY_TIMEOUT: 50 ms after INH was released the supplies are still present; the backup domain holds the core
in reset and STANDBY counts as reached (R335).  The hold is an episode that no source asserts. -/
def execStandbyTimeout (s : State) : Host.Outcome State Fault Refusal :=
  .next (
    if s.wake.down ∧ s.rst.episode.isNone then
      let s := reachClock (s.wake.inhAt + 50000000) s
      reachStandby (applyReach 1 { s with rst := { s.rst with episode := some { reach := 1, sources := 0 }, exit := none } })
    else s)

/-! Side-band wires (R323). -/

/-- Meaning of PEER_HLTH_TOGGLE: PEER_HLTH_OUT inverts every 5 us while the health bit is good and is low otherwise (R323). -/
def execPeerHlthToggle (s : State) : Host.Outcome State Fault Refusal :=
  .next (
    if healthGood s then
      let s := reachClock (s.pair.hlthAt + 5000) s
      emit (.pin "PEER_HLTH_OUT" (!s.pair.hlthOut))
        { s with pair := { s.pair with hlthOut := !s.pair.hlthOut, hlthAt := s.clk } }
    else hlthLow s)

/-- Meaning of PEER_INT_PULSE: the length of a high phase of PEER_INT_IN classes it (R323). -/
def execPeerIntPulse (highNs : Nat) (s : State) : Host.Outcome State Fault Refusal :=
  .next (
    if 1000 ≤ highNs ∧ highNs ≤ 10000 then raiseInt 5 { s with pair := { s.pair with intClass := 1 } }
    else if 80000 ≤ highNs then assertSource 15 { s with pair := { s.pair with intClass := 2 } }
    else { s with pair := { s.pair with intClass := 3, glitches := satAdd 16 s.pair.glitches 1 } })

end Sys2Proof.Machine
end

