-- ==== Sys2Proof/Machine/Update.lean ====
section
/-!
DEFINITION. Firmware banks: the bank pointer, trials, and the update commands (chapter Reset, boot and firmware update).
-/
namespace Sys2Proof.Machine

/-! NOR banks and the bank pointer (R366). -/

/-- NOR bank `b`. -/
def norBank (s : State) (b : Nat) : Mem := Tab.get s.upd.nor b (Mem.blank 0xFF)

/-- Length of a NOR bank (Table 13.12). -/
def norLen : Nat := 16777216

/-- The slot that governs: the valid one with the greater SEQ (R366). -/
def governingSlot (s : State) : Nat :=
  match s.upd.slots.lookup 0, s.upd.slots.lookup 1 with
  | some a, some b => if a.valid && b.valid then (if b.seq ≤ a.seq then 0 else 1) else if a.valid then 0 else 1
  | some a, none => if a.valid then 0 else 1
  | none, _ => 1

/-- A change of the bank pointer in its two phases (R366). -/
def writeSlot (g : BankSlot → BankSlot) (s : State) : State :=
  let k := governingSlot s
  let old := bankPointer s
  let new := { g old with seq := old.seq + 1, valid := true }
  let slots := Tab.set s.upd.slots (1 - k) new
  { s with upd := { s.upd with slots := slots.map (fun e => if e.1 = k then (e.1, { e.2 with valid := false }) else e) } }

/-- A trial ends without success: the former bank stays ACTIVE, the ACTIVE mark returns to PRE_TRIAL_IMAGE and the patch log
empties (R367, R368). -/
def revertTrial (s : State) : State :=
  let old := bankPointer s
  let s := writeSlot (fun b => { b with trial := none }) s
  let s := { s with img := { s.img with activeMark := old.preTrialImage, patchLog := [] } }
  record 0x0B06 [] s

/-- A bank passes checks 1 to 7 of Table 13.13. -/
def bankPasses (b : Nat) (s : State) : Bool :=
  match judgeBank (norBank s b) norLen s with
  | .ok _ => true
  | .error _ => false

/-- The bank RECOVERY takes as inactive (R375). -/
def recoveryBank (s : State) : Nat :=
  match bankPasses 0 s, bankPasses 1 s with
  | true, false => 1
  | false, true => 0
  | false, false => 0
  | true, true => 1 - (bankPointer s).active

/-- The bank that an update session fills: neither ACTIVE nor TRIAL (R371, R375). -/
def updateBank (s : State) : Nat := if s.sys.mode = .recovery then recoveryBank s else 1 - (bankPointer s).active

/-! Sessions (R371–R374). -/

/-- The update session of a target. -/
def updSession (t : Nat) (s : State) : Option UpdSession := if t = 0 then s.upd.session else s.upd.peerSession

/-- Replaces the update session of a target. -/
def setUpdSession (t : Nat) (x : Option UpdSession) (s : State) : State :=
  if t = 0 then { s with upd := { s.upd with session := x } } else { s with upd := { s.upd with peerSession := x } }

/-- The target may be named: the peer by the ACTIVE of a pair, and not in RECOVERY (R375). -/
def updTargetOk (t : Nat) (s : State) : Bool := t == 0 || (s.sys.mode != .recovery && targetOk t s)

/-- Another transport owns the session (R371). -/
def updForeign (t : Nat) (r : Req) (s : State) : Bool :=
  match updSession t s with
  | some x => x.owner != r.transport
  | none => false

/-- State of a target's session: 0 none, 1 claimed, 2 verified, 3 staged, 4 activation committed (Table 13.14). -/
def updState (t : Nat) (s : State) : Nat := ((updSession t s).map (·.state)).getD 0

/-- The role does not admit an update command (R374). -/
def updWrongMode (_ : Req) (s : State) : Bool := isStandby s

/-- The same for one that would arm an update in QUIET (R332). -/
def updArmWrongMode (_ : Req) (s : State) : Bool := isStandby s || s.wake.ring == .quiet

/-- Erasure of the first `n` bytes of a bank. -/
def eraseBank (m : Mem) (n : Nat) : Mem := { fill := 0xFF, cells := m.cells.filter (fun c => decide (n ≤ c.1)) }

/-- The bank is claimed and erased (R371); in RECOVERY a trial in progress is reverted first (R375). -/
def updBegin (r : Req) (s : State) : State :=
  let len := fieldLe r.payload 0 4
  let x : UpdSession := { owner := r.transport, bank := 0, len := len, written := [], state := 1 }
  if byteAt r.payload 4 = 0 then
    let both := bankPasses 0 s && bankPasses 1 s
    let s := if s.sys.mode = .recovery ∧ both ∧ (bankPointer s).trial.isSome then revertTrial s else s
    let b := updateBank s
    wakeRequest 0 { s with upd := { s.upd with
      session := some { x with bank := b }, nor := Tab.set s.upd.nor b (eraseBank (norBank s b) len) } }
  else { s with upd := { s.upd with peerSession := some x, peerNor := Mem.blank 0xFF } }

/-- UPD_BEGIN. -/
def updBeginOp : OpDef :=
  { code := 0x0B01
    wrongMode := updArmWrongMode
    params := fun r s =>
      let n := fieldLe r.payload 0 4
      if r.payload.length ≠ 8 ∨ n < 4096 ∨ 16777216 < n ∨ n % 4096 ≠ 0 ∨ !updTargetOk (byteAt r.payload 4) s
          ∨ !allZero (slice r.payload 5 3) then some 0 else none
    checks := fun r s =>
      let t := byteAt r.payload 4
      let trial := t = 0 ∧ s.sys.mode ≠ .recovery ∧ (bankPointer s).trial.isSome
      if trial ∨ updForeign t r s ∨ updState t s = 4 then some (stBusy, 0) else none
    commit := fun r s => answer r stOk 0 [] (updBegin r s) }

/-- Meaning of UPD_BEGIN (R371). -/
def execUpdBegin (c : CmdSource) (s : State) : Host.Outcome State Fault Refusal := .next (runCommand updBeginOp c s)

/-- A chunk is programmed (R372). -/
def updChunk (r : Req) (s : State) : State :=
  let t := byteAt r.payload 4
  match updSession t s with
  | none => s
  | some x =>
    let off := fieldLe r.payload 0 4
    let data := r.payload.drop 8
    let s := setUpdSession t (some { x with written := addRange off (off + data.length) x.written }) s
    if t = 0 then { s with upd := { s.upd with nor := Tab.set s.upd.nor x.bank (Mem.writeAll (norBank s x.bank) off data) } }
    else { s with upd := { s.upd with peerNor := Mem.writeAll s.upd.peerNor off data } }

/-- UPD_CHUNK. -/
def updChunkOp : OpDef :=
  { code := 0x0B02
    wrongMode := updWrongMode
    params := fun r s =>
      let t := byteAt r.payload 4
      let off := fieldLe r.payload 0 4
      let stop := off + (r.payload.length - 8)
      if r.payload.length < 9 ∨ !updTargetOk t s ∨ !allZero (slice r.payload 5 3) then some 0
      else
        match updSession t s with
        | some x => if x.len < stop then some 0x0B11 else if x.state = 1 ∧ overlapsWritten off stop x.written then some 0x0B10 else none
        | none => none
    checks := fun r s =>
      let t := byteAt r.payload 4
      if updForeign t r s ∨ updState t s ≠ 1 then some (stBusy, 0) else none
    commit := fun r s => answer r stOk 0 [] (updChunk r s) }

/-- Meaning of UPD_CHUNK (R372). -/
def execUpdChunk (c : CmdSource) (s : State) : Host.Outcome State Fault Refusal := .next (runCommand updChunkOp c s)

/-! UPD_VERIFY, UPD_STAGE, UPD_ACTIVATE (R369, R373). -/

/-- The result payload of UPD_VERIFY (Table 13.12). -/
def updResult (digest : Bytes) (part : Nat) : Bytes := fit 64 digest ++ leBytes 2 part

/-- The result of a failed verification: the digest is the manifest's where check 1 has settled where the signed bytes end, and
free before (log 122). -/
def failedUpdResult (bank : Mem) (e : ManifestFailure) (s : State) : Bytes × State :=
  let m := Mem.readAll bank 0 65536
  let (d, s) := if e.detail = 0x0B01 then drawBytes 64 s else (sha512 (m.take (manSigAt m)), s)
  (updResult d e.part, s)

/-- The bank of this device's session is judged by Table 13.13. -/
def updVerifyOwn (r : Req) (x : UpdSession) (s : State) : State :=
  match judgeManifest (norBank s x.bank) x.len s with
  | .ok m =>
    answer r stOk 0 (updResult m.digest 0xFFFF) { s with upd := { s.upd with session := some { x with state := Nat.max 2 x.state } } }
  | .error e =>
    let (b, s) := failedUpdResult (norBank s x.bank) e s
    answer r e.status e.detail b s

/-- The checks of Table 13.13 by the peer on the bytes sent to its bank: what its own fuses and counters decide goes by the
next free number, the rest by the bytes (R374, log 26). -/
def verifyPeerBank (x : UpdSession) (s : State) : Except ManifestFailure Manifest :=
  let k := Config.freeNat s.freeCtr
  judgeManifestBy s.upd.peerNor x.len
    { trusted := bit k 0, pqRequired := bit k 1, current := fun p => bit k (2 + p.ty)
      image := fun b fw =>
        { recent := decide (fieldLe b 14 2 ≤ sysRev) && decide (fieldLe b 16 4 ≤ fw), secondary := !s.sys.straps.secondary
          trusted := bit k 9, current := bit k 10, duskSlot := fun n => bit k (11 + n) } }

/-- Verification by the peer (R374). -/
def updVerifyPeer (r : Req) (x : UpdSession) (s : State) : State :=
  let v := verifyPeerBank x s
  let (_, s) := drawNat s
  match v with
  | .ok m =>
    answer r stOk 0 (updResult m.digest 0xFFFF) { s with upd := { s.upd with peerSession := some { x with state := Nat.max 2 x.state } } }
  | .error e =>
    let (b, s) := failedUpdResult s.upd.peerNor e s
    answer r e.status e.detail b s

/-- The parameters of UPD_VERIFY and UPD_STAGE. -/
def updTargetParams (r : Req) (s : State) : Option Nat :=
  if r.payload.length ≠ 4 ∨ !updTargetOk (byteAt r.payload 0) s ∨ !allZero (slice r.payload 1 3) then some 0 else none

/-- UPD_VERIFY. -/
def updVerifyOp : OpDef :=
  { code := 0x0B03
    wrongMode := updWrongMode
    params := updTargetParams
    checks := fun r s =>
      let t := byteAt r.payload 0
      if updForeign t r s ∨ updState t s = 0 ∨ updState t s = 4 then some (stBusy, 0)
      else if r.dryrun then
        match updSession t s with
        | some x => (match if t = 0 then judgeManifest (norBank s x.bank) x.len s else verifyPeerBank x s with
          | .ok _ => none
          | .error e => some (e.status, e.detail))
        | none => none
      else none
    commit := fun r s =>
      let t := byteAt r.payload 0
      match updSession t s with
      | some x => if t = 0 then updVerifyOwn r x s else updVerifyPeer r x s
      | none => s }

/-- Meaning of UPD_VERIFY (R373). -/
def execUpdVerify (c : CmdSource) (s : State) : Host.Outcome State Fault Refusal := .next (runCommand updVerifyOp c s)

/-- UPD_STAGE: the staged mark of a verified bank (R373). -/
def updStageOp : OpDef :=
  { code := 0x0B04
    wrongMode := updWrongMode
    params := updTargetParams
    checks := fun r s =>
      let t := byteAt r.payload 0
      if updForeign t r s ∨ updState t s = 4 then some (stBusy, 0)
      else if updState t s < 2 then some (stBadParam, 0x0B20)
      else none
    commit := fun r s =>
      let t := byteAt r.payload 0
      answer r stOk 0 [] (setUpdSession t ((updSession t s).map (fun x => { x with state := 3 })) (noteBusy s)) }

/-- Meaning of UPD_STAGE (R373). -/
def execUpdStage (c : CmdSource) (s : State) : Host.Outcome State Fault Refusal := .next (runCommand updStageOp c s)

/-- TRIAL_LIMIT of the manifest a bank holds. -/
def trialLimitOf (bank : Mem) : Nat := if (Mem.read bank 22).toNat = 0 then 3 else (Mem.read bank 22).toNat

/-- The bank pointer changes at an activation: a trial of the staged bank, or in RECOVERY, where the other bank does not
pass, the staged bank becomes ACTIVE (R369, R375). -/
def updActivate (bank : Nat) (s : State) : State :=
  if s.sys.mode = .recovery ∧ !bankPasses (1 - bank) s then
    let s := writeSlot (fun b => { b with active := bank, trial := none, trialCount := 0 }) s
    { s with upd := { s.upd with recoveryInstalled := true, partInstalled := Tab.set s.upd.partInstalled bank false } }
  else
    let s := writeSlot (fun b => { b with
      active := if b.active = bank then 1 - bank else b.active, trial := some bank, trialCount := 0
      trialLimit := trialLimitOf (norBank s bank), preTrialImage := s.img.activeMark }) s
    { s with upd := { s.upd with partInstalled := Tab.set s.upd.partInstalled bank false } }

/-- UPD_ACTIVATE: the first phase of the bank-pointer change is its commit point; with RESET_NOW the reset follows the reply
(R369). -/
def updActivateOp : OpDef :=
  { code := 0x0B05
    wrongMode := updArmWrongMode
    params := fun r s =>
      if r.payload.length ≠ 4 ∨ !updTargetOk (byteAt r.payload 0) s ∨ 1 < byteAt r.payload 1 ∨ fieldLe r.payload 2 2 ≠ 0 then some 0
      else none
    checks := fun r s =>
      let t := byteAt r.payload 0
      if updForeign t r s ∨ updState t s = 4 then some (stBusy, 0)
      else if updState t s ≠ 3 then some (stBadParam, 0x0B20)
      else none
    commit := fun r s =>
      let t := byteAt r.payload 0
      match updSession t s with
      | none => s
      | some x =>
        let s := if t = 0 then updActivate x.bank s else s
        let s := answer r stOk 0 [] (setUpdSession t (some { x with state := 4 }) s)
        if t = 0 ∧ (byteAt r.payload 1 = 1 ∨ s.sys.mode = .recovery) then { s with rst := { s.rst with updReset := true, resetFrom := s.clk } } else s }

/-- Meaning of UPD_ACTIVATE (R369). -/
def execUpdActivate (c : CmdSource) (s : State) : Host.Outcome State Fault Refusal := .next (runCommand updActivateOp c s)

/-! UPD_CONFIRM and UPD_STATUS (R370, R374). -/

/-- Stored rollback counters are raised to those of the booted parts (R365, R370). -/
def raiseRollbacks (parts : List (Nat × Nat × Nat × Bytes)) (s : State) : State :=
  parts.foldl (fun s p =>
    if p.1 = 6 then { s with img := { s.img with rollback := Nat.max s.img.rollback p.2.2.1 } }
    else { s with upd := { s.upd with rollbacks := Tab.upd s.upd.rollbacks p.1 0 (fun v => Nat.max v p.2.2.1) } }) s

/-- UPD_CONFIRM: the trial bank becomes ACTIVE and the counters rise. -/
def updConfirmOp : OpDef :=
  { code := 0x0B06
    wrongMode := fun _ s => isStandby s || !s.upd.bootedTrial || !runMode s.sys.mode
    params := noPayload
    commit := fun r s =>
      let s := writeSlot (fun b => { b with active := s.upd.booted, trial := none }) s
      let s := raiseRollbacks s.upd.parts { s with upd := { s.upd with bootedTrial := false } }
      answer r stOk 0 [] s }

/-- Meaning of UPD_CONFIRM (R370). -/
def execUpdConfirm (c : CmdSource) (s : State) : Host.Outcome State Fault Refusal := .next (runCommand updConfirmOp c s)

/-- The UPD_STATUS result (Table 13.14). -/
def updStatus (s : State) : Bytes :=
  let b := bankPointer s
  [BitVec.ofNat 8 b.active, BitVec.ofNat 8 (b.trial.getD 0xFF), BitVec.ofNat 8 b.trialCount, BitVec.ofNat 8 b.trialLimit,
    BitVec.ofNat 8 (updState 0 s), BitVec.ofNat 8 s.upd.booted, 0, 0] ++ leBytes 4 s.upd.manifestVersion
    ++ [1, 2, 3, 4, 5].flatMap (fun t => leBytes 4 (partRollback s t)) ++ fit 64 s.upd.manifestDigest

/-- UPD_STATUS. -/
def updStatusOp : OpDef := { code := 0x0B07, params := noPayload, commit := fun r s => answer r stOk 0 (updStatus s) s }

/-- Meaning of UPD_STATUS (R374). -/
def execUpdStatus (c : CmdSource) (s : State) : Host.Outcome State Fault Refusal := .next (runCommand updStatusOp c s)

/-! The resets that follow (R369, R412). -/

/-- Meaning of UPD_RESET_NOW: 1 ms after the reply source RST_GLOBAL asserts with reach L1, whatever GLOBAL_MAX holds. -/
def execUpdResetNow (s : State) : Host.Outcome State Fault Refusal :=
  .next (if s.rst.updReset then
      assertGlobal 1 (reachClock (s.rst.resetFrom + 1000000) { s with rst := { s.rst with updReset := false } })
    else s)

/-- Meaning of LC_RESET: 1 ms after the reply of LC_TRANSITION the same source asserts with reach L1 (R412). -/
def execLcReset (s : State) : Host.Outcome State Fault Refusal :=
  .next (if s.rst.lcReset then
      assertGlobal 1 (reachClock (s.rst.resetFrom + 1000000) { s with rst := { s.rst with lcReset := false } })
    else s)

end Sys2Proof.Machine
end

