-- ==== Sys2Proof/Machine/Boot.lean ====
section
/-!
DEFINITION. The end of a reset episode, the boot, the start of the firmware, the activation of what the boot loads, and the
commands that reset (chapter Reset, boot and firmware update; R65, R83, R409, R411, R413).
-/
namespace Sys2Proof.Machine

/-! RST_BLOCK (R357, Table 13.5). -/

/-- KIND of RST_BLOCK. -/
def rbKind (r : Req) : Nat := byteAt r.payload 0
/-- INDEX of RST_BLOCK. -/
def rbIndex (r : Req) : Nat := byteAt r.payload 1

/-- INDEX lies in the range of its KIND (Table 13.5). -/
def rbIndexOk (kind index : Nat) : Bool :=
  match kind with
  | 0 => decide (index < 28)
  | 1 => decide (48 ≤ index) && decide (index ≤ 72)
  | 2 | 3 => decide (index < 16)
  | 4 => index == 0
  | _ => false

/-- The block is idle (Table 13.5); no MDIO transaction outlasts its row. -/
def blockIdle (kind index : Nat) (s : State) : Bool :=
  match kind with
  | 0 => (port s index).st == .heldDown && portIdle s index
  | 1 => (chOf s index).st == 6 || (chOf s index).st == 3
  | 2 => !(hstRing s false index).enable && (hstRing s false index).work.isEmpty
  | 3 => !(hstRing s true index).enable && (hstRing s true index).posted.isEmpty
  | _ => true

/-- The block's state is reset; counters and stored coefficients stay, and a port or channel stays down or stopped. -/
def resetBlock (kind index : Nat) (s : State) : State :=
  match kind with
  | 0 =>
    let e := port s index
    let s := setPort index { e with
      role := 0xFF, coeff := 0, rate := 0, plca := 0, pcsLock := false, tc10 := 0, search := 0, searchDone := false } s
    setEgress index { egress s index with preempt := 0, verifyTries := 0, macHeld := false } s
  | 1 =>
    let c := chOf s index
    setCh index { engine := c.engine, counts := c.counts, st := 6 } (if stbLow c then setStb index true s else s)
  | 2 | 3 =>
    let r := hstRing s (kind == 3) index
    setHstRing (kind == 3) index { owner := r.owner, sel := r.sel } s
  | _ => s

/-- RST_BLOCK: the idle check and the assertion fall in one period, and the assertion is the commit point. -/
def rstBlockOp : OpDef :=
  { code := 0x0B10
    params := fun r _ =>
      if r.payload.length ≠ 4 ∨ fieldLe r.payload 2 2 ≠ 0 ∨ !rbIndexOk (rbKind r) (rbIndex r) then some 0 else none
    checks := fun r s => if blockIdle (rbKind r) (rbIndex r) s then none else some (stNotIdle, 0)
    commit := fun r s =>
      resetBlock (rbKind r) (rbIndex r)
        { s with rst := { s.rst with blocks := s.rst.blocks ++ [(rbKind r, rbIndex r, r.tag)] } } }

/-- Meaning of RST_BLOCK (R357). -/
def execRstBlock (c : CmdSource) (s : State) : Host.Outcome State Fault Refusal := .next (runCommand rstBlockOp c s)

/-- Meaning of RST_BLOCK_RELEASE: the block held longest is released and its command's final reply follows (R357). -/
def execRstBlockRelease (s : State) : Host.Outcome State Fault Refusal :=
  .next (
    match s.rst.blocks with
    | [] => s
    | (_, _, t) :: rest => finalReply t stOk 0 [] { s with rst := { s.rst with blocks := rest } })

/-! RST_GLOBAL (R358). -/

/-- GLOBAL_MAX in force (Table 13.3). -/
def globalMax (s : State) : Nat := reachField s.otp.rstReachRead 18 [1, 2, 3, 4] 1

/-- RST_GLOBAL: the assertion of the source is its commit point; the replies for L3 and L4 follow the exit. -/
def rstGlobalOp : OpDef :=
  { code := 0x0B11
    denied := fun r s => within 1 4 (byteAt r.payload 0) && decide (byteAt r.payload 0 < globalMax s)
    params := fun r _ =>
      if r.payload.length ≠ 4 ∨ !within 1 4 (byteAt r.payload 0) ∨ !allZero (slice r.payload 1 3) then some 0 else none
    commit := fun r s =>
      assertGlobal (byteAt r.payload 0) { s with rst := { s.rst with globalTags := s.rst.globalTags ++ [r.tag] } } }

/-- Meaning of RST_GLOBAL (R358). -/
def execRstGlobal (c : CmdSource) (s : State) : Host.Outcome State Fault Refusal := .next (runCommand rstGlobalOp c s)

/-- The final replies of the RST_GLOBAL commands whose exit is complete (R358). -/
def replyGlobals (s : State) : State :=
  s.rst.globalTags.foldl (fun s t => finalReply t stOk 0 [] s) { s with rst := { s.rst with globalTags := [] } }

/-! The end of an episode (R355, R356, R361). -/

/-- A source may be released: the supplies of VBKP_POR and MAIN_POR have come back (Table 13.1). -/
def mayRelease (src : Nat) (s : State) : Bool :=
  sourceAsserted src s && (if src = 4 then !s.rst.invalid.contains .vbkp else if src = 5 then mainValid s && s.rst.vmonOk else true)

/-- What the backup domain does at the end of an episode: counts and the last-cause word, all saturating (R356). -/
def countEpisode (e : Episode) (s : State) : State :=
  if e.sources = 0 then s
  else
    let bits_ := (List.range 16).filter (fun n => decide (4 ≤ n) && bit e.sources.toNat n)
    { s with
      bkp := { s.bkp with
        episodes := satAdd 32 s.bkp.episodes 1
        sourceCounts := bits_.foldl (fun t n => Tab.upd t n 0 (fun v => satAdd 16 v 1)) s.bkp.sourceCounts
        lastCause := BitVec.ofNat 16 (sumBy (2 ^ ·) bits_ + e.reach) }
      rst := { s.rst with resetRecordDue := true } }

/-- The straps are sampled at the end of an episode of reach `r`: for L0 to L2 all of them act in the boot that follows, for
L3 PROFILE in the reload (R361). -/
def takeStraps (r : Nat) (x : Straps) (s : State) : State :=
  let act := if r ≤ 2 then x else if r = 3 then { s.sys.straps with profile := x.profile } else s.sys.straps
  { s with sys := { s.sys with straps := act, sampled := x } }

/-- A partly blown cell that reads blown is blown whole (R411). -/
def wholeCell (c : BitVec 3) : BitVec 3 := if cellBlown c then 7 else c

/-- Fuses read at step 1 of the boot (R353, R411). -/
def readFuses (s : State) : State :=
  let o := s.otp
  let cells := o.lcCells.map wholeCell
  let retired := wholeCell o.retiredCell
  { s with otp := { o with
      lcCells := cells, retiredCell := retired, rstReachRead := o.rstReach
      lcCount := lcCountOf cells, lcState := lcStateOf (lcCountOf cells) (cellBlown retired) } }

/-- A port is enabled at the end of an episode of reach L0 to L2: in the mode it had when STANDBY was entered, otherwise in
the mode of the bank that holds the ACTIVE mark (R341). -/
def bootPort (wake : Bool) (cfg : PortCfg) (p : Nat) (s : State) : State :=
  let e := port s p
  if !cfg.enabled then setPort p { e with st := .disabled } s
  else
    let stored := if portType p = 0 ∧ bit cfg.flags 3 then storedSet e else none
    setPort p { e with
      coeffs := if e.coeff ≠ 0 then e.coeffs else stored.getD []
      st := .training, mode := if wake then Tab.get s.wake.portModes p cfg.mode else cfg.mode, enabledAt := s.clk
      coeff := if e.coeff ≠ 0 then e.coeff else b2n stored.isSome, plca := plcaStart cfg p } s

/-- The external ports are enabled for the boot (Table 13.8 step 1). -/
def bootPorts (wake : Bool) (s : State) : State :=
  let v := { s with img := { s.img with live := activeContainer s } }
  (List.range 28).foldl (fun s p => bootPort wake (portCfg v p) p s) s

/-- The local clock starts at 0 (R218). -/
def startClock (s : State) : State := { s with clk := 0, time := {}, img := { s.img with paceAt := 0 } }

/-- Messages of sources raised during an episode of reach L3 or L4 go out (R445). -/
def sendDeferred (s : State) : State :=
  s.intr.deferred.foldl (fun s src => signalSource src s) { s with intr := { s.intr with deferred := [] } }

/-- The RESET record: last-cause word and episode count (R356). -/
def resetRecord (s : State) : State :=
  if s.rst.resetRecordDue then
    record 0x0B01 (leBytes 2 s.bkp.lastCause.toNat ++ leBytes 4 s.bkp.episodes)
      { s with rst := { s.rst with resetRecordDue := false } }
  else s

/-- After an L3 episode the data path is reloaded from the bank that holds the ACTIVE mark, where it ran on an image (R83). -/
def reloadImage (s : State) : State :=
  match s.img.loaded, activeContainer s with
  | some _, some i => loadImage i s
  | _, _ => { s with img := { s.img with loaded := none, loadedAt := s.clk } }

/-- The episode ends and the exit sequence of its reach begins (R354, R355). -/
def endEpisode (e : Episode) (straps : Straps) (badLanes : List Nat) (s : State) : State :=
  let r := e.reach
  let wake := s.sys.mode == .standby && r == 1
  let s := takeStraps r straps (countEpisode e s)
  let s := { s with rst := { s.rst with episode := none, exit := some r } }
  let s := if r ≤ 3 then { s with bsn := { s.bsn with laneMap := badLanes } } else s
  if r ≤ 2 then
    let s := readFuses s
    let s := if r ≤ 1 then startClock s else s
    testAllCores (bootPorts wake { s with
      sys := { s.sys with mode := .boot }
      wake := { s.wake with forward := wake } })
  else if r = 3 then sendDeferred (reloadImage (resetRecord s))
  else sendDeferred s

/-- A source is released: what its own release does besides. -/
def dropSource (src : Nat) (s : State) : State :=
  let s := { s with rst := { s.rst with asserted := s.rst.asserted &&& ~~~(BitVec.ofNat 16 (2 ^ src)) } }
  if src = 4 then
    let s := driveInh { s with bkp := { s.bkp with wakeCause := s.bkp.wakeCause ||| 0x0100 } }
    if mainValid s then s else { s with sys := { s.sys with mode := .backup } }
  else s

/-- Meaning of RESET_SOURCE_RELEASE: a source stops asserting; with the last one the episode ends.  In STANDBY the core stays
in reset until a wake has driven INH high (R326, R335, R336). -/
def execResetSourceRelease (source : Fin 16) (straps : Straps) (badLanes : List (Fin 36)) (s : State) :
    Host.Outcome State Fault Refusal :=
  .next (
    let s := if mayRelease source.val s then dropSource source.val s else s
    match s.rst.episode with
    | some e =>
      if s.rst.asserted ≠ 0 ∨ (s.sys.mode = .standby ∧ ¬s.wake.inh) then s
      else endEpisode e straps (badLanes.map Fin.val) s
    | none => s)

/-! The start of the cluster (R44, R65, R362). -/

/-- What every start of the cluster does: a fresh boot nonce, with which marks and sessions end, and the watchdogs. -/
def startCluster (rom : Bool) (s : State) : State :=
  let (n, s) := drawBytes 16 s
  { s with
    sys := { s.sys with clusterUp := true, halted := false, romOnly := rom }
    cmd := { s.cmd with nonce := n, marks := [], sessions := [], lastInBand := [] }
    saf := { s.saf with
      mgmtServed := s.clk, wdtRuns := !rom, wdtFirst := true, wdtFresh := true, wdtAt := s.clk
      cores := s.saf.cores.map (fun (e : Nat × Core) => (e.1, { e.2 with testing := false, silent := false })) }
    rst := { s.rst with voterRestart := false } }

/-- RST_FUSE_INVALID for every field that holds a value not admitted for its source (R353). -/
def fuseRecords (s : State) : State :=
  reachFields.foldl (fun s f =>
    let v := bits s.otp.rstReachRead.toNat f.1 3
    if v ≠ 0 ∧ ¬f.2.1.contains v then record 0x0B03 [BitVec.ofNat 8 f.1] s else s) s

/-- RSTOUT_N leaves its low state at the first configured state (Table 13.6). -/
def releaseRstout (s : State) : State :=
  if s.rst.rstoutLow then emit (.pin "RSTOUT_N" true) { s with rst := { s.rst with rstoutLow := false } } else s

/-- XSPI-F is brought up: XSPIF_RST_N is released (R313). -/
def releaseFlash (s : State) : State :=
  if s.rst.flashLow then emit (.pin "XSPIF_RST_N" true) { s with rst := { s.rst with flashLow := false } } else s

/-- The firmware sets the peer-bridge windows 0 to 3 at boot; how is not stated and comes free (R317, log 16). -/
def setBootWindows (s : State) : State :=
  (List.range 4).foldl (fun s n =>
    let (b, s) := drawBytes 24 s
    { s with pb := { s.pb with windows := Tab.set s.pb.windows n (windowOf b) } }) s

/-- RECOVERY is entered: the ROM runs alone, the request flag is cleared, and the ports come up in their AUTONOMOUS modes
(R375, R376). -/
def enterRecovery (s : State) : State :=
  let s := startCluster true { s with
    sys := { s.sys with mode := .recovery, recoveryRequest := false }, rst := { s.rst with exit := none } }
  releaseRstout ((List.range 28).foldl (fun s p => bringUp p s) (releaseFlash s))

/-! The boot bank (R363, R366–R368). -/

/-- Phase 2 of an unfinished bank-pointer change (R366). -/
def completeSlots (s : State) : State :=
  match s.upd.slots.lookup 0, s.upd.slots.lookup 1 with
  | some a, some b =>
    if a.valid && b.valid then
      let k := governingSlot s
      { s with upd := { s.upd with slots := s.upd.slots.map (fun (e : Nat × BankSlot) =>
          if e.1 = k then e else (e.1, { e.2 with valid := false })) } }
    else s
  | _, _ => s

/-- A bank as steps 3 and 4 of the boot check it (Table 13.8, R363, R365). -/
def checkBank (b : Nat) (s : State) : Option Manifest :=
  match judgeBank (norBank s b) norLen s with
  | .ok m => if (oldPart m s).isSome then none else some m
  | .error _ => none

/-- A bank's run image part is installed at its first boot: copied, checked, marked ACTIVE, the patch log emptied; the flag
tells whether it passed (R368). -/
def installPart (m : Manifest) (b : Nat) (s : State) : Bool × State :=
  if Tab.get s.upd.partInstalled b true then (true, s)
  else
    match imagePart m with
    | none => (true, { s with upd := { s.upd with partInstalled := Tab.set s.upd.partInstalled b true } })
    | some (_, p) =>
      let bytes := partBytes (norBank s b) p
      let k := inactiveBank s
      let s := { s with img := { s.img with
        banks := Tab.set s.img.banks k (Mem.writeAll (imgBank s k) 0 bytes), lens := Tab.set s.img.lens k p.size
        ranges := Tab.set s.img.ranges k [] } }
      match judgeImage bytes (firmwareVersion m.parts) s.sys.straps.secondary s with
      | .error _ => (false, s)
      | .ok _ =>
        (true, { s with
          img := { s.img with activeMark := some k, patchLog := [] }
          upd := { s.upd with partInstalled := Tab.set s.upd.partInstalled b true } })

/-- The firmware of bank `b` is the one that starts. -/
def bootFrom (m : Manifest) (b : Nat) (trial : Bool) (s : State) : State :=
  { s with
    sys := { s.sys with fwVersion := BitVec.ofNat 32 (firmwareVersion m.parts) }
    upd := { s.upd with
      booted := b, bootedTrial := trial, manifestVersion := m.version, manifestDigest := m.digest
      parts := m.parts.map (fun p => (p.ty, p.version, p.rollback, p.digest)) } }

/-- A bank that is not a trial bank boots where it passes; one installed in RECOVERY installs its part and raises the stored
counters at its first boot (R363, R368, R375). -/
def bootActive (b : Nat) (s : State) : Bool × State :=
  match checkBank b s with
  | none => (false, s)
  | some m =>
    let (ok, s) := installPart m b s
    if !ok then (false, s)
    else
      let s := bootFrom m b false s
      if s.upd.recoveryInstalled ∧ b = (bankPointer s).active then
        (true, raiseRollbacks s.upd.parts { s with upd := { s.upd with recoveryInstalled := false } })
      else (true, s)

/-- The ACTIVE bank boots, or the other in its place with a BANK_FALLBACK record (R363). -/
def bootOrdinary (s : State) : Bool × State :=
  let a := (bankPointer s).active
  let (ok, s) := bootActive a s
  if ok then (true, s)
  else
    let (ok, s) := bootActive (1 - a) s
    if ok then (true, record 0x0B05 [] (writeSlot (fun b => { b with active := 1 - a }) s)) else (false, s)

/-- The bank that boots: a trial bank within its limit, which a failed check reverts, or the ACTIVE bank (R363, R367). -/
def chooseBank (s : State) : Bool × State :=
  let s := completeSlots s
  let p := bankPointer s
  match p.trial with
  | none => bootOrdinary s
  | some t =>
    if p.trialCount = p.trialLimit then bootOrdinary (revertTrial s)
    else
      let s := writeSlot (fun b => { b with trialCount := b.trialCount + 1 }) s
      match checkBank t s with
      | none => bootOrdinary (revertTrial s)
      | some m =>
        let (ok, s) := installPart m t s
        if ok then (true, bootFrom m t true s) else bootOrdinary (revertTrial s)

/-! The first start of the firmware (R359, R409, R413). -/

/-- One attempt to make the root secret in a field that holds no blown bit: what the field holds after it, and whether the
read-back agreed. The next free number tells how it went: 0, the draw is blown and reads back; 1, the health tests failed
and nothing is blown; 2, the read-back differs, and which bits were blown is free (R409, log 49). -/
def rootAttempt (s : State) : (Bytes × Bool) × State :=
  let (d, s) := drawBytes 128 s
  let (n, s) := drawNat s
  if n % 3 = 0 then (((sha512 d).take 32, true), s)
  else if n % 3 = 1 then ((List.replicate 32 0, false), s)
  else
    let (b, s) := drawBytes 32 s
    ((b, false), s)

/-- ROOT_B takes the root secret where ROOT_A could not; both unusable leaves a ROOT_GEN_FAIL record (R409). -/
def makeRootB (s : State) : State :=
  if !allZero s.otp.rootB then record 0x0D01 [] s
  else
    let ((b, ok), s) := rootAttempt s
    let s := { s with otp := { s.otp with rootB := b, rootBValid := ok } }
    if ok then s else record 0x0D01 [] s

/-- The root secret is generated in MANUFACTURE where none is held (R409). -/
def makeRoot (s : State) : State :=
  if s.otp.lcState ≠ .manufacture ∨ (rootSecret s).isSome then s
  else if !allZero s.otp.rootA then makeRootB s
  else
    let ((a, ok), s) := rootAttempt s
    let s := { s with otp := { s.otp with rootA := a, rootAValid := ok } }
    if ok then s else makeRootB s

/-- In RETIRED the key material of slots 6–63 and the identity cache are erased (R413). -/
def eraseRetired (s : State) : State :=
  if s.otp.lcState = .retired then
    { s with keys := { s.keys with
        slots := s.keys.slots.map (fun (e : Nat × KeySlot) => if 6 ≤ e.1 then (e.1, { e.2 with material := [] }) else e)
        identityReady := false } }
  else s

/-- One CMD_LOST record (R359). -/
def lostBody (part parts : Nat) (l : List (Word16 × Nat × Bool)) : Bytes :=
  leBytes 2 part ++ leBytes 2 parts ++ leBytes 2 l.length ++ [0, 0]
    ++ l.flatMap (fun e => leBytes 2 e.1.toNat ++ leBytes 2 e.2.1 ++ [BitVec.ofNat 8 (b2n e.2.2), 0, 0, 0])

/-- The set of CMD_LOST records of the first start after an episode of reach L0 to L2 (R359). -/
def lostRecords (s : State) : State :=
  match s.cmd.lost with
  | none => s
  | some l =>
    let n := Nat.max 1 ((l.length + 28) / 29)
    let s := (List.range n).foldl (fun s i => record 0x0B02 (lostBody i n (slice29 i l)) s) s
    { s with cmd := { s.cmd with lost := none } }
where
  /-- The entries of record `i`. -/
  slice29 (i : Nat) (l : List (Word16 × Nat × Bool)) : List (Word16 × Nat × Bool) := (l.drop (29 * i)).take 29

/-- The latched wake cause and the detectors' flags are read and cleared, and the counters of the ring start again (R325,
R347). -/
def readWakeCause (s : State) : State :=
  let s := updWake (fun w => { w with
    lastCause := s.bkp.wakeCause.toNat, lastCan := w.canLatched, lastTc10 := w.tc10Latched, canLatched := 0, tc10Latched := 0
    firstEntry := true, down := false, committed := 0, naks := 0, dawns := 0, dawnsIgnored := 0, rejected := 0 }) s
  { s with bkp := { s.bkp with wakeCause := 0 } }

/-- The operating-seconds tick joins the count of the system area, and a power-on is counted (R31, R436). -/
def countHours (s : State) : State :=
  let power := s.rst.resetRecordDue && (bit s.bkp.lastCause.toNat 4 || bit s.bkp.lastCause.toNat 5)
  { s with
    sys := { s.sys with
      opSeconds := s.sys.opSeconds + s.bkp.opTick.toNat, powerCycles := s.sys.powerCycles + b2n power }
    bkp := { s.bkp with opTick := 0 } }

/-- An activation whose PENDING mark stands was lost with the episode (R79). -/
def noteLostActivation (s : State) : State :=
  match s.img.pendingMark with
  | some _ => record 0x0102 [] { s with img := { s.img with pendingMark := none } }
  | none => s

/-- The bank that holds the ACTIVE mark is loaded where its image verifies (Table 1.8, R83). -/
def loadActive (s : State) : State :=
  match s.img.activeMark with
  | some b =>
    if s.otp.lcState = .retired then s
    else
      match judgeImage (bankContainer s b) s.sys.fwVersion.toNat s.sys.straps.secondary s with
      | .ok i => loadImage i s
      | .error _ => s
  | none => s

/-- The body of a patch's journal record agrees with the entry of the patch log it names (R145). -/
def inPatchLog (l : List Patch) (b : Bytes) : Bool :=
  match l[fieldLe b 32 2]? with
  | some p => p.section_ == fieldLe b 8 2 && p.offset == fieldLe b 10 4 && p.data.length == fieldLe b 14 2 && p.crc == fieldLe b 16 8
  | none => false

/-- A patch journalled in the run that has ended has no entry in the patch log (R145, log 113): of the records since the last
RESET record, and since the log was last emptied, the newest that journals a patch. -/
def patchLost (s : State) : Bool :=
  let recent := (recordList s.evr.mem s.evr.head (s.evr.head / 16 + 1) 0).reverse.takeWhile
    (fun r => !([0x0B01, 0x0101, 0x0305, 0x0B06, 0x0F02].contains r.1))
  match recent.find? (fun r => r.1 == 0x0001 && fieldLe r.2 0 2 == 0x0110 && byteAt r.2 4 == 1) with
  | some r => !inPatchLog s.img.patchLog r.2
  | none => false

/-- Steps 3 to 6 of the boot flow (Table 13.8). -/
def bootFirmware (s : State) : State :=
  let lost := patchLost s
  let (ok, s) := chooseBank (releaseFlash s)
  if !ok then enterRecovery s
  else
    let s := makeRoot (eraseRetired (startCluster false (setBootWindows s)))
    let s := completeClear { s with evr := { s.evr with found := true } }
    let s := resetRecord (countHours s)
    let s := fuseRecords (lostRecords s)
    let s := if lost then record 0x0104 [] s else s
    let s := if 3 ≤ s.sys.straps.boot.toNat then record 0x0B04 [] s else s
    loadActive (noteLostActivation { s with img := { s.img with loaded := none, loadedAt := s.clk } })

/-- The boot after an episode of reach L0 to L2 (R362): RECOVERY where BOOT or the request flag asks for it. -/
def boot (s : State) : State :=
  let b := s.sys.straps.boot.toNat
  let s := readWakeCause { s with sys := { s.sys with split := b == 1 } }
  if b = 2 ∨ s.sys.recoveryRequest then enterRecovery s else bootFirmware s

/-! The restart after an L4 episode (R65). -/

/-- What the journal says of one command in flight: one that is not committed, or whose result is still to be captured,
replies ABORTED with DETAIL 0x0002; a committed one is carried on (R65). -/
def restartCommand (s : State) (e : InFlight) : State :=
  match e.phase with
  | .waiting | .armed => abortCommand e.packet.tag 0x0002 s
  | .committed => if e.opcode = 0x7F01 then finalReply e.packet.tag stAborted 0x0002 [] s else s
  | .replied => s

/-- Mailbox replies not yet popped are reissued from the journal (R65). -/
def reissueReplies (s : State) : State :=
  { s with cmd := { s.cmd with replies := s.cmd.replies.map (fun r => { r with left := r.whole }) } }

/-- The firmware starts again after an L4 episode: every command in flight is answered or carried on, and FAULT_N is
released but in SAFE (R65, R355, R358). -/
def restartFirmware (s : State) : State :=
  let s := { s with sys := { s.sys with fwVersion := BitVec.ofNat 32 (bootedVersion s) }, rst := { s.rst with exit := none } }
  let s := fuseRecords (resetRecord (startCluster false s))
  let s := reissueReplies s
  let owed := s.cmd.owed
  let s := owed.foldl (fun s x => finalReply x.1 x.2.1 x.2.2.1 x.2.2.2 s) { s with cmd := { s.cmd with owed := [] } }
  let s := s.cmd.inflight.foldl restartCommand s
  let s := if s.img.pendingMark.isSome ∧ s.img.armed.isNone then finishActivation s else s
  let s := replyGlobals (completeClear s)
  if s.sys.mode = .safe then s else setFault false s
where
  /-- VERSION of the firmware part of the booted bank. -/
  bootedVersion (s : State) : Nat := ((s.upd.parts.lookup 1).map (·.1)).getD 0

/-- The cluster starts: the boot that follows an episode of reach L0 to L2 or a wake (R362), or the restart after one of
reach L4 (R65). -/
def startFirmware (s : State) : State :=
  if s.rst.episode.isSome ∨ s.sys.clusterUp then s
  else
    match s.rst.exit with
    | some 4 => restartFirmware s
    | some 3 => s
    | some _ => boot s
    | none => s

/-! The activation of what was loaded (R83). -/

/-- The data path takes up the loaded image, or the ROM's profile, on tables that an episode has reset: `kept` tells that the
time domains and links were kept under the same image. -/
def startDataPath (new : Option RunImage) (kept : Bool) (s : State) : State :=
  let old := if kept then s.time.kept else none
  let s := firstBank new { s with
    time := { s.time with kept := none }
    img := { s.img with live := new, loaded := none, margin := false, goodReadings := 0, paceLow := none } }
  let s := applyWakeSettings (activateCounters (liveSection s 0x0011) (refreshFirewall s))
  let s := (List.range 4).foldl (activateDomain old) s
  let s := (List.range 28).foldl (fun s p =>
    let c := portCfg s p
    let e := port s p
    let was := if e.st = .disabled then { c with enabled := false } else { c with mode := e.mode, enabled := true }
    if e.st = .heldDown ∨ linkFields was != linkFields c then bringUp p s else s) s
  let s := (List.range 31).foldl (fun s p => activateEgress p [] [] s) s
  let s := (List.range 25).foldl (fun s i => assignEngine (48 + i) (startChannel (48 + i) s)) s
  let s := if new.isNone then noteProfile s else s
  refreshBp (notePlcaHold (settlePins { s with bsn := { s.bsn with lowShared := freeShared s } }))

/-- The instant at which the load takes effect: the first cycle boundary of W at least 50 us after it was complete; without
an image at once (R83, Table 1.8). -/
def reachActivation (s : State) : State :=
  match s.img.loaded with
  | some i => reachW (boundaryFrom (wValue s s.img.loadedAt + nsVal 50000) (imgBase i) (if imgCycle i = 0 then 1 else imgCycle i)) s
  | none => s

/-- After a wake from STANDBY each enabled port with TC10 set sends a wake-up request to its partner (R285). -/
def forwardWake (s : State) : State :=
  if !s.wake.forward then s
  else (List.range 28).foldl (fun s p => if bit (tc10Ports s) p then emit (.tc10 p 3) s else s)
    { s with wake := { s.wake with forward := false } }

/-- Leaving BOOT: CONFIGURED or PARTIAL with an image, AUTONOMOUS without, and what the first configured state releases
(Table 1.8, Table 13.6, R32, R343). -/
def leaveBoot (s : State) : State :=
  let new := s.img.loaded
  let s := forwardWake (startDataPath new false (reachActivation s))
  let s := { s with
    rst := { s.rst with exit := none }
    pair := { s.pair with standby := s.pair.mlUp || s.pair.hlthIn } }
  let s := enterMode (if new.isSome then imageRunMode s else .autonomous) (noteBusy s)
  let s := firstEntry (releaseRstout (setFault false s))
  if 2 ≤ retiredCount s then escalate 6 s else s

/-- The swaps that were pending when the data path was reset took effect with its reload: their commands reply OK (R85,
R118). -/
def replySwaps (s : State) : State :=
  let done := s.cmd.inflight.filter (fun e => (e.opcode == 0x0110 || e.opcode == 0x0201) && e.phase == .committed)
  let s := done.foldl (fun s e =>
    finalReply e.packet.tag stOk 0 (if e.opcode = 0x0201 then swapResult s else []) s) s
  let tags := done.map (fun e => e.packet.tag)
  { s with pair := { s.pair with relayed := s.pair.relayed.filter (fun t => !tags.contains t) } }

/-- The end of the L3 exit: the reloaded data path runs on under the unchanged mode (R83, R355, R358). -/
def resumeDataPath (s : State) : State :=
  let new := s.img.loaded
  let s := startDataPath new true (reachActivation s)
  let s := { s with rst := { s.rst with exit := none } }
  let s := replyGlobals (replySwaps s)
  if s.sys.mode = .safe then s else setFault false s

/-- Meaning of BOOT_ACTIVATION (R83): the loaded image activates, in BOOT or after an L3 episode. -/
def execBootActivation (s : State) : Host.Outcome State Fault Refusal :=
  .next (
    if s.rst.episode.isSome then s
    else
      match s.rst.exit with
      | some 3 => resumeDataPath s
      | some 4 => s
      | some _ => if s.sys.clusterUp ∧ s.sys.mode = .boot then leaveBoot s else s
      | none => s)

end Sys2Proof.Machine
end

