-- ==== Sys2Proof/Machine/Registers.lean ====
section
/-!
DEFINITION. Writes to the direct window and the rows of its registers: REGISTER_WRITE, INT_STAT, the read-clear
registers, the time registers, and the reads of XSPI-H (chapters Direct register map and Host interfaces).
-/
namespace Sys2Proof.Machine

/-- What a write meets at its register. -/
inductive WriteOutcome
  /-- It took effect, or the offset ignores writes without error. -/
  | done
  /-- Refused for its world or its access code (R444, R314). -/
  | refused
deriving DecidableEq, Repr

/-- The view reaches the host ports now; XSPI-H serves accesses from step 2 of the boot on (Table 13.8). -/
def viewUp (v : View) (s : State) : Bool :=
  match viewFn v with
  | some _ => pcieUp s
  | none =>
    match s.rst.episode with
    | some e => decide (3 ≤ e.reach)
    | none => s.sys.clusterUp || (match s.rst.exit with
      | some r => decide (3 ≤ r)
      | none => true)

/-- An access of `n` bytes at an offset is served: the view is up, and no lock of the peer covers it; otherwise it waits and its
row changes nothing (R320, log 146). -/
def reaches (v : View) (off n : Nat) (s : State) : Bool := viewUp v s && !lockedDirect off n s

/-- A refused write is noted in WORLD_ERR of the function, or in WR_ERR of XSPI-H (R444). -/
def noteRefused (v : View) (s : State) : State :=
  match viewFn v with
  | some f => setPciFn f { pciFn s f with worldErr := true } s
  | none => { s with hst := { s.hst with xspi := { s.hst.xspi with wrErr := true } } }

/-! The registers that take a write. -/

/-- Writes CMD_RING_CFG of function `f`: ENABLE set on an idle ring resets its pointers (Table 2.9, R50). -/
def writeRingCfg (f : Nat) (v : Word) (s : State) : State :=
  let r := cmdRing s f
  let w := v.toNat
  let active := ringActive f s
  let size := if active ∨ 4 < bits w 0 3 then r.sqSize else bits w 0 3
  let r := { r with msixVec := bits w 8 6, sqSize := size }
  if bit w 31 then
    if active then setCmdRing f r s
    else setCmdRing f { r with enable := true, sqHead := 0, sqTail := 0, cqHead := 0, cqTail := 0, phase := true, offered := [] } s
  else setCmdRing f { r with enable := false, offered := [] } s

/-- Meaning of CMD_RING_CFG_WRITE (R50). -/
def execCmdRingCfgWrite (f : Fin 2) (v : Word) (s : State) : Host.Outcome State Fault Refusal :=
  .next (if pcieUp s ∧ !lockedDirect 0x110 4 s then writeRingCfg f.val v s else s)

/-- Writes CMD_CQ_HEAD of function `f`: entries are consumed, and held completions written (R49, R50). -/
def writeCqHead (f : Nat) (v : Word) (s : State) : State :=
  let r := cmdRing s f
  let h := v.toNat % 512
  if cqSize r ≤ h then setCmdRing f { r with dbErr := true } s
  else drainCompletions r.held.length f (setCmdRing f { r with cqHead := h } s)

/-- Meaning of CMD_CQ_HEAD_WRITE (R49). -/
def execCmdCqHeadWrite (f : Fin 2) (head : Word) (s : State) : Host.Outcome State Fault Refusal :=
  .next (if pcieUp s ∧ !lockedDirect 0x11C 4 s then writeCqHead f.val head s else s)

/-- Writes the CMD registers of function `f` (Table 2.8); its owner's write of a read-only one is ignored without error (R13). -/
def writeCmd (f off : Nat) (v : Word) (s : State) : State × WriteOutcome :=
  let r := cmdRing s f
  let w := v.toNat
  let lo := w / 4096 * 4096
  let base := fun (b : Word64) (high : Bool) => BitVec.ofNat 64
    (if high then w * 2 ^ 32 + b.toNat % 2 ^ 32 else b.toNat / 2 ^ 32 * 2 ^ 32 + lo)
  let idle := !ringActive f s
  if off = 0x100 then (if idle then setCmdRing f { r with sqBase := base r.sqBase false } s else s, .done)
  else if off = 0x104 then (if idle then setCmdRing f { r with sqBase := base r.sqBase true } s else s, .done)
  else if off = 0x108 then (if idle then setCmdRing f { r with cqBase := base r.cqBase false } s else s, .done)
  else if off = 0x10C then (if idle then setCmdRing f { r with cqBase := base r.cqBase true } s else s, .done)
  else if off = 0x110 then (writeRingCfg f v s, .done)
  else if off = 0x11C then (writeCqHead f v s, .done)
  else if off = 0x124 then
    (setCmdRing f { r with descErr := r.descErr && !bit w 3, fetchErr := r.fetchErr && !bit w 1, dbErr := r.dbErr && !bit w 0 } s,
     .done)
  else (s, .done)

/-- A W1C write of INT_STAT, with the sources that raise in the same period: the raise prevails (R445). -/
def clearInt (v : Word) (raised : List Nat) (s : State) : State :=
  let s := { s with intr := { s.intr with stat := s.intr.stat &&& ~~~ v } }
  raised.foldl (fun s src => raiseInt src s) s

/-- Writes INT_ROUTE of source `src`: reserved bits stay 0; through XSPI-H only field XSPI is written, and a write that
would change another field is refused for it (Table 17.2). -/
def writeRoute (v : View) (src : Nat) (w : Word) (s : State) : State × WriteOutcome :=
  let mask := 0x1F3F
  let put := fun (x : Nat) => { s with intr := { s.intr with routes := Tab.set s.intr.routes src (BitVec.ofNat 32 x) } }
  match v with
  | .f0 => (put (w.toNat &&& mask), .done)
  | .xspi =>
    let old := intRoute s src
    (put (old % 4096 + flagBit (bit w.toNat 12) 12), if w.toNat &&& 0xF3F = old % 4096 then .done else .refused)
  | _ => (s, .refused)

/-- Writes a word of the MSI-X table of function `f` (R298, R301, log 6). -/
def writeMsix (f off : Nat) (w : Word) (s : State) : State :=
  let k := (off - 0xE000) / 16
  let e := vector s f k
  match off / 4 % 4 with
  | 0 => setVector f k { e with addr := BitVec.ofNat 64 (e.addr.toNat / 2 ^ 32 * 2 ^ 32 + w.toNat) } s
  | 1 => setVector f k { e with addr := BitVec.ofNat 64 (w.toNat * 2 ^ 32 + e.addr.toNat % 2 ^ 32) } s
  | 2 => setVector f k { e with data := w } s
  | _ => if bit w.toNat 0 then setVector f k { e with masked := true } s else unmask f k s

/-- The offset is that of a register which no external world writes (Table 17.2). -/
def readOnlyReg (off : Nat) : Bool :=
  off < 0x18 || off == 0x800 || off == 0x804 || off == 0x808 || (decide (0x810 ≤ off) && decide (off < 0x828)) || off == 0xE14
    || off == 0x1000 || off == 0x1004 || (decide (0x1040 ≤ off) && decide (off < 0x1070))
    || (decide (0x1400 ≤ off) && decide (off < 0x1410)) || off == 0x1800 || off == 0x1804 || off == 0x1808
    || off == 0x1C04 || (decide (0x1C10 ≤ off) && decide (off < 0x1C1C)) || (decide (0x1C20 ≤ off) && decide (off < 0x1C2C))
    || (decide (0x1C30 ≤ off) && decide (off < 0x1C80))

/-- Writes HST_XSPI_CTL or HST_XSPI_STAT through XSPI-H (Tables 11.8, 11.9). -/
def writeXspiReg (off : Nat) (w : Word) (s : State) : State :=
  let x := s.hst.xspi
  let k := fun (old : Bool) (i : Nat) => old && !bit w.toNat i
  { s with hst := { s.hst with xspi :=
      if off = 0xE00 then { x with intEn := bit w.toNat 1, burstThrough := bit w.toNat 0 }
      else { x with replayed := k x.replayed 6, seClip := k x.seClip 5, alignErr := k x.alignErr 4, cmdErr := k x.cmdErr 3
                    late := k x.late 2, wrOvf := k x.wrOvf 1, wrErr := k x.wrErr 0 } } }

/-- Registers of the views F0, F1 and XSPI-H alike. -/
def writeCommon (v : View) (off : Nat) (w : Word) (s : State) : State × WriteOutcome :=
  if off = 0x400 then (clearInt w [] s, .done)
  else if 0x440 ≤ off ∧ off < 0x46C then writeRoute v ((off - 0x440) / 4) w s
  else if off = 0x1C00 then (timLatch w s, .done)
  else if off = 0xE00 ∨ off = 0xE04 then
    match v with
    | .xspi => (writeXspiReg off w s, .done)
    | _ => (s, .refused)
  else if readOnlyReg off then (s, .refused)
  else (s, .done)

/-- The write of one word at a direct-window offset in a view (R298, R443, R444).  A doorbell whose fetch a row of its own
carries is rung here without anything fetched yet; the mailbox doorbell is rung by the caller. -/
def writeReg (v : View) (off : Nat) (w : Word) (s : State) : State × WriteOutcome :=
  match ringOffset off, viewFn v with
  | some (rx, n, k), some f =>
    (asOwner f rx n (fun s =>
      match k with
      | 0 => writeBase rx n false w s
      | 1 => writeBase rx n true w s
      | 2 => (writeTail f rx n w s).1
      | _ => writeCfg rx n w s) s, .done)
  | some _, none => (s, .done)
  | none, some f =>
    if off = 0xE10 then
      let p := pciFn s f
      let k := fun (old : Bool) (i : Nat) => old && !bit w.toNat i
      (setPciFn f { p with worldErr := k p.worldErr 3, ownErr := k p.ownErr 2, dbErr := k p.dbErr 1, sizeErr := k p.sizeErr 0 } s,
       .done)
    else if 0xE000 ≤ off ∧ off < 0xE400 then (writeMsix f off w s, .done)
    else if 0xF000 ≤ off ∧ off < 0xF008 then (s, .refused)
    else if off < 0x100 then
      if off = 0x18 ∧ !restricted v then ({ s with sys := { s.sys with scratch := w } }, .done)
      else if off ≤ 0x18 then (s, .refused)
      else (s, .done)
    else if restricted v then (s, .done)
    else if off = 0x114 then
      let r := cmdRing s f
      if sqEntries r ≤ w.toNat % 256 then (setCmdRing f { r with dbErr := true } s, .done)
      else (setCmdRing f { r with sqTail := w.toNat % 256 } s, .done)
    else if 0x100 ≤ off ∧ off < 0x140 then writeCmd f off w s
    else if off = 0x140 ∨ off = 0x144 then (s, .done)
    else writeCommon v off w s
  | none, none =>
    if off = 0x18 then ({ s with sys := { s.sys with scratch := w } }, .done)
    else if off = 0x144 then
      ({ s with cmd := { s.cmd with mbDbErr := s.cmd.mbDbErr && !bit w.toNat 1 } }, .done)
    else if 0x8000 ≤ off ∧ off < 0x9000 then
      ({ s with cmd := { s.cmd with request := Mem.writeAll s.cmd.request (off - 0x8000) (leBytes 4 w.toNat) } }, .done)
    else if 0x9000 ≤ off ∧ off < 0x9040 then (s, .refused)
    else if off = 0xE10 then (s, .done)
    else writeCommon v off w s

/-- A write of one word with its refusal noted. -/
def putReg (v : View) (off : Nat) (w : Word) (s : State) : State :=
  let (s, o) := writeReg v off w s
  if o = .refused then noteRefused v s else s

/-- Meaning of INT_STAT_CLEAR (R445); the sources in `raised` raise in the period of the write whatever its view. -/
def execIntStatClear (v : View) (w : Word) (raised : List (Fin 11)) (s : State) : Host.Outcome State Fault Refusal :=
  .next (
    if restricted v ∨ !reaches v 0x400 4 s then (raised.map Fin.val).foldl (fun s src => raiseInt src s) s
    else clearInt w (raised.map Fin.val) s)

/-! Reads with side effects (R446, R448, R52). -/

/-- A read of `n` words from `off` in a view: each word's value, then its side effect. -/
def readWords (v : View) : Nat → Nat → State → List Word × State
  | 0, _, s => ([], s)
  | n + 1, off, s =>
    let w : Word := BitVec.ofNat 32 (peek v off s)
    let (ws, s) := readWords v n (off + 4) (readEffect v off s)
    (w :: ws, s)

/-- The bytes of words read. -/
def wordBytes (ws : List Word) : Bytes := (ws.map (fun w => leBytes 4 w.toNat)).flatten

/-- A single read of one register, its value leaving the block. -/
def readOne (v : View) (off : Nat) (s : State) : State :=
  if !reaches v off 4 s then s
  else
    let (ws, s) := readWords v 1 off s
    emit (.readData v off (wordBytes ws)) s

/-- Meaning of CNT_OVF_READ (R446). -/
def execCntOvfRead (v : View) (w : Fin 12) (s : State) : Host.Outcome State Fault Refusal := .next (readOne v (0x1040 + 4 * w.val) s)

/-- Meaning of TIM_TS_POP (R448). -/
def execTimTsPop (v : View) (n : Fin 4) (s : State) : Host.Outcome State Fault Refusal := .next (readOne v (0x1C4C + 16 * n.val) s)

/-- Meaning of TIM_LATCH, a write of its register (R444, R447). -/
def execTimLatch (v : View) (w : Word) (s : State) : Host.Outcome State Fault Refusal :=
  .next (if reaches v 0x1C00 4 s then putReg v 0x1C00 w s else s)

/-- Meaning of MAILBOX_POP: a read of the whole pop port through XSPI-H returns the current block and pops it (R52). -/
def execMailboxPop (s : State) : Host.Outcome State Fault Refusal :=
  .next (
    if !reaches .xspi 0x9000 64 s then s
    else
      let (ws, s) := readWords .xspi 16 0x9000 s
      emit (.readData .xspi 0x9000 (wordBytes ws)) s)

/-! XSPI-H accesses (R309–R314). -/

/-- Replaces the XSPI-H state. -/
def setXspi (x : Xspi) (s : State) : State := { s with hst := { s.hst with xspi := x } }

/-- An access breaks the address or size rules of R309. -/
def xspiBadAccess (addr : Word) (words : Nat) : Bool :=
  decide (65536 ≤ addr.toNat) || addr.toNat % 4 != 0 || words == 0 || decide (1024 < words)

/-- `n` words of value `x` as bytes. -/
def driven (x : Nat) (n : Nat) : Bytes := (List.replicate n (leBytes 4 x)).flatten

/-- A READ served from the replay buffer: words of the held block from `off` on; the buffer is released once its last word
is delivered (R312).  Words beyond the block are not stated and come free (log 1). -/
def readReplay (b : XspiBurst) (off n : Nat) (s : State) : State :=
  let left := b.words.drop ((off - b.base) / 4)
  let given := left.take n
  let (extra, s) := drawBytes (4 * (n - given.length)) s
  let x := s.hst.xspi
  let s := setXspi { x with replayed := true, replay := if left.length ≤ n then none else some b
                            current := some { b with start := off } } s
  emit (.readData .xspi off (wordBytes given ++ extra)) s

/-- A READ that runs through a side-effect window: every word to the end of the block is read at the register at once
(R312). -/
def readThrough (off n : Nat) (s : State) : State :=
  let count := (64 - off % 64) / 4
  let (ws, s) := readWords .xspi count off s
  let b : XspiBurst := { base := off, words := ws, start := off }
  let (extra, s) := drawBytes (4 * (n - count)) s
  let x := s.hst.xspi
  let s := setXspi { x with replay := if n < count then some b else x.replay, current := some b } s
  emit (.readData .xspi off (wordBytes (ws.take n) ++ extra)) s

/-- A READ in a side-effect window word by word: the first word is read at its register, the others are driven as 0 and set
SE_CLIP (R311). -/
def readFirst (off n : Nat) (s : State) : State :=
  let (ws, s) := readWords .xspi 1 off s
  let s := if 1 < n then setXspi { s.hst.xspi with seClip := true } s else s
  emit (.readData .xspi off (wordBytes ws ++ driven 0 (n - 1))) s

/-- Meaning of XSPI_READ: `late` tells that the internal read has not completed in time (R310–R312). -/
def execXspiRead (addr : Word) (words : Nat) (late : Bool) (s : State) : Host.Outcome State Fault Refusal :=
  .next (
    let off := addr.toNat
    let s := setXspi { s.hst.xspi with current := none } s
    let x := s.hst.xspi
    if !reaches .xspi off (4 * words) s then s
    else if xspiBadAccess addr words then
      emit (.readData .xspi off (driven 0 words)) (setXspi { x with alignErr := true } s)
    else if late then
      emit (.readData .xspi off (driven 0xFFFFFFFF words)) (setXspi { x with late := true } s)
    else if !inWindow off then
      emit (.readData .xspi off (wordBytes ((List.range words).map (fun i => BitVec.ofNat 32 (peek .xspi (off + 4 * i) s))))) s
    else
      match x.replay with
      | some b =>
        if b.base ≤ off ∧ off < b.base + 4 * b.words.length then readReplay b off words s else readFirst off words s
      | none => if x.burstThrough then readThrough off words s else readFirst off words s)

/-- Meaning of XSPIH_CS_RISE: the host has taken `taken` words of the access in progress; a fetched block whose last word it
has not taken is kept whole in the replay buffer (R312). -/
def execXspihCsRise (taken : Nat) (s : State) : Host.Outcome State Fault Refusal :=
  .next (
    let x := s.hst.xspi
    match x.current with
    | some b =>
      let need := b.words.length - (b.start - b.base) / 4
      if taken < need then setXspi { x with current := none, replay := some { b with start := b.base } } s
      else setXspi { x with current := none } s
    | none => s)

/-- Meaning of XSPI_WRITE: the write is posted through LB, or discarded (R309, R314). -/
def execXspiWrite (addr : Word) (words : List Word) (s : State) : Host.Outcome State Fault Refusal :=
  .next (
    let s := setXspi { s.hst.xspi with current := none } s
    let x := s.hst.xspi
    if !viewUp .xspi s then s
    else if xspiBadAccess addr words.length then setXspi { x with alignErr := true } s
    else if 64 ≤ x.posted.length then setXspi { x with wrOvf := true } s
    else setXspi { x with posted := x.posted ++ [(addr.toNat, words)] } s)

/-- Meaning of XSPI_BAD_COMMAND: command bytes that are not complementary set CMD_ERR (R309); complementary bytes of another
command are none of this row's. -/
def execXspiBadCommand (first second : Byte) (s : State) : Host.Outcome State Fault Refusal :=
  .next (if second = ~~~ first ∨ !viewUp .xspi s then s else setXspi { s.hst.xspi with cmdErr := true } s)

end Sys2Proof.Machine
end

