-- ==== Sys2Proof/Machine/Bridge.lean ====
section
/-!
DEFINITION. The peer bridge and debug access: windows, outbound and inbound transactions, locks, back-off, and what reaches
an internal address (chapters Host interfaces and bridges, and Safety, redundancy and the pair).
-/
namespace Sys2Proof.Machine

/-! Internal addresses (R144, R313, R353, R410, R421). -/

/-- The offset belongs to a host port alone: a ring, the mailbox, an access status or an MSI-X entry (Table 17.1). -/
def hostPortReg (off : Nat) : Bool :=
  (decide (0x100 ≤ off) && decide (off < 0x400)) || (ringOffset off).isSome || off == 0xE10 || decide (0x2000 ≤ off)

/-- A word of the direct window as an access from inside the device reads it: what belongs to a host port alone reads 0
(log 28). -/
def peekInternal (off : Nat) (s : State) : Nat := if hostPortReg off then 0 else peek .xspi off s

/-- The worlds whose internal write takes effect on a register (Table 17.2): W0 reaches every internal resource (R6), and
what XSPI-H or a function writes for itself is not reached from inside (log 28). -/
def internalWriters (off : Nat) : List Nat :=
  if off = 0x18 ∨ off = 0x400 ∨ off = 0x1C00 then [0, 1, 2]
  else if 0x440 ≤ off ∧ off < 0x46C then [0, 1]
  else if off = 0x1808 then [0]
  else []

/-- A write of one word of the direct window from inside the device; the flag tells that its world is not admitted
(R444). -/
def writeInternal (world off : Nat) (w : Word) (s : State) : Bool × State :=
  if hostPortReg off then (false, s)
  else if !(internalWriters off).contains world then (readOnlyReg off || !(internalWriters off).isEmpty
      || off == 0xE00 || off == 0xE04 || decide (off < 0x18), s)
  else if off = 0x18 then (false, { s with sys := { s.sys with scratch := w } })
  else if off = 0x400 then (false, clearInt w [] s)
  else if off = 0x1C00 then (false, timLatch w s)
  else if off = 0x1808 then (false, kickWdt (w.setWidth 16) s)
  else (false, { s with intr := { s.intr with routes := Tab.set s.intr.routes ((off - 0x440) / 4) (w &&& 0x1F3F) } })

/-- The access filter refuses an access: the protection set-up, key material and XSPI-F are reached in TEST alone, the root
secret never, the MRAM by W0 alone (R30), and RST_REACH is written by DBG_ACCESS alone and not once LOCK is blown. -/
def filterRefuses (region : Config.Region) (world : Nat) (write debug : Bool) (s : State) : Bool :=
  match region with
  | .protection | .keys | .flash => s.otp.lcState != .test
  | .mram _ => world != 0
  | .root => true
  | .rstReach => write && (!debug || bit s.otp.rstReach.toNat 31)
  | _ => false

/-- A refusal to reach the protection set-up is recorded (R144). -/
def noteDenied (region : Config.Region) (s : State) : State :=
  match region with
  | .protection | .keys => record 0x0304 [] s
  | _ => s

/-- A read of `n` words of the direct window from inside the device, each with its side effect. -/
def readInternal : Nat → Nat → State → List Word × State
  | 0, _, s => ([], s)
  | n + 1, off, s =>
    let w : Word := BitVec.ofNat 32 (peekInternal off s)
    let (ws, s) := readInternal n (off + 4) (if hostPortReg off then s else readEffect .xspi off s)
    (w :: ws, s)

/-- A read of `n` bytes of the direct window. -/
def readWindow (off n : Nat) (s : State) : Bytes × State :=
  let (ws, s) := readInternal ((off % 4 + n + 3) / 4) (off / 4 * 4) s
  (slice (wordBytes ws) (off % 4) n, s)

/-- A write of whole words to the direct window; a narrower one has no effect (log 28).  The flag tells that a register
refused the world of the access. -/
def writeWindow (world off : Nat) (data : Bytes) (s : State) : Bool × State :=
  if off % 4 ≠ 0 ∨ data.length % 4 ≠ 0 then (false, s)
  else (List.range (data.length / 4)).foldl (fun (x : Bool × State) i =>
    let (bad, s) := writeInternal world (off + 4 * i) (BitVec.ofNat 32 (fieldLe data (4 * i) 4)) x.2
    (x.1 || bad, s)) (false, s)

/-- A read of the MRAM: the run image banks and the recorder hold what the model holds of them; what lies where in the
firmware cache and the system area the spec does not give (Table 1.5, log 28). -/
def readMram (off n : Nat) (s : State) : Bytes × State :=
  if 0x600000 ≤ off ∧ off + n ≤ 0xA00000 then
    let b := (off - 0x600000) / 0x200000
    (Mem.readAll (imgBank s b) ((off - 0x600000) % 0x200000) n, s)
  else if 0xA00000 ≤ off ∧ off + n ≤ 0xE00000 then (Mem.readAll s.evr.mem (off - 0xA00000) n, s)
  else drawBytes n s

/-- A write of the MRAM by W0. -/
def writeMram (off : Nat) (data : Bytes) (s : State) : State :=
  if 0x600000 ≤ off ∧ off + data.length ≤ 0xA00000 then
    let b := (off - 0x600000) / 0x200000
    { s with img := { s.img with
        banks := Tab.set s.img.banks b (Mem.writeAll (imgBank s b) ((off - 0x600000) % 0x200000) data) } }
  else if 0xA00000 ≤ off ∧ off + data.length ≤ 0xE00000 then
    { s with evr := { s.evr with mem := Mem.writeAll s.evr.mem (off - 0xA00000) data } }
  else s

/-- An access that the filter has passed: its response code and the bytes read.  What memory the spec does not lay out
holds comes free, and a write there changes nothing the model holds (log 28). -/
def performAccess (region : Config.Region) (world : Nat) (write : Bool) (size : Nat) (data : Bytes) (s : State) :
    Nat × Bytes × State :=
  match region with
  | .faulty => (4, [], s)
  | .direct off =>
    if write then
      let (bad, s) := writeWindow world off (fit size data) s
      (if bad then 2 else 0, [], s)
    else
      let (b, s) := readWindow off size s
      (0, b, s)
  | .mram off =>
    if write then (0, [], writeMram off (fit size data) s)
    else
      let (b, s) := readMram off size s
      (0, b, s)
  | .link n k => (0, if write then [] else fit size (linkWord s n k), s)
  | .entry p n => (0, if write then [] else fit size (queueEntry s p n), s)
  | .rstReach =>
    if write then
      (0, [], { s with otp := { s.otp with rstReach := s.otp.rstReach ||| BitVec.ofNat 32 (ofLe (data.take (Nat.min size 4)) &&& 0x801FFFFF) } })
    else (0, fit size (leBytes 4 s.otp.rstReach.toNat), s)
  | _ =>
    if write then (0, [], s)
    else
      let (b, s) := drawBytes size s
      (0, b, s)

/-! Windows (R317). -/

/-- First address of the PB aperture and the end of the internal address space (R317). -/
def apertureBase : Nat := 0x8000000000
/-- End of the internal address space. -/
def addressEnd : Nat := 0x10000000000

/-- Window `n`. -/
def pbWindow (s : State) (n : Nat) : PbWindow := Tab.get s.pb.windows n {}

/-- Size of a window in bytes. -/
def windowSize (w : PbWindow) : Nat := 2 ^ w.sizeLog2

/-- The enabled window whose near range holds an address. -/
def nearWindow (s : State) (a : Nat) : Option Nat :=
  (List.range 16).find? (fun n =>
    let w := pbWindow s n
    w.enable && decide (w.near ≤ a) && decide (a < w.near + windowSize w))

/-- The enabled window whose far range holds an address. -/
def farWindow (s : State) (a : Nat) : Option Nat :=
  (List.range 16).find? (fun n =>
    let w := pbWindow s n
    w.enable && decide (w.far ≤ a) && decide (a < w.far + windowSize w))

/-- The near ranges of two windows meet. -/
def windowsMeet (a b : PbWindow) : Bool := decide (a.near < b.near + windowSize b) && decide (b.near < a.near + windowSize a)

/-- A PB_WINDOW_SET is refused with BAD_PARAM (R317). -/
def windowBad (b : Bytes) (s : State) : Bool :=
  let n := byteAt b 0
  let w := windowOf b
  b.length != 24 || decide (n < 4) || decide (15 < n) || decide (7 < byteAt b 1) || byteAt b 2 != 0
    || decide (w.sizeLog2 < 12) || decide (30 < w.sizeLog2) || fieldLe b 20 4 != 0
    || decide (w.near < apertureBase) || decide (addressEnd < w.near + windowSize w)
    || decide (addressEnd < w.far + windowSize w)
    || w.near % windowSize w != 0 || w.far % windowSize w != 0
    || (w.enable && (List.range 16).any (fun k => k != n && (pbWindow s k).enable && windowsMeet w (pbWindow s k)))

/-- The window has a transaction open or holds a lock. -/
def windowBusy (n : Nat) (s : State) : Bool := s.pb.open_.any (fun (o : PbOpen) => o.window == n) || s.pb.ownLock == some n

/-- PB_WINDOW_SET. -/
def pbWindowSetOp : OpDef :=
  { code := 0x0902
    params := fun r s => if windowBad r.payload s then some 0 else none
    checks := fun r s => if windowBusy (byteAt r.payload 0) s then some (stBusy, 0) else none
    commit := fun r s =>
      answer r stOk 0 [] { s with pb := { s.pb with windows := Tab.set s.pb.windows (byteAt r.payload 0) (windowOf r.payload) } } }

/-- Meaning of PB_WINDOW_SET (R317). -/
def execPbWindowSet (c : CmdSource) (s : State) : Host.Outcome State Fault Refusal := .next (runCommand pbWindowSetOp c s)

/-! Outbound transactions (R318, R319). -/

/-- The size and alignment that PB carries (R318). -/
def pbSizeOk (addr size : Nat) : Bool := (size == 1 || size == 2 || size == 4 || size == 8 || size == 64) && addr % size == 0

/-- Code of a PB access kind in the model's frames (log 29). -/
def pbKindCode : PbKind → Nat
  | .read => 0
  | .write => 1
  | .lockingRead => 2
  | .unlockingWrite => 3

/-- The access writes. -/
def pbWrites : PbKind → Bool
  | .write | .unlockingWrite => true
  | .read | .lockingRead => false

/-- A request frame for an open transaction leaves on ML (Table 14.4, log 29). -/
def sendRequest (o : PbOpen) (s : State) : State :=
  let w := pbWindow s o.window
  emit (.ml 0x10 (leBytes 2 o.id ++ [BitVec.ofNat 8 (pbKindCode o.access.kind), BitVec.ofNat 8 (b2n o.posted),
      BitVec.ofNat 8 o.access.size, BitVec.ofNat 8 o.access.world.val] ++ leBytes 8 o.far ++ leBytes 8 w.far ++ leBytes 8 (windowSize w)
      ++ (if pbWrites o.access.kind then fit o.access.size o.access.data else []))) s

/-- Open non-posted transactions. -/
def openCount (s : State) : Nat := (s.pb.open_.filter (fun (o : PbOpen) => !o.posted)).length

/-- The status of a command whose peer-bridge access ended with a response code (Table 11.10, R318, log 30). -/
def pbStatus (code : Nat) : Nat × Nat :=
  match code with
  | 0 => (stOk, 0)
  | 2 => (stDenied, 0)
  | 3 => (stSizeUnsupported, 0)
  | c => (stInternal, c)

/-- A transaction ends: its code and data go to its initiator, the cluster or the command it serves. -/
def completePb (tag : Option Word16) (code : Nat) (data : Bytes) (s : State) : State :=
  let s := { s with pb := { s.pb with last := some (code, data) } }
  match tag with
  | some t =>
    let (st, dt) := pbStatus code
    finalReply t st dt (if code = 0 ∧ data ≠ [] then fit 8 data else []) s
  | none => s

/-- The near side's answer to an access before anything is sent, or the window it goes through (R317–R320, R322). -/
def nearJudge (r : PbAccess) (s : State) : Except Nat Nat :=
  if s.pb.disabled then .error 6
  else if !pbSizeOk r.addr r.size then .error 3
  else
    match nearWindow s r.addr with
    | none => .error 1
    | some n =>
      if r.kind = .lockingRead ∧ !(pbWindow s n).lockable then .error 2
      else if !s.pair.mlUp then .error 6
      else .ok n

/-- An access begins: it is sent and stays open, or ends at once; a posted write completes at the near side once sent (R319). -/
def issuePb (tag : Option Word16) (r : PbAccess) (s : State) : State :=
  match nearJudge r s with
  | .error code => completePb tag code [] s
  | .ok n =>
    let w := pbWindow s n
    let posted := w.posted && r.kind == .write
    let o : PbOpen :=
      { id := s.pb.next, window := n, access := r, far := w.far + (r.addr - w.near), posted := posted
        tag := if posted then none else tag, sentAt := s.clk }
    let s := sendRequest o { s with pb := { s.pb with open_ := s.pb.open_ ++ [o], next := (s.pb.next + 1) % 65536 } }
    if posted then completePb tag 0 [] s else s

/-- Meaning of PB_REQUEST: the cluster issues an access; with 64 transactions open it waits and nothing happens (R318, R319). -/
def execPbRequest (r : PbAccess) (s : State) : Host.Outcome State Fault Refusal :=
  .next (if !clusterServes s ∨ 64 ≤ openCount s then s else issuePb none r s)

/-- The open transaction of a number. -/
def findOpen (id : Nat) (s : State) : Option PbOpen := s.pb.open_.find? (fun (o : PbOpen) => o.id == id)

/-- The transaction of a number is no longer open. -/
def closeOpen (id : Nat) (s : State) : State := { s with pb := { s.pb with open_ := s.pb.open_.filter (fun (o : PbOpen) => o.id != id) } }

/-- A non-posted transaction ends with a code; its lock is taken, given up or lost as the code tells (R320). -/
def endOpen (o : PbOpen) (code : Nat) (data : Bytes) (s : State) : State :=
  let lock := match o.access.kind with
    | .lockingRead => if code = 0 then some o.window else s.pb.ownLock
    | .unlockingWrite => none
    | _ => if code = 5 then none else s.pb.ownLock
  completePb o.tag code data (closeOpen o.id { s with pb := { s.pb with ownLock := lock } })

/-- Meaning of PB_RESPONSE_RX: a response ends the open transaction of its number or acknowledges a posted write; a late one
is discarded (R319). -/
def execPbResponseRx (id : Nat) (code : Fin 8) (data : Bytes) (s : State) : Host.Outcome State Fault Refusal :=
  .next (
    match findOpen id s with
    | some o => if o.posted then closeOpen id s else if o.withdrawn then s else endOpen o code.val data s
    | none => s)

/-- Meaning of PB_POSTED_ERR: the error notice of a posted write raises its source and is recorded with the window, the far
address, the size and the code (R319). -/
def execPbPostedErr (id : Nat) (code : Fin 8) (s : State) : Host.Outcome State Fault Refusal :=
  .next (
    match findOpen id s with
    | some o =>
      if o.posted then
        raiseInt 4 (record 0x0902 ([BitVec.ofNat 8 o.window] ++ leBytes 8 o.far ++ [BitVec.ofNat 8 o.access.size, BitVec.ofNat 8 code.val])
          (closeOpen id s))
      else s
    | none => s)

/-- Meaning of PB_TIMEOUT: 100 us without a response (R319). -/
def execPbTimeout (id : Nat) (s : State) : Host.Outcome State Fault Refusal :=
  .next (
    match findOpen id s with
    | some o =>
      if o.posted ∨ o.withdrawn then s else endOpen o 7 [] (reachClock (o.sentAt + 100000) s)
    | none => s)

/-- The mirror link is lost: open transactions end with LINK_DOWN, posted writes without an acknowledgement are reported in
one record, and what the peer held here is released (R322). -/
def pbLinkDown (s : State) : State :=
  let n := (s.pb.open_.filter (fun (o : PbOpen) => o.posted)).length
  let s := (s.pb.open_.filter (fun (o : PbOpen) => !o.posted)).foldl (fun s (o : PbOpen) => endOpen o 6 [] s) s
  let s := { s with pb := { s.pb with open_ := [], ownLock := none, lock := none, broken := none, waiting := [] } }
  if n = 0 then s else raiseInt 4 (record 0x0902 (leBytes 4 n) s)

/-! Inbound requests (R317, R320). -/

/-- Two ranges meet. -/
def spansMeet (a n b m : Nat) : Bool := decide (a < b + m) && decide (b < a + n)

/-- A response, an acknowledgement or an error notice leaves on ML (R319, log 29). -/
def respond (r : PbInbound) (code : Nat) (data : Bytes) (s : State) : State :=
  emit (.ml (if r.posted && code != 0 then 0x12 else 0x11) (leBytes 2 r.id ++ [BitVec.ofNat 8 code] ++ data)) s

/-- A request reaches its target: the access filter judges it with its world, and it is performed. -/
def serveInbound (r : PbInbound) (s : State) : Nat × Bytes × State :=
  let region := Config.internalMap r.addr
  if !pbSizeOk r.addr r.size ∨ addressEnd < r.addr + r.size then (3, [], s)
  else if filterRefuses region r.world.val (pbWrites r.kind) false s then (2, [], noteDenied region s)
  else performAccess region r.world.val (pbWrites r.kind) r.size r.data s

/-- The request belongs to the sequence that holds the lock: it comes through the same window. -/
def inSequence (r : PbInbound) (l : PbLock) : Bool := r.rangeBase == l.base && r.rangeSize == l.size && r.kind != .lockingRead

/-- A request arrives at a device that serves it, or makes it wait for a lock (R320). -/
def inbound (r : PbInbound) (s : State) : State :=
  let wait := { s with pb := { s.pb with waiting := s.pb.waiting ++ [r] } }
  match s.pb.lock with
  | some l =>
    if inSequence r l then
      let (code, data, s) := serveInbound r s
      let s := if r.kind = .unlockingWrite then { s with pb := { s.pb with lock := none } } else s
      respond r code data s
    else if spansMeet r.addr r.size l.base l.size ∨ (r.kind = .lockingRead ∧ spansMeet r.rangeBase r.rangeSize l.base l.size) then wait
    else
      let (code, data, s) := serveInbound r s
      respond r code data s
  | none =>
    if r.kind = .lockingRead then
      let (code, data, s) := serveInbound r s
      let s := if code = 0 then
          { s with pb := { s.pb with lock := some { base := r.rangeBase, size := r.rangeSize, since := s.clk }, broken := none } }
        else s
      respond r code data s
    else if s.pb.broken = some (r.rangeBase, r.rangeSize) then
      let s := if r.kind = .unlockingWrite then { s with pb := { s.pb with broken := none } } else s
      respond r 5 [] s
    else if r.kind = .unlockingWrite then respond r 5 [] s
    else
      let (code, data, s) := serveInbound r s
      respond r code data s

/-- The requests that waited for a lock are taken in order of arrival. -/
def serveWaiting (s : State) : State := s.pb.waiting.foldl (fun s r => inbound r s) { s with pb := { s.pb with waiting := [] } }

/-- A locking read of this device has not been granted. -/
def wantsLock (s : State) : Bool := s.pb.open_.any (fun (o : PbOpen) => o.access.kind == .lockingRead && !o.withdrawn)

/-- Both devices have locking reads that are not granted (R321). -/
def lockCollision (r : PbInbound) (s : State) : Bool := r.kind == .lockingRead && s.pb.lock.isNone && wantsLock s

/-- A collision: of locking reads, or of two inbound paths that hold 64 requests each while non-posted requests wait; the far
path holds 64 where this device has sent as many without an answer (R321). -/
def collides (r : PbInbound) (s : State) : Bool :=
  lockCollision r s || (decide (64 ≤ s.pb.waiting.length) && decide (64 ≤ s.pb.open_.length) && decide (0 < openCount s))

/-- The SECONDARY backs off: every open request is withdrawn, and one withdrawn 16 times ends with TIMEOUT (R321). -/
def backOff (locked : Bool) (s : State) : State :=
  let s := { s with pb := { s.pb with
    backoffs := s.pb.backoffs + 1, backoffAt := s.clk, backoffLock := locked
    open_ := s.pb.open_.map (fun (o : PbOpen) => if o.posted ∨ o.withdrawn then o else { o with withdrawn := true, tries := o.tries + 1 }) } }
  (s.pb.open_.filter (fun (o : PbOpen) => !o.posted && decide (16 ≤ o.tries))).foldl (fun s (o : PbOpen) => endOpen o 7 [] s) s

/-- Meaning of PB_INBOUND_REQUEST: the request is judged, waits or is performed; in a collision the SECONDARY backs off
first, and the PRIMARY leaves aside the locking read that the SECONDARY withdraws (R320, R321). -/
def execPbInboundRequest (r : PbInbound) (s : State) : Host.Outcome State Fault Refusal :=
  .next (
    if !s.pair.mlUp ∨ s.pb.disabled then s
    else if collides r s then
      if s.sys.straps.secondary then serveWaiting (inbound r (backOff (lockCollision r s) s))
      else if r.kind = .lockingRead then s
      else serveWaiting (inbound r s)
    else serveWaiting (inbound r s))

/-- Meaning of PB_LOCK_BROKEN: a lock held for 10 us is released and recorded, and the rest of its sequence is answered
LOCK_BROKEN (R320). -/
def execPbLockBroken (s : State) : Host.Outcome State Fault Refusal :=
  .next (
    match s.pb.lock with
    | some l =>
      let s := reachClock (l.since + 10000) s
      serveWaiting (record 0x0903 [] { s with pb := { s.pb with lock := none, broken := some (l.base, l.size) } })
    | none => s)

/-- Meaning of PB_BACKOFF_RESEND: the withdrawn requests are sent again once the PRIMARY's lock is released, or 5 us after a
back-off without one (R321). -/
def execPbBackoffResend (s : State) : Host.Outcome State Fault Refusal :=
  .next (
    let held := s.pb.open_.filter (fun (o : PbOpen) => o.withdrawn)
    if held.isEmpty ∨ s.pb.lock.isSome ∨ !s.pair.mlUp then s
    else
      let s := if s.pb.backoffLock then s else reachClock (s.pb.backoffAt + 5000) s
      let s := held.foldl (fun s (o : PbOpen) => sendRequest o s) s
      { s with pb := { s.pb with
          open_ := s.pb.open_.map (fun (o : PbOpen) => if o.withdrawn then { o with withdrawn := false, sentAt := s.clk } else o) } })

/-! DBG_ACCESS (R383, R384). -/

/-- OP of a DBG_ACCESS. -/
def dbgOp (r : Req) : Nat := byteAt r.payload 0
/-- SIZE of a DBG_ACCESS. -/
def dbgSize (r : Req) : Nat := byteAt r.payload 1
/-- TARGET of a DBG_ACCESS. -/
def dbgTarget (r : Req) : Nat := byteAt r.payload 2
/-- Internal address of a DBG_ACCESS. -/
def dbgAddr (r : Req) : Nat := fieldLe r.payload 8 8

/-- The address lies in the direct window. -/
def isDirect (a : Nat) : Bool :=
  match Config.internalMap a with
  | .direct _ => true
  | _ => false

/-- The life-cycle state does not admit the operation (R383). -/
def dbgLifecycle (r : Req) (s : State) : Bool :=
  match s.otp.lcState, dbgOp r with
  | .retired, _ => true
  | .test, _ => false
  | .manufacture, 0 => false
  | .manufacture, 1 => false
  | .manufacture, _ => true
  | .service, 1 => true
  | .service, _ => false
  | .field, 0 => !isDirect (dbgAddr r)
  | .field, _ => true

/-- A DBG_ACCESS is refused with BAD_PARAM. -/
def dbgBad (r : Req) : Bool :=
  let op := dbgOp r
  r.payload.length != 24 || decide (4 < op) || decide (1 < dbgTarget r) || byteAt r.payload 3 != 0
    || (decide (op < 2) && (!(dbgSize r == 1 || dbgSize r == 2 || dbgSize r == 4 || dbgSize r == 8)
        || decide (addressEnd < dbgAddr r + dbgSize r)))
    || (decide (2 ≤ op) && dbgTarget r == 1)

/-- A read or write at an internal address of this device. -/
def dbgLocal (r : Req) (s : State) : State :=
  let write := dbgOp r = 1
  let (code, data, s) := performAccess (Config.internalMap (dbgAddr r)) r.world write (dbgSize r) (slice r.payload 16 8) s
  let (st, dt) := pbStatus code
  answer r st dt (if code = 0 ∧ !write then fit 8 data else []) s

/-- The window through which an address of the peer is reached, and the access of this command (log 30). -/
def dbgPeer (r : Req) (s : State) : State :=
  let kind := if dbgOp r = 1 then PbKind.write else PbKind.read
  let near := match farWindow s (dbgAddr r) with
    | some n => (pbWindow s n).near + (dbgAddr r - (pbWindow s n).far)
    | none => 0
  issuePb (some r.tag) { addr := near, size := dbgSize r, kind := kind, data := slice r.payload 16 8, world := 1 } s

/-- The cluster halts; both watchdogs pause (R384). -/
def haltCluster (s : State) : State := { s with sys := { s.sys with halted := true } }

/-- The cluster resumes and both watchdogs start their full periods (R384). -/
def resumeCluster (s : State) : State :=
  { s with sys := { s.sys with halted := false }, saf := { s.saf with mgmtServed := s.clk, wdtAt := s.clk } }

/-- DBG_ACCESS.  A single step retires one instruction on the cores, of which the block's state shows nothing. -/
def dbgAccessOp : OpDef :=
  { code := 0x7F01
    lifecycle := fun r s => if r.payload.length = 24 ∧ dbgLifecycle r s then some 0 else none
    wrongMode := fun r s => s.sys.mode == .safe && dbgOp r != 0
    params := fun r _ => if dbgBad r then some 0 else none
    exhausted := fun r s => dbgTarget r == 1 && decide (64 ≤ openCount s)
    checks := fun r s =>
      if dbgOp r < 2 ∧ dbgTarget r = 0 ∧ filterRefuses (Config.internalMap (dbgAddr r)) r.world (dbgOp r == 1) true s then some (stDenied, 0) else none
    onFail := fun r s => noteDenied (Config.internalMap (dbgAddr r)) s
    commit := fun r s =>
      if dbgOp r < 2 then (if dbgTarget r = 1 then dbgPeer r s else dbgLocal r s)
      else if dbgOp r = 2 then haltCluster (answer r stOk 0 [] s)
      else if dbgOp r = 3 then answer r stOk 0 [] (resumeCluster s)
      else answer r stOk 0 [] s }

/-- The access of a DBG_ACCESS waits for the peer's lock on its range (R320). -/
def dbgLocked (p : Packet) (s : State) : Bool :=
  let b := if isAtTime p then p.payload.drop 12 else p.payload
  match s.pb.lock with
  | some l => decide (byteAt b 0 < 2) && byteAt b 2 == 0 && spansMeet (fieldLe b 8 8) (byteAt b 1) l.base l.size
  | none => false

/-- The row of DBG_ACCESS (R383, R384).  A halted cluster's transports take it alone, or nothing could resume the cluster
(log 31). -/
def runDbg (c : CmdSource) (s : State) : State :=
  match c with
  | .arriving via p => arriveWith (s.sys.clusterUp && !s.wake.down) (!dbgLocked p s) dbgAccessOp via p s
  | .accepted t =>
    match findTag s t with
    | some e =>
      if e.opcode = 0x7F01 ∧ e.phase = .waiting ∧ s.sys.clusterUp ∧ ¬s.wake.down ∧ mayBegin e s ∧ ¬dbgLocked e.packet s then
        beginCommand dbgAccessOp e s
      else s
    | none => s

/-- Meaning of JTAG_HALT_REQUEST: admitted in TEST and SERVICE (R383, R384). -/
def execJtagHaltRequest (s : State) : Host.Outcome State Fault Refusal :=
  .next (
    match s.otp.lcState with
    | .test | .service => if s.sys.clusterUp then haltCluster s else s
    | _ => s)

end Sys2Proof.Machine
end

