-- ==== Sys2Proof/Machine/Gptp.lean ====
section
/-!
DEFINITION. gPTP: the messages that the management cluster sends as frames from MP and those it receives, the link delay of the
ports, and the end of a transmission, whose stamp a two-step message waits for (R227–R231, R237).
-/
namespace Sys2Proof.Machine

/-! Messages as frames (R227). -/

/-- GPTP_QUEUE (Table 8.4). -/
def gptpQueue (s : State) : Nat := timeField s 3 1 (Config.autoGptpQueue % 8)

/-- Octets of a message after the Ethernet header: Sync 44, Follow_Up and Announce 76, the Pdelay messages 54 (log 137). -/
def gptpLength (kind : Nat) : Nat := if kind = 0 then 44 else if kind < 3 then 76 else 54

/-- The frame of a message, without its FCS: to the address of IEEE 802.1AS-2020 that no bridge forwards, EtherType 0x88F7. -/
def gptpContent (s : State) (m : GptpTx) : Bytes :=
  padFrame (beBytes 6 0x0180C200000E ++ beBytes 6 s.otp.mpAddress ++ [0x88, 0xF7]
    ++ fit (gptpLength m.kind) (Config.gptpOctets m.kind m.number m.seq m.fields))

/-- The cluster may send on port `p` now: the data path runs, the link is up, and MP is not back-pressured in the class of GPTP_QUEUE
(Table 6.10, log 137). -/
def gptpFree (s : State) (p : Nat) : Bool :=
  clusterServes s && forwarding s.sys.mode && !dataPathDown s && decide (p < 28) && portUp s p
    && !internalWaits 29 s && !bit (raisedMask s 29) (gptpQueue s)

/-- The cluster sends a message through MP to port `p`, where it goes by queue GPTP_QUEUE; what may not leave now is not sent (R227,
log 137). -/
def sendGptp (p : Nat) (m : GptpTx) (s : State) : State :=
  if !gptpFree s p then s
  else
    let q := gptpQueue s
    let c := gptpContent s m
    let n := s.nextFrame
    let f : Frame :=
      { inPort := 29, srcEp := 32, content := c, wireLen := c.length + 4, startClk := s.clk, stamp := wNow s
        bpAtStart := raisedMask s 29, lane := 0, phase := .forwarded, ended := true, res := { cls := q, queue := q }
        ports := [p], gptp := some m }
    let s := countReceived 29 (c.length + 4) c { s with frames := s.frames ++ [(n, f)], nextFrame := n + 1 }
    refreshBp (assignSeqs n false [p] (chargeFrame n q s))

/-- A message goes to each of the ports. -/
def sendEach (ports : List Nat) (m : GptpTx) (s : State) : State := ports.foldl (fun s p => sendGptp p m s) s

/-- The sequenceId of domain `d`'s next Sync is taken. -/
def takeSyncSeq (d : Nat) (s : State) : State :=
  let v := dom s d
  setDom d { v with syncSeq := (v.syncSeq + 1) % 65536 } s

/-! The transmit stamp (R227, R237). -/

/-- The message in transmission on port `p`, its transmit stamp at the MDI, and whether it ends with a correct FCS. -/
def gptpLeaving (s : State) (p : Nat) : Option (GptpTx × Int) :=
  match (egress s p).sending with
  | some x =>
    match frameOf s x.frame with
    | some f =>
      let spoilt := ((destAt f p).map (fun d => d.spoil)).getD false
      if spoilt || f.oversize then none else f.gptp.map (fun m => (m, txStamp s p x.began))
    | none => none
  | none => none

/-- A message has left at stamp `t`: what it said, and what the cluster does next.  A relayed Sync's correction rises by the residence
time, taken from the device's own stamps at the source's rate (R228). -/
def gptpSent (p : Nat) (m : GptpTx) (t : Int) (s : State) : State :=
  let s := emit (.gptp p m.kind m.number m.seq m.fields) s
  let follow := fun (kind : Nat) (fields : List Int) =>
    sendGptp p { kind := kind, number := m.number, seq := m.seq, fields := fields, next := .done } s
  if !clusterServes s then s
  else
    match m.next with
    | .done => s
    | .relay ingress rate sec ns corr offset =>
      let dt := t - ingress
      follow 1 [sec, ns, corr + (dt + dt * rate / 2 ^ 44) / 2 ^ 44, offset]
    | .origin d =>
      let v := domAt (dom s d) t
      let ns := v / 2 ^ 60
      follow 1 [ns / 1000000000, ns % 1000000000, (v % 2 ^ 60) / 2 ^ 44, 0]
    | .request =>
      let v := delay s p
      if v.seq = m.seq then setDelay p { v with t1 := some (t / 2 ^ 44) } s else s
    | .response => follow 5 [t / 2 ^ 44]

/-- Meaning of EGRESS_TX_END (R197): at HP and GW the end is the delivery to the consumer, which has its own row; a frame
to the cluster while it is unavailable is dropped and counted (Table 1.4); a gPTP message's stamp goes to the cluster (R227). -/
def execEgressTxEnd (p : Port) (s : State) : Host.Outcome State Fault Refusal :=
  .next (
    if p.val = 28 ∨ p.val = 30 ∨ p.val = 31 then s
    else if p.val = 29 ∧ !clusterServes s then dropSending 29 30 s
    else
      match gptpLeaving s p.val with
      | some (m, t) => gptpSent p.val m t (finishSending p.val s)
      | none => finishSending p.val s)

/-! Sync and Announce (R227, R228). -/

/-- A complete Sync of domain `d` is measured on port `p` from its ingress stamp, when it is valid (R228, Table 8.3), and relayed on
the master ports, its correction raised by link delay and, once it has left, by the residence time (R228). -/
def syncComplete (d p : Nat) (stamp : Int) (corr : Int) (info : TimeInfo) (s : State) : State :=
  if measurePort s d ≠ p then s
  else
    match (delay s p).delay with
    | none => s
    | some dl =>
      let src := nsVal (info.originSec * 1000000000 + info.originNs) + (corr + info.correction + dl) * 2 ^ 44
      let e := domAt (dom s d) stamp - src
      let nrr := (delay s p).nrr
      let q := info.rateOffset + nrr + info.rateOffset * nrr / 2 ^ 44
      let s := measure d e (syncInterval (domCfg s d)) q s
      if (dom s d).fallback then s
      else
        let m : GptpTx :=
          { kind := 0, number := (domCfg s d).number, seq := (dom s d).syncSeq, fields := []
            next := .relay stamp q info.originSec info.originNs (corr + info.correction + dl) (info.rateOffset + nrr) }
        sendEach (masterPorts s d) m (takeSyncSeq d s)

/-- GPTP_SYNC_RX: a Sync received on a port (R223, R227). -/
def gptpSyncRx (p : Port) (m : SyncMessage) (s : State) : State :=
  if !clusterServes s then s
  else
    (domainsOf s m.domainNumber.toNat).foldl (fun s d =>
      let s := takeAutoSlave p.val d s
      match m.info with
      | some i => syncComplete d p.val (rxStamp s p.val s.clk) m.correction { i with correction := 0 } s
      | none =>
        if measurePort s d = p.val then
          let wait := (m.sequenceId.toNat, p.val, s.clk, m.correction)
          setDom d { dom s d with pendingSync := some wait } s
        else s) s

/-- Meaning of GPTP_SYNC_RX. -/
def execGptpSyncRx (p : Port) (m : SyncMessage) (s : State) : Host.Outcome State Fault Refusal := .next (gptpSyncRx p m s)

/-- Meaning of GPTP_FOLLOW_UP_RX: it completes a two-step Sync measurement (R227). -/
def execGptpFollowUpRx (p : Port) (m : FollowUpMessage) (s : State) : Host.Outcome State Fault Refusal :=
  .next (if !clusterServes s then s else
    (domainsOf s m.domainNumber.toNat).foldl (fun s d =>
      match (dom s d).pendingSync with
      | some (seq, pp, at_, corr) =>
        if seq = m.sequenceId.toNat ∧ pp = p.val then
          syncComplete d p.val (rxStamp s p.val at_) corr m.info (setDom d { dom s d with pendingSync := none } s)
        else s
      | none => s) s)

/-- Meaning of ANNOUNCE_RX: counted, and the grandmaster kept for the domains that measure on the port (R227). -/
def execAnnounceRx (p : Port) (number : Byte) (gm : Word64) (s : State) : Host.Outcome State Fault Refusal :=
  .next (if !clusterServes s then s else
    let s := { s with time := { s.time with announces := s.time.announces + 1 } }
    (domainsOf s number.toNat).foldl (fun s d =>
      if measurePort s d = p.val then setDom d { dom s d with gmId := gm } s else s) s)

/-- The local clock at which a periodic sending is due: one period after the last, at once where there was none. -/
def periodDue (s : State) (last : Option Nat) (period : Nat) : Nat :=
  match last with
  | some l => l + period
  | none => s.clk

/-- Meaning of ANNOUNCE_TIMER: Announce every 1 s on every master port, none of a grandmaster domain of a frozen SECONDARY (R227,
R231). -/
def execAnnounceTimer (s : State) : Host.Outcome State Fault Refusal :=
  .next (if !clusterServes s then s else
    let s := reachClock (periodDue s s.time.announceAt 1000000000) s
    let s := { s with time := { s.time with announceAt := some s.clk } }
    (List.range 4).foldl (fun s d =>
      let v := dom s d
      if v.st = .disabled ∨ (isGrandmaster s d ∧ frozen s) then s
      else
        let c := domCfg s d
        let fields : List Int := if isGrandmaster s d then [c.gmId, c.prio1, c.prio2] else [v.gmId.toNat]
        sendEach (masterPorts s d) { kind := 2, number := c.number, seq := v.announceSeq, fields := fields, next := .done }
          (setDom d { v with announceSeq := (v.announceSeq + 1) % 65536 } s)) s)

/-- Meaning of SYNC_ORIGINATE: a LOCAL_GM or PPS_IN_GM domain that has locked sends Sync on its master ports every
2^LOG_SYNC_INTERVAL s, in HOLDOVER too, but not while a frozen SECONDARY (R228, R231). -/
def execSyncOriginate (d : Fin 4) (s : State) : Host.Outcome State Fault Refusal :=
  .next (
    let v := dom s d.val
    if !clusterServes s ∨ !isGrandmaster s d.val ∨ frozen s then s
    else if v.st = .locked ∨ v.st = .holdover then
      let s := reachClock (periodDue s v.syncAt (syncInterval (domCfg s d.val))) s
      let m : GptpTx := { kind := 0, number := (domCfg s d.val).number, seq := v.syncSeq, fields := [], next := .origin d.val }
      sendEach (masterPorts s d.val) m (takeSyncSeq d.val (setDom d.val { v with syncAt := some s.clk } s))
    else s)

/-! Link delay (R227). -/

/-- 2^LOG_PDELAY_INTERVAL s, 1 s in AUTONOMOUS (Table 8.4, R230). -/
def pdelayInterval (s : State) : Nat := secPow (signed 1 (timeField s 8 1 0))

/-- Meaning of PDELAY_TIMER: a Pdelay_Req leaves on each port that a domain names (R227). -/
def execPdelayTimer (s : State) : Host.Outcome State Fault Refusal :=
  .next (if !clusterServes s then s else
    let s := reachClock (periodDue s s.time.pdelayAt (pdelayInterval s)) s
    let s := { s with time := { s.time with pdelayAt := some s.clk } }
    (gptpPorts s).foldl (fun s p =>
      let v := delay s p
      let seq := (v.seq + 1) % 65536
      sendGptp p { kind := 3, number := 0, seq := seq, fields := [], next := .request }
        (setDelay p { v with seq := seq, t1 := none, resp := none } s)) s)

/-- Meaning of PDELAY_MESSAGE_RX on a port that a domain names: a request is answered; a response and its Follow_Up complete the
port's link delay and neighborRateRatio (R227, R230). -/
def execPdelayMessageRx (p : Port) (m : PdelayMessage) (s : State) : Host.Outcome State Fault Refusal :=
  .next (if !clusterServes s ∨ !(gptpPorts s).contains p.val then s else
    let v := delay s p.val
    let rx := rxStamp s p.val s.clk / 2 ^ 44
    match m with
    | .req seq => sendGptp p.val { kind := 4, number := 0, seq := seq.toNat, fields := [rx], next := .response } s
    | .resp seq t2 =>
      if seq.toNat = v.seq ∧ v.t1.isSome then setDelay p.val { v with resp := some (rx, t2) } s else s
    | .respFollowUp seq t3 =>
      match v.t1, v.resp with
      | some t1, some (t4, t2) =>
        if seq.toNat = v.seq then
          let nrr := match v.prev with
            | some (t3', t4') => Config.servoRound (((t3 - t3') - (t4 - t4')) * 2 ^ 44) (t4 - t4')
            | none => v.nrr
          let mine := (t4 - t1) + (t4 - t1) * nrr / 2 ^ 44
          setDelay p.val { v with delay := some ((mine - (t3 - t2)) / 2), nrr := nrr, t1 := none, resp := none
                                  prev := some (t3, t4) } s
        else s
      | _, _ => s)

end Sys2Proof.Machine
end

