-- ==== Sys2Proof/Machine/Pair.lean ====
section
/-!
DEFINITION. The pair: roles, the frames of the mirror link, the per-cycle sync and digest, what a device concludes of its
peer, takeover, partition and darning, and PAIR_STATUS and PAIR_SWITCHOVER (chapter Safety, redundancy and the pair).
-/
namespace Sys2Proof.Machine

/-- The pair state is changed. -/
def updPair (f : Pair → Pair) (s : State) : State := { s with pair := f s.pair }

/-- A field of the pair section (Table 14.3), or its default where the section is absent. -/
def pairField (s : State) (off n dflt : Nat) : Nat :=
  match liveSection s 0x0012 with
  | some b => fieldLe b off n
  | none => dflt

/-- DIGEST_COUNT. -/
def digestCount (s : State) : Nat := pairField s 0 2 0
/-- TAKEOVER_MS in ns. -/
def takeoverNs (s : State) : Nat := pairField s 4 2 10 * 1000000
/-- MISMATCH_LIMIT. -/
def mismatchLimit (s : State) : Nat := pairField s 6 1 3

/-- PAIR_SET_ID of the image in force; 0 without one. -/
def ownPairSet (s : State) : Nat :=
  match s.img.live with
  | some i => imgPairSet i
  | none => 0

/-- The mirror link may carry frames: no episode of reach L0 to L2 is in progress (Table 13.6). -/
def mlOpen (s : State) : Bool :=
  match s.rst.episode with
  | some e => decide (3 ≤ e.reach)
  | none => s.sys.mode != .standby && s.sys.mode != .backup

/-- A valid frame has arrived: the link is up (R394). -/
def linkAlive (s : State) : State :=
  updPair (fun p => { p with mlUp := true, mlLostAt := none, lastFrameAt := s.clk }) s

/-- The device forwards in a mode that takes part in a pair. -/
def runsPair (s : State) : Bool := forwarding s.sys.mode && s.rst.episode.isNone

/-! Content of the frames (Tables 14.4, 14.6, 14.7; layouts log 29). -/

/-- A list in a frame: its length, then its elements. -/
def encList {α : Type} (f : α → Bytes) (l : List α) : Bytes := leBytes 4 l.length ++ (l.map f).flatten

/-- A journal record. -/
def encJournal (j : JournalRec) : Bytes :=
  leBytes 2 j.tag.toNat ++ leBytes 2 j.opcode ++ leBytes 2 j.flags.toNat ++ [BitVec.ofNat 8 (b2n j.committed)]
    ++ leBytes 2 j.payload.length ++ j.payload

/-- The servo state of a domain. -/
def encServo (v : Servo) : Bytes :=
  [BitVec.ofNat 8 v.domain, BitVec.ofNat 8 v.state] ++ leInt 20 v.anchor ++ leBytes 8 v.localClock ++ leInt 8 v.rate ++ leInt 8 v.acc
    ++ [BitVec.ofNat 8 (b2n v.stepUsed)]

/-- A connection-table delta. -/
def encCt (d : CtDelta) : Bytes := d.key ++ [BitVec.ofNat 8 d.state] ++ leBytes 8 d.expiry ++ [BitVec.ofNat 8 (b2n d.removed)]

/-- A FRER recovery record. -/
def encFrer (r : FrerRec) : Bytes :=
  leBytes 2 r.entry ++ leBytes 2 r.port ++ leBytes 2 r.recovSeq ++ leBytes 16 r.history ++ [BitVec.ofNat 8 (b2n r.takeAny)]

/-- A meter record. -/
def encMeter (m : MeterRec) : Bytes := leBytes 2 m.meter ++ leInt 8 m.committed ++ leInt 8 m.excess

/-- A numbered value. -/
def encValue (e : Nat × Nat) : Bytes := leBytes 4 e.1 ++ leBytes 8 e.2

/-- A patch. -/
def encPatch (p : Patch) : Bytes :=
  leBytes 2 p.section_ ++ leBytes 4 p.offset ++ leBytes 2 p.data.length ++ leBytes 8 p.crc ++ p.data

/-- A decision record (Table 14.7). -/
def encDigest (r : DigestRec) : Bytes :=
  leBytes 2 r.handle ++ leBytes 2 r.seq ++ [BitVec.ofNat 8 r.byte4, BitVec.ofNat 8 r.byte5, 0, 0]

/-- The content of a SYNC. -/
def encSync (m : SyncFrame) : Bytes :=
  leBytes 8 m.cycle ++ [BitVec.ofNat 8 (b2n m.cluster.isSome), BitVec.ofNat 8 (b2n m.complete)]
    ++ (match m.cluster with
        | some (j, v) => encList encJournal j ++ encList encServo v
        | none => [])
    ++ encList encCt m.ct ++ encList encValue m.generators ++ encList encFrer m.recoveries ++ encList encMeter m.meters
    ++ encList encValue m.counters

/-! What this device holds of Table 14.6. -/

/-- The command journal: every command in flight with its commit state (R65, R391). -/
def ownJournal (s : State) : List JournalRec :=
  (s.cmd.inflight.filter (fun e => e.phase != .replied)).map (fun e =>
    { tag := e.packet.tag, opcode := e.opcode, flags := e.packet.flags, committed := e.phase == .committed
      payload := if relayedOps.contains e.opcode ∨ e.opcode = 0x0105 then e.packet.payload else [] })

/-- Servo state of the domains in use. -/
def ownServo (s : State) : List Servo :=
  ((List.range 4).filter (fun d => (dom s d).st != .disabled)).map (fun d =>
    let v := dom s d
    { domain := d, state := domStateCode v.st, anchor := v.a, localClock := v.la, rate := v.r, acc := v.acc, stepUsed := v.stepUsed })

/-- FRER recovery instances. -/
def ownRecoveries (s : State) : List FrerRec :=
  s.egr.recoveries.map (fun (e : Nat × Recovery) =>
    { entry := e.1 / 32, port := e.1 % 32, recovSeq := e.2.rec_, history := e.2.hist, takeAny := e.2.takeAny })

/-- PSFP meters in units of 2^-16 byte. -/
def ownMeters (s : State) : List MeterRec :=
  s.egr.meters.map (fun (e : Nat × Meter) =>
    { meter := e.1, committed := e.2.committed * 65536 / bucketByte, excess := e.2.excess * 65536 / bucketByte })

/-- Unit counters. -/
def ownCounters (s : State) : List (Nat × Nat) := s.cnt.units.map (fun (e : Nat × Counter) => (e.1, e.2.value))

/-- Connections as deltas of a full copy. -/
def ownConns (s : State) : List CtDelta :=
  s.fwl.conns.map (fun (e : Nat × Conn) =>
    let k := e.2.key
    { key := leBytes 1 k.ver ++ leBytes 16 k.src ++ leBytes 16 k.dst ++ leBytes 1 k.proto ++ leBytes 2 k.sport ++ leBytes 2 k.dport
        ++ leBytes 1 k.szone ++ leBytes 1 k.dzone
      state := connCode e.2.st, expiry := e.2.expiry - s.clk, removed := false })

/-- A full copy as the darning source sends it (R404). -/
def darnContent (s : State) : Bytes :=
  encList encCt (ownConns s) ++ encList encValue s.egr.gens ++ encList encFrer (ownRecoveries s) ++ encList encMeter (ownMeters s)
    ++ encList encServo (ownServo s) ++ encList encJournal (ownJournal s) ++ encList encValue (ownCounters s)
    ++ encList encPatch s.img.patchLog ++ [1]

/-- The source of darning sends its copy. -/
def sendDarn (s : State) : State := emit (.ml 6 (darnContent s)) (updPair (fun p => { p with st := .joining, sent := none }) s)

/-- The receiver of darning starts without any part of a copy (R404); FROZEN lasts until darning completes (R403). -/
def awaitDarn (s : State) : State :=
  updPair (fun p => { p with
    standby := true, st := if p.st = .frozen then .frozen else .joining
    darnCopied := false, darnPatches := [], darnQueue := [], unsynced := 0 }) s

/-! Relayed commands (R391). -/

/-- What an opcode that the pair relays does. -/
def relayedOp (op : Nat) : Option OpDef :=
  if op = 0x0110 then some imgPatchOp
  else if op = 0x0201 then some prsBankSwapOp
  else if op = 0x0303 then some fwlConnFlushOp
  else if op = 0x0E02 then some cntSelectOp
  else if op = 0x0A03 then some wakeSegmentOp
  else if op = 0x0010 then some sysSetModeOp
  else none

/-- The effect of a relayed opcode. -/
def relayedEffect (op : Nat) (r : Req) (s : State) : State :=
  match relayedOp op with
  | some d => d.effect r s
  | none => s

/-- A command of this device whose sync point is reached: one that AT_TIME times, and whose instant has not come, waits for
it; any other takes effect (R63, R391). -/
def releaseRelayed (t : Word16) (s : State) : State :=
  let s := updPair (fun p => { p with
    relayed := p.relayed.filter (fun x => x != t), carried := p.carried.filter (fun c => c.2 != t) }) s
  match findTag s t with
  | none => s
  | some e =>
    if e.instant.isSome ∧ e.opcode ≠ 0x0110 ∧ e.opcode ≠ 0x0201 ∧ e.aux ≠ [1] then s
    else relayedEffect e.opcode (reqOf e.via e.packet e.acceptedAt) s

/-- Every waiting relayed command is released. -/
def releasePending (s : State) : State := s.pair.relayed.foldl (fun s t => releaseRelayed t s) s

/-- The relayed commands whose commitment a SYNC up to `cycle` carried are released (R66, R391). -/
def releaseCarried (cycle : Nat) (s : State) : State :=
  (s.pair.relayed.filter (fun t => s.pair.carried.any (fun c => c.2 == t && decide (c.1 ≤ cycle)))).foldl (fun s t => releaseRelayed t s) s

/-- A journal record of the peer as a request here. -/
def peerReq (j : JournalRec) (s : State) : Req :=
  let p : Packet :=
    { tag := j.tag, flags := j.flags, length := BitVec.ofNat 16 j.payload.length, cred := 0x10000000, sequence := 0
      auth := List.replicate 16 0, payload := j.payload, transported := 32 + j.payload.length }
  { reqOf .mailbox p s.clk with fromPeer := true }

/-- A journal record carries a relayed command; a request for RECOVERY stays on the device that took it (R391). -/
def isRelayed (j : JournalRec) : Bool :=
  relayedOps.contains j.opcode && !(j.opcode == 0x0010 && byteAt (if bit j.flags.toNat 3 then j.payload.drop 12 else j.payload) 0 == 3)

/-- The record waits for an instant after its sync point. -/
def waitsInstant (j : JournalRec) : Bool := bit j.flags.toNat 3 && j.opcode != 0x0110 && j.opcode != 0x0201

/-- The STANDBY arms its own staged image for the instant of the ACTIVE's IMG_ACTIVATE, which the journal carries, and gives it
up where that command has left the journal before the hand-over (R79, log 126). -/
def armWithPeer (new : List JournalRec) (s : State) : State :=
  match new.find? (fun j => j.opcode == 0x0105), s.img.armed with
  | some j, none =>
    if s.img.shadow.isSome ∧ !s.pair.peerJournal.any (fun o => o.tag == j.tag) then
      wakeRequest 0 { s with img := { s.img with armed := some (peerTag, timeOf (fit 12 (j.payload.take 10))) } }
    else s
  | none, some (t, _) =>
    if t = peerTag ∧ s.img.pendingMark.isNone then noteBusy { s with img := { s.img with armed := none } } else s
  | _, _ => s

/-- Relayed commands that a SYNC shows committed for the first time take effect on the STANDBY (R391), and an activation is
armed with the ACTIVE's (R79). -/
def applyJournal (new : List JournalRec) (s : State) : State :=
  let s := armWithPeer new s
  let fresh := new.filter (fun j => j.committed && isRelayed j && !s.pair.peerJournal.contains j)
  let s := updPair (fun p => { p with peerJournal := new, peerTimed := p.peerTimed ++ fresh.filter waitsInstant }) s
  (fresh.filter (fun j => !waitsInstant j)).foldl (fun s j => relayedEffect j.opcode (peerReq j s) s) s

/-! Merging (R396, R404). -/

/-- The key a delta names. -/
def deltaKey (b : Bytes) : ConnKey :=
  { ver := byteAt b 0, src := fieldLe b 1 16, dst := fieldLe b 17 16, proto := byteAt b 33, sport := fieldLe b 34 2
    dport := fieldLe b 36 2, szone := byteAt b 38, dzone := byteAt b 39 }

/-- The connection state of a code. -/
def connOf (n : Nat) : ConnState :=
  match n with
  | 0 => .tcpSyn
  | 1 => .tcpEst
  | 2 => .tcpClose
  | 3 => .udpNew
  | 4 => .udpEst
  | _ => .icmp

/-- A connection-table delta meets the table: a removal is applied, and otherwise the later state and the later expiry stand;
a new entry in a full table is discarded and counted (R396). -/
def mergeCt (s : State) (d : CtDelta) : State :=
  let k := deltaKey d.key
  let exp := s.clk + d.expiry
  if d.removed then { s with fwl := { s.fwl with conns := s.fwl.conns.filter (fun e => e.2.key != k) } }
  else
    match s.fwl.conns.find? (fun e => e.2.key == k) with
    | some (i, c) =>
      let st := if connCode c.st < d.state then connOf d.state else c.st
      { s with fwl := { s.fwl with conns := Tab.set s.fwl.conns i { c with st := st, expiry := Nat.max c.expiry exp } } }
    | none =>
      if 65536 ≤ s.fwl.conns.length then
        recordLimited 0x0302 0 (fun _ => []) { s with fwl := { s.fwl with ctFull := s.fwl.ctFull + 1 } }
      else
        let conns := Tab.set s.fwl.conns (freeConn s.fwl.conns 0) { key := k, st := connOf d.state, expiry := exp }
        { s with fwl := { s.fwl with conns := conns, high := Nat.max s.fwl.high conns.length } }

/-- Numbered values update an image of such values. -/
def mergeValues (l new : List (Nat × Nat)) : List (Nat × Nat) := new.foldl (fun t e => Tab.set t e.1 e.2) l

/-- A domain is seeded with a rate and an accumulator: its value stays (R402, Table 14.6). -/
def seedDomain (s : State) (v : Servo) : State :=
  let d := dom s v.domain
  match d.st with
  | .disabled | .free => s
  | _ => setDomRate v.domain v.rate (setDom v.domain { d with acc := v.acc } s)

/-- A SYNC is applied as Table 14.6 states; the journal and the servo state of a cycle without a sync point are left for the
SYNC that has one, since no relayed command takes effect ahead of it (R391, R395, R406). -/
def applySync (m : SyncFrame) (s : State) : State :=
  let s := m.ct.foldl mergeCt s
  let s := updPair (fun p => { p with
    peerGenerators := mergeValues p.peerGenerators m.generators
    peerRecoveries := p.peerRecoveries.filter (fun o => !m.recoveries.any (fun n => n.entry == o.entry && n.port == o.port)) ++ m.recoveries
    peerMeters := p.peerMeters.filter (fun o => !m.meters.any (fun n => n.meter == o.meter)) ++ m.meters
    peerCounters := mergeValues p.peerCounters m.counters }) s
  match m.cluster with
  | some (j, v) =>
    let s := updPair (fun p => { p with partsAbsentSince := none }) s
    if m.complete then applyJournal j (updPair (fun p => { p with peerServo := v }) s) else s
  | none => updPair (fun p => { p with partsAbsentSince := some (p.partsAbsentSince.getD s.clk) }) s

/-! Failover (R66, R402, R403). -/

/-- A relayed command whose sync point was not reached is undone: nothing of it has taken effect yet (R66, R391). -/
def undoRelayed (t : Word16) (s : State) : State :=
  let s := updPair (fun p => { p with
    relayed := p.relayed.filter (fun x => x != t), carried := p.carried.filter (fun c => c.2 != t) }) s
  let s := match s.img.pending with
    | some x =>
      if x.tag = some t then
        let s := noteBusy { s with img := { s.img with pending := none, patchLog := s.img.patchLog.dropLast } }
        match x.patch with
        | some p => if p.section_ = 0x0002 then releaseOther s else s
        | none => s
      else s
    | none => s
  match s.lanes.swap with
  | some (t', _) => if t' = t then releaseOther { s with lanes := { s.lanes with swap := none } } else s
  | none => s

/-- A command that did not commit before the last sync point replies ABORTED_FAILOVER with no effect (R66). -/
def failCommand (t : Word16) (s : State) : State :=
  match findTag s t with
  | none => s
  | some e =>
    let s := if e.phase = .committed then undoRelayed t s
      else
        let s := withdraw t s
        if e.phase = .armed then withdrawalRecord t s else s
    finalReply t stAbortedFailover 0 [] (lateInterim e s)

/-- The commands of a device that loses the ACTIVE role, the one of tag `keep` apart (R66). -/
def resolveOwn (keep : Option Word16) (s : State) : State :=
  (s.cmd.inflight.filter (fun e => some e.packet.tag != keep && e.phase != .replied
    && (e.phase != .committed || awaitsSync e.packet.tag s))).foldl (fun s e => failCommand e.packet.tag s) s

/-- The journal list that PAIR_STATUS shows after a failover: OK for what was committed, ABORTED_FAILOVER for the rest (R66). -/
def failoverList (s : State) : List (Word16 × Nat) :=
  s.pair.peerJournal.map (fun j => (j.tag, if j.committed then stOk else stAbortedFailover))

/-- The device takes the ACTIVE role, with the servo state of the last sync point as its seed (R402). -/
def becomeActive (s : State) : State :=
  let l := failoverList s
  let s := armWithPeer [] s
  let s := s.pair.peerServo.foldl seedDomain s
  updPair (fun p => { p with
    standby := false, st := .alone, failover := l, takeoverDue := false, peerBadSince := none, partsAbsentSince := none
    peerJournal := [], sent := none, roleRequested := false, switchTag := none }) s

/-- A takeover (R402). -/
def takeOver (s : State) : State :=
  record 0x0C0A [] (updPair (fun p => { p with takeovers := p.takeovers + 1 }) (becomeActive s))

/-- The ACTIVE goes on alone: what waited for a sync point takes effect at once (R391, R402). -/
def goAlone (s : State) : State := releasePending (updPair (fun p => { p with st := .alone, switchTag := none, sent := none }) s)

/-- What a device concludes of its peer (Table 14.8). -/
inductive PeerCond
  | failed | partitioned | linkFault | managementFailed | healthy
deriving DecidableEq, Repr

/-- GOING_DOWN came within 1 ms before the link was lost. -/
def announced (s : State) : Bool :=
  match s.pair.goingDownAt, s.pair.mlLostAt with
  | some g, some l => decide (g ≤ l) && decide (l ≤ g + 1000000)
  | _, _ => false

/-- The conclusion from the link and PEER_HLTH_IN; the first row that applies governs (Table 14.8). -/
def conclude (s : State) : PeerCond :=
  let p := s.pair
  if !p.mlUp then
    if p.hlthIn then .linkFault else if announced s then .failed else .partitioned
  else if !p.hlthIn then .failed
  else if 3 ≤ p.digestless ∧ 0 < digestCount s then .failed
  else if p.peerFaulty.isSome then .failed
  else
    match p.partsAbsentSince with
    | some t => if p.standby ∧ t + takeoverNs s ≤ s.clk then .managementFailed else .healthy
    | none => .healthy

/-- A takeover is due at the next cycle boundary, unless this device's own health bit is bad (R402). -/
def takeoverAhead (s : State) : State := if healthGood s then updPair (fun p => { p with takeoverDue := true }) s else s

/-- A device acts on its conclusion (R402); a partition has a row of its own. -/
def react (s : State) : State :=
  if s.pair.st = .alone ∨ s.pair.st = .frozen then s
  else
    match conclude s with
    | .failed => if s.pair.standby then takeoverAhead s else goAlone s
    | .managementFailed => if s.pair.standby then takeoverAhead s else s
    | .linkFault => if s.pair.standby then awaitDarn s else updPair (fun p => { p with st := .joining }) s
    | .partitioned | .healthy => s

/-! Roles (R390). -/

/-- The two devices may join: both in CONFIGURED, PARTIAL or SAFE with the same PAIR_SET_ID, which is not zero. -/
def canJoin (m : ControlFrame) (s : State) : Bool :=
  let fits := fun (n : Nat) => n == 5 || n == 6 || n == 7
  fits (modeCode s.sys.mode) && fits m.mode && ownPairSet s != 0 && ownPairSet s == m.pairSetId

/-- This device holds the ACTIVE role after the meeting (R390); a peer that still acts in a pair gives way to one that has
taken its role over (R402). -/
def meetActive (m : ControlFrame) (s : State) : Bool :=
  let mine := !s.pair.standby && s.pair.st != .frozen
  let theirs := !m.standby && m.pairState != 3
  if mine && theirs then m.pairState == 2 || !s.sys.straps.secondary
  else if mine then true
  else if theirs then false
  else !s.sys.straps.secondary

/-- The devices meet and take roles (R390). -/
def meet (m : ControlFrame) (s : State) : State :=
  if canJoin m s then
    let s := updPair (fun p => { p with setMismatch := false }) s
    if meetActive m s then
      let s := updPair (fun p => { p with standby := false, st := .alone }) s
      if m.standby ∧ (m.pairState = 1 ∨ m.pairState = 3) then sendDarn s else s
    else awaitDarn (resolveOwn none s)
  else
    let s := updPair (fun p => { p with standby := s.sys.straps.secondary }) s
    if s.pair.setMismatch then s else record 0x0C07 [] (updPair (fun p => { p with setMismatch := true }) s)

/-- Both devices are strapped alike: PB is disabled on each until the next reset (R322). -/
def roleConflict (s : State) : State :=
  if s.pb.disabled then s
  else
    let s := pbLinkDown s
    record 0x0904 [] { s with pb := { s.pb with disabled := true } }

/-- The health bit that an ACTIVE peer reports is followed on the STANDBY (R402). -/
def followHealth (m : ControlFrame) (s : State) : State :=
  updPair (fun p => { p with
    peerBadSince := if p.standby && p.st == .paired && !m.standby && !m.health then some (p.peerBadSince.getD s.clk) else none }) s

/-- A CONTROL frame is received (R390, R402).  A peer whose checker has reported a disagreement is not met again until its
health signal or the link has gone (R400). -/
def controlRx (m : ControlFrame) (s : State) : State :=
  let back := !s.pair.mlUp
  let s := followHealth m (updPair (fun p => { p with peer := some m, peerKnown := true }) (linkAlive s))
  if m.secondary = s.sys.straps.secondary then roleConflict s
  else if !runsPair s ∨ m.mode < 4 then s
  else
    match s.pair.st with
    | .alone | .frozen => if s.pair.peerFaulty.isSome then s else meet m s
    | .joining =>
      if s.pair.standby then (if back then awaitDarn s else s)
      else if !m.standby ∧ m.pairState ≠ 3 then (if meetActive m s then s else awaitDarn (resolveOwn none s))
      else if back then sendDarn s else s
    | .paired =>
      if !s.pair.standby ∧ !m.standby ∧ m.pairState ≠ 3 then awaitDarn (resolveOwn none s)
      else if !s.pair.standby ∧ m.pairState = 0 then meet m (goAlone s)
      else if !s.pair.standby ∧ (m.pairState = 1 ∨ m.pairState = 3) then sendDarn s
      else if s.pair.standby ∧ m.pairState = 0 then awaitDarn s
      else s

/-- Meaning of ML_CONTROL_RX. -/
def execMlControlRx (m : ControlFrame) (s : State) : Host.Outcome State Fault Refusal :=
  .next (if mlOpen s then controlRx m s else s)

/-- Meaning of CONTROL_TX: the CONTROL frame of each 10 us, once a peer has appeared (R32, R390). -/
def execControlTx (s : State) : Host.Outcome State Fault Refusal :=
  .next (
    if mlOpen s ∧ (s.pair.mlUp ∨ s.pair.hlthIn ∨ s.pair.peerKnown) then
      let s := reachClock (s.pair.controlAt + 10000) s
      let s := updPair (fun p => { p with controlAt := s.clk }) s
      emit (.ml 1 ([BitVec.ofNat 8 (b2n s.sys.straps.secondary), BitVec.ofNat 8 (modeCode s.sys.mode),
        BitVec.ofNat 8 (pairCode s.pair.st), BitVec.ofNat 8 (b2n s.pair.standby)] ++ leBytes 16 (ownPairSet s)
        ++ [BitVec.ofNat 8 (b2n (healthGood s))])) s
    else s)

/-- Meaning of ML_GOING_DOWN_RX (R401). -/
def execMlGoingDownRx (s : State) : Host.Outcome State Fault Refusal :=
  .next (if mlOpen s then updPair (fun p => { p with goingDownAt := some s.clk }) (linkAlive s) else s)

/-- Meaning of ML_LINK_LOST (R394, R401, R322). -/
def execMlLinkLost (s : State) : Host.Outcome State Fault Refusal :=
  .next (
    if s.pair.mlUp then
      react (pbLinkDown (updPair (fun p => { p with mlUp := false, mlLostAt := some s.clk, digestless := 0, peerFaulty := none }) s))
    else s)

/-- Meaning of PEER_HLTH_CHANGE (R323, R401). -/
def execPeerHlthChange (active : Bool) (s : State) : Host.Outcome State Fault Refusal :=
  .next (react (updPair (fun p => { p with
    hlthIn := active, peerFaulty := if active then p.peerFaulty else none
    hlthLostAt := if active then none else some (if p.hlthIn then s.clk else p.hlthLostAt.getD s.clk) }) s))

/-- When darning has completed each domain returns to its own source without a step; a LOCAL_GM source's rate is 0, and a domain in
HOLDOVER stays there until a valid measurement or a TIME_RESTEP (R224, R231, Table 8.2). -/
def thawDomain (s : State) (d : Nat) : State :=
  let v := dom s d
  let c := domCfg s d
  if (timeSection s).isNone ∨ c.source = 0 then s
  else
    let s := setDom d { v with fallback := false } s
    if v.st = .locked ∧ c.source = 1 then setDomRate d 0 (setDom d { dom s d with acc := 0 } s) else s

/-- Meaning of PARTITION: link lost and PEER_HLTH_IN inactive for 1 ms; the PRIMARY holds the ACTIVE role alone, the SECONDARY
enters CONFIG_FROZEN (R401, R403). -/
def execPartition (s : State) : Host.Outcome State Fault Refusal :=
  .next (
    let p := s.pair
    match conclude s, p.mlLostAt with
    | .partitioned, some l =>
      if !p.peerKnown ∨ p.st = .frozen ∨ (p.st = .alone ∧ !p.standby ∧ !s.sys.straps.secondary) then s
      else
        let s := reachClock (Nat.max l (p.hlthLostAt.getD l) + 1000000) s
        if s.sys.straps.secondary then
          let s := if p.standby then s else resolveOwn none s
          let s := updPair (fun p => { p with st := .frozen, takeoverDue := false, darnCopied := false, darnQueue := [] }) s
          [0, 1, 2, 3].foldl freezeDomain s
        else if p.standby then takeOver s
        else goAlone s
    | _, _ => s)

/-! The per-cycle sync and digest (R395–R400). -/

/-- Bytes of a cycle that SYNC may take in one direction: half of 3.125 bytes per ns (Table 14.5). -/
def syncShare (s : State) : Nat := cycleNs s * 25 / 16

/-- What differs from the state the last SYNC left the STANDBY with. -/
def notSent {α : Type} [DecidableEq α] (now : List α) (before : Option (List α)) : List α :=
  match before with
  | some l => now.filter (fun x => !l.contains x)
  | none => now

/-- What the cycle just ended changed, as far as the SYNC share carries it (R395, R397). -/
def captureSync (cycle : Nat) (s : State) : SyncFrame × List CtDelta :=
  let was := s.pair.sent
  let gens := notSent s.egr.gens (was.map (fun w => w.generators))
  let recs := notSent (ownRecoveries s) (was.map (fun w => w.recoveries))
  let meters := notSent (ownMeters s) (was.map (fun w => w.meters))
  let counters := notSent (ownCounters s) (was.map (fun w => w.counters))
  let journal := ownJournal s
  let servo := ownServo s
  let cluster := if s.sys.clusterUp then some (journal, servo) else none
  let prev := was.bind (fun w => w.cluster)
  let newJournal := notSent journal (prev.map (·.1))
  let newServo := notSent servo (prev.map (·.2))
  let size := (if s.sys.clusterUp then sumBy (fun (j : JournalRec) => 48 + j.payload.length) newJournal + 48 * newServo.length else 0)
    + 8 * gens.length + 24 * recs.length + 24 * meters.length + 12 * counters.length
  let room := (syncShare s - size) / 64
  let rest := s.pair.ctChanges.drop room
  ({ cycle := cycle, cluster := cluster, ct := s.pair.ctChanges.take room, generators := gens, recoveries := recs, meters := meters
     counters := counters, complete := rest.isEmpty && decide (size ≤ syncShare s) }, rest)

/-- The ACTIVE sends the SYNC of a cycle; one that exceeds its share is counted and reaches no sync point (R395, R397). -/
def sendSync (cycle : Nat) (s : State) : State :=
  let (m, rest) := captureSync cycle s
  let all : SyncFrame := { m with generators := s.egr.gens, recoveries := ownRecoveries s, meters := ownMeters s, counters := ownCounters s }
  emit (.ml 3 (encSync m)) (updPair (fun p => { p with
    ctChanges := rest, sent := some all
    carried := if m.complete then p.carried ++ (p.relayed.filter (fun t => !p.carried.any (fun c => c.2 == t))).map (fun t => (cycle, t))
      else p.carried
    syncLate := if m.complete then p.syncLate else p.syncLate + 1 }) s)

/-- A decision record differs from the one it is matched with (R399). -/
def digestDiffers (a b : DigestRec) : Bool := a.byte4 != b.byte4 || a.byte5 != b.byte5

/-- Records of both devices with the same handle and number are matched: the mismatches, and what is left on each side. -/
def matchRecords : List (Nat × DigestRec) → List (Nat × DigestRec) → Nat × List (Nat × DigestRec) × List (Nat × DigestRec)
  | [], peer => (0, [], peer)
  | o :: own, peer =>
    match peer.find? (fun e => e.2.handle == o.2.handle && e.2.seq == o.2.seq) with
    | some e =>
      let (n, a, b) := matchRecords own (peer.erase e)
      (n + b2n (digestDiffers o.2 e.2), a, b)
    | none =>
      let (n, a, b) := matchRecords own peer
      (n, o :: a, b)

/-- Own and peer records are matched now; mismatches are counted (R399). -/
def settleRecords (s : State) : Nat × State :=
  let (n, a, b) := matchRecords s.pair.own s.pair.peerRecs
  (n, updPair (fun p => { p with own := a, peerRecs := b, mismatches := p.mismatches + BitVec.ofNat 64 n }) s)

/-- A cycle ends: records grow older, those that stood 4 cycles unmatched are counted, and the cycle's own records join (R399). -/
def ageRecords (s : State) : State :=
  let older := fun (l : List (Nat × DigestRec)) => l.map (fun e => (e.1 + 1, e.2))
  let kept := fun (l : List (Nat × DigestRec)) => (older l).filter (fun e => decide (e.1 < 4))
  let lost := (older s.pair.own).length - (kept s.pair.own).length + ((older s.pair.peerRecs).length - (kept s.pair.peerRecs).length)
  let joined := s.pair.mlUp && s.pair.st != .alone
  updPair (fun p => { p with
    own := kept p.own ++ (if joined then p.ownNow.map (fun r => (0, r)) else [])
    peerRecs := kept p.peerRecs, ownNow := [], disagreements := 0
    unmatched := p.unmatched + BitVec.ofNat 64 lost
    digestless := if joined then p.digestless + 1 else 0
    peerFaulty := p.peerFaulty.map (· + 1) }) s

/-- A device whose peer's sender has failed with a good health bit sends a peer reset request after MISMATCH_LIMIT cycles
(R400). -/
def requestPeerReset (s : State) : State :=
  if s.pair.peerFaulty = some (mismatchLimit s) ∧ s.pair.hlthIn then emit (.peerPulse 100000) s else s

/-- The journal record of a patch that darning brings: that of the command whose journal record came with the copy (R145,
R404, log 109). -/
def darnJournal (p : Patch) (s : State) : Bytes :=
  match s.pair.peerJournal.find? (fun j => j.opcode == 0x0110 && patchOf (peerReq j s).payload == p) with
  | some j => let r := peerReq j s; patchJournal r.tag r.world r.slot p s
  | none => patchJournal 0 0 0 p s

/-- The receiver of darning brings its patch log equal to the source's, one bank swap at a cycle boundary; a swap of the rule bank
waits while the bank drains (R117, R404). -/
def darnPatch (s : State) : State :=
  if !s.pair.darnCopied ∨ s.img.patchLog = s.pair.darnPatches ∨ s.img.live.isNone then s
  else
    let n := s.img.patchLog.length
    if s.img.patchLog = s.pair.darnPatches.take n then
      match s.pair.darnPatches[n]? with
      | some p =>
        if p.section_ = 0x0002 ∧ s.lanes.other ≠ 0 then s
        else
        let s := recordNow 0x0001 (darnJournal p s) s
        let s := if p.section_ = 0x0002 then
            loadOther { prog := liveSection s 0x0001, keys := some (patched p (liveBytes s 0x0002)) } s
          else s
        swapPatch p { s with img := { s.img with patchLog := s.img.patchLog ++ [p] } }
      | none => s
    else
      let base := activeContainer s
      let ids := (s.img.patchLog.map (fun (p : Patch) => p.section_)).eraseDups
      if ids.contains 0x0002 ∧ s.lanes.other ≠ 0 then s
      else
      let s := ids.foldl (fun s id =>
        match base.bind (fun i => imgSection i id) with
        | some b => putSection id b s
        | none => s) s
      let s := if ids.contains 0x0002 then swapBanks (loadOther (bankOf s.img.live) s) else s
      refreshFirewall { s with img := { s.img with patchLog := [] } }

/-- The copy is complete and the patch logs agree. -/
def darnLoaded (s : State) : Bool := s.pair.darnCopied && s.img.patchLog == s.pair.darnPatches

/-- 16 cycles without a sync point: the STANDBY is unsynchronised and darns again (R397). -/
def countUnsynced (s : State) : State :=
  if s.pair.st = .paired ∧ s.pair.standby then
    let s := updPair (fun p => { p with unsynced := p.unsynced + 1 }) s
    if 16 ≤ s.pair.unsynced then awaitDarn (record 0x0C08 [] s) else s
  else s

/-- The boundary that the next CYCLE_BOUNDARY_SYNC is for: the first that has not been processed. -/
def dueBoundary (s : State) : Int :=
  let b := nextBoundary 0 s
  if (b - nsVal (baseNs s)) / nsVal (cycleNs s) = s.pair.cycle then b + nsVal (cycleNs s) else b

/-- Meaning of CYCLE_BOUNDARY_SYNC: takeover where one is due, digest, SYNC, and the counts of the cycle just ended (R395,
R397, R399, R402). -/
def execCycleBoundarySync (s : State) : Host.Outcome State Fault Refusal :=
  .next (
    if !runsPair s then s
    else
      let b := dueBoundary s
      let s := reachW b s
      let k := (b - nsVal (baseNs s)) / nsVal (cycleNs s)
      let s := updPair (fun p => { p with cycle := k }) s
      let s := if !s.pair.takeoverDue then s
        else if healthGood s then takeOver s else updPair (fun p => { p with takeoverDue := false }) s
      let s := if s.pair.mlUp ∧ s.pair.peerKnown then
          emit (.ml 5 (leBytes 8 k.toNat ++ encList encDigest s.pair.ownNow ++ leBytes 4 s.pair.disagreements)) s
        else s
      let (n, s) := settleRecords (ageRecords s)
      let s := requestPeerReset (updPair (fun p => { p with mismatchNow := p.mismatchNow + n }) s)
      let s := if s.pair.mlUp ∧ !s.pair.standby ∧ (s.pair.st = .paired ∨ s.pair.st = .joining) then sendSync k.toNat s
        else if s.pair.st = .alone ∨ s.pair.standby then updPair (fun p => { p with ctChanges := [] }) s
        else s
      react (countUnsynced (darnPatch s)))

/-- The roles change here: the former ACTIVE resolves its commands and answers PAIR_SWITCHOVER, the STANDBY takes the role
(R392). -/
def exchangeRoles (s : State) : State :=
  if !s.pair.roleRequested then s
  else if s.pair.standby then
    let s := becomeActive s
    updPair (fun p => { p with st := .paired }) s
  else
    match s.pair.switchTag with
    | some t =>
      let s := resolveOwn (some t) s
      let s := updPair (fun p => { p with standby := true, roleRequested := false, switchTag := none, unsynced := 0, peerJournal := [] }) s
      finalReply t stOk 0 [] s
    | none => s

/-- Darning completes at the first sync point whose SYNC is applied after the copy (R404). -/
def finishDarn (s : State) : State :=
  let s := record 0x0C0B [] (updPair (fun p => { p with
    st := .paired, standby := true, darnCopied := false, darnPatches := [], darnQueue := [], darnings := p.darnings + 1 }) s)
  [0, 1, 2, 3].foldl thawDomain s

/-- The STANDBY applies a SYNC of a later cycle than the last and acknowledges it where it is complete (R395, R397). -/
def takeSync (m : SyncFrame) (s : State) : State :=
  if m.cycle ≤ s.pair.syncPoint ∧ s.pair.syncPoint ≠ 0 then s
  else
    let s := applySync m s
    if !m.complete then s
    else
      let s := updPair (fun p => { p with syncPoint := m.cycle, unsynced := 0 }) s
      let s := if s.pair.st = .paired then s else finishDarn s
      exchangeRoles (emit (.ml 4 (leBytes 8 m.cycle)) s)

/-- Meaning of ML_SYNC_RX: applied by a paired STANDBY, queued by one whose copy is not complete (R395, R404). -/
def execMlSyncRx (m : SyncFrame) (s : State) : Host.Outcome State Fault Refusal :=
  .next (
    if !mlOpen s then s
    else
      let s := linkAlive s
      if !s.pair.standby ∨ s.pair.st = .alone then s
      else if s.pair.st = .paired then takeSync m s
      else if darnLoaded s then
        let q := s.pair.darnQueue ++ [m]
        q.foldl (fun s m => takeSync m s) (updPair (fun p => { p with darnQueue := [], syncPoint := 0 }) s)
      else updPair (fun p => { p with darnQueue := p.darnQueue ++ [m] }) s)

/-- Meaning of ML_SYNC_ACK_RX: the ACTIVE reaches the sync point of a cycle; the source of darning is PAIRED from it on, and
relayed commands take effect (R391, R392, R395, R404). -/
def execMlSyncAckRx (cycle : Word) (s : State) : Host.Outcome State Fault Refusal :=
  .next (
    if !mlOpen s then s
    else
      let s := linkAlive s
      if s.pair.standby ∨ !(s.pair.st = .paired ∨ s.pair.st = .joining) then s
      else exchangeRoles (releaseCarried cycle.toNat (updPair (fun p => { p with syncPoint := cycle.toNat, unsynced := 0, st := .paired }) s)))

/-- MISMATCH_LIMIT consecutive cycles with a mismatch and no checker disagreement: the pair has diverged (R400). -/
def followMismatch (n peerBad : Nat) (s : State) : State :=
  let s := updPair (fun p => { p with mismatchRun := if n = 0 then 0 else p.mismatchRun + 1 }) s
  if n ≠ 0 ∧ s.pair.mismatchRun = mismatchLimit s ∧ peerBad = 0 ∧ s.pair.disagreements = 0 then
    raiseInt 9 (record 0x0C09 [] (updPair (fun p => { p with diverged := p.diverged + 1, mismatchRun := 0 }) s))
  else s

/-- Meaning of ML_DIGEST_RX: the peer's records are matched with own ones, and conclusions drawn (R399–R401). -/
def execMlDigestRx (m : DigestFrame) (s : State) : Host.Outcome State Fault Refusal :=
  .next (
    if !mlOpen s then s
    else
      let s := linkAlive s
      if s.pair.st = .alone then s
      else
        let (n, s) := settleRecords (updPair (fun p => { p with
          digestless := 0, peerRecs := p.peerRecs ++ m.records.map (fun r => (0, r))
          peerFaulty := if 0 < m.disagreements then some (p.peerFaulty.getD 0) else p.peerFaulty }) s)
        react (followMismatch (s.pair.mismatchNow + n) m.disagreements (updPair (fun p => { p with mismatchNow := 0 }) s)))

/-! Darning (R404). -/

/-- A recovery instance that still takes any frame takes over the source's. -/
def loadRecovery (s : State) (r : FrerRec) : State :=
  let v := recoveryOf s r.entry r.port
  if v.takeAny then setRecovery r.entry r.port { v with rec_ := r.recovSeq, hist := r.history, takeAny := r.takeAny, passedAt := s.clk } s
  else s

/-- A meter that has judged no frame takes over the source's buckets. -/
def loadMeter (s : State) (m : MeterRec) : State :=
  if Tab.has s.egr.meters m.meter then s
  else
    let v : Meter := { committed := m.committed * bucketByte / 65536, excess := m.excess * bucketByte / 65536, stamp := nsVal s.clk }
    { s with egr := { s.egr with meters := Tab.set s.egr.meters m.meter v } }

/-- A patch as DARN carries it. -/
def patchOfRec (x : PatchRec) : Patch := { section_ := x.sectionId, offset := x.offset, data := x.data, crc := x.crc }

/-- Meaning of ML_DARN_RX: a part of the copy is loaded (R404). -/
def execMlDarnRx (m : DarnPart) (s : State) : Host.Outcome State Fault Refusal :=
  .next (
    if !mlOpen s then s
    else
      let s := linkAlive s
      if !s.pair.standby ∨ s.pair.st = .alone ∨ s.pair.st = .paired ∨ s.pair.darnCopied then s
      else
        let s := m.ct.foldl mergeCt s
        let s := { s with egr := { s.egr with gens := mergeValues s.egr.gens m.generators } }
        let s := m.meters.foldl loadMeter (m.recoveries.foldl loadRecovery s)
        let s := m.servo.foldl seedDomain s
        updPair (fun p => { p with
          peerServo := m.servo, peerJournal := p.peerJournal ++ m.journal, peerCounters := mergeValues p.peerCounters m.counters
          darnPatches := p.darnPatches ++ m.patches.map patchOfRec
          darnCopied := m.last }) s)

/-! Switchover, takeover and status (R392, R402, R407). -/

/-- Meaning of ML_ROLE_RX: the STANDBY grants a request; the grant lets the ACTIVE change at the next sync point (R392). -/
def execMlRoleRx (m : RoleFrame) (s : State) : Host.Outcome State Fault Refusal :=
  .next (
    if !mlOpen s then s
    else
      let s := linkAlive s
      if s.pair.st ≠ .paired then s
      else
        match m with
        | .request => if s.pair.standby then emit (.ml 7 [2]) (updPair (fun p => { p with roleRequested := true }) s) else s
        | .grant => if !s.pair.standby ∧ s.pair.switchTag.isSome then updPair (fun p => { p with roleRequested := true }) s else s)

/-- PAIR_SWITCHOVER. -/
def pairSwitchoverOp : OpDef :=
  { code := 0x0C02
    wrongMode := fun _ s => s.pair.st != .paired || s.pair.standby
    params := noPayload
    checks := fun _ s => if s.pair.switchTag.isSome then some (stBusy, 0) else none
    commit := fun r s => emit (.ml 7 [1]) (updPair (fun p => { p with switchTag := some r.tag, roleRequested := false }) s) }

/-- Meaning of PAIR_SWITCHOVER (R392). -/
def execPairSwitchover (c : CmdSource) (s : State) : Host.Outcome State Fault Refusal := .next (runCommand pairSwitchoverOp c s)

/-- Meaning of TAKEOVER_TIMEOUT: the ACTIVE's cluster parts, or its good health, have been absent for TAKEOVER_MS (R401,
R402). -/
def execTakeoverTimeout (s : State) : Host.Outcome State Fault Refusal :=
  .next (
    if !s.pair.standby ∨ s.pair.st ≠ .paired then s
    else
      match s.pair.partsAbsentSince, s.pair.peerBadSince with
      | some t, some u => takeoverAhead (reachClock (Nat.min t u + takeoverNs s) s)
      | some t, none => takeoverAhead (reachClock (t + takeoverNs s) s)
      | none, some t => takeoverAhead (reachClock (t + takeoverNs s) s)
      | none, none => s)

/-- The PAIR_STATUS result (Table 14.9); DIGEST_UNMATCHED and DIGEST_OVER share one field as their sum (log 33). -/
def pairStatus (s : State) : Bytes :=
  let p := s.pair
  [BitVec.ofNat 8 (pairCode p.st), BitVec.ofNat 8 (b2n p.standby),
   BitVec.ofNat 8 (b2n s.sys.straps.secondary + flagBit p.peerKnown 7),
   BitVec.ofNat 8 (b2n p.mlUp + flagBit p.hlthIn 1 + flagBit (healthGood s) 2 + flagBit s.sys.split 3
     + flagBit (coreUnit s 0).retired 4 + flagBit (coreUnit s 1).retired 5 + flagBit (coreUnit s 2).retired 6)]
    ++ leBytes 8 p.syncPoint ++ leBytes 2 p.failover.length ++ [0, 0] ++ leBytes 8 p.syncLate.toNat ++ leBytes 8 p.mismatches.toNat
    ++ leBytes 8 (p.unmatched + p.overs).toNat ++ leBytes 8 p.takeovers.toNat ++ leBytes 8 p.darnings.toNat ++ leBytes 8 p.diverged.toNat
    ++ p.failover.flatMap (fun e => leBytes 2 e.1.toNat ++ leBytes 2 e.2)

/-- PAIR_STATUS. -/
def pairStatusOp : OpDef := { code := 0x0C01, params := noPayload, commit := fun r s => answer r stOk 0 (pairStatus s) s }

/-- Meaning of PAIR_STATUS (R407). -/
def execPairStatus (c : CmdSource) (s : State) : Host.Outcome State Fault Refusal := .next (runCommand pairStatusOp c s)

end Sys2Proof.Machine
end

