-- ==== Sys2Proof/Machine/Seam.lean ====
section
/-!
DEFINITION. The instructions of the Seam engines, one meaning for each row of Table 9.10.
-/
namespace Sys2Proof.Machine

/-- OP of an instruction. -/
def seamOp (w : Nat) : Nat := bits w 26 6
/-- DST. -/
def seamDst (w : Nat) : Nat := bits w 22 4
/-- SRC. -/
def seamSrc (w : Nat) : Nat := bits w 18 4
/-- IMM. -/
def seamImm (w : Nat) : Nat := bits w 0 18

/-- Register `n`; G0 reads 0 (R255). -/
def seamReg (r : SeamRun) (n : Nat) : Nat := if n = 0 then 0 else Tab.get r.regs n 0

/-- Writes register `n` with 32 bits; a write to G0 is ignored. -/
def seamSet (r : SeamRun) (n v : Nat) : SeamRun := if n = 0 then r else { r with regs := Tab.set r.regs n (v % 2 ^ 32) }

/-- The next instruction word of a handler; none past its LENGTH. -/
def seamWord (r : SeamRun) : Option Nat := if r.code.length < 4 * r.pc + 4 then none else some (fieldLe r.code (4 * r.pc) 4)

/-- The handler in execution ends without an output and counts as HANDLER_DROP or HANDLER_FAULT (R256). -/
def seamAbort (n : Nat) (s : State) : State := countHandler n (updEngine n (fun e => { e with run := none }) s)

/-- Runs `g` where the engine's next instruction has OP `op`; a handler past its last instruction ends as DROP. -/
def seamRun (n op : Nat) (g : SeamRun → Nat → State → State) (s : State) : State :=
  let e := engineOf s n
  if e.stopped then s
  else
    match e.run with
    | none => s
    | some r =>
      match seamWord r with
      | none => seamAbort n s
      | some w => if seamOp w = op then g { r with executed := r.executed + 1 } w s else s

/-- The handler goes on after skipping `skip` instructions. -/
def seamNext (n skip : Nat) (r : SeamRun) (s : State) : State :=
  updEngine n (fun e => { e with run := some { r with pc := r.pc + 1 + skip } }) s

/-- An instruction whose result goes to DST. -/
def seamAlu (n op : Nat) (f : SeamRun → Nat → Nat) (s : State) : State :=
  seamRun n op (fun r w s => seamNext n 0 (seamSet r (seamDst w) (f r w)) s) s

/-- A branch that skips IMM[7:0] instructions where `c` holds of DST and SRC. -/
def seamBranch (n op : Nat) (c : Nat → Nat → Bool) (s : State) : State :=
  seamRun n op (fun r w s =>
    seamNext n (if c (seamReg r (seamDst w)) (seamReg r (seamSrc w)) then bits (seamImm w) 0 8 else 0) r s) s

/-- A 32-bit value as a signed number. -/
def s32 (v : Nat) : Int := signed 4 (v % 2 ^ 32)

/-- A signed number as 32 bits. -/
def u32 (v : Int) : Nat := (v % 2 ^ 32).toNat

/-- DST and SRC values. -/
def dstVal (r : SeamRun) (w : Nat) : Nat := seamReg r (seamDst w)
/-- SRC value. -/
def srcVal (r : SeamRun) (w : Nat) : Nat := seamReg r (seamSrc w)

/-- Bit address and width of a GETF or PUTF. -/
def fieldAddr (r : SeamRun) (w : Nat) : Nat × Nat := (srcVal r w + bits (seamImm w) 0 12, bits (seamImm w) 12 6 + 1)

/-- `w` bits from bit `a` of a buffer. -/
def getBits (b : Bytes) (a w : Nat) : Nat := fieldLe b (a / 8) 9 / 2 ^ (a % 8) % 2 ^ w

/-- Bits `a` to `a + w - 1` of a buffer receive the low bits of `v`. -/
def putBits (b : Bytes) (a w v : Nat) : Bytes :=
  let n := (a % 8 + w + 7) / 8
  let old := fieldLe b (a / 8) n
  let keep := old % 2 ^ (a % 8) + old / 2 ^ (a % 8 + w) * 2 ^ (a % 8 + w)
  patchAt b (a / 8) (leBytes n (keep + v % 2 ^ w * 2 ^ (a % 8)))

/-- The lowest `k` bytes of a 32-bit value in reverse order. -/
def bswap (k v : Nat) : Nat := v / 2 ^ (8 * k) * 2 ^ (8 * k) + ofLe (leBytes k v).reverse

/-- Meaning of END: the output is sent (R256). -/
def execSeamEnd (engine : Fin 4) (s : State) : Host.Outcome State Fault Refusal :=
  .next (seamRun engine.val 0x00 (fun r _ s =>
    sendOutput engine.val r.job r.output (updEngine engine.val (fun e => { e with run := none }) s)) s)

/-- Meaning of DROP. -/
def execSeamDrop (engine : Fin 4) (s : State) : Host.Outcome State Fault Refusal :=
  .next (seamRun engine.val 0x01 (fun _ _ s => seamAbort engine.val s) s)

/-- Meaning of LDI. -/
def execSeamLdi (engine : Fin 4) (s : State) : Host.Outcome State Fault Refusal :=
  .next (seamAlu engine.val 0x02 (fun _ w => seamImm w) s)

/-- Meaning of LUI: DST[31:18] takes IMM[13:0]. -/
def execSeamLui (engine : Fin 4) (s : State) : Host.Outcome State Fault Refusal :=
  .next (seamAlu engine.val 0x03 (fun r w => bits (seamImm w) 0 14 * 2 ^ 18 + dstVal r w % 2 ^ 18) s)

/-- Meaning of MOV. -/
def execSeamMov (engine : Fin 4) (s : State) : Host.Outcome State Fault Refusal :=
  .next (seamAlu engine.val 0x04 srcVal s)

/-- Meaning of ADD. -/
def execSeamAdd (engine : Fin 4) (s : State) : Host.Outcome State Fault Refusal :=
  .next (seamAlu engine.val 0x05 (fun r w => dstVal r w + srcVal r w) s)

/-- Meaning of ADDI: IMM is signed. -/
def execSeamAddi (engine : Fin 4) (s : State) : Host.Outcome State Fault Refusal :=
  .next (seamAlu engine.val 0x06 (fun r w =>
    u32 ((dstVal r w : Int) + (if seamImm w < 2 ^ 17 then (seamImm w : Int) else (seamImm w : Int) - 2 ^ 18))) s)

/-- Meaning of SUB. -/
def execSeamSub (engine : Fin 4) (s : State) : Host.Outcome State Fault Refusal :=
  .next (seamAlu engine.val 0x07 (fun r w => dstVal r w + 2 ^ 32 - srcVal r w) s)

/-- Meaning of AND. -/
def execSeamAnd (engine : Fin 4) (s : State) : Host.Outcome State Fault Refusal :=
  .next (seamAlu engine.val 0x08 (fun r w => dstVal r w &&& srcVal r w) s)

/-- Meaning of OR. -/
def execSeamOr (engine : Fin 4) (s : State) : Host.Outcome State Fault Refusal :=
  .next (seamAlu engine.val 0x09 (fun r w => dstVal r w ||| srcVal r w) s)

/-- Meaning of XOR. -/
def execSeamXor (engine : Fin 4) (s : State) : Host.Outcome State Fault Refusal :=
  .next (seamAlu engine.val 0x0A (fun r w => dstVal r w ^^^ srcVal r w) s)

/-- Meaning of SHL. -/
def execSeamShl (engine : Fin 4) (s : State) : Host.Outcome State Fault Refusal :=
  .next (seamAlu engine.val 0x0B (fun r w => dstVal r w * 2 ^ bits (seamImm w) 0 5) s)

/-- Meaning of SHR. -/
def execSeamShr (engine : Fin 4) (s : State) : Host.Outcome State Fault Refusal :=
  .next (seamAlu engine.val 0x0C (fun r w => dstVal r w / 2 ^ bits (seamImm w) 0 5) s)

/-- Meaning of SAR. -/
def execSeamSar (engine : Fin 4) (s : State) : Host.Outcome State Fault Refusal :=
  .next (seamAlu engine.val 0x0D (fun r w => u32 (s32 (dstVal r w) / 2 ^ bits (seamImm w) 0 5)) s)

/-- Meaning of MULQ: the signed 64-bit product shifted right by 16. -/
def execSeamMulq (engine : Fin 4) (s : State) : Host.Outcome State Fault Refusal :=
  .next (seamAlu engine.val 0x0E (fun r w => u32 (s32 (dstVal r w) * s32 (srcVal r w) / 2 ^ 16)) s)

/-- Meaning of BSWAP. -/
def execSeamBswap (engine : Fin 4) (s : State) : Host.Outcome State Fault Refusal :=
  .next (seamAlu engine.val 0x0F (fun r w => bswap (seamImm w) (dstVal r w)) s)

/-- Meaning of GETF: an address outside the buffer ends the handler (R256). -/
def execSeamGetf (engine : Fin 4) (s : State) : Host.Outcome State Fault Refusal :=
  .next (seamRun engine.val 0x10 (fun r w s =>
    let (a, k) := fieldAddr r w
    if 8 * bufferSize < a + k then seamAbort engine.val s
    else seamNext engine.val 0 (seamSet r (seamDst w) (getBits r.input a k)) s) s)

/-- Meaning of PUTF: an address outside the buffer ends the handler (R256). -/
def execSeamPutf (engine : Fin 4) (s : State) : Host.Outcome State Fault Refusal :=
  .next (seamRun engine.val 0x11 (fun r w s =>
    let (a, k) := fieldAddr r w
    if 8 * bufferSize < a + k then seamAbort engine.val s
    else seamNext engine.val 0 { r with output := putBits r.output a k (dstVal r w) } s) s)

/-- Meaning of LDC: an index outside the table ends the handler (R256). -/
def execSeamLdc (engine : Fin 4) (s : State) : Host.Outcome State Fault Refusal :=
  .next (seamRun engine.val 0x12 (fun r w s =>
    let i := srcVal r w + bits (seamImm w) 0 10
    if r.consts.length < 4 * i + 4 then seamAbort engine.val s
    else seamNext engine.val 0 (seamSet r (seamDst w) (fieldLe r.consts (4 * i) 4)) s) s)

/-- Meaning of TIME: NANOSECONDS of W, or the low 32 bits of its SECONDS; for another IMM the spec states no value. -/
def execSeamTime (engine : Fin 4) (s : State) : Host.Outcome State Fault Refusal :=
  .next (seamRun engine.val 0x13 (fun r w s =>
    match seamImm w with
    | 0 => seamNext engine.val 0 (seamSet r (seamDst w) (stampNanos (wNow s))) s
    | 1 => seamNext engine.val 0 (seamSet r (seamDst w) (u32 (wNow s / 2 ^ 60 / 1000000000))) s
    | _ =>
      let (n, s) := drawNat s
      seamNext engine.val 0 (seamSet r (seamDst w) n) s) s)

/-- Meaning of BEQ. -/
def execSeamBeq (engine : Fin 4) (s : State) : Host.Outcome State Fault Refusal :=
  .next (seamBranch engine.val 0x18 (fun a b => a == b) s)

/-- Meaning of BNE. -/
def execSeamBne (engine : Fin 4) (s : State) : Host.Outcome State Fault Refusal :=
  .next (seamBranch engine.val 0x19 (fun a b => a != b) s)

/-- Meaning of BLTU. -/
def execSeamBltu (engine : Fin 4) (s : State) : Host.Outcome State Fault Refusal :=
  .next (seamBranch engine.val 0x1A (fun a b => decide (a < b)) s)

/-- Meaning of BLT. -/
def execSeamBlt (engine : Fin 4) (s : State) : Host.Outcome State Fault Refusal :=
  .next (seamBranch engine.val 0x1B (fun a b => decide (s32 a < s32 b)) s)

/-- Meaning of JMP. -/
def execSeamJmp (engine : Fin 4) (s : State) : Host.Outcome State Fault Refusal :=
  .next (seamBranch engine.val 0x1C (fun _ _ => true) s)

end Sys2Proof.Machine
end

