-- ==== Sys2Proof/Machine/CmdTable.lean ====
section
/-!
DEFINITION. Table 2.12 as data: what each opcode adds to the protocol, found by its code, for the doorbells that accept
commands and for the time-triggered unit.
-/
namespace Sys2Proof.Machine

/-- Opcodes of groups 0x00 to 0x04. -/
def opDefs0 : List OpDef :=
  [sysGetInfoOp, sysAbortOp, sysSetModeOp, sysSetAuthPolicyOp, imgBeginOp, imgChunkOp, imgVerifyOp, imgStageOp, imgActivateOp,
   imgStatusOp, imgPatchOp, prsBankSwapOp, prsLaneStatusOp, fwlStatusOp, fwlConnListOp, fwlConnFlushOp, bsnStatusOp]

/-- Opcodes of groups 0x05 to 0x0A. -/
def opDefs1 : List OpDef :=
  [egrStatusOp, egrFrerStatusOp, timeStatusOp, timeRestepOp, legStatusOp, legChannelCtlOp, portStatusOp, portLinkCtlOp,
   msecSaInstallOp, msecSaStatusOp, hstRingCtlOp, pbWindowSetOp, wakeSleepRequestOp, wakeStatusOp, wakeSegmentOp]

/-- Opcodes of groups 0x0B and above. -/
def opDefs2 : List OpDef :=
  [updBeginOp, updChunkOp, updVerifyOp, updStageOp, updActivateOp, updConfirmOp, updStatusOp, rstBlockOp, rstGlobalOp,
   pairStatusOp, pairSwitchoverOp, keyDeriveOp, keySlotInfoOp, attestQuoteOp, lcTransitionOp, cntSnapshotAtOp, cntSelectOp,
   evrReadOp, evrClearOp, dbgAccessOp]

/-- Every opcode of Table 2.12. -/
def opDefs : List OpDef := opDefs0 ++ opDefs1 ++ opDefs2

/-- What an opcode adds; an opcode that the table does not define adds nothing, and check 3 of R57 refuses it. -/
def meaningOf (op : Nat) : OpDef := (opDefs.find? (fun d => d.code == op)).getD { code := op, commit := fun _ s => s }

end Sys2Proof.Machine
end

