-- ==== Sys2Proof/Machine/Transports.lean ====
section
/-!
DEFINITION. The doorbells of the command transports, the writes that LB has posted, the hand-over and the instant of a timed
command, and the start of the firmware (chapter Command packets; R314).
-/
namespace Sys2Proof.Machine

/-! Taking a command (R48–R52). -/

/-- The cluster takes a command of this opcode from its transport; a halted one takes DBG_ACCESS alone (R384, log 31). -/
def takes (op : Nat) (s : State) : Bool := clusterServes s || (op == 0x7F01 && s.sys.clusterUp && !s.wake.down)

/-- A command read from host memory or the request buffer is refused or accepted; its opcode's row begins it. -/
def takeCommand (via : Via) (op : Nat) (p : Packet) (s : State) : State := arriveWith true false (meaningOf op) via p s

/-- CMD_SQ_HEAD moves past a descriptor. -/
def passDescriptor (f : Nat) (g : CmdRing → CmdRing) (s : State) : State :=
  let r := cmdRing s f
  setCmdRing f (g { r with sqHead := (r.sqHead + 1) % sqEntries r }) s

/-- A descriptor meets Table 2.6. -/
def descriptorOk (d : Bytes) : Bool :=
  within 32 4096 (fieldLe d 8 2) && within 32 4096 (fieldLe d 10 2) && fieldLe d 12 4 == 0 && fieldLe d 24 8 == 0
    && fieldLe d 0 8 % 8 == 0 && fieldLe d 16 8 % 8 == 0

/-- The descriptors that a doorbell made available are fetched in ring order, up to one whose command the cluster does not take: that
one and those behind it are held in `offered` (R48, R50, R65, log 44). -/
def fetchDescriptors (f : Fin 2) : List SqFetch → State → State
  | [], s => s
  | x :: rest, s =>
    let r := cmdRing s f.val
    if !r.enable ∨ r.sqHead = r.sqTail then s
    else
      match x with
      | .descError => fetchDescriptors f rest (passDescriptor f.val (fun r => { r with fetchErr := true }) s)
      | .read d c =>
        if !descriptorOk d then fetchDescriptors f rest (passDescriptor f.val (fun r => { r with descErr := true }) s)
        else
          match c with
          | none => fetchDescriptors f rest (passDescriptor f.val (fun r => { r with fetchErr := true }) s)
          | some b =>
            let len := fieldLe d 8 2
            let (op, p) := parseCommand (fit len b) len
            if !takes op s then setCmdRing f.val { r with offered := x :: rest } s
            else
              let via := Via.ring f r.sqHead (fieldLe d 10 2) (BitVec.ofNat 64 (fieldLe d 16 8))
              fetchDescriptors f rest (takeCommand via op p (passDescriptor f.val id s))

/-- Meaning of CMD_SQ_TAIL_WRITE: the submission doorbell (R48, R50). -/
def execCmdSqTailWrite (f : Fin 2) (tail : Word) (fetched : List SqFetch) (s : State) : Host.Outcome State Fault Refusal :=
  .next (
    if !pcieUp s ∨ lockedDirect 0x114 4 s then s
    else
      let r := cmdRing s f.val
      let t := tail.toNat % 256
      if sqEntries r ≤ t then setCmdRing f.val { r with dbErr := true } s
      else fetchDescriptors f fetched (setCmdRing f.val { r with sqTail := t, offered := [] } s))

/-- The command that stands in the request buffer is taken where the cluster takes it (R51). -/
def takeRequest (s : State) : State :=
  if !s.cmd.reqBusy then s
  else
    let b := Mem.readAll s.cmd.request 0 4096
    let (op, p) := parseCommand b (32 + fieldLe b 6 2)
    if takes op s then takeCommand .mailbox op p { s with cmd := { s.cmd with reqBusy := false } } else s

/-- The descriptors held for the ring of function `f` are fetched (R65). -/
def fetchOffered (f : Fin 2) (s : State) : State :=
  let r := cmdRing s f.val
  fetchDescriptors f r.offered (setCmdRing f.val { r with offered := [] } s)

/-- What waited for the cluster is taken: the descriptors held for F0, those for F1, and the request buffer (R51, R65). -/
def takeWaiting (s : State) : State := takeRequest (fetchOffered 1 (fetchOffered 0 s))

/-- A write of CMD_MB_DB (R51, Table 2.10). -/
def ringMailbox (v : Word) (s : State) : State :=
  if !bit v.toNat 0 then s
  else if s.cmd.reqBusy then takeRequest { s with cmd := { s.cmd with mbDbErr := true } }
  else takeRequest { s with cmd := { s.cmd with reqBusy := true } }

/-- Meaning of CMD_MB_DB_SUBMIT: the mailbox doorbell (R51). -/
def execCmdMbDbSubmit (v : Word) (s : State) : Host.Outcome State Fault Refusal :=
  .next (if reaches .xspi 0x140 4 s then ringMailbox v s else s)

/-- An activation that took place while the cluster was halted gets its mark and its reply once the cluster serves (R80). -/
def finishLate (s : State) : State :=
  if clusterServes s ∧ s.img.pendingMark.isSome ∧ s.img.armed.isNone then finishActivation s else s

/-- What the cluster does first where it serves again: such an activation is finished, and the command that waits in the request
buffer is taken. -/
def catchUp (s : State) : State := takeWaiting (finishLate s)

/-- Meaning of DBG_ACCESS (R383, R384). -/
def execDbgAccess (c : CmdSource) (s : State) : Host.Outcome State Fault Refusal := .next (catchUp (runDbg c s))

/-! Writes of words (R314, R444). -/

/-- A word takes effect at its register, the mailbox doorbell of XSPI-H included. -/
def putWord (v : View) (off : Nat) (w : Word) (s : State) : State :=
  if off = 0x140 ∧ v = .xspi then ringMailbox w s else putReg v off w s

/-- A word of a posted write takes effect at its register. -/
def applyWord (off : Nat) (w : Word) (s : State) : State := putWord .xspi off w s

/-- Meaning of REGISTER_WRITE (R444); an offset that is not on a word boundary is an access of another size or alignment,
which is discarded and sets SIZE_ERR (R299), or ALIGN_ERR through XSPI-H (R309). -/
def execRegisterWrite (v : View) (off : Word16) (w : Word) (s : State) : Host.Outcome State Fault Refusal :=
  .next (
    if !reaches v off.toNat 4 s then s
    else if off.toNat % 4 ≠ 0 then
      match viewFn v with
      | some f => setPciFn f { pciFn s f with sizeErr := true } s
      | none => setXspi { s.hst.xspi with alignErr := true } s
    else putWord v off.toNat w s)

/-- The words of a write from an address on. -/
def applyWords : Nat → List Word → State → State
  | _, [], s => s
  | off, w :: ws, s => applyWords (off + 4) ws (applyWord off w s)

/-- Meaning of LB_WRITE_APPLY: the oldest posted write takes effect, word by word (R314), once no lock of the peer covers it
(R320). -/
def execLbWriteApply (s : State) : Host.Outcome State Fault Refusal :=
  .next (
    let x := s.hst.xspi
    match x.posted with
    | [] => s
    | (addr, ws) :: rest =>
      if lockedDirect addr (4 * ws.length) s then s else applyWords addr ws (setXspi { x with posted := rest } s))

/-! Timed commands (R61, R63). -/

/-- The opcode's instant stands in its own payload: the unit's own rows execute it (R61). -/
def ownRow (op : Nat) : Bool := op == 0x0105 || op == 0x0E01

/-- The armed action is handed over: its execution checks, then its commit point (R57, R63). -/
def handOver (d : OpDef) (e : InFlight) (s : State) : State :=
  let r := reqOf e.via e.packet e.acceptedAt
  match if ownRow e.opcode then none else d.checks r s with
  | some (st, dt) => finalReply r.tag st dt [] (d.onFail r s)
  | none =>
    let s := updTag r.tag (fun x => { x with phase := .committed }) (d.handOver r s)
    if relays s ∧ relayedOps.contains e.opcode then awaitSync r.tag s else s

/-- The hand-over of an activation that this STANDBY armed with the ACTIVE: its own PENDING mark is written (R79). -/
def handOverPeer (s : State) : State :=
  match s.img.armed with
  | some (t, i) =>
    if t = peerTag ∧ s.img.pendingMark.isNone ∧ clusterServes s then
      let s := reachW (i - nsVal 50000) s
      { s with img := { s.img with pendingMark := some (inactiveBank s, i) } }
    else s
  | none => s

/-- Meaning of TIMED_HANDOVER: 50 us before its instant an armed command is handed to the time-triggered unit (R63). -/
def execTimedHandover (tag : Word16) (s : State) : Host.Outcome State Fault Refusal :=
  .next (
    match findTag s tag with
    | some e =>
      (match e.instant with
       | some i =>
         if e.phase = .armed ∧ clusterServes s then handOver (meaningOf e.opcode) e (reachW (i - nsVal 50000) s) else s
       | none => s)
    | none => if tag = peerTag then handOverPeer s else s)

/-- A relayed command of the peer whose instant has come takes effect here (R391). -/
def executePeerTimed (tag : Word16) (s : State) : State :=
  match s.pair.peerTimed.find? (fun j => j.tag == tag) with
  | some j =>
    let r := peerReq j s
    let s := match r.instant with
      | some i => reachW i s
      | none => s
    (meaningOf j.opcode).effect r { s with pair := { s.pair with peerTimed := s.pair.peerTimed.filter (fun x => x.tag != tag) } }
  | none => s

/-- Meaning of AT_TIME_EXECUTE: a timed command that was handed over takes effect at its instant (R61). -/
def execAtTimeExecute (tag : Word16) (s : State) : Host.Outcome State Fault Refusal :=
  .next (
    match findTag s tag with
    | some e =>
      let d := meaningOf e.opcode
      (match e.instant with
       | some i =>
         if e.phase = .committed ∧ !ownRow e.opcode ∧ !d.commitsAtOnce then
           d.commit (reqOf e.via e.packet e.acceptedAt) (updTag tag (fun x => { x with instant := none }) (reachW i s))
         else s
       | none => s)
    | none => executePeerTimed tag s)

/-! The start of the firmware (R65, R362). -/

/-- Meaning of FIRMWARE_START: the cluster starts, fetches the descriptors that still stand in the submission rings of F0 and F1,
and takes what waits in the request buffer (R65). -/
def execFirmwareStart (s : State) : Host.Outcome State Fault Refusal := .next (takeWaiting (startFirmware s))

end Sys2Proof.Machine
end

