-- ==== Sys2Proof/Machine/Dispatch.lean ====
section
/-!
DEFINITION. The dispatch: one arm per command of the table, each one direct call of the command's meaning.
-/
namespace Sys2Proof.Machine

def exec (i : Instr) (s : State) : Host.Outcome State Fault Refusal :=
  match i with
  | .sysGetInfo c => Sys2Proof.Machine.execSysGetInfo c s
  | .sysAbort c => Sys2Proof.Machine.execSysAbort c s
  | .sysSetMode c => Sys2Proof.Machine.execSysSetMode c s
  | .sysSetAuthPolicy c => Sys2Proof.Machine.execSysSetAuthPolicy c s
  | .imgBegin c => Sys2Proof.Machine.execImgBegin c s
  | .imgChunk c => Sys2Proof.Machine.execImgChunk c s
  | .imgVerify c => Sys2Proof.Machine.execImgVerify c s
  | .imgStage c => Sys2Proof.Machine.execImgStage c s
  | .imgActivate c => Sys2Proof.Machine.execImgActivate c s
  | .imgStatus c => Sys2Proof.Machine.execImgStatus c s
  | .imgPatch c => Sys2Proof.Machine.execImgPatch c s
  | .prsBankSwap c => Sys2Proof.Machine.execPrsBankSwap c s
  | .prsLaneStatus c => Sys2Proof.Machine.execPrsLaneStatus c s
  | .fwlStatus c => Sys2Proof.Machine.execFwlStatus c s
  | .fwlConnList c => Sys2Proof.Machine.execFwlConnList c s
  | .fwlConnFlush c => Sys2Proof.Machine.execFwlConnFlush c s
  | .bsnStatus c => Sys2Proof.Machine.execBsnStatus c s
  | .egrStatus c => Sys2Proof.Machine.execEgrStatus c s
  | .egrFrerStatus c => Sys2Proof.Machine.execEgrFrerStatus c s
  | .timeStatus c => Sys2Proof.Machine.execTimeStatus c s
  | .timeRestep c => Sys2Proof.Machine.execTimeRestep c s
  | .legStatus c => Sys2Proof.Machine.execLegStatus c s
  | .legChannelCtl c => Sys2Proof.Machine.execLegChannelCtl c s
  | .portStatus c => Sys2Proof.Machine.execPortStatus c s
  | .portLinkCtl c => Sys2Proof.Machine.execPortLinkCtl c s
  | .msecSaInstall c => Sys2Proof.Machine.execMsecSaInstall c s
  | .msecSaStatus c => Sys2Proof.Machine.execMsecSaStatus c s
  | .hstRingCtl c => Sys2Proof.Machine.execHstRingCtl c s
  | .pbWindowSet c => Sys2Proof.Machine.execPbWindowSet c s
  | .wakeSleepRequest c => Sys2Proof.Machine.execWakeSleepRequest c s
  | .wakeStatus c => Sys2Proof.Machine.execWakeStatus c s
  | .wakeSegment c => Sys2Proof.Machine.execWakeSegment c s
  | .updBegin c => Sys2Proof.Machine.execUpdBegin c s
  | .updChunk c => Sys2Proof.Machine.execUpdChunk c s
  | .updVerify c => Sys2Proof.Machine.execUpdVerify c s
  | .updStage c => Sys2Proof.Machine.execUpdStage c s
  | .updActivate c => Sys2Proof.Machine.execUpdActivate c s
  | .updConfirm c => Sys2Proof.Machine.execUpdConfirm c s
  | .updStatus c => Sys2Proof.Machine.execUpdStatus c s
  | .rstBlock c => Sys2Proof.Machine.execRstBlock c s
  | .rstGlobal c => Sys2Proof.Machine.execRstGlobal c s
  | .pairStatus c => Sys2Proof.Machine.execPairStatus c s
  | .pairSwitchover c => Sys2Proof.Machine.execPairSwitchover c s
  | .keyDerive c => Sys2Proof.Machine.execKeyDerive c s
  | .keySlotInfo c => Sys2Proof.Machine.execKeySlotInfo c s
  | .attestQuote c => Sys2Proof.Machine.execAttestQuote c s
  | .lcTransition c => Sys2Proof.Machine.execLcTransition c s
  | .cntSnapshotAt c => Sys2Proof.Machine.execCntSnapshotAt c s
  | .cntSelect c => Sys2Proof.Machine.execCntSelect c s
  | .evrRead c => Sys2Proof.Machine.execEvrRead c s
  | .evrClear c => Sys2Proof.Machine.execEvrClear c s
  | .dbgAccess c => Sys2Proof.Machine.execDbgAccess c s
  | .cmdSqTailWrite f tail fetched => Sys2Proof.Machine.execCmdSqTailWrite f tail fetched s
  | .cmdCqHeadWrite f head => Sys2Proof.Machine.execCmdCqHeadWrite f head s
  | .cmdRingCfgWrite f v => Sys2Proof.Machine.execCmdRingCfgWrite f v s
  | .cmdMbDbSubmit v => Sys2Proof.Machine.execCmdMbDbSubmit v s
  | .mailboxPop => Sys2Proof.Machine.execMailboxPop s
  | .registerWrite view off v => Sys2Proof.Machine.execRegisterWrite view off v s
  | .intStatClear view v raised => Sys2Proof.Machine.execIntStatClear view v raised s
  | .cntOvfRead view w => Sys2Proof.Machine.execCntOvfRead view w s
  | .timLatch view v => Sys2Proof.Machine.execTimLatch view v s
  | .timTsPop view n => Sys2Proof.Machine.execTimTsPop view n s
  | .safWdtKick v => Sys2Proof.Machine.execSafWdtKick v s
  | .msixUnmask f vec => Sys2Proof.Machine.execMsixUnmask f vec s
  | .msixHoldoffEnd f vec => Sys2Proof.Machine.execMsixHoldoffEnd f vec s
  | .xspiRead addr words late => Sys2Proof.Machine.execXspiRead addr words late s
  | .xspiWrite addr words => Sys2Proof.Machine.execXspiWrite addr words s
  | .xspiBadCommand first second => Sys2Proof.Machine.execXspiBadCommand first second s
  | .xspihCsRise taken => Sys2Proof.Machine.execXspihCsRise taken s
  | .lbWriteApply => Sys2Proof.Machine.execLbWriteApply s
  | .pcieFlr f => Sys2Proof.Machine.execPcieFlr f s
  | .pcieBmeClear f => Sys2Proof.Machine.execPcieBmeClear f s
  | .pcieHotReset => Sys2Proof.Machine.execPcieHotReset s
  | .pcieReady => Sys2Proof.Machine.execPcieReady s
  | .hstTxTailWrite f ring v fetched => Sys2Proof.Machine.execHstTxTailWrite f ring v fetched s
  | .hstRxTailWrite f ring v fetched => Sys2Proof.Machine.execHstRxTailWrite f ring v fetched s
  | .hstTxCfgWrite f ring v => Sys2Proof.Machine.execHstTxCfgWrite f ring v s
  | .hstRxCfgWrite f ring v => Sys2Proof.Machine.execHstRxCfgWrite f ring v s
  | .hpTxFrameRead ring x => Sys2Proof.Machine.execHpTxFrameRead ring x s
  | .dmaFetchError receive ring => Sys2Proof.Machine.execDmaFetchError receive ring s
  | .txWriteback ring => Sys2Proof.Machine.execTxWriteback ring s
  | .hpRxDelivery frame => Sys2Proof.Machine.execHpRxDelivery frame s
  | .frameStart port content gen => Sys2Proof.Machine.execFrameStart port content gen s
  | .frameEnd frame fcsOk => Sys2Proof.Machine.execFrameEnd frame fcsOk s
  | .lanePassBegin frame => Sys2Proof.Machine.execLanePassBegin frame s
  | .laneResult frame faults => Sys2Proof.Machine.execLaneResult frame faults s
  | .rinseDispatch => Sys2Proof.Machine.execRinseDispatch s
  | .pressArrival port frame => Sys2Proof.Machine.execPressArrival port frame s
  | .holeNotice port input cls number => Sys2Proof.Machine.execHoleNotice port input cls number s
  | .pressSkip port input cls => Sys2Proof.Machine.execPressSkip port input cls s
  | .egressSelect port reads => Sys2Proof.Machine.execEgressSelect port reads s
  | .egressTxEnd port => Sys2Proof.Machine.execEgressTxEnd port s
  | .gateEntryChange port => Sys2Proof.Machine.execGateEntryChange port s
  | .launchMissed port frame => Sys2Proof.Machine.execLaunchMissed port frame s
  | .pfcRx port frame => Sys2Proof.Machine.execPfcRx port frame s
  | .pauseExpiry port cls => Sys2Proof.Machine.execPauseExpiry port cls s
  | .pfcRefresh port cls => Sys2Proof.Machine.execPfcRefresh port cls s
  | .pfcStuck port cls => Sys2Proof.Machine.execPfcStuck port cls s
  | .plcaHoldExpiry port => Sys2Proof.Machine.execPlcaHoldExpiry port s
  | .linkUp port rate => Sys2Proof.Machine.execLinkUp port rate s
  | .linkDown port => Sys2Proof.Machine.execLinkDown port s
  | .phyCoeffStale port => Sys2Proof.Machine.execPhyCoeffStale port s
  | .xsModeSearch port => Sys2Proof.Machine.execXsModeSearch port s
  | .mdioPoll port linkUp => Sys2Proof.Machine.execMdioPoll port linkUp s
  | .plcaBeaconRx port => Sys2Proof.Machine.execPlcaBeaconRx port s
  | .plcaLost port => Sys2Proof.Machine.execPlcaLost port s
  | .preemptVerify port => Sys2Proof.Machine.execPreemptVerify port s
  | .preemptResponseRx port => Sys2Proof.Machine.execPreemptResponseRx port s
  | .tc10SleepRequestRx port => Sys2Proof.Machine.execTc10SleepRequestRx port s
  | .tc10SleepResponseRx port accepted => Sys2Proof.Machine.execTc10SleepResponseRx port accepted s
  | .tc10Wake port => Sys2Proof.Machine.execTc10Wake port s
  | .paceReading m0 m1 m2 m3 => Sys2Proof.Machine.execPaceReading m0 m1 m2 m3 s
  | .basinScrub row => Sys2Proof.Machine.execBasinScrub row s
  | .fwlScrubPass read3 read4 => Sys2Proof.Machine.execFwlScrubPass read3 read4 s
  | .fwlRevertComplete => Sys2Proof.Machine.execFwlRevertComplete s
  | .ctExpiry entry => Sys2Proof.Machine.execCtExpiry entry s
  | .learnAgeing vid mac => Sys2Proof.Machine.execLearnAgeing vid mac s
  | .ruleBankRelease => Sys2Proof.Machine.execRuleBankRelease s
  | .ruleBankRefresh => Sys2Proof.Machine.execRuleBankRefresh s
  | .timedHandover tag => Sys2Proof.Machine.execTimedHandover tag s
  | .atTimeExecute tag => Sys2Proof.Machine.execAtTimeExecute tag s
  | .imageSwitch => Sys2Proof.Machine.execImageSwitch s
  | .patchSwap => Sys2Proof.Machine.execPatchSwap s
  | .ruleBankSwap => Sys2Proof.Machine.execRuleBankSwap s
  | .autonomousSwitch => Sys2Proof.Machine.execAutonomousSwitch s
  | .snapshotLatch => Sys2Proof.Machine.execSnapshotLatch s
  | .autoSnapshot => Sys2Proof.Machine.execAutoSnapshot s
  | .snapshotComplete => Sys2Proof.Machine.execSnapshotComplete s
  | .evrRecordWrite => Sys2Proof.Machine.execEvrRecordWrite s
  | .evrClearComplete => Sys2Proof.Machine.execEvrClearComplete s
  | .clearNonceExpiry => Sys2Proof.Machine.execClearNonceExpiry s
  | .sessionIdleExpiry session => Sys2Proof.Machine.execSessionIdleExpiry session s
  | .gptpSyncRx port m => Sys2Proof.Machine.execGptpSyncRx port m s
  | .gptpFollowUpRx port m => Sys2Proof.Machine.execGptpFollowUpRx port m s
  | .announceRx port domainNumber gmIdentity => Sys2Proof.Machine.execAnnounceRx port domainNumber gmIdentity s
  | .announceTimer => Sys2Proof.Machine.execAnnounceTimer s
  | .pdelayTimer => Sys2Proof.Machine.execPdelayTimer s
  | .syncOriginate d => Sys2Proof.Machine.execSyncOriginate d s
  | .sourceLost d => Sys2Proof.Machine.execSourceLost d s
  | .ppsInEdge highNs => Sys2Proof.Machine.execPpsInEdge highNs s
  | .ppsOutEdge rising => Sys2Proof.Machine.execPpsOutEdge rising s
  | .tsyncCapture n rising => Sys2Proof.Machine.execTsyncCapture n rising s
  | .tsyncOutputEdge n rising => Sys2Proof.Machine.execTsyncOutputEdge n rising s
  | .slewComplete => Sys2Proof.Machine.execSlewComplete s
  | .timeWMismatch thirdAgreesWithA => Sys2Proof.Machine.execTimeWMismatch thirdAgreesWithA s
  | .operatingSecondsTick => Sys2Proof.Machine.execOperatingSecondsTick s
  | .canFrameRx ch x => Sys2Proof.Machine.execCanFrameRx ch x s
  | .seamEventServe engine => Sys2Proof.Machine.execSeamEventServe engine s
  | .seamEnd engine => Sys2Proof.Machine.execSeamEnd engine s
  | .seamDrop engine => Sys2Proof.Machine.execSeamDrop engine s
  | .seamLdi engine => Sys2Proof.Machine.execSeamLdi engine s
  | .seamLui engine => Sys2Proof.Machine.execSeamLui engine s
  | .seamMov engine => Sys2Proof.Machine.execSeamMov engine s
  | .seamAdd engine => Sys2Proof.Machine.execSeamAdd engine s
  | .seamAddi engine => Sys2Proof.Machine.execSeamAddi engine s
  | .seamSub engine => Sys2Proof.Machine.execSeamSub engine s
  | .seamAnd engine => Sys2Proof.Machine.execSeamAnd engine s
  | .seamOr engine => Sys2Proof.Machine.execSeamOr engine s
  | .seamXor engine => Sys2Proof.Machine.execSeamXor engine s
  | .seamShl engine => Sys2Proof.Machine.execSeamShl engine s
  | .seamShr engine => Sys2Proof.Machine.execSeamShr engine s
  | .seamSar engine => Sys2Proof.Machine.execSeamSar engine s
  | .seamMulq engine => Sys2Proof.Machine.execSeamMulq engine s
  | .seamBswap engine => Sys2Proof.Machine.execSeamBswap engine s
  | .seamGetf engine => Sys2Proof.Machine.execSeamGetf engine s
  | .seamPutf engine => Sys2Proof.Machine.execSeamPutf engine s
  | .seamLdc engine => Sys2Proof.Machine.execSeamLdc engine s
  | .seamTime engine => Sys2Proof.Machine.execSeamTime engine s
  | .seamBeq engine => Sys2Proof.Machine.execSeamBeq engine s
  | .seamBne engine => Sys2Proof.Machine.execSeamBne engine s
  | .seamBltu engine => Sys2Proof.Machine.execSeamBltu engine s
  | .seamBlt engine => Sys2Proof.Machine.execSeamBlt engine s
  | .seamJmp engine => Sys2Proof.Machine.execSeamJmp engine s
  | .bundleTimeout mapping => Sys2Proof.Machine.execBundleTimeout mapping s
  | .gwFrameToSeam frame => Sys2Proof.Machine.execGwFrameToSeam frame s
  | .canTxDone ch => Sys2Proof.Machine.execCanTxDone ch s
  | .legBusOff ch => Sys2Proof.Machine.execLegBusOff ch s
  | .legRecover ch => Sys2Proof.Machine.execLegRecover ch s
  | .legacyAgeExpiry ch index => Sys2Proof.Machine.execLegacyAgeExpiry ch index s
  | .canRateSearch ch => Sys2Proof.Machine.execCanRateSearch ch s
  | .linSlotStart ch => Sys2Proof.Machine.execLinSlotStart ch s
  | .linHeaderRx ch x => Sys2Proof.Machine.execLinHeaderRx ch x s
  | .linBusStuck ch => Sys2Proof.Machine.execLinBusStuck ch s
  | .frCycleStart cycle => Sys2Proof.Machine.execFrCycleStart cycle s
  | .frPocHalt => Sys2Proof.Machine.execFrPocHalt s
  | .frHaltRestart => Sys2Proof.Machine.execFrHaltRestart s
  | .legEngineFault engine => Sys2Proof.Machine.execLegEngineFault engine s
  | .frerResetTimer entry port => Sys2Proof.Machine.execFrerResetTimer entry port s
  | .frerLatentTimer entry port => Sys2Proof.Machine.execFrerLatentTimer entry port s
  | .wakeInDetect high => Sys2Proof.Machine.execWakeInDetect high s
  | .lwakeDetect n high => Sys2Proof.Machine.execLwakeDetect n high s
  | .canWakePattern ch => Sys2Proof.Machine.execCanWakePattern ch s
  | .wakeOutEnd => Sys2Proof.Machine.execWakeOutEnd s
  | .holdExpiry segment => Sys2Proof.Machine.execHoldExpiry segment s
  | .wakeRequestExpiry => Sys2Proof.Machine.execWakeRequestExpiry s
  | .duskToken frame => Sys2Proof.Machine.execDuskToken frame s
  | .duskNak frame => Sys2Proof.Machine.execDuskNak frame s
  | .duskCommit frame => Sys2Proof.Machine.execDuskCommit frame s
  | .dawn frame => Sys2Proof.Machine.execDawn frame s
  | .ringTimeout => Sys2Proof.Machine.execRingTimeout s
  | .idleInitiate => Sys2Proof.Machine.execIdleInitiate s
  | .quietWindowEnd => Sys2Proof.Machine.execQuietWindowEnd s
  | .standbyTimeout => Sys2Proof.Machine.execStandbyTimeout s
  | .segmentIdle segment => Sys2Proof.Machine.execSegmentIdle segment s
  | .segmentDrainTimeout segment => Sys2Proof.Machine.execSegmentDrainTimeout segment s
  | .safeReqNLow lowNs => Sys2Proof.Machine.execSafeReqNLow lowNs s
  | .faultIn lowNs => Sys2Proof.Machine.execFaultIn lowNs s
  | .esmReqRise => Sys2Proof.Machine.execEsmReqRise s
  | .esmReqFall => Sys2Proof.Machine.execEsmReqFall s
  | .supplyInvalid supply => Sys2Proof.Machine.execSupplyInvalid supply s
  | .supplyValid supply => Sys2Proof.Machine.execSupplyValid supply s
  | .porstNLow lowNs => Sys2Proof.Machine.execPorstNLow lowNs s
  | .sysrstNLow lowNs => Sys2Proof.Machine.execSysrstNLow lowNs s
  | .trstNLow lowNs => Sys2Proof.Machine.execTrstNLow lowNs s
  | .mgmtWdt => Sys2Proof.Machine.execMgmtWdt s
  | .safetyWdt => Sys2Proof.Machine.execSafetyWdt s
  | .resetEpisodeWiden source => Sys2Proof.Machine.execResetEpisodeWiden source s
  | .resetSourceRelease source straps badLanes => Sys2Proof.Machine.execResetSourceRelease source straps badLanes s
  | .bootActivation => Sys2Proof.Machine.execBootActivation s
  | .firmwareStart => Sys2Proof.Machine.execFirmwareStart s
  | .identityKeygenComplete => Sys2Proof.Machine.execIdentityKeygenComplete s
  | .rstBlockRelease => Sys2Proof.Machine.execRstBlockRelease s
  | .updResetNow => Sys2Proof.Machine.execUpdResetNow s
  | .lcReset => Sys2Proof.Machine.execLcReset s
  | .voterDisagreement core => Sys2Proof.Machine.execVoterDisagreement core s
  | .signatureWindowEnd s0 s1 s2 => Sys2Proof.Machine.execSignatureWindowEnd s0 s1 s2 s
  | .coreSelfTestDone core pass => Sys2Proof.Machine.execCoreSelfTestDone core pass s
  | .voterFault => Sys2Proof.Machine.execVoterFault s
  | .heartbeatMissed core => Sys2Proof.Machine.execHeartbeatMissed core s
  | .splitSelfTest pass => Sys2Proof.Machine.execSplitSelfTest pass s
  | .jtagHaltRequest => Sys2Proof.Machine.execJtagHaltRequest s
  | .peerHlthToggle => Sys2Proof.Machine.execPeerHlthToggle s
  | .peerHlthChange active => Sys2Proof.Machine.execPeerHlthChange active s
  | .peerIntPulse highNs => Sys2Proof.Machine.execPeerIntPulse highNs s
  | .controlTx => Sys2Proof.Machine.execControlTx s
  | .mlControlRx m => Sys2Proof.Machine.execMlControlRx m s
  | .mlGoingDownRx => Sys2Proof.Machine.execMlGoingDownRx s
  | .mlLinkLost => Sys2Proof.Machine.execMlLinkLost s
  | .partition => Sys2Proof.Machine.execPartition s
  | .cycleBoundarySync => Sys2Proof.Machine.execCycleBoundarySync s
  | .mlSyncRx m => Sys2Proof.Machine.execMlSyncRx m s
  | .mlSyncAckRx cycle => Sys2Proof.Machine.execMlSyncAckRx cycle s
  | .mlDigestRx m => Sys2Proof.Machine.execMlDigestRx m s
  | .mlDarnRx m => Sys2Proof.Machine.execMlDarnRx m s
  | .mlRoleRx m => Sys2Proof.Machine.execMlRoleRx m s
  | .takeoverTimeout => Sys2Proof.Machine.execTakeoverTimeout s
  | .pbRequest r => Sys2Proof.Machine.execPbRequest r s
  | .pbInboundRequest r => Sys2Proof.Machine.execPbInboundRequest r s
  | .pbResponseRx id code data => Sys2Proof.Machine.execPbResponseRx id code data s
  | .pbPostedErr id code => Sys2Proof.Machine.execPbPostedErr id code s
  | .pbTimeout id => Sys2Proof.Machine.execPbTimeout id s
  | .pbLockBroken => Sys2Proof.Machine.execPbLockBroken s
  | .pbBackoffResend => Sys2Proof.Machine.execPbBackoffResend s
  | .badOpcodeCommand opcode via p => Sys2Proof.Machine.execBadOpcodeCommand opcode via p s
  | .setAndHoldMac port => Sys2Proof.Machine.execSetAndHoldMac port s
  | .pdelayMessageRx port m => Sys2Proof.Machine.execPdelayMessageRx port m s
  | .vmonOk high => Sys2Proof.Machine.execVmonOk high s
  | .legErrorPassive ch tec recv => Sys2Proof.Machine.execLegErrorPassive ch tec recv s
  | .frFrameRx slot cycle channel x => Sys2Proof.Machine.execFrFrameRx slot cycle channel x s
  | .linResponseRx ch id data => Sys2Proof.Machine.execLinResponseRx ch id data s

end Sys2Proof.Machine
end

