-- ==== Sys2Proof/Machine/Step.lean ====
section
/-!
DEFINITION. One step: the command at the front of the queue takes effect; on an empty queue one REF clock period passes.
-/
namespace Sys2Proof.Machine

/-- One period of the REF clock: the local clock counts 10 ns (R218, log 14). -/
def tick (s : State) : State := { s with clk := localClock s + 10 }

/-- One step: the front command is taken off the queue and run on the queue's rest, or the block idles for one period. -/
def step (s : State) : Host.Outcome State Fault Refusal :=
  match s.pending with
  | [] => .next (tick s)
  | c :: rest => exec c { s with pending := rest }

/-- The state with the command that a table word spells put at the front of its queue: no row of the table gives bits, so
no word spells one. -/
def State.withFetchWord (s : State) (nbits w : Nat) : State :=
  match decodeTableWord nbits w with
  | some c => { s with pending := c :: s.pending }
  | none => s

end Sys2Proof.Machine
end

