-- ==== Sys2Proof/Safety.lean ====
section
/-!
DEFINITION. The terms in which claims about the block are put: fuses that only blow, memories in canonical form, a command
that is ready to take effect, and the parts of the state that a shared operation may touch.
-/
namespace Sys2Proof.Machine

/-! Fuses (R411, R353, R409). -/

/-- Every blown fuse of `a` is blown in `b`. -/
def blownStays {n : Nat} (a b : BitVec n) : Prop := a &&& b = a

/-- From `o` to `p` fuses have only blown, the values a device is given once are the same, and a root secret that is valid
is kept. -/
structure FusesKept (o p : Otp) : Prop where
  cells : ∀ n : Nat, blownStays (o.lcCells.getD n 0) (p.lcCells.getD n 0)
  retired : blownStays o.retiredCell p.retiredCell
  reach : blownStays o.rstReach p.rstReach
  rootA : o.rootAValid = true → p.rootAValid = true ∧ p.rootA = o.rootA
  rootB : o.rootBValid = true → p.rootBValid = true ∧ p.rootB = o.rootB
  deviceId : p.deviceId = o.deviceId
  pciIds : p.vendorId = o.vendorId ∧ p.subsysVendorId = o.subsysVendorId ∧ p.subsysId = o.subsysId
  mpAddress : p.mpAddress = o.mpAddress
  pqRequired : p.pqRequired = o.pqRequired

/-! Memories. -/

/-- A memory whose unlisted bytes read `fill`, in canonical form. -/
def MemIs (fill : Byte) (m : Mem) : Prop := m.fill = fill ∧ Mem.wf m = true

/-- Every byte memory of the block is in canonical form, each with the contents its unlisted bytes read as (log 3, log 4). -/
structure MemoriesCanonical (s : State) : Prop where
  recorder : MemIs 0xFF s.evr.mem
  request : MemIs 0 s.cmd.request
  banks : ∀ b : Nat, MemIs 0 (imgBank s b)
  peerBank : MemIs 0 s.img.peerBank
  nor : ∀ b : Nat, MemIs 0xFF (norBank s b)
  peerNor : MemIs 0xFF s.upd.peerNor

/-! Commands in flight (R39, R40, R57–R59). -/

/-- The request that a command in flight stands for, with the local clock of its acceptance. -/
def reqAt (e : InFlight) : Req := reqOf e.via e.packet e.acceptedAt

/-- The commit point of the command of tag `t` is passed (R63). -/
def committed (t : Word16) (s : State) : State := updTag t (fun e => { e with phase := .committed }) s

/-- The command `e` of tag `t` was accepted with opcode `op`, no order rule holds it, and it is neither a dry run nor timed:
its row makes it take effect now. -/
def ready (op : Nat) (t : Word16) (e : InFlight) (s : State) : Bool :=
  findTag s t == some e && e.opcode == op && e.phase == .waiting && clusterServes s && mayBegin e s
    && !isDryrun e.packet && e.instant.isNone

/-- The opcode rows whose meaning is the shared path of a command and nothing else: what the opcode adds, and its row. -/
def opcodeRows : List (OpDef × (CmdSource → Instr)) :=
  [(sysGetInfoOp, .sysGetInfo), (sysAbortOp, .sysAbort), (sysSetModeOp, .sysSetMode), (sysSetAuthPolicyOp, .sysSetAuthPolicy),
   (imgBeginOp, .imgBegin), (imgChunkOp, .imgChunk), (imgVerifyOp, .imgVerify), (imgStageOp, .imgStage),
   (imgActivateOp, .imgActivate), (imgStatusOp, .imgStatus), (imgPatchOp, .imgPatch), (prsBankSwapOp, .prsBankSwap),
   (prsLaneStatusOp, .prsLaneStatus), (fwlStatusOp, .fwlStatus), (fwlConnListOp, .fwlConnList),
   (fwlConnFlushOp, .fwlConnFlush), (bsnStatusOp, .bsnStatus), (egrStatusOp, .egrStatus), (egrFrerStatusOp, .egrFrerStatus),
   (timeStatusOp, .timeStatus), (timeRestepOp, .timeRestep), (legStatusOp, .legStatus), (portStatusOp, .portStatus),
   (msecSaInstallOp, .msecSaInstall)]
  ++ [(msecSaStatusOp, .msecSaStatus), (hstRingCtlOp, .hstRingCtl), (pbWindowSetOp, .pbWindowSet),
   (wakeSleepRequestOp, .wakeSleepRequest), (wakeStatusOp, .wakeStatus), (wakeSegmentOp, .wakeSegment),
   (updBeginOp, .updBegin), (updChunkOp, .updChunk), (updVerifyOp, .updVerify), (updStageOp, .updStage),
   (updActivateOp, .updActivate), (updConfirmOp, .updConfirm), (updStatusOp, .updStatus), (rstBlockOp, .rstBlock),
   (rstGlobalOp, .rstGlobal), (pairStatusOp, .pairStatus), (pairSwitchoverOp, .pairSwitchover), (keyDeriveOp, .keyDerive),
   (keySlotInfoOp, .keySlotInfo), (attestQuoteOp, .attestQuote), (lcTransitionOp, .lcTransition),
   (cntSnapshotAtOp, .cntSnapshotAt), (cntSelectOp, .cntSelect), (evrReadOp, .evrRead), (evrClearOp, .evrClear)]

/-! What a shared operation may touch. -/

/-- From `s` to `t` only the command transports, the MSI-X state, the interrupt block and what leaves the block differ. -/
def OnlyTransports (s t : State) : Prop :=
  t = { s with cmd := t.cmd, hst := { s.hst with fns := t.hst.fns }, intr := t.intr, wire := t.wire }

/-- From `s` to `t` only the event recorder, the unrecorded count of the backup domain and the transports differ. -/
def OnlyRecorder (s t : State) : Prop :=
  t = { s with evr := t.evr, bkp := { s.bkp with unrecorded := t.bkp.unrecorded }
               cmd := t.cmd, hst := { s.hst with fns := t.hst.fns }, intr := t.intr, wire := t.wire }

/-- From `s` to `t` only the counter block and the interrupts it raises differ. -/
def OnlyCounters (s t : State) : Prop :=
  t = { s with cnt := t.cnt, hst := { s.hst with fns := t.hst.fns }, intr := t.intr, wire := t.wire }

/-! The instructions of the Seam engines (R255, Table 9.10). -/

/-- Engine `n` has handler `r` in execution, and its next instruction is the word `w` with OP `op`. -/
def seamAt (op n : Nat) (r : SeamRun) (w : Nat) (s : State) : Prop :=
  (engineOf s n).stopped = false ∧ (engineOf s n).run = some r ∧ seamWord r = some w ∧ seamOp w = op

/-- The handler of engine `n` goes on behind the instruction, having skipped `skip` more. -/
def seamGoesOn (n skip : Nat) (r : SeamRun) (s : State) : State :=
  updEngine n (fun e => { e with run := some { r with pc := r.pc + 1 + skip, executed := r.executed + 1 } }) s

/-- The instruction `w` writes `v` to its DST and the handler goes on. -/
def seamWrites (n : Nat) (r : SeamRun) (w v : Nat) (s : State) : State := seamGoesOn n 0 (seamSet r (seamDst w) v) s

end Sys2Proof.Machine
end

