-- ==== Sys2Proof/WellFormed.lean ====
section
/-!
DEFINITION. Which command terms stand for something that can reach the block: the lengths, ranges and shapes that a wire, a
transport or the command's own text imposes on its operands.  The machine runs on every term; a term that fails the check
stands for nothing the outside could present.
-/
namespace Sys2Proof

/-- A value fits `n` bits as a signed number. -/
def fits (n : Nat) (v : Int) : Bool := decide (-(2 ^ (n - 1) : Int) ≤ v) && decide (v < (2 ^ (n - 1) : Int))

/-- A frame's bytes from the destination address to the last byte before the FCS: at least one, and a length whose count a
descriptor's 16 bits hold. -/
def frameLength (c : Bytes) : Bool := decide (1 ≤ c.length) && decide (c.length ≤ 65535)

/-- A command: the AUTH field has 16 bytes and the payload the bytes that LENGTH announces (Table 2.2). -/
def Packet.wf (p : Packet) : Bool := p.auth.length == 16 && p.payload.length == p.length.toNat

/-- A transport: the reply buffer of Table 2.6, a MAC address of 48 bits. -/
def Via.wf : Via → Bool
  | .ring _ idx max addr => decide (idx < 256) && decide (32 ≤ max) && decide (max ≤ 4096) && addr.toNat % 8 == 0
  | .mailbox => true
  | .inBand _ src _ => decide (src < 2 ^ 48)

/-- The source of an opcode row's command. -/
def CmdSource.wf : CmdSource → Bool
  | .arriving v p => v.wf && p.wf
  | .accepted _ => true

/-- A fetched submission descriptor has 32 bytes, and a command 32 to 4,096 (Table 2.6). -/
def SqFetch.wf : SqFetch → Bool
  | .descError => true
  | .read d c => d.length == 32 && c.all (fun b => decide (32 ≤ b.length) && decide (b.length ≤ 4096))

/-- The lanes of a row with one kind of error are named once, and none with two kinds (R169). -/
def CellError.wf (e : CellError) : Bool := (e.single ++ e.double ++ e.silent).Nodup

/-- The timing fields of a Follow_Up (Table 8.3). -/
def TimeInfo.wf (t : TimeInfo) : Bool :=
  decide (t.originSec < 2 ^ 48) && decide (t.originNs < 1000000000) && fits 64 t.correction && fits 64 t.rateOffset

/-- The instants of a Pdelay message are not negative. -/
def PdelayMessage.wf : PdelayMessage → Bool
  | .req _ => true
  | .resp _ t => decide (0 ≤ t)
  | .respFollowUp _ t => decide (0 ≤ t)

/-- A legacy frame as its bus can carry it (Table 9.9). -/
def LegacyFrame.wf (f : LegacyFrame) : Bool :=
  decide (f.id < 2 ^ 29) && decide (f.cycle < 64) && decide (f.sdt < 256) && decide (f.vcid < 256) && decide (f.data.length ≤ 2048)

/-- A CONTROL frame (Table 14.4). -/
def ControlFrame.wf (m : ControlFrame) : Bool :=
  decide (m.mode < 8) && decide (m.pairState < 4) && decide (m.pairSetId < 2 ^ 128)

/-- A journal record carries its opcode in 16 bits and at most the payload of a command (Table 14.6). -/
def JournalRec.wf (j : JournalRec) : Bool := decide (j.opcode < 65536) && decide (j.payload.length ≤ 4064)

/-- A connection-table delta names a 40-byte key (Table 14.6). -/
def CtDelta.wf (d : CtDelta) : Bool := d.key.length == 40

/-- A SYNC (Table 14.6). -/
def SyncFrame.wf (m : SyncFrame) : Bool :=
  decide (m.cycle < 2 ^ 32) && m.ct.all CtDelta.wf && m.cluster.all (fun c => c.1.all JournalRec.wf)

/-- A DIGEST: at most 4,096 records of 8 bytes (Table 14.7). -/
def DigestFrame.wf (m : DigestFrame) : Bool :=
  decide (m.cycle < 2 ^ 32) && m.records.all (fun r => decide (r.byte4 < 256) && decide (r.byte5 < 256) && decide (r.handle < 65536))

/-- A part of a darning copy (R404). -/
def DarnPart.wf (m : DarnPart) : Bool := m.ct.all CtDelta.wf && m.journal.all JournalRec.wf

/-- A peer-bridge access: a 40-bit address, and write data of its size (R318). -/
def PbAccess.wf (r : PbAccess) : Bool :=
  decide (r.addr < 2 ^ 40) && (match r.kind with
    | .read | .lockingRead => r.data.isEmpty
    | .write | .unlockingWrite => r.data.length == r.size)

/-- A peer-bridge request that arrives (R319, R320). -/
def PbInbound.wf (r : PbInbound) : Bool :=
  decide (r.addr < 2 ^ 40) && (match r.kind with
    | .read | .lockingRead => r.data.isEmpty
    | .write | .unlockingWrite => r.data.length == r.size)

/-- A command term stands for something that can reach the block. -/
def Instr.wf (i : Instr) : Bool :=
  match i with
  | .sysGetInfo c => c.wf
  | .sysAbort c => c.wf
  | .sysSetMode c => c.wf
  | .sysSetAuthPolicy c => c.wf
  | .imgBegin c => c.wf
  | .imgChunk c => c.wf
  | .imgVerify c => c.wf
  | .imgStage c => c.wf
  | .imgActivate c => c.wf
  | .imgStatus c => c.wf
  | .imgPatch c => c.wf
  | .prsBankSwap c => c.wf
  | .prsLaneStatus c => c.wf
  | .fwlStatus c => c.wf
  | .fwlConnList c => c.wf
  | .fwlConnFlush c => c.wf
  | .bsnStatus c => c.wf
  | .egrStatus c => c.wf
  | .egrFrerStatus c => c.wf
  | .timeStatus c => c.wf
  | .timeRestep c => c.wf
  | .legStatus c => c.wf
  | .legChannelCtl c => c.wf
  | .portStatus c => c.wf
  | .portLinkCtl c => c.wf
  | .msecSaInstall c => c.wf
  | .msecSaStatus c => c.wf
  | .hstRingCtl c => c.wf
  | .pbWindowSet c => c.wf
  | .wakeSleepRequest c => c.wf
  | .wakeStatus c => c.wf
  | .wakeSegment c => c.wf
  | .updBegin c => c.wf
  | .updChunk c => c.wf
  | .updVerify c => c.wf
  | .updStage c => c.wf
  | .updActivate c => c.wf
  | .updConfirm c => c.wf
  | .updStatus c => c.wf
  | .rstBlock c => c.wf
  | .rstGlobal c => c.wf
  | .pairStatus c => c.wf
  | .pairSwitchover c => c.wf
  | .keyDerive c => c.wf
  | .keySlotInfo c => c.wf
  | .attestQuote c => c.wf
  | .lcTransition c => c.wf
  | .cntSnapshotAt c => c.wf
  | .cntSelect c => c.wf
  | .evrRead c => c.wf
  | .evrClear c => c.wf
  | .dbgAccess c => c.wf
  | .cmdSqTailWrite _ _ l => l.all SqFetch.wf
  | .cmdCqHeadWrite _ _ => true
  | .cmdRingCfgWrite _ _ => true
  | .cmdMbDbSubmit _ => true
  | .mailboxPop => true
  | .registerWrite _ _ _ => true
  | .intStatClear _ _ l => l.Nodup
  | .cntOvfRead _ _ => true
  | .timLatch _ _ => true
  | .timTsPop _ _ => true
  | .safWdtKick _ => true
  | .msixUnmask _ _ => true
  | .msixHoldoffEnd _ _ => true
  | .xspiRead _ n _ => decide (1 ≤ n)
  | .xspiWrite _ l => !l.isEmpty
  | .xspiBadCommand _ _ => true
  | .xspihCsRise _ => true
  | .lbWriteApply => true
  | .pcieFlr _ => true
  | .pcieBmeClear _ => true
  | .pcieHotReset => true
  | .pcieReady => true
  | .hstTxTailWrite _ _ _ l => l.all (fun d => d.length == 32)
  | .hstRxTailWrite _ _ _ l => l.all (fun d => d.length == 32)
  | .hstTxCfgWrite _ _ _ => true
  | .hstRxCfgWrite _ _ _ => true
  | .hpTxFrameRead _ x => x.fetched.all (fun b => b.length == 32) && x.data.all (fun b => decide (b.length ≤ 65535))
  | .dmaFetchError _ _ => true
  | .txWriteback _ => true
  | .hpRxDelivery _ => true
  | .frameStart _ c _ => frameLength c
  | .frameEnd _ _ => true
  | .lanePassBegin _ => true
  | .laneResult _ _ => true
  | .rinseDispatch => true
  | .pressArrival _ _ => true
  | .holeNotice _ _ _ _ => true
  | .pressSkip _ _ _ => true
  | .egressSelect _ l => l.all CellError.wf
  | .egressTxEnd _ => true
  | .gateEntryChange _ => true
  | .launchMissed _ _ => true
  | .pfcRx _ c => frameLength c
  | .pauseExpiry _ _ => true
  | .pfcRefresh _ _ => true
  | .pfcStuck _ _ => true
  | .plcaHoldExpiry _ => true
  | .linkUp _ _ => true
  | .linkDown _ => true
  | .phyCoeffStale _ => true
  | .xsModeSearch _ => true
  | .mdioPoll _ _ => true
  | .plcaBeaconRx _ => true
  | .plcaLost _ => true
  | .preemptVerify _ => true
  | .preemptResponseRx _ => true
  | .tc10SleepRequestRx _ => true
  | .tc10SleepResponseRx _ _ => true
  | .tc10Wake _ => true
  | .paceReading _ _ _ _ => true
  | .basinScrub r => r.wf
  | .fwlScrubPass _ _ => true
  | .fwlRevertComplete => true
  | .ctExpiry _ => true
  | .learnAgeing vid mac => decide (vid < 4096) && decide (mac < 2 ^ 48)
  | .ruleBankRelease => true
  | .ruleBankRefresh => true
  | .timedHandover _ => true
  | .atTimeExecute _ => true
  | .imageSwitch => true
  | .patchSwap => true
  | .ruleBankSwap => true
  | .autonomousSwitch => true
  | .snapshotLatch => true
  | .autoSnapshot => true
  | .snapshotComplete => true
  | .evrRecordWrite => true
  | .evrClearComplete => true
  | .clearNonceExpiry => true
  | .sessionIdleExpiry _ => true
  | .gptpSyncRx _ m => m.info.all TimeInfo.wf && fits 64 m.correction
  | .gptpFollowUpRx _ m => m.info.wf
  | .announceRx _ _ _ => true
  | .announceTimer => true
  | .pdelayTimer => true
  | .syncOriginate _ => true
  | .sourceLost _ => true
  | .ppsInEdge _ => true
  | .ppsOutEdge _ => true
  | .tsyncCapture _ _ => true
  | .tsyncOutputEdge _ _ => true
  | .slewComplete => true
  | .timeWMismatch _ => true
  | .operatingSecondsTick => true
  | .canFrameRx _ x => x.frame.wf
  | .seamEventServe _ => true
  | .seamEnd _ => true
  | .seamDrop _ => true
  | .seamLdi _ => true
  | .seamLui _ => true
  | .seamMov _ => true
  | .seamAdd _ => true
  | .seamAddi _ => true
  | .seamSub _ => true
  | .seamAnd _ => true
  | .seamOr _ => true
  | .seamXor _ => true
  | .seamShl _ => true
  | .seamShr _ => true
  | .seamSar _ => true
  | .seamMulq _ => true
  | .seamBswap _ => true
  | .seamGetf _ => true
  | .seamPutf _ => true
  | .seamLdc _ => true
  | .seamTime _ => true
  | .seamBeq _ => true
  | .seamBne _ => true
  | .seamBltu _ => true
  | .seamBlt _ => true
  | .seamJmp _ => true
  | .bundleTimeout m => decide (m < 1024)
  | .gwFrameToSeam _ => true
  | .canTxDone _ => true
  | .legBusOff _ => true
  | .legRecover _ => true
  | .legacyAgeExpiry _ _ => true
  | .canRateSearch _ => true
  | .linSlotStart _ => true
  | .linHeaderRx _ _ => true
  | .linBusStuck _ => true
  | .frCycleStart _ => true
  | .frPocHalt => true
  | .frHaltRestart => true
  | .legEngineFault _ => true
  | .frerResetTimer e _ => decide (e < 2048)
  | .frerLatentTimer e _ => decide (e < 2048)
  | .wakeInDetect _ => true
  | .lwakeDetect _ _ => true
  | .canWakePattern _ => true
  | .wakeOutEnd => true
  | .holdExpiry _ => true
  | .wakeRequestExpiry => true
  | .duskToken b => decide (b.length ≤ 1500)
  | .duskNak b => decide (b.length ≤ 1500)
  | .duskCommit b => decide (b.length ≤ 1500)
  | .dawn b => decide (b.length ≤ 1500)
  | .ringTimeout => true
  | .idleInitiate => true
  | .quietWindowEnd => true
  | .standbyTimeout => true
  | .segmentIdle _ => true
  | .segmentDrainTimeout _ => true
  | .safeReqNLow _ => true
  | .faultIn _ => true
  | .esmReqRise => true
  | .esmReqFall => true
  | .supplyInvalid _ => true
  | .supplyValid _ => true
  | .porstNLow _ => true
  | .sysrstNLow _ => true
  | .trstNLow _ => true
  | .mgmtWdt => true
  | .safetyWdt => true
  | .resetEpisodeWiden src => decide (4 ≤ src.val)
  | .resetSourceRelease src _ l => decide (4 ≤ src.val) && l.Nodup
  | .bootActivation => true
  | .firmwareStart => true
  | .identityKeygenComplete => true
  | .rstBlockRelease => true
  | .updResetNow => true
  | .lcReset => true
  | .voterDisagreement _ => true
  | .signatureWindowEnd _ _ _ => true
  | .coreSelfTestDone _ _ => true
  | .voterFault => true
  | .heartbeatMissed _ => true
  | .splitSelfTest _ => true
  | .jtagHaltRequest => true
  | .peerHlthToggle => true
  | .peerHlthChange _ => true
  | .peerIntPulse _ => true
  | .controlTx => true
  | .mlControlRx m => m.wf
  | .mlGoingDownRx => true
  | .mlLinkLost => true
  | .partition => true
  | .cycleBoundarySync => true
  | .mlSyncRx m => m.wf
  | .mlSyncAckRx _ => true
  | .mlDigestRx m => m.wf
  | .mlDarnRx m => m.wf
  | .mlRoleRx _ => true
  | .takeoverTimeout => true
  | .pbRequest r => r.wf
  | .pbInboundRequest r => r.wf
  | .pbResponseRx _ _ d => decide (d.length ≤ 64)
  | .pbPostedErr _ _ => true
  | .pbTimeout _ => true
  | .pbLockBroken => true
  | .pbBackoffResend => true
  | .badOpcodeCommand _ v p => v.wf && p.wf
  | .setAndHoldMac _ => true
  | .pdelayMessageRx _ m => m.wf
  | .vmonOk _ => true
  | .legErrorPassive _ t r => decide (t < 512) && decide (r < 512)
  | .frFrameRx slot _ _ x => decide (1 ≤ slot) && decide (slot ≤ 2047) && x.data.all (fun b => decide (b.length ≤ 254))
  | .linResponseRx _ _ d => d.all (fun b => decide (1 ≤ b.1.length) && decide (b.1.length ≤ 8))

end Sys2Proof
end

