-- ==== Sys2Proof/Certificates/Slice0/Obligations.lean ====
section
/-!
DEFINITION. The statements for the provers, each a proposition about the model.
-/
open Sys2Proof Sys2Proof.Machine

/-- A step takes the command at the front of the queue and runs it on the queue's rest. On an empty queue one 10 ns period of
the REF clock passes and nothing else happens: the model's choice (log 14), with the period of R218. -/
def Obligations.StepRunsTheFrontCommand : Prop :=
  (∀ (c : Instr) (rest : List Instr) (s : State), s.pending = c :: rest → step s = exec c { s with pending := rest })
  ∧ (∀ s : State, s.pending = [] → step s = .next { s with clk := s.clk + 10 })

/-- Every command answers a next state in every state, and leaves the commands behind it in the queue alone. -/
def Obligations.EveryCommandCompletes : Prop :=
  ∀ (i : Instr) (s : State), ∃ t : State, exec i s = .next t ∧ t.pending = s.pending

/-- Whatever a step does, OTP fuses only blow, a valid root secret stays, and the identity fuses stay as they are (R409, R411,
R353). -/
def Obligations.FusesOnlyBlow : Prop :=
  ∀ s t : State, step s = .next t → FusesKept s.otp t.otp

/-- Every step keeps every byte memory in canonical form. -/
def Obligations.MemoriesStayCanonical : Prop :=
  ∀ s t : State, MemoriesCanonical s → step s = .next t → MemoriesCanonical t

/-- The memories of the reset state are canonical. What reset leaves: the registers, rings, queues and counters that the spec
gives a reset value hold it. A row of an instant brings the local clock to it, the model's choice (log 14). -/
def Obligations.ResetState : Prop :=
  (MemoriesCanonical State.reset)
  ∧ (let s := State.reset
  s.pending = [] ∧ s.sys.scratch = 0 ∧ s.sys.fwVersion = 0 ∧ s.sys.clusterUp = false ∧ s.intr.stat = 0
    ∧ (∀ n : Nat, intRoute s n = 0) ∧ (∀ f : Nat, cmdRing s f = {}) ∧ s.cmd.reqBusy = false ∧ s.cmd.mbDbErr = false
    ∧ s.cmd.replies = [] ∧ s.cmd.marks = [] ∧ s.cmd.sessions = [] ∧ s.clk = 0 ∧ (dom s 0).st = .free ∧ (∀ d : Nat, d ≠ 0 → (dom s d).st = .disabled)
    ∧ (∀ p i : Nat, statOf s p i = 0) ∧ s.frames = [] ∧ s.img.live = none ∧ s.wake.ring = .awake)

/-- A command laid out as Table 2.2 has it, header, AUTH and payload, is read back as the opcode and the packet it came from,
with every operand at every value the envelope admits. -/
def Obligations.EnvelopeRoundTrip : Prop :=
  ∀ (op n : Nat) (p : Packet), op < 65536 → p.wf = true →
    parseCommand (headerBytes op p ++ p.auth ++ p.payload) n = (op, { p with transported := n })

/-- Every opcode row is the shared path of a command with what its opcode adds; LEG_CHANNEL_CTL and PORT_LINK_CTL, while the
block they name is held in reset, are accepted on arrival and wait in front of their effect, and once accepted do not begin
(R357); DBG_ACCESS frees its request buffer (R384). Completes: every opcode row, legChannelCtl, portLinkCtl and dbgAccess among
them. -/
def Obligations.OpcodeRowsShareOnePath : Prop :=
  (∀ x ∈ opcodeRows, ∀ (c : CmdSource) (s : State), exec (x.2 c) s = .next (runCommand x.1 c s))
    ∧ (∀ (c : CmdSource) (s : State), exec (.dbgAccess c) s = .next (catchUp (runDbg c s)))
    ∧ (∀ (c : CmdSource) (s : State), (∀ p : Packet, channelCtlHeld s p = false) →
        exec (.legChannelCtl c) s = .next (runCommand legChannelCtlOp c s))
    ∧ (∀ (c : CmdSource) (s : State), (∀ p : Packet, linkCtlHeld s p = false) →
        exec (.portLinkCtl c) s = .next (runCommand portLinkCtlOp c s))
    ∧ (∀ (t : Word16) (e : InFlight) (s : State), findTag s t = some e → channelCtlHeld s e.packet = true →
        exec (.legChannelCtl (.accepted t)) s = .next s)
    ∧ (∀ (t : Word16) (e : InFlight) (s : State), findTag s t = some e → linkCtlHeld s e.packet = true →
        exec (.portLinkCtl (.accepted t)) s = .next s)
    ∧ (∀ (via : Via) (p : Packet) (s : State),
        exec (.legChannelCtl (.arriving via p)) s
          = .next (arriveWith (clusterServes s) (!channelCtlHeld s p) legChannelCtlOp via p s)
        ∧ exec (.portLinkCtl (.arriving via p)) s = .next (arriveWith (clusterServes s) (!linkCtlHeld s p) portLinkCtlOp via p s))
    ∧ (∀ (t : Word16) (e : InFlight) (s : State), findTag s t = some e →
        (channelCtlHeld s e.packet = false → exec (.legChannelCtl (.accepted t)) s = .next (runCommand legChannelCtlOp (.accepted t) s))
        ∧ (linkCtlHeld s e.packet = false → exec (.portLinkCtl (.accepted t)) s = .next (runCommand portLinkCtlOp (.accepted t) s)))
    ∧ (∀ (t : Word16) (s : State), findTag s t = none →
        exec (.legChannelCtl (.accepted t)) s = .next s ∧ exec (.portLinkCtl (.accepted t)) s = .next s)

/-- The row of a command that arrives and is accepted does what the row of the accepted command does on the state after
acceptance: its tag in flight, its journal entry made. -/
def Obligations.ArrivalIsAcceptanceThenTheRow : Prop :=
  ∀ x ∈ opcodeRows, ∀ (via : Via) (p : Packet) (s : State),
    clusterServes s = true → transportServed via s = true → inBandDropped x.1 via p s = false → isDuplicate via p s = false →
    judge x.1 via p s = none →
    exec (x.2 (.arriving via p)) s = exec (x.2 (.accepted p.tag)) (acceptCommand x.1 via p (reqOf via p s.clk) s)

/-- A refused command, but for one that lacks a resource (R438), has no effect beside its reply (R57): marks, sessions and the
authentication policy stay, and nothing outside the transports changes. -/
def Obligations.RefusedCommandHasNoEffect : Prop :=
  ∀ x ∈ opcodeRows, ∀ (via : Via) (p : Packet) (s : State) (st dt : Nat) (rej : Bool),
    clusterServes s = true → transportServed via s = true → inBandDropped x.1 via p s = false → isDuplicate via p s = false →
    judge x.1 via p s = some (st, dt, rej) → st ≠ stNoResources →
    ∃ t : State, exec (x.2 (.arriving via p)) s = .next t ∧ OnlyTransports s t ∧ t.cmd.marks = s.cmd.marks
      ∧ t.cmd.policy = s.cmd.policy ∧ (∀ e ∈ t.cmd.inflight, e ∈ s.cmd.inflight)

/-- A dry run answers and does nothing else: nothing outside the transports changes, and no sequence mark rises (R59). -/
def Obligations.DryRunOnlyAnswers : Prop :=
  ∀ x ∈ opcodeRows, ∀ (t : Word16) (e : InFlight) (s : State),
    findTag s t = some e → e.opcode = x.1.code → e.phase = .waiting → clusterServes s = true → mayBegin e s = true →
    isDryrun e.packet = true →
    ∃ u : State, exec (x.2 (.accepted t)) s = .next u ∧ OnlyTransports s u ∧ u.cmd.marks = s.cmd.marks
      ∧ u.cmd.policy = s.cmd.policy

/-- A command that another holds back does not begin: while an ORDERED command accepted earlier on its transport, or, where it
is ORDERED itself, any earlier one, is not finally replied to, its row changes nothing (R58). -/
def Obligations.OrderHoldsACommandBack : Prop :=
  ∀ x ∈ opcodeRows, ∀ (t : Word16) (e y : InFlight) (s : State),
    findTag s t = some e → e.opcode ≠ 0x0002 → y ∈ earlier s t → tagTransport y.packet.tag = tagTransport t →
    y.phase ≠ .replied → (isOrdered e.packet = true ∨ isOrdered y.packet = true) →
    exec (x.2 (.accepted t)) s = .next s

/-- R46: an authenticated command whose sequence is not greater than the mark fails with AUTH_FAIL where no earlier check of R57
fails, and without authentication the sequence is not checked; an accepted command raises the mark of its transport and slot and
of no other, each start of the cluster (and with it each boot nonce) returns the marks to 0, and a reply echoes the SEQUENCE of
its command. -/
def Obligations.SequenceMarks : Prop :=
  (∀ (d : OpDef) (via : Via) (p : Packet) (s : State),
      p.length.toNat ≤ 4064 → lengthDisagrees via p = false → tagTransport p.tag = viaTransport via p.tag → findTag s p.tag = none →
      opWorlds d.code ≠ none → p.flags.toNat / 16 = 0 → bits p.cred.toNat 0 21 = 0 → credAuth p = true →
      p.sequence.toNat ≤ Tab.get s.cmd.marks (viaTransport via p.tag * 64 + credSlot p) 0 →
      judge d via p s = some (stAuthFail, 0, false))
  ∧ (∀ (d : OpDef) (via : Via) (p : Packet) (q : Word) (s : State), credAuth p = false →
      judge d via { p with sequence := q } s = judge d via p s)
  ∧ (∀ x ∈ opcodeRows, ∀ (via : Via) (p : Packet) (s : State) (k : Nat), isDryrun p = false →
      Tab.get (acceptCommand x.1 via p (reqOf via p s.clk) s).cmd.marks k 0
        = if credAuth p = true ∧ k = viaTransport via p.tag * 64 + credSlot p then p.sequence.toNat else Tab.get s.cmd.marks k 0)
  ∧ (∀ (rom : Bool) (s : State) (k : Nat), Tab.get (startCluster rom s).cmd.marks k 0 = 0)
  ∧ (∀ (s : State) (op : Nat) (p : Packet) (key : Bytes) (extra st dt : Nat) (result : Bytes) (max : Nat),
      slice (replyBytes s op p key extra st dt result max) 12 4 = leBytes 4 p.sequence.toNat)

/-- Check 1 to 3 of R57: a LENGTH above 4,064, or one that the transport disagrees with, is BAD_LENGTH, a tag of another
transport or a tag in flight BAD_TAG, both with REJECT; then an opcode outside Table 2.12 is BAD_OPCODE, and reserved bits, or a
KEY_SLOT or AUTH without CRED.AUTH, BAD_PARAM. A tag whose final reply is issued is no longer in flight (R39). -/
def Obligations.EarlyChecksInOrder : Prop :=
  ∀ (d : OpDef) (via : Via) (p : Packet) (s : State),
    let long := 4064 < p.length.toNat ∨ lengthDisagrees via p = true
    let taken := tagTransport p.tag ≠ viaTransport via p.tag ∨ tagInFlight s p.tag = true
    let unknown := opWorlds d.code = none
    let reserved := p.flags.toNat / 16 ≠ 0 ∨ bits p.cred.toNat 0 21 ≠ 0
      ∨ (credAuth p = false ∧ (credSlot p ≠ 0 ∨ allZero p.auth = false))
    (long → judge d via p s = some (stBadLength, 0, true))
      ∧ (¬long → taken → judge d via p s = some (stBadTag, 0, true))
      ∧ (¬long → ¬taken → unknown → judge d via p s = some (stBadOpcode, 0, false))
      ∧ (¬long → ¬taken → ¬unknown → reserved → judge d via p s = some (stBadParam, 0, false))
      ∧ (∀ e : InFlight, s.cmd.inflight = [e] → e.packet.tag = p.tag → (tagInFlight s p.tag = true ↔ e.phase ≠ .replied))

/-- A shared operation keeps to its part of the state: replies and interrupts to the transports, the interrupt block and what
leaves; records to the recorder; statistics and unit counters to the counter block. A command that was finally replied to gets
no second reply (R40). -/
def Obligations.PartsAndFinalReplies : Prop :=
  ((∀ (t : Word16) (st dt : Nat) (r : Bytes) (s : State), OnlyTransports s (finalReply t st dt r s))
    ∧ (∀ (src : Nat) (s : State), OnlyTransports s (raiseInt src s))
    ∧ (∀ (ty : Nat) (b : Bytes) (s : State), OnlyRecorder s (record ty b s))
    ∧ (∀ (ty : Nat) (b : Bytes) (s : State), OnlyRecorder s (writeRecord ty b s))
    ∧ (∀ (p i n : Nat) (s : State), OnlyCounters s (stat p i n s))
    ∧ (∀ (k o e n : Nat) (s : State), OnlyCounters s (countSource k o e n s)))
  ∧ (∀ (t : Word16) (st dt : Nat) (r : Bytes) (e : InFlight) (s : State),
    findTag s t = some e → e.phase = .replied → finalReply t st dt r s = s)

/-- A command that is ready takes effect: where no execution check fails it commits and its opcode's commit follows; where one
fails, the failing status is its final reply (R57, R63). Completes: every opcode row but legChannelCtl, portLinkCtl and
dbgAccess, which ChannelAndPortCommands and HostAndDebugCommands state. SYS_ABORT withdraws a named command that has not reached
its commit point, whose ABORTED reply goes first, and answers OK; any other it leaves alone and answers TOO_LATE (R64).
Completes: sysAbort. -/
def Obligations.CommitAndAbort : Prop :=
  (∀ x ∈ opcodeRows, ∀ (t : Word16) (e : InFlight) (s : State), ready x.1.code t e s = true →
    (x.1.checks (reqAt e) s = none → exec (x.2 (.accepted t)) s = .next (x.1.commit (reqAt e) (committed t s)))
      ∧ ∀ st dt : Nat, x.1.checks (reqAt e) s = some (st, dt) →
          exec (x.2 (.accepted t)) s = .next (finalReply t st dt [] (x.1.onFail (reqAt e) s)))
  ∧ (∀ (t : Word16) (e : InFlight) (s : State), ready 0x0002 t e s = true →
    let c := committed t s
    let target := abortTarget (reqAt e)
    (target ≠ t → abortable target c = true →
        exec (.sysAbort (.accepted t)) s = .next (finalReply t stOk 0 [] (abortCommand target 1 c)))
      ∧ ((target = t ∨ abortable target c = false) → exec (.sysAbort (.accepted t)) s = .next (finalReply t stTooLate 0 [] c)))

/-- The status commands answer OK with what Tables 2.13, 3.8, 4.6, 5.9, 6.6, 7.17, 8.8, 9.15, 10.6, 12.10, 13.14 and 14.8 lay
out, read from one state, and change nothing but the reply (IMG_STATUS also draws the free bytes of its digests without an
image). Completes: sysGetInfo, imgStatus, prsLaneStatus, fwlStatus, fwlConnList, bsnStatus, egrStatus, egrFrerStatus,
timeStatus, msecSaStatus, wakeStatus, updStatus, pairStatus, keySlotInfo, evrRead. LEG_STATUS and PORT_STATUS answer OK with the
status of the channel, the engines or the port; where the spec leaves a value to the device (the rate of a LIN channel in
AUTONOMOUS) the next free number stands for it. Completes: legStatus, portStatus. Free values: log 1. -/
def Obligations.StatusCommandsReplied : Prop :=
  (∀ (t : Word16) (e : InFlight) (s : State),
    let c := committed t s
    let p := (reqAt e).payload
    (ready 0x0001 t e s = true → exec (.sysGetInfo (.accepted t)) s = .next (finalReply t stOk 0 (sysInfo c) c))
    ∧ (ready 0x0106 t e s = true → exec (.imgStatus (.accepted t)) s
        = .next (finalReply t stOk 0 (imgStatus (drawBytes 100 c).1 (drawBytes 100 c).2) (drawBytes 100 c).2))
    ∧ (ready 0x0202 t e s = true → exec (.prsLaneStatus (.accepted t)) s = .next (finalReply t stOk 0 (laneStatus c) c))
    ∧ (ready 0x0301 t e s = true → exec (.fwlStatus (.accepted t)) s = .next (finalReply t stOk 0 (fwlStatus c) c))
    ∧ (ready 0x0302 t e s = true →
        exec (.fwlConnList (.accepted t)) s = .next (finalReply t stOk 0 (connList (fieldLe p 0 4) (fieldLe p 4 2) c) c))
    ∧ (ready 0x0401 t e s = true → exec (.bsnStatus (.accepted t)) s = .next (finalReply t stOk 0 (bsnStatus c) c))
    ∧ (ready 0x0501 t e s = true → exec (.egrStatus (.accepted t)) s = .next (finalReply t stOk 0
        (if byteAt p 0 = 0 then egrPortStatus (byteAt p 1) c else egrStreamStatus (fieldLe p 2 2) c) c))
    ∧ (ready 0x0502 t e s = true →
        exec (.egrFrerStatus (.accepted t)) s = .next (finalReply t stOk 0 (frerStatus (fieldLe p 0 2) (byteAt p 2) c) c))
    ∧ (ready 0x0601 t e s = true → exec (.timeStatus (.accepted t)) s = .next (finalReply t stOk 0 (timeStatus (onGrid c)) c))
    ∧ (ready 0x0804 t e s = true → exec (.msecSaStatus (.accepted t)) s = .next (finalReply t stOk 0 (saStatus p c) c))
    ∧ (ready 0x0A02 t e s = true → exec (.wakeStatus (.accepted t)) s = .next (finalReply t stOk 0 (wakeStatus c) c))
    ∧ (ready 0x0B07 t e s = true → exec (.updStatus (.accepted t)) s = .next (finalReply t stOk 0 (updStatus c) c))
    ∧ (ready 0x0C01 t e s = true → exec (.pairStatus (.accepted t)) s = .next (finalReply t stOk 0 (pairStatus c) c))
    ∧ (ready 0x0D02 t e s = true → exec (.keySlotInfo (.accepted t)) s = .next (finalReply t stOk 0 (slotInfo (byteAt p 0) c) c))
    ∧ (ready 0x0F01 t e s = true → exec (.evrRead (.accepted t)) s = .next (finalReply t stOk 0
        (leBytes 4 c.evr.lastSeq ++ leBytes 4 c.evr.firstSeq ++ leBytes 4 c.bkp.unrecorded
          ++ [BitVec.ofNat 8 (b2n c.evr.full), 0, 0, 0] ++ readRecords (fieldLe p 0 4) (fieldLe p 4 2) c) c)))
  ∧ (∀ (t : Word16) (e : InFlight) (s : State),
    let c := committed t s
    let x := byteAt (reqAt e).payload 0
    (ready 0x0701 t e s = true → x = 0xFF →
        exec (.legStatus (.accepted t)) s = .next (finalReply t stOk 0 (engineStatus c) c))
    ∧ (ready 0x0701 t e s = true → x ≠ 0xFF → ¬(isLin x = true ∧ legAuto c = true) →
        exec (.legStatus (.accepted t)) s = .next (finalReply t stOk 0 (channelStatus x (nominalRate c x) c) c))
    ∧ (ready 0x0701 t e s = true → x ≠ 0xFF → isLin x = true → legAuto c = true →
        exec (.legStatus (.accepted t)) s
          = .next (finalReply t stOk 0 (channelStatus x (drawNat c).1 (drawNat c).2) (drawNat c).2))
    ∧ (ready 0x0801 t e s = true →
        exec (.portStatus (.accepted t)) s
          = .next (finalReply t stOk 0 (portStatus x c) c)))

/-- SYS_SET_MODE that may run: RECOVERY sets the request flag, answers, and asserts its source with reach L1; on the ACTIVE of a
working pair SAFE and AUTONOMOUS wait for their sync point; elsewhere SAFE is entered and answered, and AUTONOMOUS waits for the
next cycle boundary; one that may no longer run answers WRONG_MODE (R33–R35, R376). SYS_SET_AUTH_POLICY stores the policy its
payload names (R47, log 7), where acceptance has found that it names one. Completes: sysSetMode, sysSetAuthPolicy.
PAIR_SWITCHOVER on the ACTIVE of a working pair asks the peer for its role and waits; a second one answers BUSY (R392).
Completes: pairSwitchover. The layout of frame contents on ML is the model's (log 29). -/
def Obligations.ModeAndRoleCommands : Prop :=
  (∀ (t : Word16) (e : InFlight) (s : State),
    let c := committed t s
    let r := reqAt e
    (ready 0x0010 t e s = true →
        (setModeRuns (modeTarget r) s = false → exec (.sysSetMode (.accepted t)) s = .next (finalReply t stWrongMode 0 [] s))
        ∧ (setModeRuns (modeTarget r) s = true → modeTarget r = 3 → exec (.sysSetMode (.accepted t)) s
            = .next (assertSource 12 (finalReply t stOk 0 [] { c with sys := { c.sys with recoveryRequest := true } })))
        ∧ (setModeRuns (modeTarget r) s = true → modeTarget r ≠ 3 → relays c = true → r.instant = none →
            exec (.sysSetMode (.accepted t)) s = .next (awaitSync t c))
        ∧ (setModeRuns (modeTarget r) s = true → modeTarget r = 7 → relays c = false → r.instant = none →
            exec (.sysSetMode (.accepted t)) s = .next (finalReply t stOk 0 [] (enterSafe c)))
        ∧ (setModeRuns (modeTarget r) s = true → modeTarget r = 4 → relays c = false → r.instant = none →
            exec (.sysSetMode (.accepted t)) s
              = .next { c with sys := { c.sys with autonomousTag := some t, autonomousAt := nextBoundary 0 c } }))
    ∧ (ready 0x0020 t e s = true →
        (∀ (w2 : BitVec 3) (relax : Bool), Config.authPolicyOf r.payload = some (w2, relax) → exec (.sysSetAuthPolicy (.accepted t)) s
          = .next (finalReply t stOk 0 [] { c with cmd := { c.cmd with policy := { w2Required := w2, w1Relaxed := relax } } }))
        ∧ (Config.authPolicyOf r.payload = none → exec (.sysSetAuthPolicy (.accepted t)) s = .next c)))
  ∧ (∀ (t : Word16) (e : InFlight) (s : State), ready 0x0C02 t e s = true →
    let c := committed t s
    (s.pair.switchTag = none → exec (.pairSwitchover (.accepted t)) s
        = .next (emit (.ml 7 [1]) { c with pair := { c.pair with switchTag := some t, roleRequested := false } }))
      ∧ (s.pair.switchTag.isSome = true → exec (.pairSwitchover (.accepted t)) s = .next (finalReply t stBusy 0 [] s)))

/-- The staging commands, where their checks pass, on this device and on the peer: IMG_BEGIN opens the sender's session on the
inactive bank, keeping the marks of what a transfer of the same length has written there and releasing a staged image; IMG_CHUNK
writes and marks its data; IMG_VERIFY marks a container that passes every check or answers the first that fails; IMG_STAGE marks
it staged and loads the shadow banks (R72–R75). A check that fails is answered as every opcode answers it. Completes: imgBegin,
imgChunk, imgVerify, imgStage. Free values: log 1. -/
def Obligations.StagingCommands : Prop :=
  ∀ (t : Word16) (e : InFlight) (s : State),
    let c := committed t s
    let r := reqAt e
    let b := inactiveBank c
    let len := fieldLe r.payload 0 4
    (ready 0x0101 t e s = true → imgBeginOp.checks r s = none → imgTarget 4 r = 0 →
        ∃ u : State, exec (.imgBegin (.accepted t)) s = .next (finalReply t stOk 0 [] u)
          ∧ u = { c with img := u.img, lanes := u.lanes }
          ∧ u.img.session = some
              { owner := r.transport, bank := b, len := len, verified := false, staged := false
                written := if Tab.get c.img.lens b 0 = len then Tab.get c.img.ranges b [] else [] }
          ∧ u.img.banks = c.img.banks ∧ u.img.shadow = none ∧ u.img.peerSession = c.img.peerSession
          ∧ u.lanes = (if c.img.shadow.isSome = true then (releaseOther c).lanes else c.lanes))
    ∧ (ready 0x0101 t e s = true → imgBeginOp.checks r s = none → imgTarget 4 r ≠ 0 →
        ∃ w : List (Nat × Nat), exec (.imgBegin (.accepted t)) s = .next (finalReply t stOk 0 []
          { c with img := { c.img with
            peerSession := some { owner := r.transport, bank := 0, len := len, written := w, verified := false, staged := false } } }))
    ∧ (∀ x : ImgSession, ready 0x0102 t e s = true → imgChunkOp.checks r s = none → imgTarget 4 r = 0 → c.img.session = some x →
        fieldLe r.payload 0 4 + (r.payload.length - 8) ≤ 2097152 →
        ∃ u : State, exec (.imgChunk (.accepted t)) s = .next (finalReply t stOk 0 [] u)
          ∧ u = { c with img := u.img }
          ∧ ∀ a : Nat, Mem.read (imgBank u x.bank) a
              = if fieldLe r.payload 0 4 ≤ a ∧ a < fieldLe r.payload 0 4 + (r.payload.length - 8)
                then r.payload.getD (8 + (a - fieldLe r.payload 0 4)) 0 else Mem.read (imgBank c x.bank) a)
    ∧ (∀ x : ImgSession, ready 0x0102 t e s = true → imgChunkOp.checks r s = none → imgTarget 4 r ≠ 0 → c.img.peerSession = some x →
        fieldLe r.payload 0 4 + (r.payload.length - 8) ≤ 2097152 →
        ∃ u : State, exec (.imgChunk (.accepted t)) s = .next (finalReply t stOk 0 [] u)
          ∧ u = { c with img := u.img } ∧ u.img.banks = c.img.banks ∧ u.img.session = c.img.session
          ∧ ∀ a : Nat, Mem.read u.img.peerBank a
              = if fieldLe r.payload 0 4 ≤ a ∧ a < fieldLe r.payload 0 4 + (r.payload.length - 8)
                then r.payload.getD (8 + (a - fieldLe r.payload 0 4)) 0 else Mem.read c.img.peerBank a)
    ∧ (∀ x : ImgSession, ready 0x0103 t e s = true → imgVerifyOp.checks r s = none → imgTarget 0 r = 0 → c.img.session = some x →
        (∀ i : RunImage, verifyOwn x c = .ok i → exec (.imgVerify (.accepted t)) s
          = .next (finalReply t stOk 0 (verifyResult i.digest 0 c.img.pace (paceThreshold i))
              (noteCert i { c with img := { c.img with session := some { x with verified := true } } })))
        ∧ (∀ f : VerifyFailure, verifyOwn x c = .error f → exec (.imgVerify (.accepted t)) s
          = .next (finalReply t f.status f.detail (failedResult (sessionBytes x c) f c.img.pace c).1
              (failedResult (sessionBytes x c) f c.img.pace c).2)))
    ∧ (∀ x : ImgSession, ready 0x0103 t e s = true → imgVerifyOp.checks r s = none → imgTarget 0 r ≠ 0 → c.img.peerSession = some x →
        exec (.imgVerify (.accepted t)) s = .next (imgVerifyPeer r x c))
    ∧ (∀ x : ImgSession, ready 0x0104 t e s = true → stageChecks r s = none → imgTarget 0 r = 0 → c.img.session = some x →
        let i := imageOf (sessionBytes x c)
        exec (.imgStage (.accepted t)) s = .next (finalReply t stOk 0 []
          (loadOther (bankOf (some i)) { c with img := { c.img with session := some { x with staged := true }, shadow := some i } })))
    ∧ (∀ x : ImgSession, ready 0x0104 t e s = true → stageChecks r s = none → imgTarget 0 r ≠ 0 → c.img.peerSession = some x →
        exec (.imgStage (.accepted t)) s = .next (finalReply t stOk 0 []
          { c with img := { c.img with peerSession := some { x with staged := true } }, freeCtr := c.freeCtr + 1 }))

/-- An IMG_ACTIVATE whose turn has come is armed, after the interim reply its NOTIFY asks for: the activation waits for its
instant and a wake request is placed; while another activation or a patch waits it answers BUSY. A patch that passes its checks
is journalled, logged and pending; a rule bank swap rebuilds the other bank and waits for its cycle boundary; on the ACTIVE of a
working pair both first wait for their sync point; a failing check is answered (R78, R79, R84, R85, R118). Completes:
imgActivate, imgPatch, prsBankSwap. -/
def Obligations.ArmingCommands : Prop :=
  ∀ (t : Word16) (e : InFlight) (s : State),
    let c := committed t s
    let r := reqAt e
    (∀ i : Int, findTag s t = some e → e.opcode = 0x0105 → e.phase = .waiting → clusterServes s = true → mayBegin e s = true →
        isDryrun e.packet = false → isAtTime e.packet = false → e.instant = some i →
        (imageBusy s = false →
          let x := updTag t (fun x => { x with phase := .armed }) (interimReply e s)
          exec (.imgActivate (.accepted t)) s = .next (wakeRequest 0 { x with img := { x.img with
            armed := some (t, timeOf (fit 12 (r.payload.take 10))) } }))
        ∧ (imageBusy s = true →
          exec (.imgActivate (.accepted t)) s = .next (finalReply t stBusy 0 [] (interimReply e s))))
    ∧ (ready 0x0110 t e s = true →
        (patchChecks r s = none →
          let x := commitPatch r (some t) c
          exec (.imgPatch (.accepted t)) s = .next (if relays x then awaitSync t x else patchEffect r x))
        ∧ ∀ st dt : Nat, patchChecks r s = some (st, dt) →
          exec (.imgPatch (.accepted t)) s = .next (finalReply t st dt [] (imgPatchOp.onFail r s)))
    ∧ (ready 0x0201 t e s = true →
        (imageBusy s = true → exec (.prsBankSwap (.accepted t)) s = .next (finalReply t stBusy 0 [] s))
        ∧ (imageBusy s = false → s.lanes.other ≠ 0 →
            exec (.prsBankSwap (.accepted t)) s = .next (finalReply t stBusyDraining 0 [] s))
        ∧ (imageBusy s = false → s.lanes.other = 0 →
            ∃ (u : State) (i : Int), u = { rebuildBank c with lanes := { (rebuildBank c).lanes with swap := some (t, i) } }
              ∧ u.lanes.other = 2 ∧ exec (.prsBankSwap (.accepted t)) s = .next (if relays u then awaitSync t u else u)))

/-- FWL_CONN_FLUSH journals the flush, removes the entries in scope and tells their number; the entries out of scope stay; on
the ACTIVE of a working pair it first waits for its sync point, and a closed recorder answers NO_RESOURCES (R138, R145, R391).
Completes: fwlConnFlush. TIME_RESTEP writes its record first and then steps its domain, telling the step; a first lock of the
same period is overtaken, and a closed recorder answers NO_RESOURCES (R221, R226). Completes: timeRestep. -/
def Obligations.FlushAndRestepCommands : Prop :=
  (∀ (t : Word16) (e : InFlight) (s : State),
    let c := committed t s
    let r := reqAt e
    ready 0x0303 t e s = true → r.instant = none →
    (recorderClosed 8 s = false → relays (journalFlush r c) = false →
      exec (.fwlConnFlush (.accepted t)) s = .next (connFlush r (journalFlush r c))
        ∧ (connFlush r (journalFlush r c)).fwl.conns = s.fwl.conns.filter (fun x => !inFlushScope r x.1 x.2))
    ∧ (recorderClosed 8 s = false → relays (journalFlush r c) = true →
      exec (.fwlConnFlush (.accepted t)) s = .next (awaitSync t (journalFlush r c)))
    ∧ (recorderClosed 8 s = true → exec (.fwlConnFlush (.accepted t)) s = .next (finalReply t stNoResources 0 [] (journalFlush r s))))
  ∧ (∀ (t : Word16) (e : InFlight) (s : State),
    let c := committed t s
    let r := reqAt e
    let x := overtakeLock (byteAt r.payload 0) c
    let d := restepDelta { r with instant := none } x
    ready 0x0602 t e s = true → r.instant = none →
    (recorderClosed restepLen s = false → e.aux = [] →
      exec (.timeRestep (.accepted t)) s
        = .next (finalReply t stOk 0 (stepBytes d) (stepDomain (byteAt r.payload 0) d (writeRecord 0x0603 (restepBody r d) x))))
    ∧ (recorderClosed restepLen s = true →
      exec (.timeRestep (.accepted t)) s = .next (finalReply t stNoResources 0 [] (timeRestepOp.onFail r s))))

/-- The commands of legacy channels and ports: LEG_CHANNEL_CTL recovers a channel in bus-off, stops one that runs (its STB goes
high at once where nothing is on its bus) or starts a stopped one, and on a channel in another state answers OK and changes
nothing; PORT_LINK_CTL takes a port down, brings it up, drops its coefficients and retrains it, or drives its MDIO, putting the
transaction out (what a PHY answers, or that none does, is a free number); MSEC_SA_INSTALL installs or removes a transmit or a
receive SA; each answers OK (R276, R289, R295). Completes: legChannelCtl, portLinkCtl, msecSaInstall. Free values: log 1. -/
def Obligations.ChannelAndPortCommands : Prop :=
  ∀ (t : Word16) (e : InFlight) (s : State),
    let c := committed t s
    let r := reqAt e
    let p := byteAt r.payload 0
    let op := byteAt r.payload 1
    let ch := chOf c p
    (ready 0x0702 t e s = true → channelCtlHeld s e.packet = false →
        (op = 0 → ch.st = 3 →
          exec (.legChannelCtl (.accepted t)) s = .next (finalReply t stOk 0 [] (setCh p { ch with recovering := true } c)))
        ∧ (op = 1 → ch.st ≠ 0 → ch.st ≠ 6 →
            exec (.legChannelCtl (.accepted t)) s = .next (finalReply t stOk 0 []
              (if ch.onBus = none then setStb p true (channelDown p 6 c) else channelDown p 6 c)))
        ∧ (2 ≤ op → ch.st = 6 →
            exec (.legChannelCtl (.accepted t)) s = .next (finalReply t stOk 0 [] (startChannel p c)))
        ∧ ((op = 0 ∧ ch.st ≠ 3) ∨ (op = 1 ∧ (ch.st = 0 ∨ ch.st = 6)) ∨ (2 ≤ op ∧ ch.st ≠ 6) →
            exec (.legChannelCtl (.accepted t)) s = .next (finalReply t stOk 0 [] c)))
    ∧ (ready 0x0802 t e s = true → linkCtlHeld s e.packet = false →
        let reg := fieldLe r.payload 4 2 * 65536 + fieldLe r.payload 6 2
        let x := emit (.mdio p (portCfg c p).mdioAddr reg none) c
        (op = 0 → exec (.portLinkCtl (.accepted t)) s = .next (finalReply t stOk 0 [] (takeDown p .heldDown c)))
        ∧ (op = 1 → exec (.portLinkCtl (.accepted t)) s = .next (finalReply t stOk 0 [] (bringUp p c)))
        ∧ (op = 2 → exec (.portLinkCtl (.accepted t)) s
            = .next (finalReply t stOk 0 [] (bringUp p (setPort p (dropCoeffs (port c p)) c))))
        ∧ (op = 3 → exec (.portLinkCtl (.accepted t)) s
            = .next (if (drawNat x).1 % 65537 = 65536 then finalReply t stOk 0 [0xFF, 0xFF] (noTurnaround p (drawNat x).2)
              else finalReply t stOk 0 (leBytes 2 ((drawNat x).1 % 65537)) (drawNat x).2))
        ∧ (4 ≤ op → exec (.portLinkCtl (.accepted t)) s
            = .next (finalReply t stOk 0 [] (emit (.mdio p (portCfg c p).mdioAddr reg (some (fieldLe r.payload 8 2))) c))))
    ∧ (ready 0x0803 t e s = true →
        let an := byteAt r.payload 2
        let x := port c p
        let remove := bit (byteAt r.payload 3) 1
        (op = 0 → remove = false → exec (.msecSaInstall (.accepted t)) s = .next (finalReply t stOk 0 [] (setPort p { x with
            txSas := Tab.set x.txSas an (saOf r.payload c), txAn := if bit (byteAt r.payload 3) 0 then some an else x.txAn } c)))
        ∧ (op = 0 → remove = true → exec (.msecSaInstall (.accepted t)) s = .next (finalReply t stOk 0 [] (setPort p { x with
            txSas := Tab.del x.txSas an, txAn := if x.txAn = some an then none else x.txAn } c)))
        ∧ (op ≠ 0 → remove = false → exec (.msecSaInstall (.accepted t)) s = .next (finalReply t stOk 0 [] (setPort p { x with
            rxSas := Tab.set x.rxSas (rxKey r.payload) (saOf r.payload c) } c)))
        ∧ (op ≠ 0 → remove = true → exec (.msecSaInstall (.accepted t)) s = .next (finalReply t stOk 0 [] (setPort p { x with
            rxSas := Tab.del x.rxSas (rxKey r.payload) } c))))

/-- HST_RING_CTL gives a disabled ring its owner and class, PB_WINDOW_SET sets a window that no open transaction uses, each
answered OK; an enabled ring and a busy window answer BUSY and stay (R302, R317). Completes: hstRingCtl, pbWindowSet. DBG_ACCESS
that the peer's lock does not hold back: halt answers and stops the cluster, resume starts it and answers, another operation
answers OK; an access of this device that the filter refuses is DENIED and noted, one that it passes is performed at its
address, and an access of the peer is put to the bridge; the request buffer is then free (R383, R384). Completes: dbgAccess. -/
def Obligations.HostAndDebugCommands : Prop :=
  (∀ (t : Word16) (e : InFlight) (s : State),
    let c := committed t s
    let p := (reqAt e).payload
    let ring := hstRing s (byteAt p 1 == 1) (byteAt p 0)
    (ready 0x0901 t e s = true → ring.enable = false →
        exec (.hstRingCtl (.accepted t)) s = .next (finalReply t stOk 0 [] (setHstRing (byteAt p 1 == 1) (byteAt p 0)
          { ring with owner := if byteAt p 2 = 0xFF then none else some (byteAt p 2), sel := byteAt p 3 } c)))
    ∧ (ready 0x0901 t e s = true → ring.enable = true →
        exec (.hstRingCtl (.accepted t)) s = .next (finalReply t stBusy 0 [] s))
    ∧ (ready 0x0902 t e s = true → windowBusy (byteAt p 0) s = false →
        exec (.pbWindowSet (.accepted t)) s = .next (finalReply t stOk 0 []
          { c with pb := { c.pb with windows := Tab.set c.pb.windows (byteAt p 0) (windowOf p) } }))
    ∧ (ready 0x0902 t e s = true → windowBusy (byteAt p 0) s = true →
        exec (.pbWindowSet (.accepted t)) s = .next (finalReply t stBusy 0 [] s)))
  ∧ (∀ (t : Word16) (e : InFlight) (s : State), ready 0x7F01 t e s = true → dbgLocked e.packet s = false →
    let c := committed t s
    let r := reqAt e
    let region := Config.internalMap (dbgAddr r)
    let refused := filterRefuses region r.world (dbgOp r == 1) true s
    (dbgOp r = 2 → exec (.dbgAccess (.accepted t)) s = .next (catchUp (haltCluster (finalReply t stOk 0 [] c))))
      ∧ (dbgOp r = 3 → exec (.dbgAccess (.accepted t)) s = .next (catchUp (finalReply t stOk 0 [] (resumeCluster c))))
      ∧ (3 < dbgOp r → exec (.dbgAccess (.accepted t)) s = .next (catchUp (finalReply t stOk 0 [] c)))
      ∧ (dbgOp r < 2 → dbgTarget r = 0 → refused = true →
          exec (.dbgAccess (.accepted t)) s = .next (catchUp (finalReply t stDenied 0 [] (noteDenied region s))))
      ∧ (dbgOp r < 2 → dbgTarget r ≠ 1 → ¬(dbgTarget r = 0 ∧ refused = true) →
          exec (.dbgAccess (.accepted t)) s = .next (catchUp (dbgLocal r c)))
      ∧ (dbgOp r < 2 → dbgTarget r = 1 → exec (.dbgAccess (.accepted t)) s = .next (catchUp (dbgPeer r c))))

/-- WAKE_SLEEP_REQUEST in AWAKE with no stay-awake condition begins a round and waits for its end; in another ring state, or
where a condition holds, it answers BUSY. WAKE_SEGMENT wakes, sleeps, holds or releases a segment, or holds or releases the
device, with outcome 2 where there is nothing to do; a held segment answers BUSY to sleep; on the ACTIVE of a working pair it
first waits for its sync point (R345, R346, R391). Completes: wakeSleepRequest, wakeSegment. -/
def Obligations.WakeCommands : Prop :=
  ∀ (t : Word16) (e : InFlight) (s : State),
    let c := committed t s
    let r := reqAt e
    (ready 0x0A01 t e s = true →
        (s.wake.ring = .awake → stayAwake s = none →
          exec (.wakeSleepRequest (.accepted t)) s = .next (initiate (updWake (fun w => { w with tag := some t }) c)))
        ∧ (s.wake.ring ≠ .awake → exec (.wakeSleepRequest (.accepted t)) s = .next (finalReply t stBusy 0 [] s))
        ∧ (s.wake.ring = .awake → (stayAwake s).isSome = true →
            exec (.wakeSleepRequest (.accepted t)) s = .next (finalReply t stBusy 0x0A01 [] s)))
    ∧ (ready 0x0A03 t e s = true → r.instant = none → relays c = true → ¬(wsAction r = 1 ∧ segHeld s (wsSegment r) = true) →
        exec (.wakeSegment (.accepted t)) s = .next (awaitSync t c))
    ∧ (ready 0x0A03 t e s = true → r.instant = none → relays c = false →
        let i := wsSegment r
        let g := segOf c i
        let hold := if wsAction r = 2 then some (c.clk + wsHold r * 1000000000) else none
        (wsAction r = 0 → g.st = .awake →
          exec (.wakeSegment (.accepted t)) s = .next (finalReply t stOk 0 (wsResult 2) c))
        ∧ (wsAction r = 0 → g.st ≠ .awake →
            exec (.wakeSegment (.accepted t)) s = .next (finalReply t stOk 0 (wsResult 0) (wakeSegment i c)))
        ∧ (wsAction r = 1 → segHeld s i = true → exec (.wakeSegment (.accepted t)) s = .next (finalReply t stBusy 0 [] s))
        ∧ (wsAction r = 1 → segHeld s i = false → g.st = .awake →
            exec (.wakeSegment (.accepted t)) s = .next (segBegin i (some t) c))
        ∧ (wsAction r = 1 → segHeld s i = false → g.st ≠ .awake →
            exec (.wakeSegment (.accepted t)) s = .next (finalReply t stOk 0 (wsResult 2) c))
        ∧ (2 ≤ wsAction r → i ≠ 0xFF →
            exec (.wakeSegment (.accepted t)) s = .next (finalReply t stOk 0 (wsResult 0) (setSeg i { g with hold := hold } c)))
        ∧ (2 ≤ wsAction r → i = 0xFF →
            let x := updWake (fun w => { w with hold := hold, idleFrom := c.clk }) c
            exec (.wakeSegment (.accepted t)) s
              = .next (finalReply t stOk 0 (wsResult 0) (if wsAction r = 2 then wakeRequest 0 x else x))))

/-- The update commands where their checks pass, on this device and on the peer: UPD_BEGIN opens a session and erases what it
claims (in RECOVERY over two good banks it reverts a trial), UPD_CHUNK programs its data, UPD_VERIFY judges the manifest and
answers OK or the first failure, UPD_STAGE and UPD_ACTIVATE advance the session, UPD_ACTIVATE with an immediate reset where it
is asked or in RECOVERY, UPD_CONFIRM makes the trial bank ACTIVE (R369–R373). Completes: updBegin, updChunk, updVerify,
updStage, updActivate, updConfirm. -/
def Obligations.UpdateCommands : Prop :=
  ∀ (t : Word16) (e : InFlight) (s : State),
    let c := committed t s
    let r := reqAt e
    let len := fieldLe r.payload 0 4
    let stop := len + (r.payload.length - 8)
    (ready 0x0B01 t e s = true → updBeginOp.checks r s = none →
        exec (.updBegin (.accepted t)) s = .next (finalReply t stOk 0 [] (updBegin r c)))
    ∧ (ready 0x0B01 t e s = true → updBeginOp.checks r s = none → byteAt r.payload 4 = 0 → c.sys.mode ≠ .recovery →
        exec (.updBegin (.accepted t)) s = .next (finalReply t stOk 0 []
          (wakeRequest 0 { c with upd := { c.upd with
            session := some { owner := r.transport, bank := 1 - (bankPointer c).active, len := len, written := [], state := 1 }
            nor := Tab.set c.upd.nor (1 - (bankPointer c).active) (eraseBank (norBank c (1 - (bankPointer c).active)) len) } })))
    ∧ (∀ x : UpdSession, ready 0x0B02 t e s = true → updChunkOp.checks r s = none → byteAt r.payload 4 = 0 → c.upd.session = some x →
        ∃ u : State, exec (.updChunk (.accepted t)) s = .next (finalReply t stOk 0 [] u) ∧ u = { c with upd := u.upd }
          ∧ ∀ a : Nat, Mem.read (norBank u x.bank) a
              = if len ≤ a ∧ a < stop then r.payload.getD (8 + (a - len)) 0 else Mem.read (norBank c x.bank) a)
    ∧ (∀ x : UpdSession, ready 0x0B02 t e s = true → updChunkOp.checks r s = none → byteAt r.payload 4 ≠ 0 →
        c.upd.peerSession = some x →
        ∃ u : State, exec (.updChunk (.accepted t)) s = .next (finalReply t stOk 0 [] u) ∧ u = { c with upd := u.upd }
          ∧ u.upd.nor = c.upd.nor ∧ u.upd.session = c.upd.session
          ∧ ∀ a : Nat, Mem.read u.upd.peerNor a
              = if len ≤ a ∧ a < stop then r.payload.getD (8 + (a - len)) 0 else Mem.read c.upd.peerNor a)
    ∧ (∀ x : UpdSession, ready 0x0B03 t e s = true → updVerifyOp.checks r s = none → byteAt r.payload 0 = 0 → c.upd.session = some x →
        (∀ m : Manifest, judgeManifest (norBank c x.bank) x.len c = .ok m → exec (.updVerify (.accepted t)) s
          = .next (finalReply t stOk 0 (updResult m.digest 0xFFFF)
              { c with upd := { c.upd with session := some { x with state := Nat.max 2 x.state } } }))
        ∧ (∀ f : ManifestFailure, judgeManifest (norBank c x.bank) x.len c = .error f → exec (.updVerify (.accepted t)) s
          = .next (finalReply t f.status f.detail (failedUpdResult (norBank c x.bank) f c).1 (failedUpdResult (norBank c x.bank) f c).2)))
    ∧ (∀ x : UpdSession, ready 0x0B03 t e s = true → updVerifyOp.checks r s = none → byteAt r.payload 0 ≠ 0 →
        c.upd.peerSession = some x → exec (.updVerify (.accepted t)) s = .next (updVerifyPeer r x c))
    ∧ (ready 0x0B04 t e s = true → updStageOp.checks r s = none →
        let g := byteAt r.payload 0
        let y := { c with wake := { c.wake with idleFrom := c.clk } }
        exec (.updStage (.accepted t)) s = .next (finalReply t stOk 0 []
          (if g = 0 then { y with upd := { y.upd with session := c.upd.session.map (fun x => { x with state := 3 }) } }
            else { y with upd := { y.upd with peerSession := c.upd.peerSession.map (fun x => { x with state := 3 }) } })))
    ∧ (∀ x : UpdSession, ready 0x0B05 t e s = true → updActivateOp.checks r s = none → byteAt r.payload 0 = 0 → c.upd.session = some x →
        let a := updActivate x.bank c
        let y := finalReply t stOk 0 [] { a with upd := { a.upd with session := some { x with state := 4 } } }
        exec (.updActivate (.accepted t)) s = .next (if byteAt r.payload 1 = 1 ∨ y.sys.mode = .recovery
            then { y with rst := { y.rst with updReset := true, resetFrom := y.clk } } else y)
          ∧ (c.sys.mode ≠ .recovery → (bankPointer a).trial = some x.bank ∧ (bankPointer a).trialCount = 0))
    ∧ (∀ x : UpdSession, ready 0x0B05 t e s = true → updActivateOp.checks r s = none → byteAt r.payload 0 ≠ 0 →
        c.upd.peerSession = some x → exec (.updActivate (.accepted t)) s
          = .next (finalReply t stOk 0 [] { c with upd := { c.upd with peerSession := some { x with state := 4 } } }))
    ∧ (ready 0x0B06 t e s = true →
        ∃ u : State, exec (.updConfirm (.accepted t)) s = .next (finalReply t stOk 0 [] u)
          ∧ (bankPointer u).active = c.upd.booted ∧ (bankPointer u).trial = none ∧ u.upd.bootedTrial = false)

/-- RST_BLOCK of an idle block asserts its reset, which RST_BLOCK_RELEASE ends with the final reply, and answers NOT_IDLE
otherwise; RST_GLOBAL asserts its source with the reach it names (R357, R358). Completes: rstBlock, rstGlobal, rstBlockRelease.
-/
def Obligations.ResetCommands : Prop :=
  (∀ (t : Word16) (e : InFlight) (s : State),
    let c := committed t s
    let r := reqAt e
    (ready 0x0B10 t e s = true → blockIdle (rbKind r) (rbIndex r) s = true →
        exec (.rstBlock (.accepted t)) s = .next (resetBlock (rbKind r) (rbIndex r)
          { c with rst := { c.rst with blocks := c.rst.blocks ++ [(rbKind r, rbIndex r, t)] } }))
    ∧ (ready 0x0B10 t e s = true → blockIdle (rbKind r) (rbIndex r) s = false →
        exec (.rstBlock (.accepted t)) s = .next (finalReply t stNotIdle 0 [] s))
    ∧ (ready 0x0B11 t e s = true →
        exec (.rstGlobal (.accepted t)) s = .next (assertGlobal (byteAt r.payload 0)
          { c with rst := { c.rst with globalTags := c.rst.globalTags ++ [t] } })))
  ∧ (∀ (k i : Nat) (t : Word16) (rest : List (Nat × Nat × Word16)) (s : State), s.rst.blocks = (k, i, t) :: rest →
      exec .rstBlockRelease s = .next (finalReply t stOk 0 [] { s with rst := { s.rst with blocks := rest } }))
  ∧ ∀ s : State, s.rst.blocks = [] → exec .rstBlockRelease s = .next s

/-- Keys and attestation: KEY_DERIVE whose checks pass writes the slot or the chain it names, or revokes; ATTEST_QUOTE captures
and signs a body that its transport keeps with the chain of that instant, answers a further part of it, or BUSY while the
identity key is not ready; LC_TRANSITION blows the cell of its transition and orders a reset (R412, R419, R422, R423).
Completes: keyDerive, attestQuote, lcTransition. Free values: log 1. -/
def Obligations.KeyCommands : Prop :=
  ∀ (t : Word16) (e : InFlight) (s : State),
    let c := committed t s
    let r := reqAt e
    let n := kdSlot r
    let data := kdData r
    (ready 0x0D01 t e s = true →
        (∀ st dt : Nat, kdChecks r s = some (st, dt) → exec (.keyDerive (.accepted t)) s = .next (finalReply t st dt [] s))
        ∧ (kdChecks r s = none → kdOp r = 4 → exec (.keyDerive (.accepted t)) s = .next (finalReply t stOk 0 []
            (dropMarks n (setSlot n { generation := (keySlot c n).generation + 1 } c))))
        ∧ (kdChecks r s = none → kdOp r = 5 → exec (.keyDerive (.accepted t)) s = .next (finalReply t stOk 0 []
            { c with keys := if fieldLe data 0 4 = 0 then { c.keys with chainLen := fieldLe data 4 4, chain := data.drop 8 }
                else { c.keys with chain := patchAt c.keys.chain (fieldLe data 0 4) (data.drop 8) } }))
        ∧ (kdChecks r s = none → kdOp r ≠ 4 → kdOp r ≠ 5 → exec (.keyDerive (.accepted t)) s = .next (finalReply t stOk 0 []
            (dropMarks n (setSlot n { slotOfRecord (kdAttr r) with
              material := (kdKey r c).getD [], generation := (keySlot c n).generation + 1 } c)))))
    ∧ (ready 0x0D10 t e s = true → byteAt r.payload 0 = 0 → s.keys.identityReady = true →
        ∃ (u : State) (sig : Bytes), exec (.attestQuote (.accepted t)) s
            = .next (finalReply t stOk 0 (quoteBody (slice r.payload 4 32) c ++ sig) u)
          ∧ sig.length = 512 ∧ (Tab.get u.keys.quotes r.transport {}).body = quoteBody (slice r.payload 4 32) c
          ∧ (Tab.get u.keys.quotes r.transport {}).chain = fit c.keys.chainLen c.keys.chain
          ∧ u = { c with keys := { c.keys with quotes := u.keys.quotes }, freeCtr := u.freeCtr })
    ∧ (ready 0x0D10 t e s = true → byteAt r.payload 0 = 0 → s.keys.identityReady = false →
        exec (.attestQuote (.accepted t)) s = .next (finalReply t stBusy 0 [] s))
    ∧ (ready 0x0D10 t e s = true → byteAt r.payload 0 ≠ 0 → exec (.attestQuote (.accepted t)) s
        = .next (finalReply t stOk 0 ((quotePart (byteAt r.payload 0) r.transport c).getD []) c))
    ∧ (ready 0x0D20 t e s = true → lcTransitionOp.checks r s = none →
        exec (.lcTransition (.accepted t)) s = .next (finalReply t stOk 0 []
          { c with
            otp := if lcTarget r = 4 then { c.otp with retiredCell := 7 }
              else { c.otp with lcCells := c.otp.lcCells.set c.otp.lcCount 7 }
            rst := { c.rst with lcReset := true, resetFrom := c.clk } }))

/-- Counters and recorder: CNT_SELECT writes the selected counters, on the ACTIVE of a working pair after its sync point;
CNT_SNAPSHOT_AT is armed for its instant; EVR_CLEAR draws a nonce or, with a signed statement for the live one, completes an
earlier clear, writes the log descriptor and zeroes the unrecorded count; where its checks fail, the nonce ends and the failure
is answered (R430, R434, R441, R442). Completes: cntSelect, cntSnapshotAt, evrClear. Free values: log 1. -/
def Obligations.CounterAndRecorderCommands : Prop :=
  ∀ (t : Word16) (e : InFlight) (s : State),
    let c := committed t s
    let r := reqAt e
    (ready 0x0E02 t e s = true → relays c = false → r.instant = none →
        exec (.cntSelect (.accepted t)) s = .next (finalReply t stOk 0 [] (selectCounters r c)))
    ∧ (ready 0x0E02 t e s = true → relays c = true → r.instant = none →
        exec (.cntSelect (.accepted t)) s = .next (awaitSync t c))
    ∧ (∀ i : Int, findTag s t = some e → e.opcode = 0x0E01 → e.phase = .waiting → clusterServes s = true → mayBegin e s = true →
        isDryrun e.packet = false → isAtTime e.packet = false → e.instant = some i →
        exec (.cntSnapshotAt (.accepted t)) s = .next (updTag t (fun x => { x with phase := .armed }) (interimReply e s)))
    ∧ (ready 0x0F02 t e s = true → clearOp r = 0 →
        let n := (drawBytes 32 c).1
        exec (.evrClear (.accepted t)) s = .next (finalReply t stOk 0 n
          { c with freeCtr := c.freeCtr + 32, evr := { c.evr with nonce := some (n, c.clk) } }))
    ∧ (ready 0x0F02 t e s = true → clearOp r ≠ 0 →
        (∀ st dt : Nat, clearChecks r s = some (st, dt) → exec (.evrClear (.accepted t)) s
          = .next (finalReply t st dt [] { s with evr := { s.evr with nonce := none } }))
        ∧ (clearChecks r s = none →
          let d := completeClear c
          exec (.evrClear (.accepted t)) s = .next { d with
            evr := { d.evr with nonce := none
                                clearing := some (clearedBody r d, (d.evr.lastSeq + 1) % 2 ^ 32, d.bkp.unrecorded, some t) }
            bkp := { d.bkp with unrecorded := 0 } }))

/-- A write of the submission doorbell moves SQ_TAIL and takes the descriptors fetched, or sets DB_ERR where the index lies
outside the ring; the completion doorbell moves CQ_HEAD and writes held completions, or sets DB_ERR; CMD_RING_CFG stores its
vector and, where nothing is outstanding, its size, enables the ring from its start, or clears ENABLE; the mailbox doorbell
takes the request or notes MB_DB_ERR; the pop port yields its sixteen words with the effect of reading them. Where the PCIe core
is down, or the peer's lock covers the register, none of them changes anything (R48–R52). Completes: cmdSqTailWrite,
cmdCqHeadWrite, cmdRingCfgWrite, cmdMbDbSubmit, mailboxPop. -/
def Obligations.TransportRegistersTakeEffect : Prop :=
  (∀ (f : Fin 2) (tail : Word) (l : List SqFetch) (s : State),
      (pcieUp s = true → lockedDirect 0x114 4 s = false → tail.toNat % 256 < sqEntries (cmdRing s f.val) →
        exec (.cmdSqTailWrite f tail l) s
          = .next (fetchDescriptors f l (setCmdRing f.val { cmdRing s f.val with sqTail := tail.toNat % 256, offered := [] } s)))
      ∧ (pcieUp s = true → lockedDirect 0x114 4 s = false → sqEntries (cmdRing s f.val) ≤ tail.toNat % 256 →
        exec (.cmdSqTailWrite f tail l) s = .next (setCmdRing f.val { cmdRing s f.val with dbErr := true } s))
      ∧ ((pcieUp s = false ∨ lockedDirect 0x114 4 s = true) → exec (.cmdSqTailWrite f tail l) s = .next s))
  ∧ (∀ (f : Fin 2) (h : Word) (s : State),
      (pcieUp s = true → lockedDirect 0x11C 4 s = false → h.toNat % 512 < cqSize (cmdRing s f.val) →
        exec (.cmdCqHeadWrite f h) s = .next (drainCompletions (cmdRing s f.val).held.length f.val
          (setCmdRing f.val { cmdRing s f.val with cqHead := h.toNat % 512 } s)))
      ∧ (pcieUp s = true → lockedDirect 0x11C 4 s = false → cqSize (cmdRing s f.val) ≤ h.toNat % 512 →
        exec (.cmdCqHeadWrite f h) s = .next (setCmdRing f.val { cmdRing s f.val with dbErr := true } s))
      ∧ ((pcieUp s = false ∨ lockedDirect 0x11C 4 s = true) → exec (.cmdCqHeadWrite f h) s = .next s))
  ∧ (∀ (f : Fin 2) (v : Word) (s : State),
      let r := cmdRing s f.val
      let set := { r with msixVec := bits v.toNat 8 6
                          sqSize := if ringActive f.val s = true ∨ 4 < bits v.toNat 0 3 then r.sqSize else bits v.toNat 0 3 }
      (pcieUp s = true → lockedDirect 0x110 4 s = false → bit v.toNat 31 = true → ringActive f.val s = false →
        exec (.cmdRingCfgWrite f v) s = .next (setCmdRing f.val
          { set with enable := true, sqHead := 0, sqTail := 0, cqHead := 0, cqTail := 0, phase := true, offered := [] } s))
      ∧ (pcieUp s = true → lockedDirect 0x110 4 s = false → bit v.toNat 31 = true → ringActive f.val s = true →
        exec (.cmdRingCfgWrite f v) s = .next (setCmdRing f.val set s))
      ∧ (pcieUp s = true → lockedDirect 0x110 4 s = false → bit v.toNat 31 = false →
        exec (.cmdRingCfgWrite f v) s = .next (setCmdRing f.val { set with enable := false, offered := [] } s))
      ∧ ((pcieUp s = false ∨ lockedDirect 0x110 4 s = true) → exec (.cmdRingCfgWrite f v) s = .next s))
  ∧ (∀ (v : Word) (s : State),
      (reaches .xspi 0x140 4 s = true → bit v.toNat 0 = true → s.cmd.reqBusy = false →
        exec (.cmdMbDbSubmit v) s = .next (takeRequest { s with cmd := { s.cmd with reqBusy := true } }))
      ∧ (reaches .xspi 0x140 4 s = true → bit v.toNat 0 = true → s.cmd.reqBusy = true →
        exec (.cmdMbDbSubmit v) s = .next (takeRequest { s with cmd := { s.cmd with mbDbErr := true } }))
      ∧ ((reaches .xspi 0x140 4 s = false ∨ bit v.toNat 0 = false) → exec (.cmdMbDbSubmit v) s = .next s))
  ∧ (∀ s : State,
      (reaches .xspi 0x9000 64 s = true →
        exec .mailboxPop s = .next (emit (.readData .xspi 0x9000 (wordBytes (readWords .xspi 16 0x9000 s).1))
          (readWords .xspi 16 0x9000 s).2))
      ∧ (reaches .xspi 0x9000 64 s = false → exec .mailboxPop s = .next s))

/-- A command that no opcode of Table 2.12 names is answered BAD_OPCODE and nothing else (R57), and a row for one that is named
does nothing; an in-band session with no command in flight ends 60 s after its last command (R55), any other stays; the oldest
posted XSPI write takes effect word by word (R314), where the peer's lock does not cover its registers. Completes:
badOpcodeCommand, sessionIdleExpiry, lbWriteApply. An armed command is handed over 50 us before its instant, and what was handed
over takes effect at its instant, which the local clock has then reached (R61, R63); a command that is not armed is not handed
over, one that was not handed over does not take effect, and a tag that names no command but the peer's activation hands that
over (R79). Completes: timedHandover, atTimeExecute. A row of an instant brings the local clock to it, the model's choice (log
14). -/
def Obligations.TransportAndTimedEvents : Prop :=
  ((∀ (op : Word16) (f : Fin 2) (i mx : Nat) (a : Word64) (p : Packet) (s : State),
      opWorlds op.toNat = none → clusterServes s = true → transportServed (.ring f i mx a) s = true →
      p.length.toNat ≤ 4064 → p.transported = 32 + p.length.toNat → tagTransport p.tag = 1 + f.val → findTag s p.tag = none →
      ∃ k : Bytes, exec (.badOpcodeCommand op (.ring f i mx a) p) s
        = .next (refuseReply (.ring f i mx a) op.toNat p k false stBadOpcode 0 s))
  ∧ (∀ (op : Word16) (p : Packet) (s : State),
      opWorlds op.toNat = none → clusterServes s = true → p.length.toNat ≤ 4064 → p.transported = 32 + p.length.toNat →
      tagTransport p.tag = 0x10 → findTag s p.tag = none →
      ∃ k : Bytes, exec (.badOpcodeCommand op .mailbox p) s = .next (refuseReply .mailbox op.toNat p k false stBadOpcode 0 s))
  ∧ (∀ (op : Word16) (via : Via) (p : Packet) (s : State),
      (opWorlds op.toNat = none → exec (.badOpcodeCommand op via p) s
        = .next (arrive { code := op.toNat, commit := fun _ s => s } via p s))
      ∧ ((opWorlds op.toNat).isSome = true → exec (.badOpcodeCommand op via p) s = .next s))
  ∧ (∀ (n : Fin 16) (s : State),
      (∀ b : Session, s.cmd.sessions.lookup n.val = some b → sessionBusy n.val s = false →
        exec (.sessionIdleExpiry n) s = .next (endSession n.val (reachClock (b.lastActive + 60000000000) s)))
      ∧ (∀ b : Session, s.cmd.sessions.lookup n.val = some b → sessionBusy n.val s = true → exec (.sessionIdleExpiry n) s = .next s)
      ∧ (s.cmd.sessions.lookup n.val = none → exec (.sessionIdleExpiry n) s = .next s))
  ∧ (∀ (a : Nat) (ws : List Word) (rest : List (Nat × List Word)) (s : State), s.hst.xspi.posted = (a, ws) :: rest →
      (lockedDirect a (4 * ws.length) s = false →
        exec .lbWriteApply s = .next (applyWords a ws (setXspi { s.hst.xspi with posted := rest } s)))
      ∧ (lockedDirect a (4 * ws.length) s = true → exec .lbWriteApply s = .next s))
  ∧ (∀ s : State, s.hst.xspi.posted = [] → exec .lbWriteApply s = .next s))
  ∧ ((∀ (t : Word16) (e : InFlight) (s : State), findTag s t = some e →
      (∀ i : Int, e.instant = some i → e.phase = .armed → clusterServes s = true →
        exec (.timedHandover t) s = .next (handOver (meaningOf e.opcode) e (reachW (i - nsVal 50000) s)))
      ∧ ((e.instant = none ∨ e.phase ≠ .armed ∨ clusterServes s = false) → exec (.timedHandover t) s = .next s))
  ∧ (∀ (t : Word16) (s : State), findTag s t = none →
      exec (.timedHandover t) s = .next (if t = peerTag then handOverPeer s else s)
      ∧ exec (.atTimeExecute t) s = .next (executePeerTimed t s))
  ∧ (∀ (t : Word16) (e : InFlight) (i : Int) (s : State), findTag s t = some e → e.instant = some i → e.phase = .committed →
      ownRow e.opcode = false → (meaningOf e.opcode).commitsAtOnce = false →
      exec (.atTimeExecute t) s
        = .next ((meaningOf e.opcode).commit (reqAt e) (updTag t (fun x => { x with instant := none }) (reachW i s))))
  ∧ (∀ (t : Word16) (e : InFlight) (s : State), findTag s t = some e →
      (e.phase ≠ .committed ∨ e.instant = none ∨ ownRow e.opcode = true ∨ (meaningOf e.opcode).commitsAtOnce = true) →
      exec (.atTimeExecute t) s = .next s))

/-- Accesses of the direct window. SYS_SCRATCH takes a write of W1 or W2, and F2 and F3 are refused with WORLD_ERR; F0 writes
every field of INT_ROUTE_n, F1 is refused, and XSPI-H moves field XSPI alone, a write that would change another field of it
being refused with WR_ERR; an event-recorder register refuses every view (WORLD_ERR or WR_ERR), and SAF_WDT_KICK refuses them
too; an offset not on a word boundary is discarded with SIZE_ERR, or ALIGN_ERR through XSPI-H; where the view is not up or the
peer's lock covers the register, nothing changes. TIM_LATCH captures the local clock and W. A read of CNT_OVFw yields its word
and clears it, but for F2 and F3, which read 0; a read of TIM_TSn_POP yields its word and removes the head entry (R298, R299,
R443–R448). Completes: registerWrite, timLatch, cntOvfRead, timTsPop. Writing 1 clears INT_STAT bits, and a source that raises
in the period of the write is set whatever the view and the write; through F2 and F3, in a view that is not up, or under the
peer's lock, the write clears nothing (R298, R445). Completes: intStatClear. -/
def Obligations.RegisterAndIntStatWrites : Prop :=
  ((∀ (v : View) (off : Word16) (w : Word) (s : State), reaches v off.toNat 4 s = false → exec (.registerWrite v off w) s = .next s)
  ∧ (∀ (v : View) (off : Word16) (w : Word) (s : State), reaches v off.toNat 4 s = true → off.toNat % 4 ≠ 0 →
      (∀ f : Nat, viewFn v = some f → exec (.registerWrite v off w) s = .next (setPciFn f { pciFn s f with sizeErr := true } s))
      ∧ (viewFn v = none → exec (.registerWrite v off w) s = .next (setXspi { s.hst.xspi with alignErr := true } s)))
  ∧ (∀ (v : View) (off : Word16) (w : Word) (s : State), reaches v off.toNat 4 s = true → off.toNat % 4 = 0 →
      exec (.registerWrite v off w) s = .next (putWord v off.toNat w s))
  ∧ (∀ (v : View) (w : Word) (s : State), reaches v 0x0018 4 s = true →
      (restricted v = false → exec (.registerWrite v 0x0018 w) s = .next { s with sys := { s.sys with scratch := w } })
      ∧ (restricted v = true → ∃ f : Nat, viewFn v = some f
          ∧ exec (.registerWrite v 0x0018 w) s = .next (setPciFn f { pciFn s f with worldErr := true } s)))
  ∧ (∀ (n : Fin 11) (w : Word) (s : State),
      let off : Word16 := BitVec.ofNat 16 (0x440 + 4 * n.val)
      let put := fun (x : Nat) => { s with intr := { s.intr with routes := Tab.set s.intr.routes n.val (BitVec.ofNat 32 x) } }
      (reaches .f0 off.toNat 4 s = true → exec (.registerWrite .f0 off w) s = .next (put (w.toNat &&& 0x1F3F)))
      ∧ (reaches .f1 off.toNat 4 s = true →
          exec (.registerWrite .f1 off w) s = .next (setPciFn 1 { pciFn s 1 with worldErr := true } s))
      ∧ (reaches .xspi off.toNat 4 s = true → w.toNat &&& 0xF3F = intRoute s n.val % 4096 →
          exec (.registerWrite .xspi off w) s = .next (put (intRoute s n.val % 4096 + flagBit (bit w.toNat 12) 12))))
  ∧ (∀ (w : Word) (s : State), ∀ off ∈ [(0x1400 : Word16), 0x1404, 0x1408, 0x140C, 0x1808],
      (∀ f : Fin 2, ∀ v : View, viewFn v = some f.val → reaches v off.toNat 4 s = true →
        exec (.registerWrite v off w) s = .next (setPciFn f.val { pciFn s f.val with worldErr := true } s))
      ∧ (reaches .xspi off.toNat 4 s = true →
        exec (.registerWrite .xspi off w) s = .next (setXspi { s.hst.xspi with wrErr := true } s)))
  ∧ (∀ (v : View) (w : Word) (s : State),
      (reaches v 0x1C00 4 s = true → restricted v = false → bit w.toNat 0 = true →
        exec (.timLatch v w) s = .next { s with time := { s.time with
          latchLocal := localBytes s, latchW := timeBytes (wNow (onGrid s)) } })
      ∧ (reaches v 0x1C00 4 s = true → restricted v = false → bit w.toNat 0 = false → exec (.timLatch v w) s = .next s)
      ∧ ((reaches v 0x1C00 4 s = false ∨ restricted v = true) → exec (.timLatch v w) s = .next s))
  ∧ (∀ (v : View) (n : Fin 12) (s : State),
      (reaches v (0x1040 + 4 * n.val) 4 s = true → restricted v = false →
        exec (.cntOvfRead v n) s = .next (emit (.readData v (0x1040 + 4 * n.val) (leBytes 4 (Tab.get s.cnt.ovf n.val 0).toNat))
          { s with cnt := { s.cnt with ovf := Tab.set s.cnt.ovf n.val 0 } }))
      ∧ (reaches v (0x1040 + 4 * n.val) 4 s = true → restricted v = true →
        exec (.cntOvfRead v n) s = .next (emit (.readData v (0x1040 + 4 * n.val) (leBytes 4 0)) s))
      ∧ (reaches v (0x1040 + 4 * n.val) 4 s = false → exec (.cntOvfRead v n) s = .next s))
  ∧ (∀ (v : View) (n : Fin 4) (s : State),
      (reaches v (0x1C4C + 16 * n.val) 4 s = true → restricted v = false →
        exec (.timTsPop v n) s = .next (emit (.readData v (0x1C4C + 16 * n.val)
            (wordBytes [BitVec.ofNat 32 (flagBit ((tsync s n.val).fifo.length != 0) 31 + (tsync s n.val).fifo.length)]))
          (setTsync n.val { tsync s n.val with fifo := (tsync s n.val).fifo.drop 1 } s)))
      ∧ (reaches v (0x1C4C + 16 * n.val) 4 s = true → restricted v = true →
        exec (.timTsPop v n) s = .next (emit (.readData v (0x1C4C + 16 * n.val) (leBytes 4 0)) s))
      ∧ (reaches v (0x1C4C + 16 * n.val) 4 s = false → exec (.timTsPop v n) s = .next s)))
  ∧ ((∀ (v : View) (w : Word) (l : List (Fin 11)) (s : State), restricted v = false → reaches v 0x400 4 s = true →
    ∃ u : State, exec (.intStatClear v w l) s = .next u
      ∧ u.intr.stat = (s.intr.stat &&& ~~~ w) ||| (l.foldl (fun m i => m ||| BitVec.ofNat 32 (2 ^ i.val)) 0)
      ∧ OnlyTransports s u)
  ∧ (∀ (v : View) (w : Word) (s : State), restricted v = false → reaches v 0x400 4 s = true →
    exec (.intStatClear v w []) s = .next { s with intr := { s.intr with stat := s.intr.stat &&& ~~~ w } })
  ∧ ∀ (v : View) (w : Word) (l : List (Fin 11)) (s : State), (restricted v = true ∨ reaches v 0x400 4 s = false) →
    ∃ u : State, exec (.intStatClear v w l) s = .next u
      ∧ u.intr.stat = s.intr.stat ||| (l.foldl (fun m i => m ||| BitVec.ofNat 32 (2 ^ i.val)) 0)
      ∧ OnlyTransports s u)

/-- Accesses through XSPI-H while its view is up and no lock of the peer covers the words. A READ outside the side-effect
windows drives the words of its registers; one in a window drives its first word with its effect and 0 after it, noting SE_CLIP
for more words, where BURST_THROUGH is clear; a READ that came late drives ones with LATE; one of a bad offset or length drives
0 with ALIGN_ERR. A WRITE is posted, lost with WR_OVF where 64 wait, or discarded with ALIGN_ERR. A chip-select rise keeps a
burst that was not taken whole for its replay, and forgets one that was. A bad second command byte sets CMD_ERR. Where the view
is not up, a READ, a WRITE and a bad command set no flag (R309–R314). Completes: xspiRead, xspiWrite, xspihCsRise,
xspiBadCommand. -/
def Obligations.XspiAccesses : Prop :=
  (∀ (a : Word) (n : Nat) (s : State),
    let s0 := setXspi { s.hst.xspi with current := none } s
    (reaches .xspi a.toNat (4 * n) s0 = true →
      (xspiBadAccess a n = false → inWindow a.toNat = false →
        exec (.xspiRead a n false) s = .next (emit (.readData .xspi a.toNat
          (wordBytes ((List.range n).map (fun i => BitVec.ofNat 32 (peek .xspi (a.toNat + 4 * i) s0))))) s0))
      ∧ (xspiBadAccess a n = false → inWindow a.toNat = true → s.hst.xspi.replay = none → s.hst.xspi.burstThrough = false →
          n = 1 → exec (.xspiRead a n false) s = .next (emit (.readData .xspi a.toNat
            (wordBytes [BitVec.ofNat 32 (peek .xspi a.toNat s0)])) (readEffect .xspi a.toNat s0)))
      ∧ (xspiBadAccess a n = false → inWindow a.toNat = true → s.hst.xspi.replay = none → s.hst.xspi.burstThrough = false →
          1 < n → exec (.xspiRead a n false) s = .next (emit (.readData .xspi a.toNat
            (wordBytes [BitVec.ofNat 32 (peek .xspi a.toNat s0)] ++ driven 0 (n - 1)))
            (setXspi { (readEffect .xspi a.toNat s0).hst.xspi with seClip := true } (readEffect .xspi a.toNat s0))))
      ∧ (xspiBadAccess a n = false → inWindow a.toNat = true → s.hst.xspi.replay = none → s.hst.xspi.burstThrough = true →
          exec (.xspiRead a n false) s = .next (readThrough a.toNat n s0))
      ∧ (xspiBadAccess a n = false → exec (.xspiRead a n true) s
          = .next (emit (.readData .xspi a.toNat (driven 0xFFFFFFFF n)) (setXspi { s0.hst.xspi with late := true } s0)))
      ∧ (∀ late : Bool, xspiBadAccess a n = true → exec (.xspiRead a n late) s
          = .next (emit (.readData .xspi a.toNat (driven 0 n)) (setXspi { s0.hst.xspi with alignErr := true } s0))))
    ∧ (reaches .xspi a.toNat (4 * n) s0 = false → ∀ late : Bool, exec (.xspiRead a n late) s = .next s0))
  ∧ (∀ (a : Word) (ws : List Word) (s : State),
    let x := s.hst.xspi
    (viewUp .xspi s = true → xspiBadAccess a ws.length = false → x.posted.length < 64 →
      exec (.xspiWrite a ws) s = .next (setXspi { x with current := none, posted := x.posted ++ [(a.toNat, ws)] } s))
    ∧ (viewUp .xspi s = true → xspiBadAccess a ws.length = false → 64 ≤ x.posted.length →
        exec (.xspiWrite a ws) s = .next (setXspi { x with current := none, wrOvf := true } s))
    ∧ (viewUp .xspi s = true → xspiBadAccess a ws.length = true →
        exec (.xspiWrite a ws) s = .next (setXspi { x with current := none, alignErr := true } s))
    ∧ (viewUp .xspi s = false → exec (.xspiWrite a ws) s = .next (setXspi { x with current := none } s)))
  ∧ (∀ (taken : Nat) (b : XspiBurst) (s : State), s.hst.xspi.current = some b →
    (taken < b.words.length - (b.start - b.base) / 4 → exec (.xspihCsRise taken) s
        = .next (setXspi { s.hst.xspi with current := none, replay := some { b with start := b.base } } s))
    ∧ (b.words.length - (b.start - b.base) / 4 ≤ taken → exec (.xspihCsRise taken) s
        = .next (setXspi { s.hst.xspi with current := none } s)))
  ∧ (∀ (taken : Nat) (s : State), s.hst.xspi.current = none → exec (.xspihCsRise taken) s = .next s)
  ∧ (∀ (a b : Byte) (s : State),
      (viewUp .xspi s = true → b ≠ ~~~ a → exec (.xspiBadCommand a b) s = .next (setXspi { s.hst.xspi with cmdErr := true } s))
      ∧ ((viewUp .xspi s = false ∨ b = ~~~ a) → exec (.xspiBadCommand a b) s = .next s))

/-- The PCIe functions and their rings. A function-level reset and a cleared bus-master bit reset the function, and a hot reset
all four and the core, which is then not ready; the core is ready outside an episode of reach L0 to L2. A ring's configuration
and tail obey its owner alone, a tail beyond the ring sets DB_ERR, and another function gets OWN_ERR; an error of a fetch stops
an enabled ring, sets ERR and leaves a record, and one of a disabled ring or of a ring without owner changes nothing. A vector
is unmasked, its pending message going out, and its hold-off ends, a message due meanwhile going out (R300–R304, R308).
Completes: pcieFlr, pcieBmeClear, pcieHotReset, pcieReady, msixUnmask, msixHoldoffEnd, hstTxCfgWrite, hstRxCfgWrite,
hstTxTailWrite, hstRxTailWrite, dmaFetchError. Frames of the host. The descriptors fetched are kept first; the frame read for
the oldest descriptor without one then enters the switch at HP, and a failed read writes status 2 back, unless HP's headroom is
short or no frame is forwarded, when the descriptor waits, as where the ring has no owner or no such descriptor. A write-back
that is due leaves with the ring's PHASE and advances HEAD. A frame that ended at HP is written to the functions it is for, once
their buffers suffice, unless it is spoiled or oversize, and its sending ends. What is not due or not there changes nothing
(R304–R308). Completes: hpTxFrameRead, txWriteback, hpRxDelivery. -/
def Obligations.PcieRingsAndFrames : Prop :=
  ((∀ (f : Fin 4) (s : State),
      (pcieUp s = true →
        exec (.pcieFlr f) s = .next (functionReset f.val s) ∧ exec (.pcieBmeClear f) s = .next (functionReset f.val s))
      ∧ (pcieUp s = false → exec (.pcieFlr f) s = .next s ∧ exec (.pcieBmeClear f) s = .next s))
  ∧ (∀ s : State, ∃ u : State, exec .pcieHotReset s = .next u ∧ u.hst.ready = false
      ∧ ∀ (rx : Bool) (n f : Nat), f < 4 → (hstRing s rx n).owner = some f → (hstRing u rx n).enable = false)
  ∧ (∀ s : State,
      (s.rst.episode = none → exec .pcieReady s = .next { s with hst := { s.hst with ready := true } })
      ∧ (∀ e : Episode, s.rst.episode = some e → 3 ≤ e.reach → exec .pcieReady s = .next { s with hst := { s.hst with ready := true } })
      ∧ (∀ e : Episode, s.rst.episode = some e → e.reach ≤ 2 → exec .pcieReady s = .next s))
  ∧ (∀ (f : Fin 4) (v : Fin 64) (s : State),
      let e := vector s f.val v.val
      let u := setVector f.val v.val { e with masked := false, pending := false } s
      (e.pending = false → exec (.msixUnmask f v) s = .next u)
      ∧ (e.pending = true → exec (.msixUnmask f v) s = .next (sendVector f.val v.val u)))
  ∧ (∀ (f : Fin 4) (v : Fin 64) (s : State),
      let e := vector s f.val v.val
      let u := setVector f.val v.val { e with holdoff := false, again := false } s
      (e.again = false → exec (.msixHoldoffEnd f v) s = .next u)
      ∧ (e.again = true → exec (.msixHoldoffEnd f v) s = .next (sendVector f.val v.val u)))
  ∧ (∀ (f : Fin 4) (n : Fin 16) (v : Word) (s : State), pcieUp s = true → lockedDirect (0xC00 + 16 * n.val) 16 s = false →
      ((hstRing s false n.val).owner = some f.val → exec (.hstTxCfgWrite f n v) s = .next (writeCfg false n.val v s))
      ∧ ((hstRing s false n.val).owner ≠ some f.val →
          exec (.hstTxCfgWrite f n v) s = .next (setPciFn f.val { pciFn s f.val with ownErr := true } s)))
  ∧ (∀ (f : Fin 4) (n : Fin 16) (v : Word) (s : State), pcieUp s = true → lockedDirect (0xD00 + 16 * n.val) 16 s = false →
      ((hstRing s true n.val).owner = some f.val → exec (.hstRxCfgWrite f n v) s = .next (writeCfg true n.val v s))
      ∧ ((hstRing s true n.val).owner ≠ some f.val →
          exec (.hstRxCfgWrite f n v) s = .next (setPciFn f.val { pciFn s f.val with ownErr := true } s)))
  ∧ (∀ (f : Fin 4) (n : Fin 16) (v : Word) (l : List Bytes) (s : State), pcieUp s = true →
      lockedDirect (0xC00 + 16 * n.val) 16 s = false →
      let r := hstRing s false n.val
      (r.owner = some f.val → v.toNat % 4096 < hstEntries r →
        exec (.hstTxTailWrite f n v l) s = .next (fetchTx n.val l (setHstRing false n.val { r with tail := v.toNat % 4096 } s)))
      ∧ (r.owner = some f.val → hstEntries r ≤ v.toNat % 4096 →
          exec (.hstTxTailWrite f n v l) s = .next (setPciFn f.val { pciFn s f.val with dbErr := true } s))
      ∧ (r.owner ≠ some f.val →
          exec (.hstTxTailWrite f n v l) s = .next (setPciFn f.val { pciFn s f.val with ownErr := true } s)))
  ∧ (∀ (f : Fin 4) (n : Fin 16) (v : Word) (l : List Bytes) (s : State), pcieUp s = true →
      lockedDirect (0xD00 + 16 * n.val) 16 s = false →
      let r := hstRing s true n.val
      (r.owner = some f.val → v.toNat % 4096 < hstEntries r →
        exec (.hstRxTailWrite f n v l) s = .next (fetchRx n.val l (setHstRing true n.val { r with tail := v.toNat % 4096 } s)))
      ∧ (r.owner = some f.val → hstEntries r ≤ v.toNat % 4096 →
          exec (.hstRxTailWrite f n v l) s = .next (setPciFn f.val { pciFn s f.val with dbErr := true } s))
      ∧ (r.owner ≠ some f.val →
          exec (.hstRxTailWrite f n v l) s = .next (setPciFn f.val { pciFn s f.val with ownErr := true } s)))
  ∧ (∀ (f : Fin 4) (n : Fin 16) (v : Word) (l : List Bytes) (s : State),
      ((pcieUp s = false ∨ lockedDirect (0xC00 + 16 * n.val) 16 s = true) →
        exec (.hstTxCfgWrite f n v) s = .next s ∧ exec (.hstTxTailWrite f n v l) s = .next s)
      ∧ ((pcieUp s = false ∨ lockedDirect (0xD00 + 16 * n.val) 16 s = true) →
        exec (.hstRxCfgWrite f n v) s = .next s ∧ exec (.hstRxTailWrite f n v l) s = .next s))
  ∧ (∀ (rx : Bool) (n : Fin 16) (s : State),
      (∀ f : Nat, (hstRing s rx n.val).owner = some f → (hstRing s rx n.val).enable = true →
        ∃ u : State, exec (.dmaFetchError rx n) s = .next (record 0x0901 [BitVec.ofNat 8 f, BitVec.ofNat 8 n.val] u)
          ∧ (hstRing u rx n.val).enable = false ∧ (hstRing u rx n.val).err = true)
      ∧ (((hstRing s rx n.val).owner = none ∨ (hstRing s rx n.val).enable = false) → exec (.dmaFetchError rx n) s = .next s)))
  ∧ ((∀ (n : Fin 16) (l : List Bytes) (s : State),
      let u := fetchTx n.val l s
      let first := (hstRing u false n.val).work.find? (fun x => x.frame.isNone && x.status.isNone)
      let waits := internalWaits 28 u = true ∨ forwarding u.sys.mode = false ∨ dataPathDown u = true
      (∀ (f : Nat) (x : TxDesc), (hstRing u false n.val).owner = some f → first = some x → ¬waits →
        (∀ b : Bytes, exec (.hpTxFrameRead n { fetched := l, data := some b }) s = .next (enterFromHost n.val f x b u))
        ∧ exec (.hpTxFrameRead n { fetched := l, data := none }) s = .next (updWork n.val x.index (fun y => { y with status := some 2 }) u))
      ∧ (((hstRing u false n.val).owner = none ∨ first = none ∨ waits) →
        ∀ d : Option Bytes, exec (.hpTxFrameRead n { fetched := l, data := d }) s = .next u))
  ∧ (∀ (n : Fin 16) (s : State),
      let r := hstRing s false n.val
      (∀ (f : Nat) (x : TxDesc) (rest : List TxDesc), r.owner = some f → r.work = x :: rest →
        (writebackDue x s = true →
          let next := (r.head + 1) % hstEntries r
          exec (.txWriteback n) s = .next (sendVector f r.vec (setHstRing false n.val
            { r with work := rest, head := next, phase := if next = 0 then !r.phase else r.phase }
            (emit (.hostWrite f (r.base.toNat + 32 * x.index) (txWriteback x r.phase)) s))))
        ∧ (writebackDue x s = false → exec (.txWriteback n) s = .next s))
      ∧ ((r.owner = none ∨ r.work = []) → exec (.txWriteback n) s = .next s))
  ∧ (∀ (k : Nat) (s : State),
      (∀ (x : Sending) (f : Frame), (egress s 28).sending = some x → frameOf s k = some f →
        let goes := x.frame = k ∧ f.ended = true ∧ ringsReady f (editedBytes s 28 f).length s = true
        let bad := f.oversize = true ∨ ∃ d : Dest, destAt f 28 = some d ∧ d.spoil = true
        (goes → ¬bad → exec (.hpRxDelivery k) s = .next (finishSending 28
            (((List.range 4).filter (bit f.funcs)).foldl (fun u fn => deliverTo fn f (editedBytes s 28 f) u) s)))
        ∧ (goes → bad → exec (.hpRxDelivery k) s = .next (finishSending 28 s))
        ∧ (¬goes → exec (.hpRxDelivery k) s = .next s))
      ∧ (((egress s 28).sending = none ∨ frameOf s k = none) → exec (.hpRxDelivery k) s = .next s)))

/-- A frame's way to its forwarding. A frame begins at a port that is up unless it is a pause frame, or from the cluster where
MP has headroom and its class is not raised; a frame of another port, or while frames are not forwarded, does nothing. A first
pass begins in the frame's lane with the live bank where it is the frame's turn and the slot is no second pass's; another first
pass changes nothing. The result of a pass settles its frame, and no result of another phase does. RP sends its oldest frame to
a second pass in slot 3, or where no first pass waits. A short, long or damaged frame is counted and fails; a good one ends well
after what the SecY says of it. The old rule bank is released once no frame drains (R25, R90–R94, R103, R116, R159, R164, R281,
R288). Completes: frameStart, lanePassBegin, laneResult, rinseDispatch, frameEnd, ruleBankRelease. -/
def Obligations.FramesThroughTheLanes : Prop :=
  (∀ (p : Port) (c : Bytes) (g : Option (Fin 2048)) (s : State), forwarding s.sys.mode = true → dataPathDown s = false →
      (p.val < 28 → portUp s p.val = true → isPause c = false → exec (.frameStart p c g) s
        = .next (enterFrame p.val p.val (c.length + 4) c false (secyValidates s p.val c) none none s))
      ∧ (p.val < 28 → (portUp s p.val = false ∨ isPause c = true) → exec (.frameStart p c g) s = .next s)
      ∧ (p.val = 29 → clusterServes s = true → internalWaits 29 s = false → bit (raisedMask s 29) (mpClass s c) = false →
          exec (.frameStart p c g) s = .next (enterInternal 29 32 (g.map Fin.val) c none none s))
      ∧ (p.val = 29 → (clusterServes s = false ∨ internalWaits 29 s = true ∨ bit (raisedMask s 29) (mpClass s c) = true) →
          exec (.frameStart p c g) s = .next s)
      ∧ (28 ≤ p.val → p.val ≠ 29 → exec (.frameStart p c g) s = .next s))
  ∧ (∀ (p : Port) (c : Bytes) (g : Option (Fin 2048)) (s : State), (forwarding s.sys.mode = false ∨ dataPathDown s = true) →
      exec (.frameStart p c g) s = .next s)
  ∧ (∀ (n : Nat) (f : Frame) (s : State), frameOf s n = some f →
      let mine := passReady s f = false ∨ laneTurn s f.lane = some n
      (f.phase = .waiting → (f.throughSecY = false ∨ f.ended = true) → slotIsRps s f.lane = false → mine →
        exec (.lanePassBegin n) s = .next (setFrame n
          { f with phase := .firstPass, bank := if s.lanes.rom = true then 2 else s.lanes.live, epoch := s.lanes.epoch }
          { s with lanes := { s.lanes with
              first := Tab.upd s.lanes.first f.lane 0 (· + 1), slot := Tab.upd s.lanes.slot f.lane 0 firstSlot
              served := Tab.set s.lanes.served f.lane f.inPort } }))
      ∧ ((f.phase ≠ .waiting ∨ (f.throughSecY = true ∧ f.ended = false) ∨ slotIsRps s f.lane = true ∨ ¬mine) →
        exec (.lanePassBegin n) s = .next s))
  ∧ (∀ (n : Nat) (x : LaneFaults) (f : Frame) (s : State), frameOf s n = some f →
      (f.phase = .firstPass → exec (.laneResult n x) s = .next (settleEnd n (firstResult n f x s)))
      ∧ (f.phase = .secondPass → exec (.laneResult n x) s = .next (settleEnd n (secondResult n f x s)))
      ∧ (f.phase ≠ .firstPass → f.phase ≠ .secondPass → exec (.laneResult n x) s = .next s))
  ∧ (∀ (n : Nat) (f : Frame) (s : State), rpFirst s = some (n, f) →
      let lane := laneOf s 31
      ((Tab.get s.lanes.slot lane 0 = 3 ∨ laneWaiting s lane = []) →
        exec .rinseDispatch s = .next (advanceLane 31 (setFrame n { f with phase := .secondPass, lane := lane }
          { s with lanes := { s.lanes with second := Tab.upd s.lanes.second lane 0 (· + 1)
                                           slot := Tab.upd s.lanes.slot lane 0 (fun k => (k + 1) % 4) } })))
      ∧ (Tab.get s.lanes.slot lane 0 ≠ 3 → laneWaiting s lane ≠ [] → exec .rinseDispatch s = .next s))
  ∧ (∀ s : State, rpFirst s = none → exec .rinseDispatch s = .next s)
  ∧ (∀ (n : Nat) (f : Frame) (s : State), frameOf s n = some f → f.ended = false →
      let good := 64 ≤ f.wireLen ∧ f.wireLen ≤ 10240 ∧ f.wireLen ≤ (portCfg s f.inPort).maxFrame
      let u := noteTraffic f.inPort (countReceived f.inPort f.wireLen f.content s)
      (f.wireLen < 64 → ∀ ok : Bool, exec (.frameEnd n ok) s = .next (failFrame n (stat f.inPort 5 1 s)))
      ∧ (64 ≤ f.wireLen → (10240 < f.wireLen ∨ (portCfg s f.inPort).maxFrame < f.wireLen) →
          ∀ ok : Bool, exec (.frameEnd n ok) s = .next (failFrame n (stat f.inPort 6 1 s)))
      ∧ (good → exec (.frameEnd n false) s = .next (failFrame n (stat f.inPort 4 1 s)))
      ∧ (good → secyReceive u f.inPort f.content = .asIs → exec (.frameEnd n true) s = .next (goodEnd n u))
      ∧ (∀ (k : Nat) (drop : Bool), good → secyReceive u f.inPort f.content = .unserved k drop → f.throughSecY = true →
          exec (.frameEnd n true) s
            = .next (if drop = true then failFrame n (countSecy f.inPort k u) else goodEnd n (countSecy f.inPort k u)))
      ∧ (∀ (k : Nat) (late drop : Bool), good → secyReceive u f.inPort f.content = .fails k late drop → f.throughSecY = true →
          let v := countSecy f.inPort (if late = true then 10 else if drop = true then 9 else 8)
            (updRxSa f.inPort k (fun a => if late = true then { a with late := a.late + 1 } else { a with bad := a.bad + 1 }) u)
          exec (.frameEnd n true) s = .next (if drop = true then failFrame n v else goodEnd n v))
      ∧ (∀ (c : Bytes) (k : Nat), good → secyReceive u f.inPort f.content = .valid c k → f.throughSecY = true →
          let next := fun (a : Sa) => fullPn (isXpn (portCfg u f.inPort).cipher) (fieldBe f.content 16 4) a.pn + 1
            - (portCfg u f.inPort).replayWindow
          exec (.frameEnd n true) s = .next (goodEnd n (setFrame n { f with content := c, validated := true } (countSecy f.inPort 11
            (updRxSa f.inPort k (fun a => { a with good := a.good + 1, pn := Nat.max a.pn (next a) }) u))))))
  ∧ (∀ (n : Nat) (ok : Bool) (s : State), (frameOf s n = none ∨ ∃ f : Frame, frameOf s n = some f ∧ f.ended = true) →
      exec (.frameEnd n ok) s = .next s)
  ∧ (∀ s : State,
      (s.lanes.other = 1 → drainingFrames s = 0 → exec .ruleBankRelease s = .next { s with lanes := { s.lanes with other := 0 } })
      ∧ ((s.lanes.other ≠ 1 ∨ drainingFrames s ≠ 0) → exec .ruleBankRelease s = .next s))

/-- A learned address that has aged leaves the table; a patrol read acts on its row and moves the row count on, round after
65,536 rows, when a scrub is counted; a connection that expired is removed; a firewall scrub whose CRC-64s agree with the
references counts a pass and does nothing else, and one that differs suspends the firewall; while it is suspended or no frame is
forwarded, no scrub runs. What is not there is not removed (R134, R147, R148, R154, R173). Completes: learnAgeing, basinScrub,
ctExpiry, fwlScrubPass. The timers of a FRER recovery function that is in use at a port. RESET_MS without a passed frame sets
take_any and counts a reset, where it is not set already; the latent error test begins a new base after its reset period, else
it records and counts a difference beyond its bound; an entry without the function, or a port it does not cover, is left alone
(R213, R214). Completes: frerResetTimer, frerLatentTimer. A row of an instant brings the local clock to it, the model's choice
(log 14). -/
def Obligations.TablesAgeAndTimersRun : Prop :=
  ((∀ (vid mac : Nat) (s : State),
      (∀ l : Learned, s.bsn.learned.lookup (learnKey vid mac) = some l →
        exec (.learnAgeing vid mac) s = .next { s with
          clk := Nat.max s.clk (l.seen + ageingS s * 1000000000)
          bsn := { s.bsn with learned := Tab.del s.bsn.learned (learnKey vid mac) } })
      ∧ (s.bsn.learned.lookup (learnKey vid mac) = none → exec (.learnAgeing vid mac) s = .next s))
  ∧ (∀ (r : CellError) (s : State),
      let u := readRow r s
      (u.bsn.scrubRow + 1 = 65536 →
        exec (.basinScrub r) s = .next { u with bsn := { u.bsn with scrubRow := 0, scrubs := u.bsn.scrubs + 1 } })
      ∧ (u.bsn.scrubRow + 1 ≠ 65536 →
        exec (.basinScrub r) s = .next { u with bsn := { u.bsn with scrubRow := u.bsn.scrubRow + 1 } }))
  ∧ (∀ (k : Nat) (s : State),
      (∀ c : Conn, s.fwl.conns.lookup k = some c →
        exec (.ctExpiry k) s = .next { s with clk := Nat.max s.clk c.expiry, fwl := { s.fwl with conns := Tab.del s.fwl.conns k } })
      ∧ (s.fwl.conns.lookup k = none → exec (.ctExpiry k) s = .next s))
  ∧ (∀ (x y : Option Word64) (s : State),
      let c3 := (x.map BitVec.toNat).getD (liveCrc3 s)
      let c4 := (y.map BitVec.toNat).getD ((liveCrc4 s).getD 0)
      let agree := c3 = s.fwl.ref3 ∧ (s.fwl.ref4 = none ∨ s.fwl.ref4 = some c4)
      let u := { s with fwl := { s.fwl with scrubs := s.fwl.scrubs + 1 } }
      (s.fwl.suspended = false → forwarding s.sys.mode = true → agree → exec (.fwlScrubPass x y) s = .next u)
      ∧ (s.fwl.suspended = false → forwarding s.sys.mode = true → ¬agree →
          exec (.fwlScrubPass x y) s = .next (integrityFault c3 c4 u))
      ∧ ((s.fwl.suspended = true ∨ forwarding s.sys.mode = false) → exec (.fwlScrubPass x y) s = .next s)))
  ∧ ((∀ (k : Nat) (p : Port) (sec : Bytes) (o : Nat) (s : State), frerEntry s k = some (sec, o) →
      let on := bit (byteAt sec (o + 2)) 1 = true ∧ bit (fieldLe sec (o + 4) 4) p.val = true
      let r := recoveryOf s k p.val
      let u := reachClock (r.passedAt + fieldLe sec (o + 8) 2 * 1000000) s
      let v := reachClock (r.testedAt + fieldLe sec (o + 14) 2 * 1000000) s
      let diff : Int := ((Tab.get r.counts 0 0).toNat : Int) * ((byteAt sec (o + 10) : Int) - 1) - ((Tab.get r.counts 1 0).toNat : Int)
      let within := diff - r.base ≤ (fieldLe sec (o + 12) 2 : Int) ∧ -(fieldLe sec (o + 12) 2 : Int) ≤ diff - r.base
      (on → r.takeAny = false → exec (.frerResetTimer k p) s
          = .next (countFrer k p.val 6 1 (setRecovery k p.val { r with takeAny := true, passedAt := u.clk } u)))
      ∧ ((¬on ∨ r.takeAny = true) → exec (.frerResetTimer k p) s = .next s)
      ∧ (on → bit (byteAt sec (o + 2)) 3 = true → r.resetAt + fieldLe sec (o + 16) 4 * 1000000 ≤ v.clk →
          exec (.frerLatentTimer k p) s
            = .next (setRecovery k p.val { r with base := diff, testedAt := v.clk, resetAt := v.clk } v))
      ∧ (on → bit (byteAt sec (o + 2)) 3 = true → v.clk < r.resetAt + fieldLe sec (o + 16) 4 * 1000000 → within →
          exec (.frerLatentTimer k p) s = .next (setRecovery k p.val { r with testedAt := v.clk } v))
      ∧ (on → bit (byteAt sec (o + 2)) 3 = true → v.clk < r.resetAt + fieldLe sec (o + 16) 4 * 1000000 → ¬within →
          exec (.frerLatentTimer k p) s = .next (record 0x0503 (leBytes 2 k ++ [BitVec.ofNat 8 p.val])
            (countFrer k p.val 7 1 (setRecovery k p.val { r with testedAt := v.clk } v))))
      ∧ ((¬on ∨ bit (byteAt sec (o + 2)) 3 = false) → exec (.frerLatentTimer k p) s = .next s))
  ∧ (∀ (k : Nat) (p : Port) (s : State), frerEntry s k = none →
      exec (.frerResetTimer k p) s = .next s ∧ exec (.frerLatentTimer k p) s = .next s))

/-- Flow control. A PAUSE frame pauses its port, and a PFC frame its classes, for the quanta named, or ends the pause at 0, on
the ports that have a MAC; another frame does nothing. A pause that runs out is forgotten with the instants kept for it. A class
of a PFC port, or a PAUSE port, that is still raised when half the pause time has passed makes a pause frame due again. A class
or port paused 100 ms on end is recorded as stuck, and every 1 s after. A PLCA coordinator under back-pressure holds its cycle
and releases it in turn. Where nothing is paused or raised, these rows change nothing (R165–R167, R189). Completes: pfcRx,
pauseExpiry, pfcRefresh, pfcStuck, plcaHoldExpiry. A row of an instant brings the local clock to it, the model's choice (log
14). -/
def Obligations.FlowControl : Prop :=
  (∀ (p : Port) (b : Bytes) (q : Nat) (s : State), p.val < 28 → fieldBe b 12 2 = 0x8808 → fieldBe b 14 2 = 0x0001 →
      fieldBe b 16 2 = q →
      ∃ u : State, exec (.pfcRx p b) s = .next u ∧ u.clk = s.clk
        ∧ Tab.get (egress u p.val).pausedTill 8 0 = if q = 0 then 0 else s.clk + quantaNs s p.val q)
  ∧ (∀ (p : Port) (b : Bytes) (c : Fin 8) (q : Nat) (s : State), p.val < 28 → fieldBe b 12 2 = 0x8808 → fieldBe b 14 2 = 0x0101 →
      fieldBe b 16 2 = 2 ^ c.val → fieldBe b (18 + 2 * c.val) 2 = q →
      ∃ u : State, exec (.pfcRx p b) s = .next u ∧ u.clk = s.clk
        ∧ Tab.get (egress u p.val).pausedTill c.val 0 = if q = 0 then 0 else s.clk + quantaNs s p.val q)
  ∧ (∀ (p : Port) (b : Bytes) (s : State),
      (28 ≤ p.val ∨ fieldBe b 12 2 ≠ 0x8808 ∨ (fieldBe b 14 2 ≠ 0x0001 ∧ fieldBe b 14 2 ≠ 0x0101)) → exec (.pfcRx p b) s = .next s)
  ∧ (∀ (p : Port) (c : Option (Fin 8)) (s : State),
      (∀ t : Nat, (egress s p.val).pausedTill.lookup (pauseKey c) = some t →
        ∃ u : State, exec (.pauseExpiry p c) s = .next u ∧ u.clk = Nat.max s.clk t
          ∧ Tab.get (egress u p.val).pausedTill (pauseKey c) 0 = 0 ∧ Tab.get (egress u p.val).pausedFrom (pauseKey c) 0 = 0
          ∧ Tab.get (egress u p.val).stuckAt (pauseKey c) 0 = 0)
      ∧ ((egress s p.val).pausedTill.lookup (pauseKey c) = none → exec (.pauseExpiry p c) s = .next s))
  ∧ (∀ (p : Port) (c : Fin 8) (s : State),
      let due := p.val < 28 ∧ ((fcMode s p.val = 2 ∧ bit (raisedMask s p.val) c.val = true) ∨ (fcMode s p.val = 1 ∧ raisedMask s p.val ≠ 0))
      (due → ∃ u : State, exec (.pfcRefresh p c) s = .next u ∧ (egress u p.val).pauseDue = true
        ∧ u.clk = Nat.max s.clk ((egress s p.val).pauseSent + quantaNs s p.val 0xFFFF / 2))
      ∧ (¬due → exec (.pfcRefresh p c) s = .next s))
  ∧ (∀ (p : Port) (c : Option (Fin 8)) (t : Nat) (s : State), (egress s p.val).pausedFrom.lookup (pauseKey c) = some t →
      ((egress s p.val).stuckAt.lookup (pauseKey c) = none →
        ∃ u : State, exec (.pfcStuck p c) s = .next u ∧ u.clk = Nat.max s.clk (t + 100000000)
          ∧ Tab.get (egress u p.val).stuckAt (pauseKey c) 0 = u.clk)
      ∧ (∀ x : Nat, (egress s p.val).stuckAt.lookup (pauseKey c) = some x →
        ∃ u : State, exec (.pfcStuck p c) s = .next u ∧ u.clk = Nat.max s.clk (x + 1000000000)
          ∧ Tab.get (egress u p.val).stuckAt (pauseKey c) 0 = u.clk))
  ∧ (∀ (p : Port) (c : Option (Fin 8)) (s : State), (egress s p.val).pausedFrom.lookup (pauseKey c) = none →
      exec (.pfcStuck p c) s = .next s)
  ∧ (∀ (p : Port) (s : State),
      let e := egress s p.val
      let held := 24 ≤ p.val ∧ p.val < 28 ∧ fcMode s p.val = 3 ∧ raisedMask s p.val ≠ 0
      (held → e.plcaHold = false →
        exec (.plcaHoldExpiry p) s = .next (setEgress p.val { e with plcaHold := true, holdFrom := s.clk } s))
      ∧ (held → e.plcaHold = true → exec (.plcaHoldExpiry p) s = .next (setEgress p.val { e with plcaHold := false }
          (reachClock (e.holdFrom + holdUs s p.val * 1000) s)))
      ∧ (¬held → exec (.plcaHoldExpiry p) s = .next s))

/-- The press and the MAC of a port. A frame whose segment comes next on its plane arrives at the press of its triple: behind
the expected number it is dropped and counted, at it the press moves on and releases what follows, beyond it it is held; a hole
notice that comes next on its plane is noted. A wait of 2 us that ends takes the lowest number held or noted. A port selects its
next frame after its reads, and ends its transmission, but HP and GW, whose ends have rows of their own; MP's frame is dropped
while the cluster is down. A gate entry of OP 2 releases the preemptible MAC, one of OP 1 holds it where preemption is active,
as HOLD_ADVANCE_NS before such an entry does. A launch time that is missed discards its frame. Verification sends three requests
VERIFY_TIME_MS apart and then fails with a record, and a response makes it succeed (R158, R175–R177, R190, R191, R197, R201,
R203, R204). Completes: pressArrival, holeNotice, pressSkip, egressSelect, egressTxEnd, gateEntryChange, setAndHoldMac,
launchMissed, preemptVerify, preemptResponseRx. A row of an instant brings the local clock to it, the model's choice (log 14).
-/
def Obligations.EgressEvents : Prop :=
  (∀ (p : Port) (n : Nat) (f : Frame) (d : Dest) (s : State), frameOf s n = some f → destAt f p.val = some d →
      let c := frameCls f
      let u := takeItems (isFrameItem n p.val) s
      let t := pressOf u p.val f.inPort c
      (d.phase = .crossing → hasCrossed s n p.val f d = true →
        (isBehind d.seq t.e = true → exec (.pressArrival p n) s = .next (dropDest n p.val (stat p.val 27 1 u)))
        ∧ (isBehind d.seq t.e = false → (d.seq = t.e ∨ pinnedRule u t c = true) →
            exec (.pressArrival p n) s = .next (dispatch p.val (releaseAll p.val f.inPort c (releaseTo n p.val
              (setPress p.val f.inPort c (t.expect ((d.seq + 1) % 65536)) u)))))
        ∧ (isBehind d.seq t.e = false → d.seq ≠ t.e → pinnedRule u t c = false →
            exec (.pressArrival p n) s = .next (setPress p.val f.inPort c
              { t with held := t.held ++ [(d.seq, n)], waitFrom := some (t.waitFrom.getD s.clk) }
              (updDest n p.val (fun d => { d with phase := .press }) u))))
      ∧ ((d.phase ≠ .crossing ∨ hasCrossed s n p.val f d = false) → exec (.pressArrival p n) s = .next s))
  ∧ (∀ (p i : Port) (c : Fin 8) (k : Word) (s : State),
      let n := k.toNat % 65536
      let x := PlaneItem.notice p.val i.val c.val n
      (isNextOn s x = true → exec (.holeNotice p i c k) s = .next (noteHole p.val i.val c.val n (takeItems (· == x) s)))
      ∧ (isNextOn s x = false → exec (.holeNotice p i c k) s = .next s))
  ∧ (∀ (p i : Port) (c : Fin 8) (s : State),
      let t := pressOf s p.val i.val c.val
      (∀ w : Nat, t.waitFrom = some w → t.held ≠ [] →
        ∃ (u : State) (low : Nat), exec (.pressSkip p i c) s
          = .next (dispatch p.val (releaseAll p.val i.val c.val (stat p.val 28 1 (setPress p.val i.val c.val
              { t.expect low with waitFrom := some u.clk } u))))
          ∧ u = reachClock (w + 2000) s ∧ low ∈ t.held.map (fun h => h.1) ++ t.holes
          ∧ ∀ n ∈ t.held.map (fun h => h.1) ++ t.holes, (low + 65536 - t.e) % 65536 ≤ (n + 65536 - t.e) % 65536)
      ∧ ((t.waitFrom = none ∨ t.held = []) → exec (.pressSkip p i c) s = .next s))
  ∧ (∀ (p : Port) (l : List CellError) (s : State),
      (p.val < 24 ∨ p.val = 28 ∨ p.val = 29 ∨ p.val = 30 →
        exec (.egressSelect p l) s = .next (selectNow p.val (l.foldl (fun s e => readRow e s) (settle p.val s))))
      ∧ (24 ≤ p.val → p.val < 28 → ∀ u : State, plcaTurn p.val s = some u →
        exec (.egressSelect p l) s = .next (selectNow p.val (l.foldl (fun s e => readRow e s) (settle p.val u))))
      ∧ ((p.val = 31 ∨ plcaTurn p.val s = none) → exec (.egressSelect p l) s = .next s))
  ∧ (∀ (p : Port) (s : State),
      (p.val < 28 ∨ (p.val = 29 ∧ clusterServes s = true) →
        (gptpLeaving s p.val = none → exec (.egressTxEnd p) s = .next (finishSending p.val s))
        ∧ ∀ (m : GptpTx) (t : Int), gptpLeaving s p.val = some (m, t) →
          exec (.egressTxEnd p) s = .next (gptpSent p.val m t (finishSending p.val s)))
      ∧ (p.val = 29 → clusterServes s = false → exec (.egressTxEnd p) s = .next (dropSending 29 30 s))
      ∧ ((p.val = 28 ∨ 30 ≤ p.val) → exec (.egressTxEnd p) s = .next s))
  ∧ (∀ (p : Port) (sec : Bytes) (o : Nat) (s : State), gateBlock s p.val = some (sec, o) →
      let op := gateOp sec o (((gateEntry s sec o (wNow s)).1 + 1) % fieldLe sec (o + 8) 2)
      ∃ u : State, exec (.gateEntryChange p) s = .next u
        ∧ u.clk = (reachW (wNow s + ((gateEntry s sec o (wNow s)).2 : Int)) s).clk
        ∧ (egress u p.val).macHeld = (if op = 2 then false else if op = 1 ∧ (egress s p.val).preempt = 2 then true
            else (egress s p.val).macHeld))
  ∧ (∀ (p : Port) (s : State), gateBlock s p.val = none →
      exec (.gateEntryChange p) s = .next s ∧ exec (.setAndHoldMac p) s = .next s)
  ∧ (∀ (p : Port) (sec : Bytes) (o : Nat) (s : State), gateBlock s p.val = some (sec, o) →
      let h := untilHold sec o (fieldLe sec (o + 8) 2) (gateEntry s sec o (wNow s)).1 (gateEntry s sec o (wNow s)).2
      (∀ w : Nat, (egress s p.val).preempt = 2 → h = some w →
        let u := preemptNow p.val (reachW (wNow s + (w : Int) - nsVal (fieldLe sec (o + 28) 4)) s)
        exec (.setAndHoldMac p) s = .next (setEgress p.val { egress u p.val with macHeld := true } u))
      ∧ (((egress s p.val).preempt ≠ 2 ∨ h = none) → exec (.setAndHoldMac p) s = .next s))
  ∧ (∀ (p : Port) (n : Nat) (s : State),
      (∀ (f : Frame) (t : Int), hasLaunch p.val = true → (egress s p.val).queues.any (fun q => q.2.contains n) = true →
        frameOf s n = some f → f.launch = some t →
        exec (.launchMissed p n) s
          = .next (discardQueued n p.val (launchOutcome n p.val 2 (reachW (t + nsVal (8 + ltLate s p.val)) s))))
      ∧ ((hasLaunch p.val = false ∨ (egress s p.val).queues.any (fun q => q.2.contains n) = false) →
        exec (.launchMissed p n) s = .next s))
  ∧ (∀ (p : Port) (s : State),
      let u := reachClock (verifyDue s p.val) s
      ((egress s p.val).preempt = 1 → portUp s p.val = true → (egress s p.val).verifyTries < 3 →
        exec (.preemptVerify p) s = .next (emit (.preempt p.val false) (setEgress p.val
          { egress s p.val with verifyTries := (egress s p.val).verifyTries + 1, verifyAt := u.clk } u)))
      ∧ ((egress s p.val).preempt = 1 → portUp s p.val = true → 3 ≤ (egress s p.val).verifyTries →
        exec (.preemptVerify p) s = .next (record 0x0502 [BitVec.ofNat 8 p.val] (setEgress p.val { egress s p.val with preempt := 3 } u)))
      ∧ (((egress s p.val).preempt ≠ 1 ∨ portUp s p.val = false) → exec (.preemptVerify p) s = .next s)
      ∧ ((egress s p.val).preempt = 1 →
        exec (.preemptResponseRx p) s = .next (setEgress p.val { egress s p.val with preempt := 2 } s))
      ∧ ((egress s p.val).preempt ≠ 1 → exec (.preemptResponseRx p) s = .next s))

/-- Switches of the image: an activation that was handed over takes its image at its instant, or is withdrawn while a firewall
revert is under way; a pending patch swaps its section; the device's own refresh of the rule bank is loaded and swaps at its
boundary, as an armed PRS_BANK_SWAP does; AUTONOMOUS is entered at its boundary, or refused where the mode has changed; the
revert of a section takes the signed one back or fails into SAFE. Where nothing of the kind waits, or its condition does not
hold, the row changes nothing (R35, R80, R85, R117, R118, R120, R148, R149). Completes: imageSwitch, patchSwap, ruleBankRefresh,
ruleBankSwap, autonomousSwitch, fwlRevertComplete. While the reference runs, a reading of the pace monitors is the slowest of
the four in pace units, kept with the lowest since activation (R21, R87); below the certificate's threshold it raises
PACE_MARGIN, and while that is raised each reading counts towards the hundredth good one that clears it (R89); in AUTONOMOUS a
reading below the nominal pace is recorded. Completes: paceReading. A row of an instant brings the local clock to it, the
model's choice (log 14). -/
def Obligations.ImageSwitchesAndPace : Prop :=
  ((∀ (t : Word16) (i : Int) (m : Nat × Int) (x : RunImage) (s : State), s.img.armed = some (t, i) → s.img.pendingMark = some m →
      s.img.shadow = some x →
      let u := takeImage x (reachW i s)
      (s.fwl.st = 0 → runMode s.sys.mode = true → s.wake.down = false →
        exec .imageSwitch s = .next (if clusterServes u = true then finishActivation u else u))
      ∧ (s.fwl.st = 0 → (runMode s.sys.mode = false ∨ s.wake.down = true) → exec .imageSwitch s = .next s)
      ∧ (s.fwl.st ≠ 0 → exec .imageSwitch s = .next (finalReply t stWrongMode 0 []
          (noteBusy { s with img := { s.img with armed := none, pendingMark := none } }))))
  ∧ (∀ s : State, (s.img.armed = none ∨ s.img.pendingMark = none ∨ s.img.shadow = none) → exec .imageSwitch s = .next s)
  ∧ (∀ (x : PendingSwap) (p : Patch) (s : State), s.img.pending = some x → x.patch = some p →
      let due := swapDue x.tag s = true ∧ forwarding s.sys.mode = true ∧ inL34 s = false ∧ s.fwl.st ≠ 1
      let u := swapPatch p (reachW x.instant s)
      (due → exec .patchSwap s = .next (replySwap x.tag 0 [] (noteBusy { u with img := { u.img with pending := none } })))
      ∧ (¬due → exec .patchSwap s = .next s))
  ∧ (∀ s : State, (∀ x : PendingSwap, s.img.pending = some x → x.patch = none) → exec .patchSwap s = .next s)
  ∧ (∀ s : State,
      let due := s.lanes.refreshDue = true ∧ s.lanes.other = 0 ∧ forwarding s.sys.mode = true
      (due → ∃ u : State, exec .ruleBankRefresh s = .next u ∧ u = { s with lanes := u.lanes } ∧ u.lanes.other = 2
        ∧ u.lanes.refreshDue = false ∧ u.lanes.refreshAt.isSome = true)
      ∧ (¬due → exec .ruleBankRefresh s = .next s))
  ∧ (∀ s : State, s.lanes.swap = none →
      (∀ i : Int, s.lanes.refreshAt = some i → s.lanes.other = 2 →
        ∃ u : State, exec .ruleBankSwap s = .next u ∧ u.lanes.live = 1 - s.lanes.live ∧ u.lanes.epoch = (s.lanes.epoch + 1) % 65536
          ∧ u.lanes.other = 1 ∧ u.lanes.refreshAt = none)
      ∧ ((s.lanes.refreshAt = none ∨ s.lanes.other ≠ 2) → exec .ruleBankSwap s = .next s))
  ∧ (∀ (t : Word16) (i : Int) (s : State), s.lanes.swap = some (t, i) →
      let u := swapBanks (reachW i (if s.lanes.other = 2 then s else rebuildBank s))
      (awaitsSync t s = false → s.sys.mode ≠ .autonomous →
        exec .ruleBankSwap s = .next (finalReply t stOk 0 (swapResult u) { u with lanes := { u.lanes with swap := none } }))
      ∧ (awaitsSync t s = false → s.sys.mode = .autonomous → exec .ruleBankSwap s
          = .next (finalReply t stWrongMode 0 [] (releaseOther { s with lanes := { s.lanes with swap := none } })))
      ∧ (awaitsSync t s = true → exec .ruleBankSwap s = .next s))
  ∧ (∀ (t : Word16) (s : State), s.sys.autonomousTag = some t →
      let v := reachW s.sys.autonomousAt s
      let u := { v with sys := { v.sys with
        autonomousTag := none, straps := { v.sys.straps with profile := v.sys.sampled.profile } } }
      (s.sys.mode = .configured → exec .autonomousSwitch s
        = .next (finalReply t stOk 0 [] (noteProfile (enterMode .autonomous (switchTables none (runRom u))))))
      ∧ (s.sys.mode ≠ .configured → exec .autonomousSwitch s
        = .next (finalReply t stWrongMode 0 [] { s with sys := { s.sys with autonomousTag := none } })))
  ∧ (∀ s : State, s.sys.autonomousTag = none → exec .autonomousSwitch s = .next s)
  ∧ (∀ (b : Nat) (x : RunImage) (s : State), s.fwl.st = 1 → s.img.live = some x → s.img.activeMark = some b →
      let held := (revertSections s).all (digestHolds (bankContainer s b)) = true
      (held → exec .fwlRevertComplete s = .next (revertTo (imageOf (bankContainer s b)) (revertSections s) (discardPending s)))
      ∧ (¬held → exec .fwlRevertComplete s = .next (escalate 5 (record 0x0306 [] (discardPending
          { s with fwl := { s.fwl with st := 2 }, saf := { s.saf with revertFailed := true } })))))
  ∧ (∀ s : State, s.fwl.st = 1 → (s.img.live = none ∨ s.img.activeMark = none) → exec .fwlRevertComplete s
      = .next (refreshFirewall { s with fwl := { s.fwl with st := 0, suspended := false, reverts := s.fwl.reverts + 1 } }))
  ∧ (∀ s : State, s.fwl.st ≠ 1 → exec .fwlRevertComplete s = .next s))
  ∧ (∀ (a b c d : Nat) (s : State),
    (refRuns s = true → s.img.paceCal ≠ 0 →
      let v := Nat.min 65535 (Nat.min (Nat.min a b) (Nat.min c d) * 4096 / s.img.paceCal)
      let u := reachClock (s.img.paceAt + 10000) s
      let r := { u with img := { u.img with pace := v, paceLow := some (Nat.min (u.img.paceLow.getD v) v), paceAt := u.clk } }
      (∀ x : RunImage, s.img.live = some x →
        (s.img.margin = true → exec (.paceReading a b c d) s = .next (followPace v (paceThreshold x) r))
        ∧ (s.img.margin = false → v < paceThreshold x → exec (.paceReading a b c d) s
            = .next (raisePace v (fieldLe ((imgSection x 0x00F0).getD []) 2 2) r))
        ∧ (s.img.margin = false → paceThreshold x ≤ v → exec (.paceReading a b c d) s = .next r))
      ∧ (s.img.live = none → s.sys.mode = .autonomous → v < 4096 →
          exec (.paceReading a b c d) s = .next (record 0x0105 (leBytes 2 v) r))
      ∧ (s.img.live = none → (s.sys.mode ≠ .autonomous ∨ 4096 ≤ v) → exec (.paceReading a b c d) s = .next r))
    ∧ (refRuns s = true → s.img.paceCal = 0 → ∃ u : State, exec (.paceReading a b c d) s = .next u)
    ∧ (refRuns s = false → exec (.paceReading a b c d) s = .next s))

/-- The time base's protocol while the cluster serves. A Sync or a Follow_Up measures its domain, Announce is counted and tells
who the grandmaster is, and a device that forwards sends Announce every second and Pdelay requests every period, answers a
request at a port of the time base, and completes the link delay from the responses; a grandmaster that has locked sends Sync; a
source that is due is lost, and a locked domain enters HOLDOVER. What is sent goes through MP as a frame of its own. While the
cluster does not serve, each of these rows changes nothing (R227, R228, R231, R232). Completes: gptpSyncRx, gptpFollowUpRx,
announceRx, announceTimer, pdelayTimer, pdelayMessageRx, syncOriginate, sourceLost. A row of an instant brings the local clock
to it, the model's choice (log 14). -/
def Obligations.GptpRows : Prop :=
  (∀ (p : Port) (m : SyncMessage) (s : State), clusterServes s = true →
      (∀ d : Nat, domainsOf s m.domainNumber.toNat = [d] →
        let u := takeAutoSlave p.val d s
        (m.info = none → measurePort u d = p.val → exec (.gptpSyncRx p m) s
          = .next (setDom d { dom u d with pendingSync := some (m.sequenceId.toNat, p.val, u.clk, m.correction) } u))
        ∧ (m.info = none → measurePort u d ≠ p.val → exec (.gptpSyncRx p m) s = .next u)
        ∧ (∀ x : TimeInfo, m.info = some x → exec (.gptpSyncRx p m) s
          = .next (syncComplete d p.val (rxStamp u p.val u.clk) m.correction { x with correction := 0 } u)))
      ∧ (domainsOf s m.domainNumber.toNat = [] → exec (.gptpSyncRx p m) s = .next s))
  ∧ (∀ (p : Port) (m : FollowUpMessage) (s : State), clusterServes s = true →
      (∀ d : Nat, domainsOf s m.domainNumber.toNat = [d] →
        (∀ (k : Nat) (c : Int), (dom s d).pendingSync = some (m.sequenceId.toNat, p.val, k, c) →
          exec (.gptpFollowUpRx p m) s = .next (syncComplete d p.val (rxStamp s p.val k) c m.info
            (setDom d { dom s d with pendingSync := none } s)))
        ∧ ((∀ (k : Nat) (c : Int), (dom s d).pendingSync ≠ some (m.sequenceId.toNat, p.val, k, c)) →
          exec (.gptpFollowUpRx p m) s = .next s))
      ∧ (domainsOf s m.domainNumber.toNat = [] → exec (.gptpFollowUpRx p m) s = .next s))
  ∧ (∀ (p : Port) (n : Byte) (g : Word64) (s : State), clusterServes s = true →
      let u := { s with time := { s.time with announces := s.time.announces + 1 } }
      (domainsOf s n.toNat = [] → exec (.announceRx p n g) s = .next u)
      ∧ (∀ d : Nat, domainsOf s n.toNat = [d] → exec (.announceRx p n g) s
          = .next (if measurePort u d = p.val then setDom d { dom u d with gmId := g } u else u)))
  ∧ (∀ s : State, clusterServes s = true →
      (∃ u : State, exec .announceTimer s = .next u ∧ u.time.announceAt = some u.clk
        ∧ u.clk = (reachClock (periodDue s s.time.announceAt 1000000000) s).clk)
      ∧ ∃ u : State, exec .pdelayTimer s = .next u ∧ u.time.pdelayAt = some u.clk
        ∧ u.clk = (reachClock (periodDue s s.time.pdelayAt (pdelayInterval s)) s).clk)
  ∧ (∀ (p : Port) (s : State), clusterServes s = true → (gptpPorts s).contains p.val = true →
      let v := delay s p.val
      let rx := rxStamp s p.val s.clk / 2 ^ 44
      (∀ q : Word16, exec (.pdelayMessageRx p (.req q)) s
        = .next (sendGptp p.val { kind := 4, number := 0, seq := q.toNat, fields := [rx], next := .response } s))
      ∧ (∀ (q : Word16) (t2 : Int),
        (q.toNat = v.seq → v.t1.isSome = true →
          exec (.pdelayMessageRx p (.resp q t2)) s = .next (setDelay p.val { v with resp := some (rx, t2) } s))
        ∧ ((q.toNat ≠ v.seq ∨ v.t1 = none) → exec (.pdelayMessageRx p (.resp q t2)) s = .next s))
      ∧ (∀ (q : Word16) (t1 t2 t3 t4 : Int), v.t1 = some t1 → v.resp = some (t4, t2) →
        (q.toNat = v.seq → ∃ n : Int, exec (.pdelayMessageRx p (.respFollowUp q t3)) s = .next (setDelay p.val
            { v with delay := some (((t4 - t1) + (t4 - t1) * n / 2 ^ 44 - (t3 - t2)) / 2), nrr := n, t1 := none, resp := none
                     prev := some (t3, t4) } s)
          ∧ (v.prev = none → n = v.nrr))
        ∧ (q.toNat ≠ v.seq → exec (.pdelayMessageRx p (.respFollowUp q t3)) s = .next s))
      ∧ (∀ (q : Word16) (t3 : Int), (v.t1 = none ∨ v.resp = none) → exec (.pdelayMessageRx p (.respFollowUp q t3)) s = .next s))
  ∧ (∀ (p : Port) (m : PdelayMessage) (s : State), clusterServes s = true → (gptpPorts s).contains p.val = false →
      exec (.pdelayMessageRx p m) s = .next s)
  ∧ (∀ (d : Fin 4) (s : State), clusterServes s = true →
      let v := dom s d.val
      let due := isGrandmaster s d.val = true ∧ frozen s = false ∧ (v.st = .locked ∨ v.st = .holdover)
      let u := reachClock (periodDue s v.syncAt (syncInterval (domCfg s d.val))) s
      (due → exec (.syncOriginate d) s = .next (sendEach (masterPorts u d.val)
        { kind := 0, number := (domCfg u d.val).number, seq := v.syncSeq, fields := [], next := .origin d.val }
        (takeSyncSeq d.val (setDom d.val { v with syncAt := some u.clk } u))))
      ∧ (¬due → exec (.syncOriginate d) s = .next s))
  ∧ (∀ (d : Fin 4) (s : State), clusterServes s = true →
      let none_ := (dom s d.val).st = .disabled ∨ ((domCfg s d.val).source = 1 ∧ (dom s d.val).fallback = false)
      (∀ l : Nat, ¬none_ → (dom s d.val).lastValid = some l →
        exec (.sourceLost d) s = .next (sourceLost d.val (reachClock (l + sourceTimeout s d.val) s)))
      ∧ (¬none_ → (dom s d.val).lastValid = none → exec (.sourceLost d) s = .next (sourceLost d.val s))
      ∧ (none_ → exec (.sourceLost d) s = .next s))
  ∧ (∀ (d : Nat) (s : State), (dom s d).st = .locked → (dom (sourceLost d s) d).st = .holdover)
  ∧ (∀ (p : Port) (d : Fin 4) (m : SyncMessage) (f : FollowUpMessage) (x : PdelayMessage) (n : Byte) (g : Word64) (s : State),
      clusterServes s = false →
      exec (.gptpSyncRx p m) s = .next s ∧ exec (.gptpFollowUpRx p f) s = .next s ∧ exec (.announceRx p n g) s = .next s
      ∧ exec .announceTimer s = .next s ∧ exec .pdelayTimer s = .next s ∧ exec (.pdelayMessageRx p x) s = .next s
      ∧ exec (.syncOriginate d) s = .next s ∧ exec (.sourceLost d) s = .next s)

/-- The time pins. A PPS_IN edge that stays high 100 ns is accepted 500 ms after the last one and counted as a glitch before,
and a shorter one, or one while the local clock stands still, is nothing; PPS_OUT and the periodic outputs rise at the next
instant of their timeline and fall their width later on it; a TSYNC capture enters the FIFO and raises its source, or counts an
overrun where the FIFO is full; W ends its slew in FOLLOW_TD0 once the gap is worked off; a mismatch of the copies of W is
recorded and escalates once; the backup domain counts its seconds while it has power. Elsewhere each changes nothing (R31, R235,
R240–R243). Completes: ppsInEdge, ppsOutEdge, tsyncCapture, tsyncOutputEdge, slewComplete, timeWMismatch, operatingSecondsTick.
A row of an instant brings the local clock to it, the model's choice (log 14). -/
def Obligations.TimePins : Prop :=
  (∀ (h : Nat) (s : State),
      (∀ l r, 100 ≤ h → clockStopped s = false → s.time.ppsEdges = l :: r → s.clk < l + 500000000 → exec (.ppsInEdge h) s
        = .next (recordLimited 0x0607 0 (fun n => leBytes 8 n) { s with time := { s.time with ppsGlitches := s.time.ppsGlitches + 1 } }))
      ∧ (∀ l r, 100 ≤ h → clockStopped s = false → s.time.ppsEdges = l :: r → l + 500000000 ≤ s.clk →
          exec (.ppsInEdge h) s = .next (acceptPps s))
      ∧ (100 ≤ h → clockStopped s = false → s.time.ppsEdges = [] → exec (.ppsInEdge h) s = .next (acceptPps s))
      ∧ ((h < 100 ∨ clockStopped s = true) → exec (.ppsInEdge h) s = .next s)
      ∧ (clusterServes s = false → acceptPps s = { s with time := { s.time with
          ppsEdges := (s.clk :: s.time.ppsEdges).take 2, ppsIn := localBytes s, ppsCnt := s.time.ppsCnt + 1 } }))
  ∧ (∀ s : State,
      let d := timeField s 1 1 0xFF
      (ppsOutOn s = true → s.time.ppsOut = false →
        ∃ u v : State, v = reachTimeline d ((timeline s d + nsVal 1000000000 - 1) / nsVal 1000000000 * nsVal 1000000000) s
          ∧ exec (.ppsOutEdge true) s = .next u ∧ u.time.ppsOut = true ∧ u.time.ppsRose = timeline v d ∧ u.clk = v.clk
          ∧ u.wire = s.wire ++ [.pin "PPS_OUT" true])
      ∧ ((ppsOutOn s = false ∨ s.time.ppsOut = true) → exec (.ppsOutEdge true) s = .next s)
      ∧ (s.time.ppsOut = true →
        ∃ u v : State, v = reachTimeline d (s.time.ppsRose + nsVal (timeField s 4 4 0 * 1000)) s
          ∧ exec (.ppsOutEdge false) s = .next u ∧ u.time.ppsOut = false ∧ u.clk = v.clk
          ∧ u.wire = s.wire ++ [.pin "PPS_OUT" false])
      ∧ (s.time.ppsOut = false → exec (.ppsOutEdge false) s = .next s))
  ∧ (∀ (n : Fin 4) (up : Bool) (s : State),
      let v := tsync s n.val
      let on := timeField s (64 + 16 * n.val) 1 0 = 1 ∧ bit (timeField s (64 + 16 * n.val + 1) 1 0) (if up = true then 0 else 1) = true
      let near := ∃ l : Nat, v.last = some l ∧ s.clk < l + 100
      (on → ¬near → v.fifo.length < 16 →
        exec (.tsyncCapture n up) s = .next (raiseInt 6 (setTsync n.val { v with
          fifo := v.fifo ++ [timeBytes (timeline s (timeField s (64 + 16 * n.val + 2) 1 0))], last := some s.clk } s)))
      ∧ (on → ¬near → 16 ≤ v.fifo.length → exec (.tsyncCapture n up) s
          = .next (recordLimited 0x0608 n.val (fun c => [BitVec.ofNat 8 n.val] ++ leBytes 8 c)
              (setTsync n.val { v with overruns := v.overruns + 1, last := some s.clk } s)))
      ∧ ((¬on ∨ near) → exec (.tsyncCapture n up) s = .next s))
  ∧ (∀ (n : Fin 4) (s : State),
      let v := tsync s n.val
      let o := 64 + 16 * n.val
      let d := timeField s (o + 2) 1 0
      (timeField s o 1 0 = 2 → v.high = false →
        ∃ u t : State, t = reachTimeline d
            (boundaryFrom (timeline s d) (baseNs s + timeField s (o + 8) 4 0) (timeField s (o + 4) 4 0)) s
          ∧ exec (.tsyncOutputEdge n true) s = .next u ∧ (tsync u n.val).high = true ∧ (tsync u n.val).rose = timeline t d
          ∧ u.clk = t.clk ∧ u.wire = s.wire ++ [.pin (tsyncName n.val) true])
      ∧ (timeField s o 1 0 = 2 → v.high = true →
        ∃ u t : State, t = reachTimeline d (v.rose + nsVal (timeField s (o + 12) 4 0)) s
          ∧ exec (.tsyncOutputEdge n false) s = .next u ∧ (tsync u n.val).high = false
          ∧ u.clk = t.clk ∧ u.wire = s.wire ++ [.pin (tsyncName n.val) false])
      ∧ ((timeField s o 1 0 ≠ 2 ∨ v.high = true) → exec (.tsyncOutputEdge n true) s = .next s)
      ∧ ((timeField s o 1 0 ≠ 2 ∨ v.high = false) → exec (.tsyncOutputEdge n false) s = .next s))
  ∧ (∀ s : State,
      let g := (wNow s - domValue (dom s 0) s.clk).natAbs
      (s.time.w.mode = .slew → exec .slewComplete s
        = .next (setWMode .followTd0 (reachClock (refCeil (s.clk + (g * 10000 + 2 ^ 60 - 1) / 2 ^ 60)) s)))
      ∧ (s.time.w.mode ≠ .slew → exec .slewComplete s = .next s))
  ∧ (∀ (a : Bool) (s : State),
      (s.time.w.ignored = 0 → exec (.timeWMismatch a) s = .next (escalate 4 (record 0x0606 []
        { s with time := { s.time with w := { s.time.w with ignored := if a = true then 2 else 1 } } })))
      ∧ (s.time.w.ignored ≠ 0 → exec (.timeWMismatch a) s = .next s))
  ∧ (∀ s : State,
      (s.rst.invalid.contains .vddCore = false →
        exec .operatingSecondsTick s = .next { s with bkp := { s.bkp with opTick := s.bkp.opTick + 1 } })
      ∧ (s.rst.invalid.contains .vddCore = true → exec .operatingSecondsTick s = .next s))

/-- The instructions of a Seam engine that write DST. Where the handler in execution has such an instruction next, each gives
DST the value of Table 9.10, 32 bits wide, and the handler goes on with the next instruction; a write to G0 is ignored, G0 reads
0, and no other register changes (R255). Completes: seamLdi, seamLui, seamMov, seamAdd, seamAddi, seamSub, seamAnd, seamOr,
seamXor, seamShl, seamShr, seamSar, seamMulq, seamBswap. The Seam instructions that touch the buffers, the constants and the
clock, that branch, and that end the handler. An address outside the buffer or an index outside the table ends the handler as a
fault; END sends its output and DROP ends it without one. TIME with another IMM than 0 or 1, for which the spec states no value,
writes a free number. A handler that has run past its last instruction ends as a fault, whichever instruction's row comes; a row
of another OP than the one that is next, or for an engine that is stopped or runs no handler, changes nothing (R255, R256, Table
9.10). Completes: seamEnd, seamDrop, seamGetf, seamPutf, seamLdc, seamTime, seamBeq, seamBne, seamBltu, seamBlt, seamJmp. Free
values: log 1. -/
def Obligations.SeamInstructions : Prop :=
  (∀ (n : Fin 4) (r : SeamRun) (w : Nat) (s : State),
    let d := seamReg r (seamDst w)
    let v := seamReg r (seamSrc w)
    let imm := seamImm w
    (seamAt 0x02 n.val r w s → exec (.seamLdi n) s = .next (seamWrites n.val r w imm s))
    ∧ (seamAt 0x03 n.val r w s → exec (.seamLui n) s = .next (seamWrites n.val r w (bits imm 0 14 * 2 ^ 18 + d % 2 ^ 18) s))
    ∧ (seamAt 0x04 n.val r w s → exec (.seamMov n) s = .next (seamWrites n.val r w v s))
    ∧ (seamAt 0x05 n.val r w s → exec (.seamAdd n) s = .next (seamWrites n.val r w (d + v) s))
    ∧ (seamAt 0x06 n.val r w s → imm < 2 ^ 17 → exec (.seamAddi n) s = .next (seamWrites n.val r w (u32 ((d : Int) + (imm : Int))) s))
    ∧ (seamAt 0x06 n.val r w s → 2 ^ 17 ≤ imm →
        exec (.seamAddi n) s = .next (seamWrites n.val r w (u32 ((d : Int) + (imm : Int) - 2 ^ 18)) s))
    ∧ (seamAt 0x07 n.val r w s → exec (.seamSub n) s = .next (seamWrites n.val r w (d + 2 ^ 32 - v) s))
    ∧ (seamAt 0x08 n.val r w s → exec (.seamAnd n) s = .next (seamWrites n.val r w (d &&& v) s))
    ∧ (seamAt 0x09 n.val r w s → exec (.seamOr n) s = .next (seamWrites n.val r w (d ||| v) s))
    ∧ (seamAt 0x0A n.val r w s → exec (.seamXor n) s = .next (seamWrites n.val r w (d ^^^ v) s))
    ∧ (seamAt 0x0B n.val r w s → exec (.seamShl n) s = .next (seamWrites n.val r w (d * 2 ^ bits imm 0 5) s))
    ∧ (seamAt 0x0C n.val r w s → exec (.seamShr n) s = .next (seamWrites n.val r w (d / 2 ^ bits imm 0 5) s))
    ∧ (seamAt 0x0D n.val r w s → exec (.seamSar n) s = .next (seamWrites n.val r w (u32 (s32 d / 2 ^ bits imm 0 5)) s))
    ∧ (seamAt 0x0E n.val r w s → exec (.seamMulq n) s = .next (seamWrites n.val r w (u32 (s32 d * s32 v / 2 ^ 16)) s))
    ∧ (seamAt 0x0F n.val r w s → exec (.seamBswap n) s = .next (seamWrites n.val r w (bswap imm d) s))
    ∧ ∀ (x k : Nat), seamReg (seamSet r (seamDst w) x) k
        = if k = 0 then 0 else if k = seamDst w then x % 2 ^ 32 else seamReg r k)
  ∧ ((∀ (n : Fin 4) (r : SeamRun) (w : Nat) (s : State),
    let d := seamReg r (seamDst w)
    let v := seamReg r (seamSrc w)
    let imm := seamImm w
    let a := v + bits imm 0 12
    let k := bits imm 12 6 + 1
    let i := v + bits imm 0 10
    (seamAt 0x00 n.val r w s → exec (.seamEnd n) s
        = .next (sendOutput n.val r.job r.output (updEngine n.val (fun e => { e with run := none }) s)))
    ∧ (seamAt 0x01 n.val r w s → exec (.seamDrop n) s = .next (seamAbort n.val s))
    ∧ (seamAt 0x10 n.val r w s → a + k ≤ 8 * bufferSize →
        exec (.seamGetf n) s = .next (seamWrites n.val r w (getBits r.input a k) s))
    ∧ (seamAt 0x10 n.val r w s → 8 * bufferSize < a + k → exec (.seamGetf n) s = .next (seamAbort n.val s))
    ∧ (seamAt 0x11 n.val r w s → a + k ≤ 8 * bufferSize →
        exec (.seamPutf n) s = .next (seamGoesOn n.val 0 { r with output := putBits r.output a k d } s))
    ∧ (seamAt 0x11 n.val r w s → 8 * bufferSize < a + k → exec (.seamPutf n) s = .next (seamAbort n.val s))
    ∧ (seamAt 0x12 n.val r w s → 4 * i + 4 ≤ r.consts.length →
        exec (.seamLdc n) s = .next (seamWrites n.val r w (fieldLe r.consts (4 * i) 4) s))
    ∧ (seamAt 0x12 n.val r w s → r.consts.length < 4 * i + 4 → exec (.seamLdc n) s = .next (seamAbort n.val s))
    ∧ (seamAt 0x13 n.val r w s → imm = 0 → exec (.seamTime n) s = .next (seamWrites n.val r w (stampNanos (wNow s)) s))
    ∧ (seamAt 0x13 n.val r w s → imm = 1 →
        exec (.seamTime n) s = .next (seamWrites n.val r w (u32 (wNow s / 2 ^ 60 / 1000000000)) s))
    ∧ (seamAt 0x13 n.val r w s → 2 ≤ imm →
        exec (.seamTime n) s = .next (seamWrites n.val r w (drawNat s).1 (drawNat s).2))
    ∧ (seamAt 0x18 n.val r w s → exec (.seamBeq n) s = .next (seamGoesOn n.val (if d = v then bits imm 0 8 else 0) r s))
    ∧ (seamAt 0x19 n.val r w s → exec (.seamBne n) s = .next (seamGoesOn n.val (if d ≠ v then bits imm 0 8 else 0) r s))
    ∧ (seamAt 0x1A n.val r w s → exec (.seamBltu n) s = .next (seamGoesOn n.val (if d < v then bits imm 0 8 else 0) r s))
    ∧ (seamAt 0x1B n.val r w s → exec (.seamBlt n) s = .next (seamGoesOn n.val (if s32 d < s32 v then bits imm 0 8 else 0) r s))
    ∧ (seamAt 0x1C n.val r w s → exec (.seamJmp n) s = .next (seamGoesOn n.val (bits imm 0 8) r s)))
  ∧ ∀ x ∈ [(0x00, Instr.seamEnd), (0x01, .seamDrop), (0x02, .seamLdi), (0x03, .seamLui), (0x04, .seamMov), (0x05, .seamAdd),
        (0x06, .seamAddi), (0x07, .seamSub), (0x08, .seamAnd), (0x09, .seamOr), (0x0A, .seamXor), (0x0B, .seamShl), (0x0C, .seamShr),
        (0x0D, .seamSar), (0x0E, .seamMulq), (0x0F, .seamBswap), (0x10, .seamGetf), (0x11, .seamPutf), (0x12, .seamLdc),
        (0x13, .seamTime), (0x18, .seamBeq), (0x19, .seamBne), (0x1A, .seamBltu), (0x1B, .seamBlt), (0x1C, .seamJmp)],
      ∀ (n : Fin 4) (s : State),
        ((engineOf s n.val).stopped = true ∨ (engineOf s n.val).run = none → exec (x.2 n) s = .next s)
        ∧ ∀ r : SeamRun, (engineOf s n.val).stopped = false → (engineOf s n.val).run = some r →
            (seamWord r = none → exec (x.2 n) s = .next (seamAbort n.val s))
            ∧ ∀ w : Nat, seamWord r = some w → seamOp w ≠ x.1 → exec (x.2 n) s = .next s)

/-- CAN channels. While the Seam runs and the channel receives, a frame its MODE admits is acknowledged and received, and one
that failed, that MODE does not admit, or whose length its format does not know, counts as an error; either way the channel's
own frame loses the bus, which is arbitrated again. A frame that was sent leaves the bus, and the channel restarts where an
activation waits for that, or drives STB high where it stopped meanwhile. An error-active channel becomes error passive and
records it; one that transmits goes bus-off; one that recovers from bus-off returns with its counters at 0, and one that was
error passive with its counters below 128; the rate search of AUTONOMOUS tries the next rate after 100 ms. Where there is none
of that, these rows change nothing (R247, R250, R270, R274, R275). Completes: canFrameRx, canTxDone, legErrorPassive, legBusOff,
legRecover, canRateSearch. A row of an instant brings the local clock to it, the model's choice (log 14). Free values: log 1. -/
def Obligations.CanChannels : Prop :=
  (∀ (c : Fin 16) (f : LegacyFrame) (ago : Nat) (failed : Bool) (s : State),
      let ep := 48 + c.val
      let on := legRuns s = true ∧ chReceives (chOf s ep) = true
      let good := failed = false ∧ fmtMode f.fmt ≤ canMode s ep ∧ canLenOk f.fmt f.data.length = true
      let u := canGood ep (releaseBus ep s)
      (on → good → exec (.canFrameRx c { frame := f, ago := ago, failed := failed }) s
        = .next (arbitrate ep (received ep f (u.clk - ago) (setCh ep { chOf u ep with rateKept := true } u))))
      ∧ (on → ¬good → exec (.canFrameRx c { frame := f, ago := ago, failed := failed }) s = .next (arbitrate ep (releaseBus ep (canError ep s))))
      ∧ (¬on → exec (.canFrameRx c { frame := f, ago := ago, failed := failed }) s = .next s))
  ∧ (∀ (c : Fin 16) (s : State),
      let ep := 48 + c.val
      let ch := chOf s ep
      (∀ x : LegItem, ch.onBus = some x →
        let u := driveFrame ep x.frame (setCh ep { ch with onBus := none, tec := ch.tec - 1 } s)
        (ch.restart = true → exec (.canTxDone c) s = .next (segProgress ep (restartChannel ep u)))
        ∧ (ch.restart = false → ch.st ≠ 6 → exec (.canTxDone c) s = .next (segProgress ep (arbitrate ep u)))
        ∧ (ch.restart = false → ch.st = 6 → exec (.canTxDone c) s = .next (segProgress ep (arbitrate ep (setStb ep true u)))))
      ∧ (ch.onBus = none → exec (.canTxDone c) s = .next s))
  ∧ (∀ (c : Fin 16) (tec rec' : Nat) (s : State),
      let ep := 48 + c.val
      let ch := chOf s ep
      (ch.st = 1 → exec (.legErrorPassive c tec rec') s
        = .next (record 0x0701 [BitVec.ofNat 8 ep] (setCh ep { ch with st := 2, tec := tec, recv := rec' } s)))
      ∧ (ch.st ≠ 1 → exec (.legErrorPassive c tec rec') s = .next s))
  ∧ (∀ (c : Fin 16) (s : State),
      let ch := chOf s (48 + c.val)
      ((ch.st = 1 ∨ ch.st = 2) → exec (.legBusOff c) s = .next (busOff (48 + c.val) 0x0702 s))
      ∧ (ch.st ≠ 1 → ch.st ≠ 2 → exec (.legBusOff c) s = .next s)
      ∧ (ch.st = 3 → ch.recovering = true →
        exec (.legRecover c) s = .next (recoverCh (48 + c.val) (setCh (48 + c.val) { ch with tec := 0, recv := 0 } s)))
      ∧ (ch.st = 2 → ∃ (u : State) (t r : Nat), t < 128 ∧ r < 128 ∧ (ch.tec < 128 → t = ch.tec) ∧ (ch.recv < 128 → r = ch.recv)
          ∧ exec (.legRecover c) s = .next (recoverCh (48 + c.val) (setCh (48 + c.val) { ch with tec := t, recv := r } u))
          ∧ u = { s with freeCtr := u.freeCtr })
      ∧ (ch.st ≠ 2 → (ch.st ≠ 3 ∨ ch.recovering = false) → exec (.legRecover c) s = .next s))
  ∧ (∀ (c : Fin 16) (s : State),
      let ch := chOf s (48 + c.val)
      let on := legAuto s = true ∧ ch.st = 4 ∧ ch.rateKept = false
      (on → ∃ u : State, exec (.canRateSearch c) s = .next u ∧ u.clk = Nat.max s.clk (ch.trialAt + 100000000)
          ∧ chOf u (48 + c.val) = { ch with trials := ch.trials + 1, trialAt := u.clk })
      ∧ (¬on → exec (.canRateSearch c) s = .next s))

/-- LIN and FlexRay. A master's slot begins when the slot before it has run out, counts a response that did not come, and sends
the next header of its schedule; a slave answers or awaits what a header names; a response awaited is received where its length
and checksum fit its entry and counts as an error where they do not or none came; a stuck bus and a halted controller count as
bus-off; a cycle start stamps the cycle and sends its buffers; a frame a receive buffer takes replaces the one before it; a
halted controller restarts 100 ms after it halted. A row for a channel that is not in the state it needs changes nothing but
that it may show that the bus works again (R247, R248, R251, R252, R258, R268, R271). Completes: linSlotStart, linHeaderRx,
linResponseRx, linBusStuck, frCycleStart, frFrameRx, frPocHalt, frHaltRestart. A row of an instant brings the local clock to it,
the model's choice (log 14). -/
def Obligations.LinAndFlexRay : Prop :=
  (∀ (c : Fin 8) (s : State),
      let ep := 64 + c.val
      let on := legRuns s = true ∧ legAuto s = false ∧ linMaster s ep = true
      let u := busWorks ep s
      let ch := chOf u ep
      let n := schedNum u ep
      let v := if ch.slotAt = 0 then u else reachClock (ch.slotAt + (linSched u ep ((ch.slot + n - 1) % n)).2) u
      let w := if ch.awaiting.isSome then countCh ep 2 1 v else v
      let id := (linSched w ep (chOf w ep).slot).1
      (on → ch.st = 1 → exec (.linSlotStart c) s = .next (linHeader ep id (emit (.linHeader ep id) (setCh ep
          { chOf w ep with slot := ((chOf w ep).slot + 1) % n, slotAt := w.clk, awaiting := none, breakAt := w.clk } w))))
      ∧ (on → ch.st ≠ 1 → exec (.linSlotStart c) s = .next u)
      ∧ (¬on → exec (.linSlotStart c) s = .next s))
  ∧ (∀ (c : Fin 8) (i : Fin 64) (ago : Nat) (s : State),
      let ep := 64 + c.val
      let on := legRuns s = true ∧ linMaster s ep = false
      let u := busWorks ep s
      let w := if (chOf u ep).awaiting.isSome then countCh ep 2 1 u else u
      (on → (chOf u ep).st = 1 → exec (.linHeaderRx c { id := i, ago := ago }) s
        = .next (linHeader ep i.val (setCh ep { chOf w ep with awaiting := none, breakAt := w.clk - ago } w)))
      ∧ (on → (chOf u ep).st ≠ 1 → exec (.linHeaderRx c { id := i, ago := ago }) s = .next u)
      ∧ (¬on → exec (.linHeaderRx c { id := i, ago := ago }) s = .next s))
  ∧ (∀ (c : Fin 8) (i : Fin 64) (s : State),
      let ep := 64 + c.val
      let ch := chOf s ep
      let u := setCh ep { ch with awaiting := none } s
      (ch.awaiting = some i.val → ch.st = 1 →
        exec (.linResponseRx c i none) s = .next (countCh ep 2 1 u)
        ∧ ∀ (d : Bytes) (sum : Byte),
          (linFits u ep i.val d sum = true →
            exec (.linResponseRx c i (some (d, sum))) s = .next (received ep (linFrame i.val d) ch.breakAt u))
          ∧ (linFits u ep i.val d sum = false → exec (.linResponseRx c i (some (d, sum))) s = .next (countCh ep 2 1 u)))
      ∧ ((ch.awaiting ≠ some i.val ∨ ch.st ≠ 1) →
        ∀ x : Option (Bytes × Byte), exec (.linResponseRx c i x) s = .next s))
  ∧ (∀ (c : Fin 8) (s : State),
      ((chOf s (64 + c.val)).st = 1 → exec (.linBusStuck c) s = .next (busOff (64 + c.val) 0x0702 s))
      ∧ ((chOf s (64 + c.val)).st ≠ 1 → exec (.linBusStuck c) s = .next s))
  ∧ (∀ (y : Fin 64) (s : State),
      let on := legRuns s = true ∧ chConfigured s 72 = true
      let u := busWorks 72 s
      let ch := chOf u 72
      let v := if ch.st = 2 ∧ ch.recovering = true then setCh 72 { ch with st := 1, recovering := false } u else u
      let w := { v with leg := { v.leg with frCycle := y.val, frCycleAt := v.clk } }
      (on → exec (.frCycleStart y) s
        = .next (if (chOf w 72).st = 1 then (frBufs w).foldl (fun s i => frSend y.val i s) w else w))
      ∧ (¬on → exec (.frCycleStart y) s = .next s))
  ∧ (∀ (k : Nat) (y : Fin 64) (a : Fin 2) (ago : Nat) (s : State),
      let on := legRuns s = true ∧ chReceives (chOf s 72) = true
      let buf := (frBufs s).find? (fun i =>
        !bit (frField s i 2 1) 2 && bit (frField s i 2 1) a.val && frField s i 0 2 == k && frSelects s i y.val)
      let w := noteTraffic 72 (countCh 72 0 1 s)
      (on → exec (.frFrameRx k y a { data := none, ago := ago }) s = .next (countCh 72 2 1 s))
      ∧ (∀ d : Bytes, on → buf = none → exec (.frFrameRx k y a { data := some d, ago := ago }) s = .next s)
      ∧ (∀ (d : Bytes) (i : Nat), on → buf = some i →
          let f := { frFrame s i y.val d with chA := a.val == 0, chB := a.val == 1 }
          ((chOf w 72).engine = none → exec (.frFrameRx k y a { data := some d, ago := ago }) s = .next (countCh 72 11 1 w))
          ∧ ((chOf w 72).engine.isSome = true → mappingFor w 72 f = none → exec (.frFrameRx k y a { data := some d, ago := ago }) s = .next w)
          ∧ ∀ (m : Nat) (c : Bytes), (chOf w 72).engine.isSome = true → mappingFor w 72 f = some (m, c) →
            let v := if Tab.has w.leg.frRx i = true then countCh 72 5 1 w else w
            ∃ x : LegItem, exec (.frFrameRx k y a { data := some d, ago := ago }) s
                = .next { v with leg := { v.leg with frRx := Tab.set v.leg.frRx i x } }
              ∧ x = { frame := f, stamp := wValue v (v.clk - ago), since := v.clk - ago, maxAge := mapAge c, owner := m
                      order := x.order }
              ∧ ∀ e ∈ v.leg.frRx, e.2.order < x.order)
      ∧ (¬on → ∀ x : Option Bytes, exec (.frFrameRx k y a { data := x, ago := ago }) s = .next s))
  ∧ (∀ s : State,
      let u := busOff 72 0x0704 s
      (((chOf s 72).st = 1 ∨ (chOf s 72).st = 2) →
        exec .frPocHalt s = .next (setCh 72 { chOf u 72 with recovering := false } u))
      ∧ ((chOf s 72).st ≠ 1 → (chOf s 72).st ≠ 2 → exec .frPocHalt s = .next s))
  ∧ (∀ s : State,
      let on := (chOf s 72).st = 3 ∧ autoRecover s 72 = true ∧ (chOf s 72).recovering = false
      (on → ∃ u : State, exec .frHaltRestart s = .next u ∧ u.clk = Nat.max s.clk ((chOf s 72).downAt + 100000000)
        ∧ chOf u 72 = { chOf s 72 with recovering := true })
      ∧ (¬on → exec .frHaltRestart s = .next s))

/-- The gateway. An item of a channel's store or queue, or of a FlexRay buffer, that has aged out is removed and counted; a
bundle leaves at its timeout unless its class is raised at GW; a frame GW sends, once it is whole and its channels take it, goes
to the engines of its channels, each with the channels it serves, unless it is spoiled or oversize; an idle engine goes on with
the event in service where it can, or serves the next; an engine that faults stops for good, loses what it served, and its
channels move or lose their engine. A channel, bundle, frame or engine of which none of that holds is left alone (R254, R259,
R260, R268, R269, R272). Completes: legacyAgeExpiry, bundleTimeout, gwFrameToSeam, seamEventServe, legEngineFault. A row of an
instant brings the local clock to it, the model's choice (log 14). -/
def Obligations.GatewayEvents : Prop :=
  (∀ (c : Fin 25) (i : Nat) (s : State), c.val < 24 →
      let ep := 48 + c.val
      let ch := chOf s ep
      (∀ x : LegItem, (ch.store ++ ch.tx)[i]? = some x →
        let u := reachClock (x.since + x.maxAge) s
        (i < ch.store.length → exec (.legacyAgeExpiry c i) s
          = .next (segProgress ep (countCh ep 4 1 (setCh ep { ch with store := ch.store.eraseIdx i } u))))
        ∧ (ch.store.length ≤ i → exec (.legacyAgeExpiry c i) s
          = .next (segProgress ep (countCh ep 4 1 (setCh ep { ch with tx := ch.tx.eraseIdx (i - ch.store.length) } u)))))
      ∧ ((ch.store ++ ch.tx)[i]? = none → exec (.legacyAgeExpiry c i) s = .next s))
  ∧ (∀ (i : Nat) (s : State),
      (∀ (b : Nat) (x : LegItem), s.leg.frRx[i]? = some (b, x) →
        let u := reachClock (x.since + x.maxAge) s
        exec (.legacyAgeExpiry 24 i) s = .next (countCh 72 4 1 { u with leg := { u.leg with frRx := Tab.del u.leg.frRx b } }))
      ∧ (s.leg.frRx[i]? = none → exec (.legacyAgeExpiry 24 i) s = .next s))
  ∧ (∀ (m : Nat) (s : State),
      let b := Tab.get s.leg.bundles m {}
      (b.messages ≠ [] → gwHeld s (mapClass b.cfg) = false →
        exec (.bundleTimeout m) s = .next (flushBundle m (reachClock (b.firstAt + fieldLe b.cfg 34 2 * 1000) s)))
      ∧ ((b.messages = [] ∨ gwHeld s (mapClass b.cfg) = true) → exec (.bundleTimeout m) s = .next s))
  ∧ (∀ (k : Nat) (x : Sending) (f : Frame) (s : State), (egress s 30).sending = some x → frameOf s k = some f →
      let goes := x.frame = k ∧ f.ended = true ∧ (frameChannels f).all (channelTakes s) = true
      let bad := f.oversize = true ∨ ∃ d : Dest, destAt f 30 = some d ∧ d.spoil = true
      let u := finishSending 30 s
      (¬goes → exec (.gwFrameToSeam k) s = .next s)
      ∧ (goes → bad → exec (.gwFrameToSeam k) s = .next u)
      ∧ (goes → ¬bad → (frameChannels f).all (fun ep => (chOf u ep).engine.isSome) = true →
        ∃ v : State, exec (.gwFrameToSeam k) s = .next v ∧ v = { u with leg := { u.leg with engines := v.leg.engines } }
          ∧ ∀ n : Fin 4,
            let m := sumBy (fun ep => if (chOf u ep).engine = some n.val then 2 ^ (ep - 48) else 0) (frameChannels f)
            (engineOf v n.val).gwIn = (engineOf u n.val).gwIn ++ (if m = 0 then [] else
              [{ content := editedBytes s 30 f, mask := m, stamp := wNow u, since := u.clk, src := f.srcEp }])))
  ∧ (∀ (k : Nat) (s : State), ((egress s 30).sending = none ∨ frameOf s k = none) → exec (.gwFrameToSeam k) s = .next s)
  ∧ (∀ (n : Fin 4) (s : State),
      let e := engineOf s n.val
      let idle := e.stopped = false ∧ e.run = none ∧ legRuns s = true
      (∀ (j : SeamJob) (rest : List SeamJob), idle → e.jobs = j :: rest → jobReady s j = true →
        exec (.seamEventServe n) s = .next (beginJob n.val j (updEngine n.val (fun e => { e with jobs := rest }) s)))
      ∧ (idle → (∀ j ∈ e.jobs.head?, jobReady s j = false) → exec (.seamEventServe n) s = .next (serveNext n.val s))
      ∧ (¬idle → exec (.seamEventServe n) s = .next s))
  ∧ (∀ (n : Fin 4) (s : State),
      ((engineOf s n.val).stopped = false →
        ∃ u : State, exec (.legEngineFault n) s = .next u ∧ (engineOf u n.val).stopped = true ∧ (engineOf u n.val).run = none
          ∧ ∀ ep : Nat, 48 ≤ ep → ep ≤ 72 → (chOf u ep).engine ≠ some n.val)
      ∧ ((engineOf s n.val).stopped = true → exec (.legEngineFault n) s = .next s))

/-- Wake sources, pins and requests. WAKE_IN and LWAKE follow their levels and renew idleness; one that rises where WAKE_EN
admits it is detected, and an LWAKE that only keeps the device awake makes a wake request while it runs; WAKE_OUT falls at the
end of its pulse and a wake request and a hold lapse at their time; where none of them is under way nothing changes (R324, R325,
R330, R336, R343). Completes: wakeInDetect, lwakeDetect, wakeOutEnd, wakeRequestExpiry, holdExpiry. A row of an instant brings
the local clock to it, the model's choice (log 14). -/
def Obligations.WakeEvents : Prop :=
  (∀ (h : Bool) (s : State),
      let u := updWake (fun w => { w with wakeIn := h, idleFrom := s.clk }) s
      (h = true → bit (wakeEn u) 0 = true → exec (.wakeInDetect h) s = .next (detect 1 u))
      ∧ ((h = false ∨ bit (wakeEn u) 0 = false) → exec (.wakeInDetect h) s = .next u))
  ∧ (∀ (n : Fin 4) (h : Bool) (s : State), ∃ u : State, bit u.wake.lwake n.val = h
      ∧ (∀ m : Nat, m ≠ n.val → bit u.wake.lwake m = bit s.wake.lwake m)
      ∧ u = updWake (fun w => { w with lwake := u.wake.lwake, idleFrom := s.clk }) s
      ∧ (let runs := bit (lwakeKeep u) n.val = true ∧ s.sys.mode ≠ .standby ∧ s.sys.mode ≠ .backup
        (h = true → bit (wakeEn u) (n.val + 1) = true → exec (.lwakeDetect n h) s = .next (detect (2 ^ (n.val + 1)) u))
        ∧ (h = true → bit (wakeEn u) (n.val + 1) = false → runs → exec (.lwakeDetect n h) s = .next (wakeRequest 0 u))
        ∧ (h = true → bit (wakeEn u) (n.val + 1) = false → ¬runs → exec (.lwakeDetect n h) s = .next u)
        ∧ (h = false → exec (.lwakeDetect n h) s = .next u)))
  ∧ (∀ s : State,
      (s.wake.wakeOut = true → ∃ u : State, exec .wakeOutEnd s = .next u ∧ u.wake.wakeOut = false
        ∧ u.clk = Nat.max s.clk (s.wake.wakeOutAt + wakeOutMs s * 1000000) ∧ u.wire = s.wire ++ [.pin "WAKE_OUT" false])
      ∧ (s.wake.wakeOut = false → exec .wakeOutEnd s = .next s))
  ∧ (∀ s : State,
      (∀ t : Nat, s.wake.requestAt = some t → ∃ u : State, exec .wakeRequestExpiry s = .next u
        ∧ u.wake.requestAt = none ∧ u.wake.idleFrom = u.clk ∧ u.clk = Nat.max s.clk (t + sleepField s 10 2 * 1000000))
      ∧ (s.wake.requestAt = none → exec .wakeRequestExpiry s = .next s))
  ∧ (∀ (i : Fin 32) (s : State),
      (∀ t : Nat, (segOf s i.val).hold = some t →
        exec (.holdExpiry (some i)) s = .next (setSeg i.val { segOf s i.val with hold := none } (reachClock t s)))
      ∧ ((segOf s i.val).hold = none → exec (.holdExpiry (some i)) s = .next s))
  ∧ (∀ s : State,
      (∀ t : Nat, s.wake.hold = some t → ∃ u : State, exec (.holdExpiry none) s = .next u ∧ u.wake.hold = none
        ∧ u.clk = Nat.max s.clk t ∧ u.wake.idleFrom = u.clk)
      ∧ (s.wake.hold = none → exec (.holdExpiry none) s = .next s))

/-- The Dusk ring. A frame that comes while Dusk is served at a member is taken where R328 accepts it, and else rejected and
counted; a TOKEN is judged, a NAK counts and ends the round it names, a COMMIT brings a node that consented to QUIET, a DAWN is
answered; in AUTONOMOUS a COMMIT is answered as R331 says and a DAWN wakes a quiet node; a round that times out ends, with a NAK
where the node initiated it; a ring idle for long begins a round; the quiet window ends in power-down. A frame of another length
or type, and a row whose condition does not hold, changes nothing (R328–R331, R335, R344). Completes: duskToken, duskNak,
duskCommit, dawn, ringTimeout, idleInitiate, quietWindowEnd. A row of an instant brings the local clock to it, the model's
choice (log 14). -/
def Obligations.DuskRing : Prop :=
  (∀ (b : Bytes) (s : State),
      let on := b.length = 48 ∧ duskServed s = true ∧ ringMember s = true
      let ok := duskAccepted s b = true
      let mark := fun (u : State) => if duskPair b = u.wake.greatest then updWake (fun w => { w with ended := true }) u else u
      let naked := mark (updWake (fun w => { w with naks := w.naks + 1 }) s)
      let main := s.sys.mode ≠ .autonomous
      (on → byteAt b 1 = 1 → ok → exec (.duskToken b) s = .next (token b s))
      ∧ (on → byteAt b 1 = 1 → ¬ok → exec (.duskToken b) s = .next (duskReject s))
      ∧ ((¬on ∨ byteAt b 1 ≠ 1) → exec (.duskToken b) s = .next s)
      ∧ (on → byteAt b 1 = 2 → ok → duskPair b = s.wake.round → s.wake.ring = .consented →
          exec (.duskNak b) s = .next (ringAwake naked))
      ∧ (on → byteAt b 1 = 2 → ok → duskPair b = s.wake.round → s.wake.ring = .initiating →
          exec (.duskNak b) s = .next (ringAwake (replyRound 1 (byteAt b 11) (fieldBe b 22 2) naked)))
      ∧ (on → byteAt b 1 = 2 → ok → (duskPair b ≠ s.wake.round ∨ (s.wake.ring ≠ .consented ∧ s.wake.ring ≠ .initiating)) →
          exec (.duskNak b) s = .next naked)
      ∧ (on → byteAt b 1 = 2 → ¬ok → exec (.duskNak b) s = .next (duskReject s))
      ∧ ((¬on ∨ byteAt b 1 ≠ 2) → exec (.duskNak b) s = .next s)
      ∧ (main → on → byteAt b 1 = 3 → ok → duskPair b = s.wake.round → s.wake.ring = .consented →
          exec (.duskCommit b) s = .next (enterQuiet (fieldBe b 20 2) (mark s)))
      ∧ (main → on → byteAt b 1 = 3 → ok → (duskPair b ≠ s.wake.round ∨ s.wake.ring ≠ .consented) →
          exec (.duskCommit b) s = .next (mark s))
      ∧ (main → on → byteAt b 1 = 3 → ¬ok → exec (.duskCommit b) s = .next (duskReject s))
      ∧ (main → (¬on ∨ byteAt b 1 ≠ 3) → exec (.duskCommit b) s = .next s)
      ∧ (¬main → exec (.duskCommit b) s = .next (autoCommit b s))
      ∧ (main → on → byteAt b 1 = 4 → ok → exec (.dawn b) s = .next (dawnRx s))
      ∧ (main → on → byteAt b 1 = 4 → ¬ok → exec (.dawn b) s = .next (duskReject s))
      ∧ (main → (¬on ∨ byteAt b 1 ≠ 4) → exec (.dawn b) s = .next s)
      ∧ (let wakes := b.length = 48 ∧ byteAt b 0 = 1 ∧ byteAt b 1 = 4 ∧ duskServed s = true ∧ s.wake.ring = .quiet
        (¬main → wakes → exec (.dawn b) s = .next (dawnRx s)) ∧ (¬main → ¬wakes → exec (.dawn b) s = .next s)))
  ∧ (∀ s : State,
      let u := reachClock (s.wake.timeoutAt + s.wake.timeoutMs * 1000000) s
      (s.wake.ring = .consented → exec .ringTimeout s = .next (ringAwake u))
      ∧ (s.wake.ring = .initiating →
        exec .ringTimeout s = .next (ringAwake (replyRound 2 0xFF 3 (sendNak s.wake.round 3 u))))
      ∧ (s.wake.ring ≠ .consented → s.wake.ring ≠ .initiating → exec .ringTimeout s = .next s))
  ∧ (∀ s : State,
      let goes := sleepField s 28 4 ≠ 0 ∧ ringMember s = true ∧ duskServed s = true ∧ bit (sleepField s 5 1) 1 = true
        ∧ s.wake.ring = .awake ∧ frozen s = false ∧ stayAwake s = none
      (goes → exec .idleInitiate s = .next (initiate (reachClock (s.wake.idleFrom + sleepField s 28 4 * 1000000000) s)))
      ∧ (¬goes → exec .idleInitiate s = .next s))
  ∧ (∀ s : State,
      let ends := s.wake.ring = .quiet ∧ s.wake.down = false ∧ s.rst.episode = none
      (ends → exec .quietWindowEnd s = .next (powerDown (reachClock (s.wake.quietAt + s.wake.quietMs * 1000000) s)))
      ∧ (¬ends → exec .quietWindowEnd s = .next s))

/-- TC10 and the segments of partial networking. A port with TC10 counts its partner's sleep request, and accepts it and sleeps
where it may and its queues are empty, or refuses it; the answer to its own request takes down the link or is recorded, and goes
to the segment that asks; a wake is detected in STANDBY and power-down where the masks admit it, and else brings up a sleeping
port or its segment; so does a CAN pattern; an idle segment begins to sleep and a drain times out. Where a row's condition does
not hold, nothing changes (R285, R324, R337, R338, R341, R342). Completes: tc10SleepRequestRx, tc10SleepResponseRx, tc10Wake,
canWakePattern, segmentIdle, segmentDrainTimeout. A row of an instant brings the local clock to it, the model's choice (log 14).
-/
def Obligations.SegmentEvents : Prop :=
  (∀ (p : Port) (s : State),
      let c := portCfg s p.val
      let e := port s p.val
      let on := e.st = .up ∧ p.val < 28 ∧ bit c.flags 4 = true
      let takes := bit c.flags 5 = true ∧ (egress s p.val).queues.all (fun q => q.2.isEmpty) = true
      let u := setPort p.val { e with tc10Count := e.tc10Count + 1 } s
      let v := takeDown p.val .asleep (emit (.tc10 p.val 1) u)
      (on → takes → exec (.tc10SleepRequestRx p) s = .next (setPort p.val { port v p.val with tc10 := 1 } v))
      ∧ (on → ¬takes → exec (.tc10SleepRequestRx p) s = .next (emit (.tc10 p.val 2) u))
      ∧ (¬on → exec (.tc10SleepRequestRx p) s = .next s))
  ∧ (∀ (p : Port) (a : Bool) (s : State),
      let e := port s p.val
      let u := setPort p.val { e with tc10 := 0, tc10Count := e.tc10Count + 1 } s
      let v := if a = true then takeDown p.val .asleep u else record 0x0802 [BitVec.ofNat 8 p.val] u
      (e.tc10 = 2 → v.wake.down = true → exec (.tc10SleepResponseRx p a) s = .next v)
      ∧ (e.tc10 = 2 → v.wake.down = false → segOfPort v p.val = none →
          exec (.tc10SleepResponseRx p a) s = .next (if a = true then wakePort p.val v else v))
      ∧ (∀ i : Nat, e.tc10 = 2 → v.wake.down = false → segOfPort v p.val = some i →
          exec (.tc10SleepResponseRx p a) s = .next (if (segOf v i).st = .asking then segAnswer i p.val a v
            else if a = true ∧ (segOf v i).st = .awake then wakePort p.val v else v))
      ∧ (e.tc10 ≠ 2 → exec (.tc10SleepResponseRx p a) s = .next s))
  ∧ (∀ (p : Port) (s : State), p.val < 28 →
      let off := s.sys.mode = .standby ∨ s.wake.down = true
      let admits := bit (tc10WakeMask s) p.val = true ∧ bit s.wake.tc10Ports p.val = true ∧ bit (wakeEn s) 6 = true ∧ portType p.val ≠ 1
      let runs := (port s p.val).st = .asleep ∧ s.sys.mode ≠ .backup
      let u := if bit (wakeEn s) 6 = true then wakeRequest 0x40 s else s
      (off → admits →
        exec (.tc10Wake p) s = .next (detect 0x40 (updWake (fun w => { w with tc10Latched := w.tc10Latched ||| 2 ^ p.val }) s)))
      ∧ (off → ¬admits → exec (.tc10Wake p) s = .next s)
      ∧ (¬off → runs → segOfPort u p.val = none → exec (.tc10Wake p) s = .next (bringUp p.val u))
      ∧ (∀ i : Nat, ¬off → runs → segOfPort u p.val = some i → exec (.tc10Wake p) s
          = .next (if (segOf u i).st = .awake then bringUp p.val u else if bit (segField u i 8 1) 1 = true then wakeSegment i u else u))
      ∧ (¬off → ¬runs → exec (.tc10Wake p) s = .next s))
  ∧ (∀ (p : Port) (s : State), 28 ≤ p.val → exec (.tc10Wake p) s = .next s)
  ∧ (∀ (c : Fin 16) (s : State),
      let off := s.sys.mode = .standby ∨ s.wake.down = true
      let admits := bit (canWakeMask s) c.val = true ∧ bit (wakeEn s) 5 = true
      (off → admits →
        exec (.canWakePattern c) s = .next (detect 0x20 (updWake (fun w => { w with canLatched := w.canLatched ||| 2 ^ c.val }) s)))
      ∧ (off → ¬admits → exec (.canWakePattern c) s = .next s)
      ∧ (∀ i : Nat, ¬off → segOfChannel s (48 + c.val) = some i →
          ((segOf s i).st = .asleep → bit (segField s i 8 1) 0 = true → exec (.canWakePattern c) s
            = .next (wakeSegment i (if bit (wakeEn s) 5 = true then wakeRequest 0x20 s else s)))
          ∧ (((segOf s i).st ≠ .asleep ∨ bit (segField s i 8 1) 0 = false) → exec (.canWakePattern c) s = .next s))
      ∧ (¬off → segOfChannel s (48 + c.val) = none → exec (.canWakePattern c) s = .next s))
  ∧ (∀ (i : Fin 32) (s : State),
      let goes := i.val < segCount s ∧ segField s i.val 12 4 ≠ 0 ∧ imageMode s.sys.mode = true ∧ (segOf s i.val).st = .awake
        ∧ segHeld s i.val = false
      (goes → exec (.segmentIdle i) s
        = .next (segBegin i.val none (reachClock ((segOf s i.val).traffic + segField s i.val 12 4 * 1000000000) s)))
      ∧ (¬goes → exec (.segmentIdle i) s = .next s))
  ∧ (∀ (i : Fin 32) (s : State),
      let t := reachClock ((segOf s i.val).drainAt + 10000000) s
      let u := (segChannels t i.val).foldl (fun s ep => discardTx ep 6 s) t
      (i.val < segCount s → (segOf s i.val).st = .draining →
        exec (.segmentDrainTimeout i) s = .next (if segDrained i.val u = true then segSleep i.val u else u))
      ∧ ((segCount s ≤ i.val ∨ (segOf s i.val).st ≠ .draining) → exec (.segmentDrainTimeout i) s = .next s))

/-- The Ethernet ports. A port in training whose PCS reports the rate of its mode comes up, once its external PHY, where it has
one, reports the link too; a link that was up, or whose PCS had locked, is lost; a stored coefficient set that has gone stale is
given up; the search of AUTONOMOUS tries the next mode; a poll of an external PHY every 10 ms reads its link register and takes
the port up or down by it, a read without turnaround counts and reads as ones; a PLCA node follows the BEACON, a coordinator
counts a second one, and a node that misses it for 4 ms falls back with a record. A row for a port in another state changes
nothing (R168, R282–R284, R286, R287, R294). Completes: linkUp, linkDown, phyCoeffStale, xsModeSearch, mdioPoll, plcaBeaconRx,
plcaLost. A row of an instant brings the local clock to it, the model's choice (log 14). -/
def Obligations.PortEvents : Prop :=
  (∀ (p : Port) (c : Byte) (s : State),
      let e := port s p.val
      (∀ r : Nat, p.val < 28 → e.st = .training → reportedRate e.mode c.toNat = some r →
        let u := setPort p.val { e with pcsLock := true, rate := r } s
        ((hasPhy u p.val = false ∨ e.phyLink = true) → exec (.linkUp p c) s = .next (becomeUp p.val u))
        ∧ (hasPhy u p.val = true → e.phyLink = false → exec (.linkUp p c) s = .next u))
      ∧ ((28 ≤ p.val ∨ e.st ≠ .training ∨ reportedRate e.mode c.toNat = none) → exec (.linkUp p c) s = .next s))
  ∧ (∀ (p : Port) (s : State),
      let e := port s p.val
      let had := e.st = .up ∨ (e.st = .training ∧ e.pcsLock = true)
      (had → exec (.linkDown p) s = .next (linkLost p.val s)) ∧ (¬had → exec (.linkDown p) s = .next s))
  ∧ (∀ (p : Port) (s : State),
      let e := port s p.val
      let due := portType p.val = 0 ∧ e.st = .training ∧ e.coeff = 1
      (due → exec (.phyCoeffStale p) s
        = .next (record 0x0801 [BitVec.ofNat 8 p.val] (setPort p.val (dropCoeffs e) (reachClock (e.enabledAt + 30000000) s))))
      ∧ (¬due → exec (.phyCoeffStale p) s = .next s))
  ∧ (∀ (p : Port) (s : State),
      let e := port s p.val
      let on := portType p.val = 1 ∧ s.img.live = none ∧ s.sys.mode = .autonomous ∧ e.st = .training ∧ e.searchDone = false
      (on → exec (.xsModeSearch p) s = .next (bringUp p.val (setPort p.val { e with search := e.search + 1 }
        (reachClock (e.enabledAt + 500000000) s))))
      ∧ (¬on → exec (.xsModeSearch p) s = .next s))
  ∧ (∀ (p : Port) (l : Option Bool) (s : State),
      let on := hasPhy s p.val = true ∧ clusterServes s = true ∧ blockHeld 4 0 s = false
      let t := reachClock (((port s p.val).polledAt.map (· + 10000000)).getD s.clk) s
      let u := if l = none then noTurnaround p.val t else t
      let e := port u p.val
      let c := portCfg u p.val
      let up := l.getD true
      let v := emit (.mdio p.val c.mdioAddr (linkReg c) none) (setPort p.val { e with phyLink := up, polledAt := some u.clk } u)
      let w := takeDown p.val .training v
      (on → up = true → e.st = .training → e.pcsLock = true → exec (.mdioPoll p l) s = .next (becomeUp p.val v))
      ∧ (on → up = true → (e.st ≠ .training ∨ e.pcsLock = false) → exec (.mdioPoll p l) s = .next v)
      ∧ (on → up = false → e.st = .up → exec (.mdioPoll p l) s
          = .next (setPort p.val { port w p.val with pcsLock := true, rate := e.rate, enabledAt := w.clk } w))
      ∧ (on → up = false → e.st ≠ .up → exec (.mdioPoll p l) s = .next v)
      ∧ (¬on → exec (.mdioPoll p l) s = .next s))
  ∧ (∀ (p : Port) (s : State),
      let e := port s p.val
      let on := portType p.val = 3 ∧ e.st = .up
      (on → e.plca ≠ 0 → e.plca ≠ 1 → exec (.plcaBeaconRx p) s
        = .next (setPort p.val { e with plca := 2, beaconAt := s.clk, plcaUsed := false, burstLeft := 0 } s))
      ∧ (on → e.plca = 1 → exec (.plcaBeaconRx p) s
          = .next (recordLimited 0x0803 p.val (fun n => [BitVec.ofNat 8 p.val] ++ leBytes 8 n)
            (setPort p.val { e with plcaDup := e.plcaDup + 1 } s)))
      ∧ ((¬on ∨ e.plca = 0) → exec (.plcaBeaconRx p) s = .next s)
      ∧ (on → e.plca = 2 → exec (.plcaLost p) s = .next (record 0x0804 [BitVec.ofNat 8 p.val]
          (setPort p.val { e with plca := 3 } (reachClock (e.beaconAt + 4000000) s))))
      ∧ ((¬on ∨ e.plca ≠ 2) → exec (.plcaLost p) s = .next s))

/-- R352: L0 covers L1, L1 covers L2, L2 covers L3 and L4, and neither of these two the other; a source that asserts in an
episode widens its reach to the narrowest level that covers both, L2 for L3 and L4. -/
def Obligations.ReachesNest : Prop :=
  (∀ a b : Fin 5, reachCovers a.val b.val = true ↔ (a = b ∨ a.val = 0 ∨ (a.val = 1 ∧ 2 ≤ b.val) ∨ (a.val = 2 ∧ 3 ≤ b.val)))
  ∧ (∀ a b c : Fin 5, reachCovers c.val a.val = true → reachCovers c.val b.val = true →
      reachCovers (coverReach a.val b.val) a.val = true ∧ reachCovers c.val (coverReach a.val b.val) = true)
  ∧ coverReach 3 4 = 2 ∧ coverReach 4 3 = 2
  ∧ (∀ (src : Fin 16) (r : Nat) (e : Episode) (s : State), sourceReach src.val s = some r → s.rst.episode = some e →
      ∃ u : State, exec (.resetEpisodeWiden src) s = .next u
        ∧ u.rst.episode = some { reach := coverReach e.reach r, sources := e.sources ||| BitVec.ofNat 16 (2 ^ src.val) })

/-- Reset sources. One that asserts outside an episode begins one of its reach, of the wider one where the exit of the last is
not yet complete, and one that has no reach does nothing; the balls filter their low phases (R349); the watchdog of R350 asserts
100 ms after its last service; a source that is asserted and may be released is dropped, and the episode ends when none is left,
but for one that waits for INH in STANDBY (R347–R353). Completes: resetEpisodeWiden, porstNLow, sysrstNLow, trstNLow, mgmtWdt,
resetSourceRelease. A row of an instant brings the local clock to it, the model's choice (log 14). Free values: log 1. -/
def Obligations.ResetSources : Prop :=
  (∀ (src : Fin 16) (s : State),
      exec (.resetEpisodeWiden src) s = .next (assertSource src.val s)
      ∧ (sourceReach src.val s = none → assertSource src.val s = s)
      ∧ ∀ r : Nat, sourceReach src.val s = some r → s.rst.episode = none →
        (assertSource src.val s).rst.episode = some
          { reach := (s.rst.exit.map (fun x => coverReach x r)).getD r, sources := BitVec.ofNat 16 (2 ^ src.val) })
  ∧ (∀ x ∈ [((6 : Nat), Instr.porstNLow), (7, .sysrstNLow), (14, .trstNLow)], ∀ (n : Nat) (s : State),
      (n < 100 → exec (x.2 n) s = .next s)
      ∧ (1000 < n → exec (x.2 n) s = .next (assertSource x.1 s))
      ∧ (100 ≤ n → n ≤ 1000 → exec (x.2 n) s
          = .next (if (drawNat s).1 % 2 = 1 then assertSource x.1 (drawNat s).2 else (drawNat s).2)))
  ∧ (∀ s : State,
      (s.sys.clusterUp = true → s.sys.halted = false →
        exec .mgmtWdt s = .next (assertSource 8 (reachClock (s.saf.mgmtServed + 100000000) s)))
      ∧ ((s.sys.clusterUp = false ∨ s.sys.halted = true) → exec .mgmtWdt s = .next s))
  ∧ (∀ (src : Fin 16) (x : Straps) (l : List (Fin 36)) (s : State),
      let u := if mayRelease src.val s = true then dropSource src.val s else s
      (∀ e : Episode, u.rst.episode = some e → u.rst.asserted = 0 → (u.sys.mode ≠ .standby ∨ u.wake.inh = true) →
        exec (.resetSourceRelease src x l) s = .next (endEpisode e x (l.map Fin.val) u))
      ∧ ((u.rst.episode = none ∨ u.rst.asserted ≠ 0 ∨ (u.sys.mode = .standby ∧ u.wake.inh = false)) →
        exec (.resetSourceRelease src x l) s = .next u)
      ∧ (5 < src.val → sourceAsserted src.val s = true →
        u = { s with rst := { s.rst with asserted := s.rst.asserted &&& ~~~(BitVec.ofNat 16 (2 ^ src.val)) } }))
  ∧ (∀ (e : Episode) (x : Straps) (l : List Nat) (s : State), e.reach < 5 →
      (endEpisode e x l s).rst.episode = none ∧ (endEpisode e x l s).rst.exit = some e.reach)

/-- Start and activation. The cluster boots after an episode of reach L0 to L2 and restarts after one of L4; then the
descriptors left in the submission rings are fetched and a request left in the mailbox is taken; while an episode is under way,
or the cluster is up, the start itself does nothing. The loaded image activates in BOOT and after an L3 episode. A reset ordered
by UPD_ACTIVATE or LC_TRANSITION asserts RST_GLOBAL with reach L1, 1 ms after the order, and without an order these rows do
nothing (R65, R83, R355, R362, R372, R412). Completes: firmwareStart, bootActivation, updResetNow, lcReset. A row of an instant
brings the local clock to it, the model's choice (log 14). -/
def Obligations.StartAndActivation : Prop :=
  (∀ s : State,
      (∀ x : Nat, s.rst.episode = none → s.sys.clusterUp = false → s.rst.exit = some x → x ≠ 3 → x ≠ 4 →
        exec .firmwareStart s = .next (takeWaiting (boot s)))
      ∧ (s.rst.episode = none → s.sys.clusterUp = false → s.rst.exit = some 4 →
        exec .firmwareStart s = .next (takeWaiting (restartFirmware s)))
      ∧ ((s.rst.episode.isSome = true ∨ s.sys.clusterUp = true ∨ s.rst.exit = some 3 ∨ s.rst.exit = none) →
        exec .firmwareStart s = .next (takeWaiting s)))
  ∧ (∀ s : State,
      (s.rst.episode = none → s.rst.exit = some 3 → exec .bootActivation s = .next (resumeDataPath s))
      ∧ (∀ x : Nat, s.rst.episode = none → s.rst.exit = some x → x ≠ 3 → x ≠ 4 → s.sys.clusterUp = true → s.sys.mode = .boot →
          exec .bootActivation s = .next (leaveBoot s))
      ∧ ((s.rst.episode.isSome = true ∨ s.rst.exit = none ∨ s.rst.exit = some 4) → exec .bootActivation s = .next s)
      ∧ (s.rst.exit ≠ some 3 → (s.sys.clusterUp = false ∨ s.sys.mode ≠ .boot) → exec .bootActivation s = .next s))
  ∧ (∀ s : State,
      (s.rst.updReset = true → exec .updResetNow s
        = .next (assertGlobal 1 (reachClock (s.rst.resetFrom + 1000000) { s with rst := { s.rst with updReset := false } })))
      ∧ (s.rst.updReset = false → exec .updResetNow s = .next s)
      ∧ (s.rst.lcReset = true → exec .lcReset s
        = .next (assertGlobal 1 (reachClock (s.rst.resetFrom + 1000000) { s with rst := { s.rst with lcReset := false } })))
      ∧ (s.rst.lcReset = false → exec .lcReset s = .next s))

/-- The cores. A copy that disagrees with two others is masked and tested, a compared pair without a majority restarts the
cluster; a core whose test fails is retired, one that passes at the start votes, one that passes masked is counted and, with
three such faults in an hour, retired; a missed heartbeat or a failed test in SPLIT asserts source VOTER; a masked core that has
been tested returns at the end of a signature window. Where the cores do not vote, or do not run in SPLIT, the row does nothing
(R378–R382). Completes: voterDisagreement, signatureWindowEnd, coreSelfTestDone, voterFault, heartbeatMissed, splitSelfTest. -/
def Obligations.CoreEvents : Prop :=
  (∀ (n : Fin 3) (s : State),
      (votes s = true → votingCores s = [0, 1, 2] →
        exec (.voterDisagreement (some n)) s = .next (setCore n.val { coreUnit s n.val with masked := true, testing := true } s))
      ∧ (votes s = true → (votingCores s).length = 2 → (votingCores s).contains n.val = true →
        exec (.voterDisagreement (some n)) s = .next (voterFault (record 0x0C03 [] s)))
      ∧ (votes s = true → ((votingCores s).contains n.val = false ∨ (votingCores s).length < 2) →
        exec (.voterDisagreement (some n)) s = .next s)
      ∧ (votes s = false → exec (.voterDisagreement (some n)) s = .next s))
  ∧ (∀ s : State,
      (votes s = true → 2 ≤ (votingCores s).length → exec (.voterDisagreement none) s = .next (voterFault (record 0x0C03 [] s)))
      ∧ ((votes s = false ∨ (votingCores s).length < 2) → exec (.voterDisagreement none) s = .next s))
  ∧ (∀ (a b c : Word64) (s : State),
      let back := [0, 1, 2].filter (fun n => (coreUnit s n).masked && !(coreUnit s n).testing && !(coreUnit s n).retired)
      let u := compareSignatures (fun n => if n = 0 then a else if n = 1 then b else c) s
      (votes s = true → u.rst.episode = none → exec (.signatureWindowEnd a b c) s
        = .next (back.foldl (fun s n => setCore n { coreUnit s n with masked := false } s) u))
      ∧ (votes s = true → u.rst.episode.isSome = true → exec (.signatureWindowEnd a b c) s = .next u)
      ∧ (votes s = false → exec (.signatureWindowEnd a b c) s = .next s))
  ∧ (∀ (a b : Word64) (s : State), votes s = true → votingCores s = [0, 1, 2] → a ≠ b → s.rst.episode = none →
      exec (.signatureWindowEnd a a b) s = .next (maskCore 2 s))
  ∧ (∀ (a : Word64) (s : State), votes s = true → votingCores s = [0, 1] → (coreUnit s 2).masked = true → (coreUnit s 2).testing = false →
      (coreUnit s 2).retired = false → s.rst.episode = none →
      exec (.signatureWindowEnd a a a) s = .next (setCore 2 { coreUnit s 2 with masked := false } s))
  ∧ (∀ (n : Fin 3) (s : State),
      let c := coreUnit s n.val
      let recent := c.faults.filter (fun t => decide (s.clk < t + 3600000000000))
      let on := c.testing = true ∧ s.sys.split = false
      (on → exec (.coreSelfTestDone n false) s = .next (retireCore n.val s))
      ∧ (on → c.masked = false → exec (.coreSelfTestDone n true) s = .next (setCore n.val { c with testing := false } s))
      ∧ (on → c.masked = true → recent.length < 2 → exec (.coreSelfTestDone n true) s
          = .next (record 0x0C01 [] (setCore n.val { c with faults := recent ++ [s.clk], testing := false } s)))
      ∧ (on → c.masked = true → 2 ≤ recent.length → exec (.coreSelfTestDone n true) s = .next (retireCore n.val s))
      ∧ (¬on → ∀ b : Bool, exec (.coreSelfTestDone n b) s = .next s))
  ∧ (∀ s : State,
      (votes s = true → exec .voterFault s = .next (voterFault (record 0x0C04 [] s)))
      ∧ (votes s = false → exec .voterFault s = .next s))
  ∧ (∀ s : State,
      let on := s.sys.split = true ∧ s.sys.clusterUp = true ∧ s.sys.halted = false
      (on → (∀ n : Fin 2, exec (.heartbeatMissed n) s = .next (splitFault (setCore n.val { coreUnit s n.val with silent := true } s)))
        ∧ exec (.splitSelfTest false) s = .next (splitFault s))
      ∧ (¬on → (∀ n : Fin 2, exec (.heartbeatMissed n) s = .next s) ∧ exec (.splitSelfTest false) s = .next s)
      ∧ exec (.splitSelfTest true) s = .next s)

/-- The safety watchdog: where the cluster may service it, a service with the value due and within its bounds is accepted and
the other value is due next; another value, or one that is too early or too late, expires it, and so does the last instant
without a service; where it may not, or the watchdog does not run, nothing happens (R389). Completes: safWdtKick, safetyWdt. The
pins of the safety functions: ESM_ACK answers ESM_REQ while the health bit is good and falls with it (R388); SAFE_REQ_N held for
2 us enters SAFE (R33); FAULT_IN_N held for 2 us is recorded, and escalates where the image says so (R393); PEER_HLTH_OUT
toggles 5 us after its last edge while health is good and is low else, and PEER_INT_IN classes its pulses by length (R323).
Completes: esmReqRise, esmReqFall, safeReqNLow, faultIn, peerHlthToggle, peerIntPulse. A row of an instant brings the local
clock to it, the model's choice (log 14). -/
def Obligations.SafetyMonitors : Prop :=
  ((∀ (v : Word16) (s : State),
      let d := s.clk - s.saf.wdtAt
      let due : Word16 := if s.saf.wdtFirst = true then 0x5A3C else 0xC3A5
      let inTime := if s.saf.wdtFresh = true then d ≤ 200000000 else 1000000 ≤ d ∧ d ≤ 20000000
      (mayKick s = true → v = due → inTime → exec (.safWdtKick v) s
        = .next { s with saf := { s.saf with wdtFirst := !s.saf.wdtFirst, wdtFresh := false, wdtAt := s.clk } })
      ∧ (mayKick s = true → (v ≠ due ∨ ¬inTime) → exec (.safWdtKick v) s = .next (expireWdt s))
      ∧ (mayKick s = false → exec (.safWdtKick v) s = .next s))
  ∧ (∀ s : State,
      let on := s.saf.wdtRuns = true ∧ s.sys.clusterUp = true ∧ s.sys.halted = false
      (on → s.saf.wdtFresh = true → exec .safetyWdt s = .next (expireWdt (reachClock (s.saf.wdtAt + 200000000) s)))
      ∧ (on → s.saf.wdtFresh = false → exec .safetyWdt s = .next (expireWdt (reachClock (s.saf.wdtAt + 20000000) s)))
      ∧ (¬on → exec .safetyWdt s = .next s)))
  ∧ ((∀ s : State,
      (healthGood s = true → s.saf.esmAck = false →
        exec .esmReqRise s = .next { s with saf := { s.saf with esmAck := true }, wire := s.wire ++ [.pin "ESM_ACK" true] })
      ∧ ((healthGood s = false ∨ s.saf.esmAck = true) → exec .esmReqRise s = .next s)
      ∧ (s.saf.esmAck = true →
        exec .esmReqFall s = .next { s with saf := { s.saf with esmAck := false }, wire := s.wire ++ [.pin "ESM_ACK" false] })
      ∧ (s.saf.esmAck = false → exec .esmReqFall s = .next s))
  ∧ (∀ (n : Nat) (s : State),
      (2000 ≤ n → exec (.safeReqNLow n) s = .next (enterSafe s))
      ∧ (runMode s.sys.mode = true → s.rst.episode = none → (enterSafe s).sys.mode = .safe)
      ∧ (n < 2000 → exec (.safeReqNLow n) s = .next s))
  ∧ (∀ (n : Nat) (s : State),
      let u := record 0x0C06 [] { s with saf := { s.saf with faultIn := true } }
      let reacts := forwarding s.sys.mode = true ∧ byteAt (liveBytes s 0x0012) 7 = 1
      (2000 ≤ n → ¬reacts → exec (.faultIn n) s = .next u)
      ∧ (2000 ≤ n → reacts → exec (.faultIn n) s = .next (escalate 7 u))
      ∧ (n < 2000 → exec (.faultIn n) s = .next { s with saf := { s.saf with faultIn := false } }))
  ∧ (∀ s : State,
      let u := reachClock (s.pair.hlthAt + 5000) s
      (healthGood s = true → exec .peerHlthToggle s = .next (emit (.pin "PEER_HLTH_OUT" (!s.pair.hlthOut))
        { u with pair := { u.pair with hlthOut := !s.pair.hlthOut, hlthAt := u.clk } }))
      ∧ (healthGood s = false → exec .peerHlthToggle s = .next (hlthLow s)))
  ∧ (∀ (n : Nat) (s : State),
      (1000 ≤ n → n ≤ 10000 → exec (.peerIntPulse n) s = .next (raiseInt 5 { s with pair := { s.pair with intClass := 1 } }))
      ∧ (80000 ≤ n → exec (.peerIntPulse n) s = .next (assertSource 15 { s with pair := { s.pair with intClass := 2 } }))
      ∧ ((n < 1000 ∨ (10000 < n ∧ n < 80000)) → exec (.peerIntPulse n) s = .next { s with
          pair := { s.pair with intClass := 3, glitches := satAdd 16 s.pair.glitches 1 } })))

/-- The supplies: a supply that becomes invalid takes PWR_GOOD, PEER_HLTH_OUT and, for VDD_CORE, ESM_ACK with it; VBKP lost
asserts VBKP_POR, a main supply lost asserts MAIN_POR, in STANDBY and power-down into STANDBY and else into BACKUP; a supply
that returns moves PWR_GOOD; VMON_OK falling asserts MAIN_POR; STANDBY counts as reached 50 ms after INH was released (R33,
R335, R348, R464). Completes: supplyInvalid, supplyValid, vmonOk, standbyTimeout. A row of an instant brings the local clock to
it, the model's choice (log 14). -/
def Obligations.SupplyEvents : Prop :=
  (∀ (x : Supply) (s : State), s.rst.invalid.contains x = true → exec (.supplyInvalid x) s = .next s)
  ∧ (∀ (x : Supply) (s : State), s.rst.invalid.contains x = false →
      let t := { s with rst := { s.rst with invalid := s.rst.invalid ++ [x] } }
      let u := hlthLow (followPwrGood (if x = .vddCore then setEsmAck false t else t))
      exec (.supplyInvalid x) s = .next (if x = .vbkp then assertSource 4 u else mainLost u))
  ∧ (∀ s : State, s.rst.invalid.contains .vbkp = false → s.rst.episode = none → s.rst.exit = none →
      ∃ u : State, exec (.supplyInvalid .vbkp) s = .next u
        ∧ u.rst.episode = some { reach := 0, sources := 0x0010 })
  ∧ (∀ (x : Supply) (s : State), x ≠ .vbkp → s.rst.invalid.contains x = false → s.rst.invalid.contains .vbkp = false →
      ∃ u : State, exec (.supplyInvalid x) s = .next u
        ∧ u.sys.mode = (if s.wake.down = true ∨ s.sys.mode = .standby then .standby else .backup))
  ∧ (∀ (x : Supply) (s : State),
      exec (.supplyValid x) s = .next (followPwrGood { s with rst := { s.rst with invalid := s.rst.invalid.filter (fun y => y != x) } }))
  ∧ (∀ s : State, (followPwrGood s).rst.invalid = s.rst.invalid ∧ (followPwrGood s).rst.pwrGood = s.rst.invalid.all (fun y => y == .vbkp))
  ∧ (∀ s : State, exec (.vmonOk true) s = .next { s with rst := { s.rst with vmonOk := true } }
      ∧ exec (.vmonOk false) s = .next (assertSource 5 { s with rst := { s.rst with vmonOk := false } }))
  ∧ (∀ s : State,
      let u := reachClock (s.wake.inhAt + 50000000) s
      let on := s.wake.down = true ∧ s.rst.episode = none
      (on → exec .standbyTimeout s
        = .next (reachStandby (applyReach 1 { u with rst := { u.rst with episode := some { reach := 1, sources := 0 }, exit := none } })))
      ∧ (on → ∃ v : State, exec .standbyTimeout s = .next v ∧ v.sys.mode = .standby ∧ v.sys.clusterUp = false)
      ∧ (¬on → exec .standbyTimeout s = .next s))

/-- The mirror link and the peer's health. A control frame brings the link up and tells who the peer is, and one from a peer of
the same strap disables the bridge; CONTROL is sent every 10 us once a peer may be there; GOING_DOWN is remembered; a link or a
health line that goes away makes a paired device act on its conclusion. Where the link cannot be used nothing happens (R32,
R390, R394, R400–R402). Completes: mlControlRx, controlTx, mlGoingDownRx, mlLinkLost, peerHlthChange. Partition and takeover: 1
ms after link and health both went away, unannounced, the SECONDARY freezes its configuration and the PRIMARY goes on alone,
taking over where it was STANDBY; a STANDBY whose ACTIVE's management is absent, or whose ACTIVE's health is bad, for
TAKEOVER_MS takes over at the next boundary. A device that knows no peer, is frozen, or is no paired STANDBY does not
(R401–R403). Completes: partition, takeoverTimeout. A row of an instant brings the local clock to it, the model's choice (log
14). The layout of frame contents on ML is the model's (log 29). -/
def Obligations.MirrorLinkAndTakeover : Prop :=
  ((∀ (m : ControlFrame) (s : State),
      (mlOpen s = true → exec (.mlControlRx m) s = .next (controlRx m s))
      ∧ (mlOpen s = false → exec (.mlControlRx m) s = .next s)
      ∧ (m.secondary = s.sys.straps.secondary → (controlRx m s).pair.peer = some m ∧ (controlRx m s).pair.peerKnown = true
        ∧ (controlRx m s).pair.mlUp = true ∧ (controlRx m s).pb.disabled = true))
  ∧ (∀ s : State,
      let on := mlOpen s = true ∧ (s.pair.mlUp = true ∨ s.pair.hlthIn = true ∨ s.pair.peerKnown = true)
      let t := reachClock (s.pair.controlAt + 10000) s
      let u := { t with pair := { t.pair with controlAt := t.clk } }
      (on → ∃ b : Bytes, exec .controlTx s = .next (emit (.ml 1 b) u) ∧ slice b 4 16 = leBytes 16 (ownPairSet s)
        ∧ byteAt b 0 = b2n s.sys.straps.secondary ∧ byteAt b 3 = b2n s.pair.standby)
      ∧ (¬on → exec .controlTx s = .next s))
  ∧ (∀ s : State,
      (mlOpen s = true → ∃ u : State, exec .mlGoingDownRx s = .next u ∧ u = { s with pair := u.pair }
        ∧ u.pair.goingDownAt = some s.clk ∧ u.pair.mlUp = true ∧ u.pair.mlLostAt = none)
      ∧ (mlOpen s = false → exec .mlGoingDownRx s = .next s))
  ∧ (∀ s : State,
      (s.pair.mlUp = true → exec .mlLinkLost s = .next (react (pbLinkDown { s with
        pair := { s.pair with mlUp := false, mlLostAt := some s.clk, digestless := 0, peerFaulty := none } })))
      ∧ (s.pair.mlUp = false → exec .mlLinkLost s = .next s))
  ∧ (∀ s : State,
      exec (.peerHlthChange true) s = .next (react { s with pair := { s.pair with hlthIn := true, hlthLostAt := none } })
      ∧ (s.pair.hlthIn = true → exec (.peerHlthChange false) s
        = .next (react { s with pair := { s.pair with hlthIn := false, hlthLostAt := some s.clk, peerFaulty := none } }))
      ∧ (s.pair.hlthIn = false → exec (.peerHlthChange false) s = .next (react { s with
          pair := { s.pair with hlthIn := false, hlthLostAt := some (s.pair.hlthLostAt.getD s.clk), peerFaulty := none } })))
  ∧ (∀ (s : State), s.pair.st = .paired → s.pair.standby = true → conclude s = .failed → healthGood s = true →
      react s = { s with pair := { s.pair with takeoverDue := true } }))
  ∧ ((∀ s : State,
      let knows := s.pair.peerKnown = true ∧ s.pair.st ≠ .frozen
        ∧ ¬(s.pair.st = .alone ∧ s.pair.standby = false ∧ s.sys.straps.secondary = false)
      (∀ l : Nat, conclude s = .partitioned → s.pair.mlLostAt = some l → knows →
        let t := reachClock (Nat.max l (s.pair.hlthLostAt.getD l) + 1000000) s
        let u := if s.pair.standby = true then t else resolveOwn none t
        (s.sys.straps.secondary = true → exec .partition s = .next ([0, 1, 2, 3].foldl freezeDomain
          { u with pair := { u.pair with st := .frozen, takeoverDue := false, darnCopied := false, darnQueue := [] } }))
        ∧ (s.sys.straps.secondary = false → s.pair.standby = true → exec .partition s = .next (takeOver t))
        ∧ (s.sys.straps.secondary = false → s.pair.standby = false → exec .partition s = .next (goAlone t)))
      ∧ ((conclude s ≠ .partitioned ∨ s.pair.mlLostAt = none ∨ ¬knows) → exec .partition s = .next s)
      ∧ (conclude s = .partitioned ↔ s.pair.mlUp = false ∧ s.pair.hlthIn = false ∧ announced s = false))
  ∧ (∀ (s : State), (takeOver s).pair.standby = false ∧ (takeOver s).pair.st = .alone ∧ (takeOver s).pair.takeovers = s.pair.takeovers + 1
      ∧ (takeOver s).pair.failover = s.pair.peerJournal.map (fun j => (j.tag, if j.committed = true then stOk else stAbortedFailover)))
  ∧ (∀ s : State,
      let on := s.pair.standby = true ∧ s.pair.st = .paired
      (∀ t u : Nat, on → s.pair.partsAbsentSince = some t → s.pair.peerBadSince = some u →
        exec .takeoverTimeout s = .next (takeoverAhead (reachClock (Nat.min t u + takeoverNs s) s)))
      ∧ (∀ t : Nat, on → ((s.pair.partsAbsentSince = some t ∧ s.pair.peerBadSince = none)
          ∨ (s.pair.partsAbsentSince = none ∧ s.pair.peerBadSince = some t)) →
        exec .takeoverTimeout s = .next (takeoverAhead (reachClock (t + takeoverNs s) s)))
      ∧ ((¬on ∨ (s.pair.partsAbsentSince = none ∧ s.pair.peerBadSince = none)) → exec .takeoverTimeout s = .next s)))

/-- The per-cycle protocol. Each boundary gives the cycle its number, sends the digest and, at an ACTIVE, the SYNC; a paired
STANDBY applies a SYNC of a later cycle and acknowledges a complete one, and one that is darned keeps it; the acknowledgement is
the ACTIVE's sync point and releases what it carried; digests are matched; a darning part is loaded; roles are requested and
granted. Frames that come while the link cannot be used, and a boundary where the pair does not run, change nothing (R392, R395,
R398, R399, R404). Completes: cycleBoundarySync, mlSyncRx, mlSyncAckRx, mlDigestRx, mlDarnRx, mlRoleRx. A row of an instant
brings the local clock to it, the model's choice (log 14). The layout of frame contents on ML is the model's (log 29). -/
def Obligations.CycleProtocol : Prop :=
  (∀ s : State,
      (runsPair s = false → exec .cycleBoundarySync s = .next s)
      ∧ (runsPair s = true → ∃ u : State, exec .cycleBoundarySync s = .next u)
      ∧ (runsPair s = true → s.pair.st = .alone → s.pair.mlUp = false → s.pair.takeoverDue = false → s.pair.darnCopied = false →
        s.pair.peerFaulty = none →
        ∃ u : State, exec .cycleBoundarySync s = .next u ∧ u.pair.ctChanges = [] ∧ u.pair.ownNow = [] ∧ u.pair.disagreements = 0
          ∧ u.wire = s.wire ∧ u.clk = (reachW (dueBoundary s) s).clk))
  ∧ (∀ (m : SyncFrame) (s : State),
      let u := linkAlive s
      (mlOpen s = true → s.pair.standby = true → s.pair.st = .paired → exec (.mlSyncRx m) s = .next (takeSync m u))
      ∧ (mlOpen s = true → s.pair.standby = true → s.pair.st ≠ .paired → s.pair.st ≠ .alone → darnLoaded s = false →
        exec (.mlSyncRx m) s = .next { u with pair := { u.pair with darnQueue := u.pair.darnQueue ++ [m] } })
      ∧ (mlOpen s = true → s.pair.standby = true → s.pair.st ≠ .paired → s.pair.st ≠ .alone → darnLoaded s = true →
        exec (.mlSyncRx m) s = .next ((u.pair.darnQueue ++ [m]).foldl (fun s m => takeSync m s)
          { u with pair := { u.pair with darnQueue := [], syncPoint := 0 } }))
      ∧ (mlOpen s = true → (s.pair.standby = false ∨ s.pair.st = .alone) → exec (.mlSyncRx m) s = .next u)
      ∧ (mlOpen s = false → exec (.mlSyncRx m) s = .next s)
      ∧ (s.pair.st = .paired → s.pair.syncPoint < m.cycle → s.pair.roleRequested = false → m.complete = true → m.cluster = none →
        m.ct = [] → (takeSync m s).pair.syncPoint = m.cycle ∧ (takeSync m s).pair.unsynced = 0
          ∧ (takeSync m s).wire = s.wire ++ [.ml 4 (leBytes 8 m.cycle)]))
  ∧ (∀ (k : Word) (s : State),
      let u := linkAlive s
      let on := s.pair.standby = false ∧ (s.pair.st = .paired ∨ s.pair.st = .joining)
      (mlOpen s = true → on → exec (.mlSyncAckRx k) s = .next (exchangeRoles (releaseCarried k.toNat
        { u with pair := { u.pair with syncPoint := k.toNat, unsynced := 0, st := .paired } })))
      ∧ (mlOpen s = true → ¬on → exec (.mlSyncAckRx k) s = .next u)
      ∧ (mlOpen s = false → exec (.mlSyncAckRx k) s = .next s))
  ∧ (∀ (m : DigestFrame) (s : State),
      let u := linkAlive s
      let v := settleRecords { u with pair := { u.pair with
        digestless := 0, peerRecs := u.pair.peerRecs ++ m.records.map (fun r => (0, r))
        peerFaulty := if 0 < m.disagreements then some (u.pair.peerFaulty.getD 0) else u.pair.peerFaulty } }
      (mlOpen s = true → s.pair.st ≠ .alone → exec (.mlDigestRx m) s = .next (react
        (followMismatch (v.2.pair.mismatchNow + v.1) m.disagreements { v.2 with pair := { v.2.pair with mismatchNow := 0 } })))
      ∧ (mlOpen s = true → s.pair.st = .alone → exec (.mlDigestRx m) s = .next u)
      ∧ (mlOpen s = false → exec (.mlDigestRx m) s = .next s))
  ∧ (∀ (m : DarnPart) (s : State),
      let on := s.pair.standby = true ∧ s.pair.st ≠ .alone ∧ s.pair.st ≠ .paired ∧ s.pair.darnCopied = false
      (mlOpen s = true → on → ∃ u : State, exec (.mlDarnRx m) s = .next u ∧ u.pair.darnCopied = m.last ∧ u.pair.peerServo = m.servo
        ∧ u.pair.peerJournal = s.pair.peerJournal ++ m.journal
        ∧ u.pair.darnPatches = s.pair.darnPatches ++ m.patches.map patchOfRec)
      ∧ (mlOpen s = true → ¬on → exec (.mlDarnRx m) s = .next (linkAlive s))
      ∧ (mlOpen s = false → exec (.mlDarnRx m) s = .next s))
  ∧ (∀ s : State,
      let u := linkAlive s
      let asked := { u with pair := { u.pair with roleRequested := true } }
      (mlOpen s = true → s.pair.st = .paired →
        (s.pair.standby = true → exec (.mlRoleRx .request) s = .next (emit (.ml 7 [2]) asked))
        ∧ (s.pair.standby = false → exec (.mlRoleRx .request) s = .next u)
        ∧ (s.pair.standby = false → s.pair.switchTag.isSome = true → exec (.mlRoleRx .grant) s = .next asked)
        ∧ ((s.pair.standby = true ∨ s.pair.switchTag = none) → exec (.mlRoleRx .grant) s = .next u))
      ∧ (∀ m : RoleFrame, mlOpen s = true → s.pair.st ≠ .paired → exec (.mlRoleRx m) s = .next u)
      ∧ ∀ m : RoleFrame, mlOpen s = false → exec (.mlRoleRx m) s = .next s)

/-- The peer bridge. An access of the cluster goes through its window or ends with the near side's code, and waits where 64 are
open; a response, an error notice, a time-out and a broken lock end what they name; an inbound request is served or waits for
the lock, and in a collision the SECONDARY withdraws its own requests and the PRIMARY serves nothing that would lock; withdrawn
requests are sent again when the lock is gone, after 5 us where no lock was the cause. A halt request halts the cluster's cores
in TEST and SERVICE. What names no open access, and a request while the link is down, does nothing (R318–R322, R457). Completes:
pbRequest, pbResponseRx, pbPostedErr, pbTimeout, pbInboundRequest, pbLockBroken, pbBackoffResend, jtagHaltRequest. A row of an
instant brings the local clock to it, the model's choice (log 14). -/
def Obligations.BridgeEvents : Prop :=
  (∀ (r : PbAccess) (s : State),
      let on := clusterServes s = true ∧ openCount s < 64
      (∀ code : Nat, on → nearJudge r s = .error code →
        exec (.pbRequest r) s = .next { s with pb := { s.pb with last := some (code, []) } })
      ∧ (∀ n : Nat, on → nearJudge r s = .ok n →
        let w := pbWindow s n
        let posted := w.posted && r.kind == .write
        let o : PbOpen := { id := s.pb.next, window := n, access := r, far := w.far + (r.addr - w.near), posted := posted
                            tag := none, sentAt := s.clk }
        let u := sendRequest o { s with pb := { s.pb with open_ := s.pb.open_ ++ [o], next := (s.pb.next + 1) % 65536 } }
        exec (.pbRequest r) s = .next (if posted = true then { u with pb := { u.pb with last := some (0, []) } } else u))
      ∧ (¬on → exec (.pbRequest r) s = .next s))
  ∧ (∀ (id : Nat) (code : Fin 8) (d : Bytes) (s : State),
      (∀ o : PbOpen, findOpen id s = some o →
        (o.posted = true → exec (.pbResponseRx id code d) s = .next (closeOpen id s))
        ∧ (o.posted = false → o.withdrawn = false → exec (.pbResponseRx id code d) s = .next (endOpen o code.val d s))
        ∧ (o.posted = false → o.withdrawn = true → exec (.pbResponseRx id code d) s = .next s)
        ∧ (o.posted = true → exec (.pbPostedErr id code) s = .next (raiseInt 4 (record 0x0902 ([BitVec.ofNat 8 o.window]
            ++ leBytes 8 o.far ++ [BitVec.ofNat 8 o.access.size, BitVec.ofNat 8 code.val]) (closeOpen id s))))
        ∧ (o.posted = false → exec (.pbPostedErr id code) s = .next s)
        ∧ (o.posted = false → o.withdrawn = false → exec (.pbTimeout id) s = .next (endOpen o 7 [] (reachClock (o.sentAt + 100000) s)))
        ∧ ((o.posted = true ∨ o.withdrawn = true) → exec (.pbTimeout id) s = .next s))
      ∧ (findOpen id s = none → exec (.pbResponseRx id code d) s = .next s ∧ exec (.pbPostedErr id code) s = .next s
          ∧ exec (.pbTimeout id) s = .next s))
  ∧ (∀ (r : PbInbound) (s : State),
      let on := s.pair.mlUp = true ∧ s.pb.disabled = false
      (on → collides r s = false → exec (.pbInboundRequest r) s = .next (serveWaiting (inbound r s)))
      ∧ (on → collides r s = true → s.sys.straps.secondary = true →
        exec (.pbInboundRequest r) s = .next (serveWaiting (inbound r (backOff (lockCollision r s) s))))
      ∧ (on → collides r s = true → s.sys.straps.secondary = false → r.kind ≠ .lockingRead →
        exec (.pbInboundRequest r) s = .next (serveWaiting (inbound r s)))
      ∧ ((¬on ∨ (collides r s = true ∧ s.sys.straps.secondary = false ∧ r.kind = .lockingRead)) →
        exec (.pbInboundRequest r) s = .next s)
      ∧ (s.pb.lock = none → s.pb.broken = none → (r.kind = .read ∨ r.kind = .write) →
        inbound r s = respond r (serveInbound r s).1 (serveInbound r s).2.1 (serveInbound r s).2.2)
      ∧ (∀ l : PbLock, s.pb.lock = some l → inSequence r l = false → spansMeet r.addr r.size l.base l.size = true →
        inbound r s = { s with pb := { s.pb with waiting := s.pb.waiting ++ [r] } }))
  ∧ (∀ s : State,
      (∀ l : PbLock, s.pb.lock = some l →
        let t := reachClock (l.since + 10000) s
        exec .pbLockBroken s
          = .next (serveWaiting (record 0x0903 [] { t with pb := { t.pb with lock := none, broken := some (l.base, l.size) } })))
      ∧ (s.pb.lock = none → exec .pbLockBroken s = .next s))
  ∧ (∀ s : State,
      let held := s.pb.open_.filter (fun (o : PbOpen) => o.withdrawn)
      let on := held ≠ [] ∧ s.pb.lock = none ∧ s.pair.mlUp = true
      (on → ∃ u : State, exec .pbBackoffResend s = .next u ∧ u.clk = (if s.pb.backoffLock = true then s.clk
          else Nat.max s.clk (s.pb.backoffAt + 5000))
        ∧ u.pb.open_ = s.pb.open_.map (fun (o : PbOpen) => if o.withdrawn = true then { o with withdrawn := false, sentAt := u.clk } else o)
        ∧ u.wire.length = s.wire.length + held.length)
      ∧ (¬on → exec .pbBackoffResend s = .next s))
  ∧ (∀ s : State,
      let on := (s.otp.lcState = .test ∨ s.otp.lcState = .service) ∧ s.sys.clusterUp = true
      (on → exec .jtagHaltRequest s = .next { s with sys := { s.sys with halted := true } })
      ∧ (¬on → exec .jtagHaltRequest s = .next s))

/-- Counters, snapshots and the recorder. An increment acts under the counter's mode. The armed snapshot whose instant comes
first is latched into the bank of its number, and as an automatic one where its instant is one of the automatic instants not yet
passed; an automatic one takes the commands armed for its instant along; a snapshot that is being written completes, is told,
and its commands are answered while the cluster serves. The oldest queued event is written when nothing holds it; a clear
completes, its command answered; a nonce expires after 600 s; the identity key is generated. Where there is nothing of the kind,
these rows change nothing (R420, R427, R431, R432, R435, R437, R441, R442). Completes: snapshotLatch, snapshotComplete,
autoSnapshot, evrRecordWrite, evrClearComplete, clearNonceExpiry, identityKeygenComplete. A row of an instant brings the local
clock to it, the model's choice (log 14). -/
def Obligations.CounterAndRecorderEvents : Prop :=
  (∀ (c : Counter) (n : Nat), c.value < 2 ^ 48 → n < 2 ^ 48 →
      ((counterConf c).2 = 0 → counterAdd c n = ({ c with value := (c.value + n) % 2 ^ 48 }, false))
      ∧ ((counterConf c).2 = 1 → c.sat = true → counterAdd c n = (c, false))
      ∧ ((counterConf c).2 = 1 → c.sat = false → (counterAdd c n).1.value = Nat.min (c.value + n) (2 ^ 48 - 1)
          ∧ (counterAdd c n).1.sat = decide (2 ^ 48 - 1 < c.value + n) ∧ (counterAdd c n).2 = false)
      ∧ ((counterConf c).2 = 2 → (counterAdd c n).1.value = (c.value + n) % 2 ^ 48
          ∧ (counterAdd c n).1.ovf = (c.ovf || decide (2 ^ 48 ≤ c.value + n))
          ∧ (counterAdd c n).2 = (!c.ovf && decide (2 ^ 48 ≤ c.value + n))))
  ∧ (∀ (x : Snapshot) (l r : List Snapshot) (s : State), s.cnt.armed = l ++ x :: r → (∀ y ∈ l, x.instant < y.instant) →
      (∀ y ∈ r, x.instant ≤ y.instant) →
      let auto := isAutoInstant x.instant s = true ∧ wNow s ≤ x.instant
      let u := reachW x.instant s
      (¬auto → exec .snapshotLatch s = .next (latchSnapshot { x with automatic := false } u))
      ∧ (auto → exec .snapshotLatch s = .next (latchSnapshot { x with automatic := true }
          { u with cnt := { u.cnt with lastAuto := some (autoIndex x.instant u) } })))
  ∧ (∀ s : State, s.cnt.armed = [] → exec .snapshotLatch s = .next s)
  ∧ (∀ (x : Snapshot) (s : State), s.cnt.writing = none →
      let u := latchSnapshot x s
      let b := snapBank u (s.cnt.nextSeq % 2 ^ 32 % 2)
      u.cnt.writing = some x ∧ b.state = 1 ∧ b.seq = s.cnt.nextSeq % 2 ^ 32 ∧ b.counters = s.cnt.units ∧ b.stats = s.cnt.stats
        ∧ u.cnt.nextSeq = (s.cnt.nextSeq % 2 ^ 32 + 1) % 2 ^ 32)
  ∧ (∀ s : State, exec .snapshotComplete s = .next (completeSnapshot s)
      ∧ (s.cnt.writing = none → completeSnapshot s = s)
      ∧ ∀ x : Snapshot, s.cnt.writing = some x →
        let k := writingBank s
        let b := snapBank s k
        let u := if b.state = 2 then s else raiseInt 7 { s with cnt := { s.cnt with
          banks := Tab.set s.cnt.banks k { b with state := 2 }, snapSeq := BitVec.ofNat 32 b.seq, snapAny := true, snapBank := k } }
        (clusterServes s = false → completeSnapshot s = u)
        ∧ (clusterServes s = true → x.tags = [] → completeSnapshot s = { u with cnt := { u.cnt with writing := none } })
        ∧ (clusterServes s = true → (completeSnapshot s).cnt.writing = none))
  ∧ (∀ s : State,
      let due := s.cnt.autoPeriod ≠ 0 ∧ s.img.live.isSome = true
      let i0 := boundaryFrom (wNow s) (baseNs s) (s.cnt.autoPeriod * cycleNs s)
      let i := if s.cnt.lastAuto = some (autoIndex i0 s) then i0 + autoPeriodVal s else i0
      let u := reachW i s
      (due → exec .autoSnapshot s = .next (latchSnapshot
        { instant := i, automatic := true, tags := (u.cnt.armed.filter (fun x => x.instant == i)).flatMap (·.tags) }
        { u with cnt := { u.cnt with lastAuto := some (autoIndex i u) } }))
      ∧ (¬due → exec .autoSnapshot s = .next s))
  ∧ (∀ s : State,
      (∀ (ty : Nat) (b : Bytes) (rest : List (Nat × Bytes)), clusterServes s = true → clearPending s = false →
        s.evr.queue = (ty, b) :: rest → exec .evrRecordWrite s = .next (recordNow ty b { s with evr := { s.evr with queue := rest } }))
      ∧ ((clusterServes s = false ∨ clearPending s = true ∨ s.evr.queue = []) → exec .evrRecordWrite s = .next s))
  ∧ (∀ s : State,
      (∀ (b : Bytes) (seq n : Nat) (t : Option Word16), clusterServes s = true → s.evr.clearing = some (b, seq, n, t) →
        ∃ u : State, u.evr.clearing = none ∧ OnlyRecorder s u
          ∧ (t = none → exec .evrClearComplete s = .next u)
          ∧ ∀ k : Word16, t = some k → exec .evrClearComplete s = .next (finalReply k stOk 0 (leBytes 4 seq ++ leBytes 4 n) u))
      ∧ ((clusterServes s = false ∨ s.evr.clearing = none) → exec .evrClearComplete s = .next s))
  ∧ (∀ s : State,
      (∀ (n : Bytes) (t : Nat), s.evr.nonce = some (n, t) →
        exec .clearNonceExpiry s = .next { s with
          clk := Nat.max s.clk (t + 600000000000), evr := { s.evr with nonce := none } })
      ∧ (s.evr.nonce = none → exec .clearNonceExpiry s = .next s))
  ∧ (∀ s : State,
      let may := clusterServes s = true ∧ (rootSecret s).isSome = true ∧ s.otp.lcState ≠ .retired
      (may → exec .identityKeygenComplete s = .next { s with keys := { s.keys with identityReady := true } })
      ∧ (¬may → exec .identityKeygenComplete s = .next s))

/-- What a row leaves alone, whatever its operands and the state: pause and gate rows touch the egress block, verification also
what leaves, port rows the ports, the time pins the time block and what leaves, the rows that send gPTP frames beside these the
frames and the blocks they enter, bridge accesses the bridge, and so on, beside the clock they reach and what a record or a
reply changes. -/
def Obligations.EventFrames : Prop :=
  ∀ s t : State,
    (∀ (p : Port) (c : Option (Fin 8)) (k : Fin 8),
        ∀ i ∈ [Instr.pauseExpiry p c, .pfcRefresh p k, .plcaHoldExpiry p, .gateEntryChange p, .preemptResponseRx p],
          exec i s = .next t → t = { s with egr := t.egr, clk := t.clk })
    ∧ (∀ (p : Port) (c : Option (Fin 8)), ∀ i ∈ [Instr.pfcStuck p c, .preemptVerify p],
          exec i s = .next t → OnlyRecorder { s with egr := t.egr, clk := t.clk, wire := t.wire } t)
    ∧ (∀ p : Port, ∀ i ∈ [Instr.phyCoeffStale p, .plcaBeaconRx p, .plcaLost p],
          exec i s = .next t → OnlyRecorder { s with ports := t.ports, clk := t.clk } t)
    ∧ (∀ (b : Bool) (n : Fin 4), ∀ i ∈ [Instr.ppsOutEdge b, .tsyncOutputEdge n b],
          exec i s = .next t → t = { s with time := t.time, clk := t.clk, wire := t.wire })
    ∧ (∀ (d : Fin 4) (p : Port) (m : PdelayMessage), ∀ i ∈ [Instr.announceTimer, .pdelayTimer, .pdelayMessageRx p m, .syncOriginate d],
          exec i s = .next t → OnlyRecorder { s with
            time := t.time, clk := t.clk, frames := t.frames, nextFrame := t.nextFrame, bsn := t.bsn, egr := t.egr
            cnt := t.cnt, wire := t.wire } t)
    ∧ (∀ (r : PbAccess) (id : Nat) (code : Fin 8) (b : Bytes),
        ∀ i ∈ [Instr.pbRequest r, .pbResponseRx id code b, .pbPostedErr id code, .pbTimeout id, .pbBackoffResend],
          exec i s = .next t → OnlyRecorder { s with pb := t.pb, clk := t.clk } t)
    ∧ (∀ i ∈ [Instr.evrRecordWrite, .evrClearComplete, .clearNonceExpiry],
          exec i s = .next t → OnlyRecorder { s with clk := t.clk } t)
    ∧ (∀ i ∈ [Instr.esmReqRise, .esmReqFall, .peerHlthToggle, .mlGoingDownRx, .controlTx],
          exec i s = .next t →
            t = { s with saf := { s.saf with esmAck := t.saf.esmAck }, pair := t.pair, clk := t.clk, wire := t.wire })
    ∧ (∀ m : RoleFrame, exec (.mlRoleRx m) s = .next t → t = { s with pair := t.pair, wire := t.wire })
    ∧ (∀ vid mac : Nat, exec (.learnAgeing vid mac) s = .next t →
          t = { s with bsn := { s.bsn with learned := t.bsn.learned }, clk := t.clk })
    ∧ (∀ i ∈ [Instr.snapshotComplete, .snapshotLatch, .autoSnapshot],
          exec i s = .next t → OnlyTransports { s with cnt := t.cnt, clk := t.clk } t)
    ∧ (∀ (e : Nat) (p : Port), exec (.frerResetTimer e p) s = .next t → OnlyCounters { s with egr := t.egr, clk := t.clk } t)

/-- R110: an action is valid when its reserved bits are zero, COLOUR is not 3 and, where RINSE is set, RESTART_LAYER lies in 1
to 11 and RESTART_NODE names a node; a TRUNC_ACTION or MAL_ACTION that is not all zero (Table 4.9) must also leave RINSE clear,
and MAL_ACTION must set DROP or ZONE_LOCK. -/
def Obligations.ValidActions : Prop :=
  ∀ (nodes : Nat) (a : Bytes),
    let w := fieldLe a 0 2
    (actionOk nodes a = true ↔
      (bit w 0 = false ∧ w < 128 ∧ byteAt a 2 < 32 ∧ byteAt a 3 < 8 ∧ byteAt a 4 < 16 ∧ (∀ k : Nat, k < 8 → byteAt a (8 + k) = 0)
        ∧ bits (byteAt a 2) 3 2 ≠ 3
        ∧ (bit w 3 = true → 1 ≤ byteAt a 4 ∧ byteAt a 4 ≤ 11 ∧ byteAt a 5 < nodes)))
    ∧ (∀ mal : Bool, allZero a = false →
        (defaultActionOk nodes mal a = true ↔
          (actionOk nodes a = true ∧ bit w 3 = false ∧ (mal = true → bit w 2 = true ∨ bit w 1 = true))))

/-- R416: an attribute record is valid only when its KIND, usages and KEY_LEN are a row of Table 15.4, its reserved bits are
zero, and LC does not have both FIELD and SERVICE set; the record of a payload also has GENERATION zero (Table 15.6). -/
def Obligations.ValidAttributeRecords : Prop :=
  ∀ b : Bytes,
    let kind := byteAt b 0
    let len := byteAt b 1
    let use := fieldLe b 2 2
    attrValid b = true ↔
      (((kind = 1 ∨ kind = 2) ∧ (((use = 0x001 ∨ use = 0x201) ∧ len = 64) ∨ (use = 0x008 ∧ (len = 16 ∨ len = 32))
            ∨ (use = 0x010 ∧ len = 64) ∨ (use = 0x020 ∧ len = 32) ∨ (use = 0x040 ∧ len = 64))
          ∨ kind = 3 ∧ len = 64 ∧ use ≠ 0 ∧ (∀ n : Nat, bit use n = true → n = 1 ∨ n = 2 ∨ n = 8)
          ∨ kind = 4 ∧ use = 0x080 ∧ len = 0)
        ∧ byteAt b 4 < 16 ∧ byteAt b 5 < 16 ∧ fieldLe b 6 2 = 0 ∧ fieldLe b 8 4 < 2048 ∧ fieldLe b 12 4 = 0
        ∧ ¬(bit (byteAt b 5) 2 = true ∧ bit (byteAt b 5) 3 = true))
end

