-- ==== Sys2Proof/Laws/Containers.lean ====
section
/-!
SUPPORT. Laws of tables and of the byte memory: reading after writing, and that every write keeps the canonical form.
-/
namespace Sys2Proof.Machine


theorem Tab.get_set {α : Type} (t : Tab α) (k j : Nat) (v d : α) :
    Tab.get (Tab.set t k v) j d = if j = k then v else Tab.get t j d := by
  induction t with
  | nil => simp only [Tab.set, Tab.get, eq_comm]
  | cons e t ih =>
    obtain ⟨a, w⟩ := e
    unfold Tab.set
    split
    · simp only [Tab.get, eq_comm (a := k)]
    · split
      · rename_i h; subst h; simp only [Tab.get, eq_comm (a := a)]; split <;> rfl
      · simp only [Tab.get, ih]; split
        · split
          · omega
          · rfl
        · rfl

/-- The keys of a table rise strictly. -/
theorem Tab.sorted_iff {α : Type} (t : Tab α) : Tab.sorted t = true ↔ t.Pairwise (fun a b => a.1 < b.1) := by
  induction t with
  | nil => simp [Tab.sorted]
  | cons e t ih =>
    cases t with
    | nil => simp [Tab.sorted]
    | cons f t =>
      obtain ⟨a, v⟩ := e; obtain ⟨b, w⟩ := f
      simp only [Tab.sorted, Bool.and_eq_true, decide_eq_true_eq, ih, List.pairwise_cons]
      constructor
      · rintro ⟨h, hb, ht⟩
        refine ⟨fun x hx => ?_, hb, ht⟩
        rcases List.mem_cons.1 hx with rfl | hx
        · exact h
        · exact h.trans (hb x hx)
      · rintro ⟨h, hb, ht⟩
        exact ⟨h _ (List.mem_cons_self ..), hb, ht⟩

theorem Tab.mem_set {α : Type} {t : Tab α} {k : Nat} {v : α} {x : Nat × α} (h : x ∈ Tab.set t k v) : x = (k, v) ∨ x ∈ t := by
  induction t with
  | nil => simpa [Tab.set] using h
  | cons e t ih =>
    obtain ⟨a, w⟩ := e
    unfold Tab.set at h
    split at h
    · simpa using h
    · split at h
      · rcases List.mem_cons.1 h with h | h
        · exact .inl h
        · exact .inr (List.mem_cons_of_mem _ h)
      · rcases List.mem_cons.1 h with h | h
        · exact .inr (h ▸ List.mem_cons_self ..)
        · exact (ih h).imp id (List.mem_cons_of_mem _)

theorem Tab.sorted_set {α : Type} {t : Tab α} (h : Tab.sorted t = true) (k : Nat) (v : α) : Tab.sorted (Tab.set t k v) = true := by
  rw [Tab.sorted_iff] at *
  induction t with
  | nil => simp [Tab.set]
  | cons e t ih =>
    obtain ⟨a, w⟩ := e
    obtain ⟨ha, ht⟩ := List.pairwise_cons.1 h
    unfold Tab.set
    split
    · rename_i hk
      refine List.pairwise_cons.2 ⟨fun x hx => ?_, h⟩
      rcases List.mem_cons.1 hx with rfl | hx
      · exact hk
      · exact hk.trans (ha x hx)
    · split
      · rename_i hk; subst hk; exact List.pairwise_cons.2 ⟨ha, ht⟩
      · refine List.pairwise_cons.2 ⟨fun x hx => ?_, ih ht⟩
        rcases Tab.mem_set hx with rfl | hx
        · simp only; omega
        · exact ha x hx

theorem Tab.sorted_del {α : Type} {t : Tab α} (h : Tab.sorted t = true) (k : Nat) : Tab.sorted (Tab.del t k) = true := by
  rw [Tab.sorted_iff] at *
  exact h.filter _

theorem Mem.wf_iff (m : Mem) : Mem.wf m = true ↔ Tab.sorted m.cells = true ∧ ∀ c ∈ m.cells, c.2 ≠ m.fill := by
  simp [Mem.wf, List.all_eq_true]

theorem Mem.wf_write {m : Mem} (h : Mem.wf m = true) (a : Nat) (v : Byte) : Mem.wf (Mem.write m a v) = true := by
  rw [Mem.wf_iff] at *
  unfold Mem.write
  dsimp only
  split
  · exact ⟨Tab.sorted_del h.1 a, fun c hc => h.2 c (List.mem_of_mem_filter hc)⟩
  · rename_i hv
    refine ⟨Tab.sorted_set h.1 a v, fun c hc => ?_⟩
    rcases Tab.mem_set hc with rfl | hc
    · exact hv
    · exact h.2 c hc

theorem Tab.get_del {α : Type} (t : Tab α) (k j : Nat) (d : α) :
    Tab.get (Tab.del t k) j d = if j = k then d else Tab.get t j d := by
  induction t with
  | nil => simp [Tab.del, Tab.get]
  | cons e t ih =>
    obtain ⟨a, w⟩ := e
    simp only [Tab.del, List.filter_cons] at *
    by_cases h : a = k
    · subst h
      simp only [bne_self_eq_false, Bool.false_eq_true, if_false, ih, Tab.get]
      split
      · rfl
      · rw [if_neg (by omega)]
    · simp only [bne_iff_ne, ne_eq, h, not_false_iff, if_true, Tab.get, ih]
      split
      · rw [if_neg (by omega)]
      · rfl

theorem Mem.read_write (m : Mem) (a b : Nat) (v : Byte) :
    Mem.read (Mem.write m a v) b = if b = a then v else Mem.read m b := by
  unfold Mem.read Mem.write
  dsimp only
  split
  · rename_i h; rw [Tab.get_del, h]
  · rw [Tab.get_set]

theorem Mem.read_writeAll (m : Mem) (a b : Nat) (l : Bytes) :
    Mem.read (Mem.writeAll m a l) b = if a ≤ b ∧ b < a + l.length then l.getD (b - a) 0 else Mem.read m b := by
  induction l generalizing m a with
  | nil => simp [Mem.writeAll]
  | cons x xs ih =>
    unfold Mem.writeAll
    rw [ih, Mem.read_write]
    simp only [List.length_cons]
    by_cases h : b = a
    · subst h; simp
    · by_cases h2 : a + 1 ≤ b ∧ b < a + 1 + xs.length
      · rw [if_pos h2, if_pos (by omega), show b - a = (b - (a + 1)) + 1 by omega, List.getD_cons_succ]
      · rw [if_neg h2, if_neg h, if_neg (by omega)]

theorem Mem.write_is {fill : Byte} {m : Mem} (h : MemIs fill m) (a : Nat) (v : Byte) : MemIs fill (Mem.write m a v) :=
  ⟨h.1, Mem.wf_write h.2 a v⟩

theorem Mem.writeAll_is {fill : Byte} {m : Mem} (h : MemIs fill m) (a : Nat) (b : Bytes) : MemIs fill (Mem.writeAll m a b) := by
  induction b generalizing m a with
  | nil => exact h
  | cons x xs ih => exact ih (Mem.write_is h a x) (a + 1)

theorem Mem.empty_is (fill : Byte) : MemIs fill { fill := fill, cells := [] } := ⟨rfl, rfl⟩

theorem Mem.blank_is (fill : Byte) : MemIs fill (Mem.blank fill) := ⟨rfl, rfl⟩

theorem eraseBank_is {m : Mem} (h : MemIs 0xFF m) (n : Nat) : MemIs 0xFF (eraseBank m n) := by
  obtain ⟨hf, hw⟩ := h
  rw [Mem.wf_iff] at hw
  refine ⟨rfl, (Mem.wf_iff _).2 ⟨?_, fun c hc => ?_⟩⟩
  · unfold eraseBank
    rw [Tab.sorted_iff] at *
    exact hw.1.filter _
  · simp only [eraseBank, List.mem_filter] at hc ⊢
    exact hf ▸ hw.2 c hc.1

end Sys2Proof.Machine
end

