-- ==== Sys2Proof/Laws/Evolve.lean ====
section
/-!
SUPPORT. What every operation of the block does to fuses, memories and the queue, as a relation that composes: from one state to
another fuses have only blown, canonical memories are canonical still, and the queue is the same.
-/
namespace Sys2Proof.Machine

theorem FusesKept.refl (o : Otp) : FusesKept o o :=
  ⟨fun _ => by simp [blownStays], by simp [blownStays], by simp [blownStays], fun h => ⟨h, rfl⟩, fun h => ⟨h, rfl⟩, rfl,
   ⟨rfl, rfl, rfl⟩, rfl, rfl⟩

theorem blownStays.trans {n : Nat} {a b c : BitVec n} (h : blownStays a b) (k : blownStays b c) : blownStays a c := by
  unfold blownStays at *
  rw [← h, BitVec.and_assoc, k]

theorem FusesKept.trans {o p q : Otp} (h : FusesKept o p) (k : FusesKept p q) : FusesKept o q where
  cells n := (h.cells n).trans (k.cells n)
  retired := h.retired.trans k.retired
  reach := h.reach.trans k.reach
  rootA v := ⟨(k.rootA (h.rootA v).1).1, (k.rootA (h.rootA v).1).2.trans (h.rootA v).2⟩
  rootB v := ⟨(k.rootB (h.rootB v).1).1, (k.rootB (h.rootB v).1).2.trans (h.rootB v).2⟩
  deviceId := k.deviceId.trans h.deviceId
  pciIds := ⟨k.pciIds.1.trans h.pciIds.1, k.pciIds.2.1.trans h.pciIds.2.1, k.pciIds.2.2.trans h.pciIds.2.2⟩
  mpAddress := k.mpAddress.trans h.mpAddress
  pqRequired := k.pqRequired.trans h.pqRequired


theorem banks_set {t : Tab Mem} {f : Byte} {n : Nat} {m : Mem} (h : ∀ b, MemIs f (Tab.get t b (Mem.blank f))) (hm : MemIs f m) (b : Nat) :
    MemIs f (Tab.get (Tab.set t n m) b (Mem.blank f)) := by
  rw [Tab.get_set]; split
  · exact hm
  · exact h b

theorem img_write {s : State} (h : ∀ b, MemIs 0 (Tab.get s.img.banks b (Mem.blank 0))) (k off : Nat) (w : Bytes) :
    ∀ b, MemIs 0 (Tab.get (Tab.set s.img.banks k (Mem.writeAll (imgBank s k) off w)) b (Mem.blank 0)) :=
  banks_set h (Mem.writeAll_is (h k) off w)

theorem nor_write {s : State} (h : ∀ b, MemIs 0xFF (Tab.get s.upd.nor b (Mem.blank 0xFF))) (k off : Nat) (w : Bytes) :
    ∀ b, MemIs 0xFF (Tab.get (Tab.set s.upd.nor k (Mem.writeAll (norBank s k) off w)) b (Mem.blank 0xFF)) :=
  banks_set h (Mem.writeAll_is (h k) off w)

theorem nor_erase {s : State} (h : ∀ b, MemIs 0xFF (Tab.get s.upd.nor b (Mem.blank 0xFF))) (k n : Nat) :
    ∀ b, MemIs 0xFF (Tab.get (Tab.set s.upd.nor k (eraseBank (norBank s k) n)) b (Mem.blank 0xFF)) :=
  banks_set h (eraseBank_is (h k) n)

/-- From `s` to `t` the queue is the same, fuses have only blown, and memories that were canonical are canonical. -/
structure Ev (s t : State) : Prop where
  queue : t.pending = s.pending
  fuses : FusesKept s.otp t.otp
  mems : MemoriesCanonical s → MemoriesCanonical t

theorem Ev.refl (s : State) : Ev s s := ⟨rfl, FusesKept.refl _, id⟩

theorem Ev.trans {s t u : State} (h : Ev s t) (k : Ev t u) : Ev s u :=
  ⟨k.queue.trans h.queue, h.fuses.trans k.fuses, fun m => k.mems (h.mems m)⟩

theorem Ev.ite {s0 a b : State} {c : Prop} [Decidable c] (ha : Ev s0 a) (hb : Ev s0 b) : Ev s0 (if c then a else b) := by
  split <;> assumption

theorem Ev.foldl {α : Type} {s0 s : State} {f : State → α → State} {l : List α} (h : Ev s0 s)
    (hf : ∀ t x, Ev s0 t → Ev s0 (f t x)) : Ev s0 (l.foldl f s) := by
  induction l generalizing s with
  | nil => exact h
  | cons x xs ih => exact ih (hf s x h)

/-- An update that leaves the queue and the fuses alone. -/
theorem Ev.of_mk {s0 s : State} (h : Ev s0 s) {freeCtr wire clk sys keys cmd intr hst cnt evr bkp time img rst upd saf pair pb
    ports frames nextFrame lanes fwl bsn egr leg wake}
    (he : MemIs 0xFF s.evr.mem → MemIs 0xFF (Rec.mem evr)) (hc : MemIs 0 s.cmd.request → MemIs 0 (Cmd.request cmd))
    (hb : (∀ b, MemIs 0 (Tab.get s.img.banks b (Mem.blank 0))) → ∀ b, MemIs 0 (Tab.get (Img.banks img) b (Mem.blank 0)))
    (hp : MemIs 0 s.img.peerBank → MemIs 0 (Img.peerBank img))
    (hn : (∀ b, MemIs 0xFF (Tab.get s.upd.nor b (Mem.blank 0xFF))) → ∀ b, MemIs 0xFF (Tab.get (Upd.nor upd) b (Mem.blank 0xFF)))
    (hq : MemIs 0xFF s.upd.peerNor → MemIs 0xFF (Upd.peerNor upd)) :
    Ev s0 (State.mk s.pending freeCtr wire clk sys s.otp keys cmd intr hst cnt evr bkp time img rst upd saf pair pb ports frames
      nextFrame lanes fwl bsn egr leg wake) := by
  refine ⟨h.queue, h.fuses, fun m => ?_⟩
  have k := h.mems m
  exact ⟨he k.recorder, hc k.request, hb k.banks, hp k.peerBank, hn k.nor, hq k.peerNor⟩

theorem Ev.ite1 {α : Type} {s0 : State} {c : Prop} [Decidable c] {a b : State × α} (ha : Ev s0 a.1) (hb : Ev s0 b.1) :
    Ev s0 (if c then a else b).1 := by
  split <;> assumption

theorem Ev.ite2 {α : Type} {s0 : State} {c : Prop} [Decidable c] {a b : α × State} (ha : Ev s0 a.2) (hb : Ev s0 b.2) :
    Ev s0 (if c then a else b).2 := by
  split <;> assumption

theorem Ev.ite22 {α β : Type} {s0 : State} {c : Prop} [Decidable c] {a b : α × β × State} (ha : Ev s0 a.2.2)
    (hb : Ev s0 b.2.2) : Ev s0 (if c then a else b).2.2 := by
  split <;> assumption

theorem Ev.foldl1 {α β : Type} {s0 : State} {p : State × β} {f : State × β → α → State × β} {l : List α} (h : Ev s0 p.1)
    (hf : ∀ t x, Ev s0 t.1 → Ev s0 (f t x).1) : Ev s0 (l.foldl f p).1 := by
  induction l generalizing p with
  | nil => exact h
  | cons x xs ih => exact ih (hf p x h)

theorem Ev.foldl2 {α β : Type} {s0 : State} {p : β × State} {f : β × State → α → β × State} {l : List α} (h : Ev s0 p.2)
    (hf : ∀ t x, Ev s0 t.2 → Ev s0 (f t x).2) : Ev s0 (l.foldl f p).2 := by
  induction l generalizing p with
  | nil => exact h
  | cons x xs ih => exact ih (hf p x h)

theorem Ev.of_otp {s0 s : State} (h : Ev s0 s) {o : Otp} (ho : FusesKept s.otp o) : Ev s0 { s with otp := o } :=
  ⟨h.queue, h.fuses.trans ho, fun m => ⟨(h.mems m).recorder, (h.mems m).request, (h.mems m).banks, (h.mems m).peerBank,
    (h.mems m).nor, (h.mems m).peerNor⟩⟩

theorem blownStays.whole (c : BitVec 3) : blownStays c 7 := by
  unfold blownStays; revert c; decide

theorem blownStays.or {n : Nat} (c d : BitVec n) : blownStays c (c ||| d) := by
  unfold blownStays; ext i; simp; tauto

theorem wholeCell_keeps (c : BitVec 3) : blownStays c (wholeCell c) := by
  unfold wholeCell; split
  · exact blownStays.whole c
  · simp [blownStays]

theorem FusesKept.retire (o : Otp) : FusesKept o { o with retiredCell := 7 } :=
  { FusesKept.refl o with retired := blownStays.whole _ }

theorem FusesKept.blowCell (o : Otp) (n : Nat) : FusesKept o { o with lcCells := o.lcCells.set n 7 } :=
  { FusesKept.refl o with
    cells := fun k => by
      simp only [List.getD_eq_getElem?_getD, List.getElem?_set]
      split
      · split
        · exact blownStays.whole _
        · rename_i h1 h2
          have : o.lcCells[k]? = none := by subst h1; simpa using h2
          simp [this, blownStays]
      · simp [blownStays] }

theorem FusesKept.reachBits (o : Otp) (w : Word) : FusesKept o { o with rstReach := o.rstReach ||| w } :=
  { FusesKept.refl o with reach := blownStays.or _ _ }

theorem FusesKept.takeRootA (o : Otp) (h : o.rootAValid = false) (a : Bytes)
    (ok : Bool) : FusesKept o { o with rootA := a, rootAValid := ok } :=
  { FusesKept.refl o with rootA := fun v => by simp [h] at v }

theorem FusesKept.takeRootB (o : Otp) (h : o.rootBValid = false) (b : Bytes)
    (ok : Bool) : FusesKept o { o with rootB := b, rootBValid := ok } :=
  { FusesKept.refl o with rootB := fun v => by simp [h] at v }

theorem Ev.of_eq1 {α : Type} {s0 t : State} {p : State × α} {a : α} (h : Ev s0 p.1) (e : p = (t, a)) : Ev s0 t := by
  subst e; exact h

theorem Ev.of_eq2 {α : Type} {s0 t : State} {p : α × State} {a : α} (h : Ev s0 p.2) (e : p = (a, t)) : Ev s0 t := by
  subst e; exact h

theorem FusesKept.readOut (o : Otp) (n : Nat) (l : LifeCycle) (r : Word) :
    FusesKept o { o with lcCells := o.lcCells.map wholeCell, retiredCell := wholeCell o.retiredCell, lcCount := n, lcState := l
                         rstReachRead := r } :=
  { FusesKept.refl o with
    cells := fun k => by
      simp only [List.getD_eq_getElem?_getD, List.getElem?_map]
      cases o.lcCells[k]? with
      | none => simp [blownStays]
      | some c => exact wholeCell_keeps c
    retired := wholeCell_keeps _ }

/-- Whatever an opcode supplies evolves the state so. -/
structure OpEv (d : OpDef) : Prop where
  commit : ∀ r s0 s, Ev s0 s → Ev s0 (d.commit r s)
  effect : ∀ r s0 s, Ev s0 s → Ev s0 (d.effect r s)
  handOver : ∀ r s0 s, Ev s0 s → Ev s0 (d.handOver r s)
  arm : ∀ r s0 s, Ev s0 s → Ev s0 (d.arm r s)
  onFail : ∀ r s0 s, Ev s0 s → Ev s0 (d.onFail r s)
  onClosed : ∀ r s0 s, Ev s0 s → Ev s0 (d.onClosed r s)
  onAccept : ∀ r s0 s, Ev s0 s → Ev s0 (d.onAccept r s)

theorem OpEv.skip (c : Nat) : OpEv { code := c, commit := fun _ s => s } := by
  constructor <;> intro r s0 s h <;> exact h

end Sys2Proof.Machine
end

