-- ==== Sys2Proof/Laws/EvolveShared.lean ====
section
/-!
SUPPORT. Each operation and command of clocks, recorder, interrupts, counters, commands, time, reset reaches and modes only lets fuses blow, keeps the memories canonical and leaves the queue alone:
one lemma per definition.
-/
set_option linter.unusedTactic false
set_option linter.unreachableTactic false
set_option linter.unusedVariables false

namespace Sys2Proof.Machine

/-! Machine/Ops.lean. -/

theorem emit_ev {s0 : State} (o : Out) {s : State} (hv : Ev s0 s) : Ev s0 (emit o s) :=
  Ev.of_mk hv (fun m => m) (fun m => m) (fun m => m) (fun m => m) (fun m => m) (fun m => m)

theorem reachClock_ev {s0 : State} (t : Nat) {s : State} (hv : Ev s0 s) : Ev s0 (reachClock t s) :=
  Ev.of_mk hv (fun m => m) (fun m => m) (fun m => m) (fun m => m) (fun m => m) (fun m => m)

theorem drawNat_ev {s0 : State} {s : State} (hv : Ev s0 s) : Ev s0 (drawNat s).2 :=
  Ev.of_mk hv (fun m => m) (fun m => m) (fun m => m) (fun m => m) (fun m => m) (fun m => m)

theorem drawBytes_ev {s0 : State} (n : Nat) {s : State} (hv : Ev s0 s) : Ev s0 (drawBytes n s).2 :=
  Ev.of_mk hv (fun m => m) (fun m => m) (fun m => m) (fun m => m) (fun m => m) (fun m => m)

theorem setDom_ev {s0 : State} (d : Nat) (v : Domain) {s : State} (hv : Ev s0 s) : Ev s0 (setDom d v s) :=
  Ev.of_mk hv (fun m => m) (fun m => m) (fun m => m) (fun m => m) (fun m => m) (fun m => m)

theorem reachW_ev {s0 : State} (target : Int) {s : State} (hv : Ev s0 s) : Ev s0 (reachW target s) := by
  unfold reachW
  repeat' with_reducible first
    | assumption | (intro _) | apply reachClock_ev | split
    | (fail_if_no_progress (apply Ev.of_mk <;> first | exact fun h => h | skip)) | dsimp only

theorem reachDom_ev {s0 : State} (d : Nat) (target : Int) {s : State} (hv : Ev s0 s) : Ev s0 (reachDom d target s)
    := by
  unfold reachDom
  repeat' with_reducible first
    | assumption | (intro _) | apply reachClock_ev | split
    | (fail_if_no_progress (apply Ev.of_mk <;> first | exact fun h => h | skip)) | dsimp only

theorem onGrid_ev {s0 : State} {s : State} (hv : Ev s0 s) : Ev s0 (onGrid s) :=
  Ev.of_mk hv (fun m => m) (fun m => m) (fun m => m) (fun m => m) (fun m => m) (fun m => m)

theorem settleClear_ev {s0 : State} {s : State} (hv : Ev s0 s) : Ev s0 (settleClear s) := by
  unfold settleClear
  repeat' with_reducible first
    | assumption | (intro _) | apply Ev.ite | split
    | (fail_if_no_progress (apply Ev.of_mk <;> first | exact fun h => h | exact fun h => Mem.writeAll_is h _ _ | exact fun _ => Mem.writeAll_is (Mem.blank_is _) _ _ | exact fun _ => Mem.blank_is _ | exact fun _ => Mem.empty_is _ | exact fun h => img_write h _ _ _ | exact fun h => nor_write h _ _ _ | exact fun h => nor_erase h _ _ | skip)) | dsimp only

theorem countUnrecorded_ev {s0 : State} (n : Nat) {s : State} (hv : Ev s0 s) : Ev s0 (countUnrecorded n s) :=
  Ev.of_mk hv (fun m => m) (fun m => m) (fun m => m) (fun m => m) (fun m => m) (fun m => m)

theorem writeRecord_ev {s0 : State} (ty : Nat) (body : Bytes) {s : State} (hv : Ev s0 s) : Ev s0
    (writeRecord ty body s) := by
  unfold writeRecord
  repeat' with_reducible first
    | assumption | (intro _) | apply Ev.ite | apply settleClear_ev | split
    | (fail_if_no_progress (apply Ev.of_mk <;> first | exact fun h => h | exact fun h => Mem.writeAll_is h _ _ | exact fun _ => Mem.writeAll_is (Mem.blank_is _) _ _ | exact fun _ => Mem.blank_is _ | exact fun _ => Mem.empty_is _ | exact fun h => img_write h _ _ _ | exact fun h => nor_write h _ _ _ | exact fun h => nor_erase h _ _ | skip)) | dsimp only

theorem record_ev {s0 : State} (ty : Nat) (body : Bytes) {s : State} (hv : Ev s0 s) : Ev s0 (record ty body s) := by
  unfold record
  repeat' with_reducible first
    | assumption | (intro _) | apply Ev.ite | apply countUnrecorded_ev | split
    | (fail_if_no_progress (apply Ev.of_mk <;> first | exact fun h => h | skip)) | dsimp only

theorem recordLimited_ev {s0 : State} (ty obj : Nat) (body : Nat → Bytes) {s : State} (hv : Ev s0 s) : Ev s0
    (recordLimited ty obj body s) := by
  unfold recordLimited
  repeat' with_reducible first
    | assumption | (intro _) | apply Ev.ite | apply record_ev | split
    | (fail_if_no_progress (apply Ev.of_mk <;> first | exact fun h => h | skip)) | dsimp only

theorem setPciFn_ev {s0 : State} (f : Nat) (p : PciFn) {s : State} (hv : Ev s0 s) : Ev s0 (setPciFn f p s) :=
  Ev.of_mk hv (fun m => m) (fun m => m) (fun m => m) (fun m => m) (fun m => m) (fun m => m)

theorem setVector_ev {s0 : State} (f v : Nat) (e : Vector) {s : State} (hv : Ev s0 s) : Ev s0 (setVector f v e s)
    := by
  unfold setVector
  repeat' with_reducible first
    | assumption | (intro _) | apply setPciFn_ev | split
    | (fail_if_no_progress (apply Ev.of_mk <;> first | exact fun h => h | skip)) | dsimp only

theorem sendVector_ev {s0 : State} (f v : Nat) {s : State} (hv : Ev s0 s) : Ev s0 (sendVector f v s) := by
  unfold sendVector
  repeat' with_reducible first
    | assumption | (intro _) | apply Ev.ite | apply emit_ev | apply setVector_ev | split
    | (fail_if_no_progress (apply Ev.of_mk <;> first | exact fun h => h | skip)) | dsimp only

theorem signalSource_ev {s0 : State} (src : Nat) {s : State} (hv : Ev s0 s) : Ev s0 (signalSource src s) := by
  unfold signalSource
  repeat' with_reducible first
    | assumption | (intro _) | apply Ev.ite | apply Ev.foldl | apply sendVector_ev | split
    | (fail_if_no_progress (apply Ev.of_mk <;> first | exact fun h => h | skip)) | dsimp only

theorem raiseInt_ev {s0 : State} (src : Nat) {s : State} (hv : Ev s0 s) : Ev s0 (raiseInt src s) := by
  unfold raiseInt
  repeat' with_reducible first
    | assumption | (intro _) | apply Ev.ite | apply signalSource_ev | split
    | (fail_if_no_progress (apply Ev.of_mk <;> first | exact fun h => h | skip)) | dsimp only

theorem noteBusy_ev {s0 : State} {s : State} (hv : Ev s0 s) : Ev s0 (noteBusy s) :=
  Ev.of_mk hv (fun m => m) (fun m => m) (fun m => m) (fun m => m) (fun m => m) (fun m => m)

theorem overflowed_ev {s0 : State} (n : Nat) {s : State} (hv : Ev s0 s) : Ev s0 (overflowed n s) := by
  unfold overflowed
  repeat' with_reducible first
    | assumption | (intro _) | apply raiseInt_ev | split
    | (fail_if_no_progress (apply Ev.of_mk <;> first | exact fun h => h | skip)) | dsimp only

theorem countSource_ev {s0 : State} (kind object event inc : Nat) {s : State} (hv : Ev s0 s) : Ev s0
    (countSource kind object event inc s) := by
  unfold countSource
  repeat' with_reducible first
    | assumption | (intro _) | apply Ev.ite | apply Ev.foldl | apply overflowed_ev | split
    | (fail_if_no_progress (apply Ev.of_mk <;> first | exact fun h => h | skip)) | dsimp only

theorem stat_ev {s0 : State} (p i inc : Nat) {s : State} (hv : Ev s0 s) : Ev s0 (stat p i inc s) := by
  unfold stat
  repeat' with_reducible first
    | assumption | (intro _) | apply Ev.ite | apply countSource_ev | split
    | (fail_if_no_progress (apply Ev.of_mk <;> first | exact fun h => h | skip)) | dsimp only

theorem enterMode_ev {s0 : State} (m : Mode) {s : State} (hv : Ev s0 s) : Ev s0 (enterMode m s) := by
  unfold enterMode
  repeat' with_reducible first
    | assumption | (intro _) | apply Ev.ite | apply record_ev | split
    | (fail_if_no_progress (apply Ev.of_mk <;> first | exact fun h => h | skip)) | dsimp only

theorem setFault_ev {s0 : State} (low : Bool) {s : State} (hv : Ev s0 s) : Ev s0 (setFault low s) := by
  unfold setFault
  repeat' with_reducible first
    | assumption | (intro _) | apply Ev.ite | apply emit_ev | split
    | (fail_if_no_progress (apply Ev.of_mk <;> first | exact fun h => h | skip)) | dsimp only

/-! Machine/Commands.lean. -/

theorem setCmdRing_ev {s0 : State} (f : Nat) (r : CmdRing) {s : State} (hv : Ev s0 s) : Ev s0 (setCmdRing f r s) :=
  Ev.of_mk hv (fun m => m) (fun m => m) (fun m => m) (fun m => m) (fun m => m) (fun m => m)

theorem updTag_ev {s0 : State} (t : Word16) (f : InFlight → InFlight) {s : State} (hv : Ev s0 s) : Ev s0
    (updTag t f s) := by
  unfold updTag
  repeat' with_reducible first
    | assumption | (intro _) | apply Ev.ite | split
    | (fail_if_no_progress (apply Ev.of_mk <;> first | exact fun h => h | skip)) | dsimp only

theorem freeTag_ev {s0 : State} (t : Word16) {s : State} (hv : Ev s0 s) : Ev s0 (freeTag t s) := by
  unfold freeTag
  repeat' with_reducible first
    | assumption | (intro _) | apply Ev.ite | split
    | (fail_if_no_progress (apply Ev.of_mk <;> first | exact fun h => h | skip)) | dsimp only

theorem writeCompletion_ev {s0 : State} (f : Nat) {s : State} (hv : Ev s0 s) : Ev s0 (writeCompletion f s) := by
  unfold writeCompletion
  repeat' with_reducible first
    | assumption | (intro _) | apply Ev.ite | apply emit_ev | apply sendVector_ev | apply setCmdRing_ev
    | apply freeTag_ev | split
    | (fail_if_no_progress (apply Ev.of_mk <;> first | exact fun h => h | skip)) | dsimp only

theorem drainCompletions_ev {s0 : State} (n f : Nat) {s : State} (hv : Ev s0 s) : Ev s0 (drainCompletions n f s) := by
  induction n generalizing s with
  | zero => exact hv
  | succ k ih =>
    unfold drainCompletions
    repeat' with_reducible first
      | assumption | (intro _) | apply Ev.ite | apply Ev.foldl | apply ih | apply writeCompletion_ev | split
      | (fail_if_no_progress (apply Ev.of_mk <;> first | exact fun h => h | skip)) | dsimp only

theorem deliver_ev {s0 : State} (via : Via) (op : Nat) (p : Packet) (key : Bytes) (extra status detail : Nat)
    (result : Bytes) (frees : Bool) {s : State} (hv : Ev s0 s) : Ev s0
    (deliver via op p key extra status detail result frees s) := by
  unfold deliver
  repeat' with_reducible first
    | assumption | (intro _) | apply Ev.ite | apply emit_ev | apply raiseInt_ev | apply setCmdRing_ev
    | apply freeTag_ev | apply drainCompletions_ev | split
    | (fail_if_no_progress (apply Ev.of_mk <;> first | exact fun h => h | skip)) | dsimp only

theorem finalReply_ev {s0 : State} (t : Word16) (status detail : Nat) (result : Bytes) {s : State} (hv : Ev s0 s)
    : Ev s0 (finalReply t status detail result s) := by
  unfold finalReply
  repeat' with_reducible first
    | assumption | (intro _) | apply Ev.ite | apply updTag_ev | apply freeTag_ev | apply deliver_ev | split
    | (fail_if_no_progress (apply Ev.of_mk <;> first | exact fun h => h | skip)) | dsimp only

theorem refuseReply_ev {s0 : State} (via : Via) (op : Nat) (p : Packet) (key : Bytes) (reject : Bool)
    (status detail : Nat) {s : State} (hv : Ev s0 s) : Ev s0 (refuseReply via op p key reject status detail s) := by
  unfold refuseReply
  repeat' with_reducible first
    | assumption | (intro _) | apply Ev.ite | apply deliver_ev | split
    | (fail_if_no_progress (apply Ev.of_mk <;> first | exact fun h => h | skip)) | dsimp only

theorem interimReply_ev {s0 : State} (e : InFlight) {s : State} (hv : Ev s0 s) : Ev s0 (interimReply e s) := by
  unfold interimReply
  repeat' with_reducible first
    | assumption | (intro _) | apply Ev.ite | apply deliver_ev | split
    | (fail_if_no_progress (apply Ev.of_mk <;> first | exact fun h => h | skip)) | dsimp only

theorem lateInterim_ev {s0 : State} (e : InFlight) {s : State} (hv : Ev s0 s) : Ev s0 (lateInterim e s) := by
  unfold lateInterim
  repeat' with_reducible first
    | assumption | (intro _) | apply Ev.ite | apply interimReply_ev | split
    | (fail_if_no_progress (apply Ev.of_mk <;> first | exact fun h => h | skip)) | dsimp only

theorem answer_ev {s0 : State} (r : Req) (status detail : Nat) (result : Bytes) {s : State} (hv : Ev s0 s) : Ev s0
    (answer r status detail result s) := by
  unfold answer
  repeat' with_reducible first
    | assumption | (intro _) | apply Ev.ite | apply finalReply_ev | split
    | (fail_if_no_progress (apply Ev.of_mk <;> first | exact fun h => h | skip)) | dsimp only

theorem acceptCommand_ev {s0 : State} (d : OpDef) (via : Via) (p : Packet) (r : Req) (hd : OpEv d) {s : State} (hv
    : Ev s0 s) : Ev s0 (acceptCommand d via p r s) := by
  unfold acceptCommand
  repeat' with_reducible first
    | assumption | (intro _) | apply Ev.ite | exact hd | apply hd.commit | apply hd.handOver | apply hd.arm
    | apply hd.onFail | apply hd.onClosed | apply hd.onAccept | apply hd.effect | apply interimReply_ev | split
    | (fail_if_no_progress (apply Ev.of_mk <;> first | exact fun h => h | skip)) | dsimp only

theorem acceptOrRefuse_ev {s0 : State} (d : OpDef) (via : Via) (p : Packet) (hd : OpEv d) {s : State} (hv
    : Ev s0 s) : Ev s0 (acceptOrRefuse d via p s) := by
  unfold acceptOrRefuse
  repeat' with_reducible first
    | assumption | (intro _) | apply Ev.ite | exact hd | apply hd.commit | apply hd.handOver | apply hd.arm
    | apply hd.onFail | apply hd.onClosed | apply hd.onAccept | apply hd.effect | apply refuseReply_ev
    | apply acceptCommand_ev | split
    | (fail_if_no_progress (apply Ev.of_mk <;> first | exact fun h => h | skip)) | dsimp only

theorem executeNow_ev {s0 : State} (d : OpDef) (r : Req) (hd : OpEv d) {s : State} (hv : Ev s0 s) : Ev s0
    (executeNow d r s) := by
  unfold executeNow
  repeat' with_reducible first
    | assumption | (intro _) | exact hd | apply hd.commit | apply hd.handOver | apply hd.arm | apply hd.onFail
    | apply hd.onClosed | apply hd.onAccept | apply hd.effect | apply updTag_ev | apply finalReply_ev | split
    | (fail_if_no_progress (apply Ev.of_mk <;> first | exact fun h => h | skip)) | dsimp only

theorem beginCommand_ev {s0 : State} (d : OpDef) (e : InFlight) (hd : OpEv d) {s : State} (hv : Ev s0 s) : Ev s0
    (beginCommand d e s) := by
  unfold beginCommand
  repeat' with_reducible first
    | assumption | (intro _) | apply Ev.ite | exact hd | apply hd.commit | apply hd.handOver | apply hd.arm
    | apply hd.onFail | apply hd.onClosed | apply hd.onAccept | apply hd.effect | apply updTag_ev
    | apply finalReply_ev | apply interimReply_ev | apply executeNow_ev | split
    | (fail_if_no_progress (apply Ev.of_mk <;> first | exact fun h => h | skip)) | dsimp only

theorem answerDuplicate_ev {s0 : State} (via : Via) (p : Packet) {s : State} (hv : Ev s0 s) : Ev s0
    (answerDuplicate via p s) := by
  unfold answerDuplicate
  repeat' with_reducible first
    | assumption | (intro _) | apply Ev.ite | apply emit_ev | split
    | (fail_if_no_progress (apply Ev.of_mk <;> first | exact fun h => h | skip)) | dsimp only

theorem arriveWith_ev {s0 : State} (serves go : Bool) (d : OpDef) (via : Via) (p : Packet) (hd : OpEv d) {s
    : State} (hv : Ev s0 s) : Ev s0 (arriveWith serves go d via p s) := by
  unfold arriveWith
  repeat' with_reducible first
    | assumption | (intro _) | apply Ev.ite | exact hd | apply hd.commit | apply hd.handOver | apply hd.arm
    | apply hd.onFail | apply hd.onClosed | apply hd.onAccept | apply hd.effect | apply stat_ev
    | apply acceptOrRefuse_ev | apply beginCommand_ev | apply answerDuplicate_ev | split
    | (fail_if_no_progress (apply Ev.of_mk <;> first | exact fun h => h | skip)) | dsimp only

theorem arrive_ev {s0 : State} (d : OpDef) (via : Via) (p : Packet) (hd : OpEv d) {s : State} (hv : Ev s0 s)
    : Ev s0 (arrive d via p s) := by
  unfold arrive
  repeat' with_reducible first
    | assumption | (intro _) | exact hd | apply hd.commit | apply hd.handOver | apply hd.arm | apply hd.onFail
    | apply hd.onClosed | apply hd.onAccept | apply hd.effect | apply arriveWith_ev | split
    | (fail_if_no_progress (apply Ev.of_mk <;> first | exact fun h => h | skip)) | dsimp only

theorem runCommand_ev {s0 : State} (d : OpDef) (c : CmdSource) (hd : OpEv d) {s : State} (hv : Ev s0 s) : Ev s0
    (runCommand d c s) := by
  unfold runCommand
  repeat' with_reducible first
    | assumption | (intro _) | apply Ev.ite | exact hd | apply hd.commit | apply hd.handOver | apply hd.arm
    | apply hd.onFail | apply hd.onClosed | apply hd.onAccept | apply hd.effect | apply beginCommand_ev
    | apply arrive_ev | split
    | (fail_if_no_progress (apply Ev.of_mk <;> first | exact fun h => h | skip)) | dsimp only

/-! Machine/Operands.lean. -/

theorem setPort_ev {s0 : State} (p : Nat) (e : EthPort) {s : State} (hv : Ev s0 s) : Ev s0 (setPort p e s) :=
  Ev.of_mk hv (fun m => m) (fun m => m) (fun m => m) (fun m => m) (fun m => m) (fun m => m)

theorem setStb_ev {s0 : State} (ep : Nat) (high : Bool) {s : State} (hv : Ev s0 s) : Ev s0 (setStb ep high s) := by
  unfold setStb
  repeat' with_reducible first
    | assumption | (intro _) | apply Ev.ite | apply emit_ev | split
    | (fail_if_no_progress (apply Ev.of_mk <;> first | exact fun h => h | skip)) | dsimp only

/-! Machine/Time.lean. -/

theorem setWMode_ev {s0 : State} (m : WMode) {s : State} (hv : Ev s0 s) : Ev s0 (setWMode m s) := by
  unfold setWMode
  repeat' with_reducible first
    | assumption | (intro _) | apply Ev.ite | apply record_ev | split
    | (fail_if_no_progress (apply Ev.of_mk <;> first | exact fun h => h | skip)) | dsimp only

theorem setWRate_ev {s0 : State} (r : Int) {s : State} (hv : Ev s0 s) : Ev s0 (setWRate r s) :=
  Ev.of_mk hv (fun m => m) (fun m => m) (fun m => m) (fun m => m) (fun m => m) (fun m => m)

theorem refreshW_ev {s0 : State} {s : State} (hv : Ev s0 s) : Ev s0 (refreshW s) := by
  unfold refreshW
  repeat' with_reducible first
    | assumption | (intro _) | apply Ev.ite | apply recordLimited_ev | apply setWRate_ev | split
    | (fail_if_no_progress (apply Ev.of_mk <;> first | exact fun h => h | skip)) | dsimp only

theorem wLosesTd0_ev {s0 : State} {s : State} (hv : Ev s0 s) : Ev s0 (wLosesTd0 s) := by
  unfold wLosesTd0
  repeat' with_reducible first
    | assumption | (intro _) | apply Ev.ite | apply setWMode_ev | apply refreshW_ev | split
    | (fail_if_no_progress (apply Ev.of_mk <;> first | exact fun h => h | skip)) | dsimp only

theorem wOnDomain_ev {s0 : State} (d : Nat) (old : DomState) (stepped : Bool) {s : State} (hv : Ev s0 s) : Ev s0
    (wOnDomain d old stepped s) := by
  unfold wOnDomain
  repeat' with_reducible first
    | assumption | (intro _) | apply Ev.ite | apply setWMode_ev | apply refreshW_ev | apply wLosesTd0_ev | split
    | (fail_if_no_progress (apply Ev.of_mk <;> first | exact fun h => h | skip)) | dsimp only

theorem withdraw_ev {s0 : State} (t : Word16) {s : State} (hv : Ev s0 s) : Ev s0 (withdraw t s) := by
  unfold withdraw
  repeat' with_reducible first
    | assumption | (intro _) | apply Ev.ite | apply noteBusy_ev | split
    | (fail_if_no_progress (apply Ev.of_mk <;> first | exact fun h => h | skip)) | dsimp only

theorem withdrawalRecord_ev {s0 : State} (t : Word16) {s : State} (hv : Ev s0 s) : Ev s0 (withdrawalRecord t s) := by
  unfold withdrawalRecord
  repeat' with_reducible first
    | assumption | (intro _) | apply record_ev | split
    | (fail_if_no_progress (apply Ev.of_mk <;> first | exact fun h => h | skip)) | dsimp only

theorem abortCommand_ev {s0 : State} (t : Word16) (detail : Nat) {s : State} (hv : Ev s0 s) : Ev s0
    (abortCommand t detail s) := by
  unfold abortCommand
  repeat' with_reducible first
    | assumption | (intro _) | apply Ev.ite | apply finalReply_ev | apply lateInterim_ev | apply withdraw_ev
    | apply withdrawalRecord_ev | split
    | (fail_if_no_progress (apply Ev.of_mk <;> first | exact fun h => h | skip)) | dsimp only

theorem abortPassed_ev {s0 : State} (before : Int) {s : State} (hv : Ev s0 s) : Ev s0 (abortPassed before s) := by
  unfold abortPassed
  repeat' with_reducible first
    | assumption | (intro _) | apply Ev.ite | apply Ev.foldl | apply abortCommand_ev | split
    | (fail_if_no_progress (apply Ev.of_mk <;> first | exact fun h => h | skip)) | dsimp only

theorem enterHoldover_ev {s0 : State} (d : Nat) {s : State} (hv : Ev s0 s) : Ev s0 (enterHoldover d s) := by
  unfold enterHoldover
  repeat' with_reducible first
    | assumption | (intro _) | apply setDom_ev | apply record_ev | apply wOnDomain_ev | split
    | (fail_if_no_progress (apply Ev.of_mk <;> first | exact fun h => h | skip)) | dsimp only

theorem freezeDomain_ev {s0 : State} (d : Nat) {s : State} (hv : Ev s0 s) : Ev s0 (freezeDomain s d) := by
  unfold freezeDomain
  repeat' with_reducible first
    | assumption | (intro _) | apply Ev.ite | apply setDom_ev | apply enterHoldover_ev | split
    | (fail_if_no_progress (apply Ev.of_mk <;> first | exact fun h => h | skip)) | dsimp only

theorem lockedFrozen_ev {s0 : State} (d : Nat) {s : State} (hv : Ev s0 s) : Ev s0 (lockedFrozen d s) := by
  unfold lockedFrozen
  repeat' with_reducible first
    | assumption | (intro _) | apply Ev.ite | apply freezeDomain_ev | split
    | (fail_if_no_progress (apply Ev.of_mk <;> first | exact fun h => h | skip)) | dsimp only

theorem setTsync_ev {s0 : State} (n : Nat) (v : Tsync) {s : State} (hv : Ev s0 s) : Ev s0 (setTsync n v s) :=
  Ev.of_mk hv (fun m => m) (fun m => m) (fun m => m) (fun m => m) (fun m => m) (fun m => m)

theorem carryPulses_ev {s0 : State} (before : State) {s : State} (hv : Ev s0 s) : Ev s0 (carryPulses before s) :=
  Ev.of_mk hv (fun m => m) (fun m => m) (fun m => m) (fun m => m) (fun m => m) (fun m => m)

theorem stepDomain_ev {s0 : State} (d : Nat) (delta : Int) {s : State} (hv : Ev s0 s) : Ev s0
    (stepDomain d delta s) := by
  unfold stepDomain
  repeat' with_reducible first
    | assumption | (intro _) | apply setDom_ev | apply wOnDomain_ev | apply abortPassed_ev | apply lockedFrozen_ev
    | apply carryPulses_ev | split
    | (fail_if_no_progress (apply Ev.of_mk <;> first | exact fun h => h | skip)) | dsimp only

theorem setDomRate_ev {s0 : State} (d : Nat) (r : Int) {s : State} (hv : Ev s0 s) : Ev s0 (setDomRate d r s) := by
  unfold setDomRate
  repeat' with_reducible first
    | assumption | (intro _) | apply setDom_ev | apply refreshW_ev | split
    | (fail_if_no_progress (apply Ev.of_mk <;> first | exact fun h => h | skip)) | dsimp only

theorem firstLock_ev {s0 : State} (d : Nat) (step q : Int) {s : State} (hv : Ev s0 s) : Ev s0
    (firstLock d step q s) := by
  unfold firstLock
  repeat' with_reducible first
    | assumption | (intro _) | apply Ev.ite | apply setDom_ev | apply record_ev | apply wOnDomain_ev
    | apply lockedFrozen_ev | apply stepDomain_ev | apply setDomRate_ev | split
    | (fail_if_no_progress (apply Ev.of_mk <;> first | exact fun h => h | skip)) | dsimp only

theorem overtakeLock_ev {s0 : State} (d : Nat) {s : State} (hv : Ev s0 s) : Ev s0 (overtakeLock d s) := by
  unfold overtakeLock
  repeat' with_reducible first
    | assumption | (intro _) | apply Ev.ite | apply setDom_ev | split
    | (fail_if_no_progress (apply Ev.of_mk <;> first | exact fun h => h | skip)) | dsimp only

theorem servo_ev {s0 : State} (d : Nat) (e : Int) (i : Nat) (q : Int) {s : State} (hv : Ev s0 s) : Ev s0
    (servo d e i q s) := by
  unfold servo
  repeat' with_reducible first
    | assumption | (intro _) | apply Ev.ite | apply setDom_ev | apply setDomRate_ev | split
    | (fail_if_no_progress (apply Ev.of_mk <;> first | exact fun h => h | skip)) | dsimp only

theorem measure_ev {s0 : State} (d : Nat) (e : Int) (i : Nat) (q : Int) {s : State} (hv : Ev s0 s) : Ev s0
    (measure d e i q s) := by
  unfold measure
  repeat' with_reducible first
    | assumption | (intro _) | apply Ev.ite | apply Ev.foldl | apply setDom_ev | apply record_ev
    | apply wOnDomain_ev | apply enterHoldover_ev | apply lockedFrozen_ev | apply firstLock_ev | apply servo_ev
    | split | (fail_if_no_progress (apply Ev.of_mk <;> first | exact fun h => h | skip)) | dsimp only

theorem setDelay_ev {s0 : State} (p : Nat) (v : PortDelay) {s : State} (hv : Ev s0 s) : Ev s0 (setDelay p v s) :=
  Ev.of_mk hv (fun m => m) (fun m => m) (fun m => m) (fun m => m) (fun m => m) (fun m => m)

theorem takeAutoSlave_ev {s0 : State} (p : Nat) (d : Nat) {s : State} (hv : Ev s0 s) : Ev s0 (takeAutoSlave p d s)
    := by
  unfold takeAutoSlave
  repeat' with_reducible first
    | assumption | (intro _) | apply Ev.ite | apply setDom_ev | split
    | (fail_if_no_progress (apply Ev.of_mk <;> first | exact fun h => h | skip)) | dsimp only

theorem sourceLost_ev {s0 : State} (d : Nat) {s : State} (hv : Ev s0 s) : Ev s0 (sourceLost d s) := by
  unfold sourceLost
  repeat' with_reducible first
    | assumption | (intro _) | apply Ev.ite | apply setDom_ev | apply enterHoldover_ev | split
    | (fail_if_no_progress (apply Ev.of_mk <;> first | exact fun h => h | skip)) | dsimp only

theorem execSourceLost_ev (d : Fin 4) {s t : State} (hx : execSourceLost d s = .next t) : Ev s t := by
  unfold execSourceLost at hx
  obtain rfl := Host.Outcome.next.inj hx
  have hv := Ev.refl s
  repeat' with_reducible first
    | assumption | (intro _) | apply Ev.ite | apply reachClock_ev | apply sourceLost_ev | split
    | (fail_if_no_progress (apply Ev.of_mk <;> first | exact fun h => h | skip)) | dsimp only

theorem ppsMeasure_ev {s0 : State} (d : Nat) {s : State} (hv : Ev s0 s) : Ev s0 (ppsMeasure d s) := by
  unfold ppsMeasure
  repeat' with_reducible first
    | assumption | (intro _) | apply Ev.ite | apply setDom_ev | apply firstLock_ev | apply measure_ev | split
    | (fail_if_no_progress (apply Ev.of_mk <;> first | exact fun h => h | skip)) | dsimp only

theorem acceptPps_ev {s0 : State} {s : State} (hv : Ev s0 s) : Ev s0 (acceptPps s) := by
  unfold acceptPps
  repeat' with_reducible first
    | assumption | (intro _) | apply Ev.ite | apply ppsMeasure_ev | split
    | (fail_if_no_progress (apply Ev.of_mk <;> first | exact fun h => h | skip)) | dsimp only

theorem execPpsInEdge_ev (highNs : Nat) {s t : State} (hx : execPpsInEdge highNs s = .next t) : Ev s t := by
  unfold execPpsInEdge at hx
  obtain rfl := Host.Outcome.next.inj hx
  have hv := Ev.refl s
  repeat' with_reducible first
    | assumption | (intro _) | apply Ev.ite | apply recordLimited_ev | apply acceptPps_ev | split
    | (fail_if_no_progress (apply Ev.of_mk <;> first | exact fun h => h | skip)) | dsimp only

theorem reachTimeline_ev {s0 : State} (n : Nat) (target : Int) {s : State} (hv : Ev s0 s) : Ev s0
    (reachTimeline n target s) := by
  unfold reachTimeline
  repeat' with_reducible first
    | assumption | (intro _) | apply Ev.ite | apply reachW_ev | apply reachDom_ev | split
    | (fail_if_no_progress (apply Ev.of_mk <;> first | exact fun h => h | skip)) | dsimp only

theorem execPpsOutEdge_ev (rising : Bool) {s t : State} (hx : execPpsOutEdge rising s = .next t) : Ev s t := by
  unfold execPpsOutEdge at hx
  obtain rfl := Host.Outcome.next.inj hx
  have hv := Ev.refl s
  repeat' with_reducible first
    | assumption | (intro _) | apply Ev.ite | apply emit_ev | apply reachTimeline_ev | split
    | (fail_if_no_progress (apply Ev.of_mk <;> first | exact fun h => h | skip)) | dsimp only

theorem settlePins_ev {s0 : State} {s : State} (hv : Ev s0 s) : Ev s0 (settlePins s) := by
  unfold settlePins
  repeat' with_reducible first
    | assumption | (intro _) | apply Ev.ite | apply Ev.foldl | apply emit_ev | apply setTsync_ev | split
    | (fail_if_no_progress (apply Ev.of_mk <;> first | exact fun h => h | skip)) | dsimp only

theorem execTsyncCapture_ev (n : Fin 4) (rising : Bool) {s t : State} (hx : execTsyncCapture n rising s = .next t)
    : Ev s t := by
  unfold execTsyncCapture at hx
  obtain rfl := Host.Outcome.next.inj hx
  have hv := Ev.refl s
  repeat' with_reducible first
    | assumption | (intro _) | apply Ev.ite | apply recordLimited_ev | apply raiseInt_ev | apply setTsync_ev
    | split | (fail_if_no_progress (apply Ev.of_mk <;> first | exact fun h => h | skip)) | dsimp only

theorem execTsyncOutputEdge_ev (n : Fin 4) (rising : Bool) {s t : State} (hx
    : execTsyncOutputEdge n rising s = .next t) : Ev s t := by
  unfold execTsyncOutputEdge at hx
  obtain rfl := Host.Outcome.next.inj hx
  have hv := Ev.refl s
  repeat' with_reducible first
    | assumption | (intro _) | apply Ev.ite | apply emit_ev | apply setTsync_ev | apply reachTimeline_ev | split
    | (fail_if_no_progress (apply Ev.of_mk <;> first | exact fun h => h | skip)) | dsimp only

theorem execSlewComplete_ev {s t : State} (hx : execSlewComplete s = .next t) : Ev s t := by
  unfold execSlewComplete at hx
  obtain rfl := Host.Outcome.next.inj hx
  have hv := Ev.refl s
  repeat' with_reducible first
    | assumption | (intro _) | apply reachClock_ev | apply setWMode_ev | split
    | (fail_if_no_progress (apply Ev.of_mk <;> first | exact fun h => h | skip)) | dsimp only

theorem timLatch_ev {s0 : State} (v : Word) {s : State} (hv : Ev s0 s) : Ev s0 (timLatch v s) := by
  unfold timLatch
  repeat' with_reducible first
    | assumption | (intro _) | apply Ev.ite | apply onGrid_ev | split
    | (fail_if_no_progress (apply Ev.of_mk <;> first | exact fun h => h | skip)) | dsimp only

theorem execOperatingSecondsTick_ev {s t : State} (hx : execOperatingSecondsTick s = .next t) : Ev s t := by
  unfold execOperatingSecondsTick at hx
  obtain rfl := Host.Outcome.next.inj hx
  have hv := Ev.refl s
  repeat' with_reducible first
    | assumption | (intro _) | apply Ev.ite | split
    | (fail_if_no_progress (apply Ev.of_mk <;> first | exact fun h => h | skip)) | dsimp only

theorem timeStatusOp_ev : OpEv timeStatusOp := by
  unfold timeStatusOp
  constructor <;> intro r s0 s hv <;> dsimp only <;>
  repeat' with_reducible first
    | assumption | (intro _) | apply Ev.ite | apply onGrid_ev | apply answer_ev | split
    | (fail_if_no_progress (apply Ev.of_mk <;> first | exact fun h => h | skip)) | dsimp only

theorem execTimeStatus_ev (c : CmdSource) {s t : State} (hx : execTimeStatus c s = .next t) : Ev s t := by
  unfold execTimeStatus at hx
  obtain rfl := Host.Outcome.next.inj hx
  have hv := Ev.refl s
  repeat' with_reducible first
    | assumption | (intro _) | apply runCommand_ev | exact timeStatusOp_ev | apply timeStatusOp_ev.commit | split
    | (fail_if_no_progress (apply Ev.of_mk <;> first | exact fun h => h | skip)) | dsimp only

theorem timeRestepOp_ev : OpEv timeRestepOp := by
  unfold timeRestepOp
  constructor <;> intro r s0 s hv <;> dsimp only <;>
  repeat' with_reducible first
    | assumption | (intro _) | apply Ev.ite | apply writeRecord_ev | apply updTag_ev | apply answer_ev
    | apply stepDomain_ev | apply overtakeLock_ev | split
    | (fail_if_no_progress (apply Ev.of_mk <;> first | exact fun h => h | skip)) | dsimp only

theorem execTimeRestep_ev (c : CmdSource) {s t : State} (hx : execTimeRestep c s = .next t) : Ev s t := by
  unfold execTimeRestep at hx
  obtain rfl := Host.Outcome.next.inj hx
  have hv := Ev.refl s
  repeat' with_reducible first
    | assumption | (intro _) | apply runCommand_ev | exact timeRestepOp_ev | apply timeRestepOp_ev.commit | split
    | (fail_if_no_progress (apply Ev.of_mk <;> first | exact fun h => h | skip)) | dsimp only

/-! Machine/Reach.lean. -/

theorem resetDataPath_ev {s0 : State} {s : State} (hv : Ev s0 s) : Ev s0 (resetDataPath s) :=
  Ev.of_mk hv (fun m => m) (fun m => m) (fun m => m) (fun m => m) (fun m => m) (fun m => m)

theorem clearCounters_ev {s0 : State} {s : State} (hv : Ev s0 s) : Ev s0 (clearCounters s) :=
  Ev.of_mk hv (fun m => m) (fun m => m) (fun m => m) (fun m => m) (fun m => m) (fun m => m)

theorem resetHost_ev {s0 : State} {s : State} (hv : Ev s0 s) : Ev s0 (resetHost s) := by
  unfold resetHost
  repeat' with_reducible first
    | assumption | (intro _) | split
    | (fail_if_no_progress (apply Ev.of_mk <;> first | exact fun h => h | exact fun h => Mem.writeAll_is h _ _ | exact fun _ => Mem.writeAll_is (Mem.blank_is _) _ _ | exact fun _ => Mem.blank_is _ | exact fun _ => Mem.empty_is _ | exact fun h => img_write h _ _ _ | exact fun h => nor_write h _ _ _ | exact fun h => nor_erase h _ _ | skip)) | dsimp only

theorem resetCluster_ev {s0 : State} {s : State} (hv : Ev s0 s) : Ev s0 (resetCluster s) :=
  Ev.of_mk hv (fun m => m) (fun m => m) (fun m => m) (fun m => m) (fun m => m) (fun m => m)

theorem resetLinks_ev {s0 : State} (phy : Bool) {s : State} (hv : Ev s0 s) : Ev s0 (resetLinks phy s) := by
  unfold resetLinks
  repeat' with_reducible first
    | assumption | (intro _) | apply Ev.ite | split
    | (fail_if_no_progress (apply Ev.of_mk <;> first | exact fun h => h | skip)) | dsimp only

theorem hlthLow_ev {s0 : State} {s : State} (hv : Ev s0 s) : Ev s0 (hlthLow s) := by
  unfold hlthLow
  repeat' with_reducible first
    | assumption | (intro _) | apply Ev.ite | apply emit_ev | split
    | (fail_if_no_progress (apply Ev.of_mk <;> first | exact fun h => h | skip)) | dsimp only

theorem episodePins_ev {s0 : State} (r : Nat) {s : State} (hv : Ev s0 s) : Ev s0 (episodePins r s) := by
  unfold episodePins
  repeat' with_reducible first
    | assumption | (intro _) | apply Ev.ite | apply Ev.foldl | apply emit_ev | apply setFault_ev | apply setStb_ev
    | apply setTsync_ev | apply hlthLow_ev | split
    | (fail_if_no_progress (apply Ev.of_mk <;> first | exact fun h => h | skip)) | dsimp only

theorem dropQueuedEvents_ev {s0 : State} {s : State} (hv : Ev s0 s) : Ev s0 (dropQueuedEvents s) := by
  unfold dropQueuedEvents
  repeat' with_reducible first
    | assumption | (intro _) | apply countUnrecorded_ev | split
    | (fail_if_no_progress (apply Ev.of_mk <;> first | exact fun h => h | skip)) | dsimp only

theorem resetL2_ev {s0 : State} {s : State} (hv : Ev s0 s) : Ev s0 (resetL2 s) := by
  unfold resetL2
  repeat' with_reducible first
    | assumption | (intro _) | apply resetDataPath_ev | apply resetHost_ev | apply resetCluster_ev
    | apply dropQueuedEvents_ev | split
    | (fail_if_no_progress (apply Ev.of_mk <;> first | exact fun h => h | skip)) | dsimp only

theorem resetL1_ev {s0 : State} {s : State} (hv : Ev s0 s) : Ev s0 (resetL1 s) := by
  unfold resetL1
  repeat' with_reducible first
    | assumption | (intro _) | apply clearCounters_ev | apply resetLinks_ev | apply resetL2_ev | split
    | (fail_if_no_progress (apply Ev.of_mk <;> first | exact fun h => h | skip)) | dsimp only

theorem resetL0_ev {s0 : State} {s : State} (hv : Ev s0 s) : Ev s0 (resetL0 s) := by
  unfold resetL0
  repeat' with_reducible first
    | assumption | (intro _) | apply resetL1_ev | split
    | (fail_if_no_progress (apply Ev.of_mk <;> first | exact fun h => h | skip)) | dsimp only

theorem discardActivation_ev {s0 : State} {s : State} (hv : Ev s0 s) : Ev s0 (discardActivation s) := by
  unfold discardActivation
  repeat' with_reducible first
    | assumption | (intro _) | apply Ev.ite | apply noteBusy_ev | apply finalReply_ev | apply withdrawalRecord_ev
    | split | (fail_if_no_progress (apply Ev.of_mk <;> first | exact fun h => h | skip)) | dsimp only

theorem discardArmed_ev {s0 : State} {s : State} (hv : Ev s0 s) : Ev s0 (discardArmed s) := by
  unfold discardArmed
  repeat' with_reducible first
    | assumption | (intro _) | apply finalReply_ev | apply discardActivation_ev | split
    | (fail_if_no_progress (apply Ev.of_mk <;> first | exact fun h => h | skip)) | dsimp only

theorem loseActivation_ev {s0 : State} {s : State} (hv : Ev s0 s) : Ev s0 (loseActivation s) := by
  unfold loseActivation
  repeat' with_reducible first
    | assumption | (intro _) | apply record_ev | apply noteBusy_ev | apply finalReply_ev | split
    | (fail_if_no_progress (apply Ev.of_mk <;> first | exact fun h => h | skip)) | dsimp only

theorem leaveRound_ev {s0 : State} {s : State} (hv : Ev s0 s) : Ev s0 (leaveRound s) := by
  unfold leaveRound
  repeat' with_reducible first
    | assumption | (intro _) | apply Ev.ite | split
    | (fail_if_no_progress (apply Ev.of_mk <;> first | exact fun h => h | skip)) | dsimp only

theorem resetL3_ev {s0 : State} {s : State} (hv : Ev s0 s) : Ev s0 (resetL3 s) := by
  unfold resetL3
  repeat' with_reducible first
    | assumption | (intro _) | apply resetDataPath_ev | apply discardArmed_ev | apply loseActivation_ev
    | apply leaveRound_ev | split
    | (fail_if_no_progress (apply Ev.of_mk <;> first | exact fun h => h | skip)) | dsimp only

theorem applyReach_ev {s0 : State} (r : Nat) {s : State} (hv : Ev s0 s) : Ev s0 (applyReach r s) := by
  unfold applyReach
  repeat' with_reducible first
    | assumption | (intro _) | apply resetCluster_ev | apply resetLinks_ev | apply episodePins_ev
    | apply resetL2_ev | apply resetL1_ev | apply resetL0_ev | apply leaveRound_ev | apply resetL3_ev | split
    | (fail_if_no_progress (apply Ev.of_mk <;> first | exact fun h => h | skip)) | dsimp only

theorem sendGoingDown_ev {s0 : State} (r : Nat) (m : Word16) {s : State} (hv : Ev s0 s) : Ev s0
    (sendGoingDown r m s) := by
  unfold sendGoingDown
  repeat' with_reducible first
    | assumption | (intro _) | apply Ev.ite | apply emit_ev | split
    | (fail_if_no_progress (apply Ev.of_mk <;> first | exact fun h => h | skip)) | dsimp only

theorem assertSource_ev {s0 : State} (src : Nat) {s : State} (hv : Ev s0 s) : Ev s0 (assertSource src s) := by
  unfold assertSource
  repeat' with_reducible first
    | assumption | (intro _) | apply Ev.ite | apply applyReach_ev | apply sendGoingDown_ev | split
    | (fail_if_no_progress (apply Ev.of_mk <;> first | exact fun h => h | skip)) | dsimp only

theorem assertGlobal_ev {s0 : State} (reach : Nat) {s : State} (hv : Ev s0 s) : Ev s0 (assertGlobal reach s) := by
  unfold assertGlobal
  repeat' with_reducible first
    | assumption | (intro _) | apply assertSource_ev | split
    | (fail_if_no_progress (apply Ev.of_mk <;> first | exact fun h => h | skip)) | dsimp only

theorem execResetEpisodeWiden_ev (src : Fin 16) {s t : State} (hx : execResetEpisodeWiden src s = .next t) : Ev s t
    := by
  unfold execResetEpisodeWiden at hx
  obtain rfl := Host.Outcome.next.inj hx
  have hv := Ev.refl s
  repeat' with_reducible first
    | assumption | (intro _) | apply assertSource_ev | split
    | (fail_if_no_progress (apply Ev.of_mk <;> first | exact fun h => h | skip)) | dsimp only

theorem filterAccepts_ev {s0 : State} (lowNs : Nat) {s : State} (hv : Ev s0 s) : Ev s0 (filterAccepts lowNs s).2 := by
  unfold filterAccepts
  repeat' with_reducible first
    | assumption | (intro _) | apply Ev.ite | apply Ev.ite2 | apply drawNat_ev | split
    | refine Ev.of_eq1 ?_ (by assumption) | refine Ev.of_eq2 ?_ (by assumption)
    | (fail_if_no_progress (apply Ev.of_mk <;> first | exact fun h => h | skip)) | dsimp only

theorem ballLow_ev {s0 : State} (src lowNs : Nat) {s : State} (hv : Ev s0 s) : Ev s0 (ballLow src lowNs s) := by
  unfold ballLow
  repeat' with_reducible first
    | assumption | (intro _) | apply Ev.ite | apply Ev.ite2 | apply assertSource_ev | apply filterAccepts_ev
    | split | refine Ev.of_eq1 ?_ (by assumption) | refine Ev.of_eq2 ?_ (by assumption)
    | (fail_if_no_progress (apply Ev.of_mk <;> first | exact fun h => h | skip)) | dsimp only

theorem execPorstNLow_ev (lowNs : Nat) {s t : State} (hx : execPorstNLow lowNs s = .next t) : Ev s t := by
  unfold execPorstNLow at hx
  obtain rfl := Host.Outcome.next.inj hx
  have hv := Ev.refl s
  repeat' with_reducible first
    | assumption | (intro _) | apply ballLow_ev | split
    | (fail_if_no_progress (apply Ev.of_mk <;> first | exact fun h => h | skip)) | dsimp only

theorem execSysrstNLow_ev (lowNs : Nat) {s t : State} (hx : execSysrstNLow lowNs s = .next t) : Ev s t := by
  unfold execSysrstNLow at hx
  obtain rfl := Host.Outcome.next.inj hx
  have hv := Ev.refl s
  repeat' with_reducible first
    | assumption | (intro _) | apply ballLow_ev | split
    | (fail_if_no_progress (apply Ev.of_mk <;> first | exact fun h => h | skip)) | dsimp only

theorem execTrstNLow_ev (lowNs : Nat) {s t : State} (hx : execTrstNLow lowNs s = .next t) : Ev s t := by
  unfold execTrstNLow at hx
  obtain rfl := Host.Outcome.next.inj hx
  have hv := Ev.refl s
  repeat' with_reducible first
    | assumption | (intro _) | apply ballLow_ev | split
    | (fail_if_no_progress (apply Ev.of_mk <;> first | exact fun h => h | skip)) | dsimp only

theorem execMgmtWdt_ev {s t : State} (hx : execMgmtWdt s = .next t) : Ev s t := by
  unfold execMgmtWdt at hx
  obtain rfl := Host.Outcome.next.inj hx
  have hv := Ev.refl s
  repeat' with_reducible first
    | assumption | (intro _) | apply Ev.ite | apply reachClock_ev | apply assertSource_ev | split
    | (fail_if_no_progress (apply Ev.of_mk <;> first | exact fun h => h | skip)) | dsimp only

/-! Machine/Modes.lean. -/

theorem runUnlessHeld_ev {s0 : State} (held : Packet → Bool) (d : OpDef) (c : CmdSource) (hd : OpEv d) {s : State}
    (hv : Ev s0 s) : Ev s0 (runUnlessHeld held d c s) := by
  unfold runUnlessHeld
  repeat' with_reducible first
    | assumption | (intro _) | apply Ev.ite | exact hd | apply hd.commit | apply hd.handOver | apply hd.arm
    | apply hd.onFail | apply hd.onClosed | apply hd.onAccept | apply hd.effect | apply arriveWith_ev
    | apply runCommand_ev | split
    | (fail_if_no_progress (apply Ev.of_mk <;> first | exact fun h => h | skip)) | dsimp only

theorem enterSafe_ev {s0 : State} {s : State} (hv : Ev s0 s) : Ev s0 (enterSafe s) := by
  unfold enterSafe
  repeat' with_reducible first
    | assumption | (intro _) | apply Ev.ite | apply enterMode_ev | apply setFault_ev | apply hlthLow_ev
    | apply discardArmed_ev | split
    | (fail_if_no_progress (apply Ev.of_mk <;> first | exact fun h => h | skip)) | dsimp only

theorem escalate_ev {s0 : State} (row : Nat) {s : State} (hv : Ev s0 s) : Ev s0 (escalate row s) := by
  unfold escalate
  repeat' with_reducible first
    | assumption | (intro _) | apply Ev.ite | apply record_ev | apply raiseInt_ev | apply hlthLow_ev
    | apply assertSource_ev | apply enterSafe_ev | split
    | (fail_if_no_progress (apply Ev.of_mk <;> first | exact fun h => h | skip)) | dsimp only

theorem awaitSync_ev {s0 : State} (t : Word16) {s : State} (hv : Ev s0 s) : Ev s0 (awaitSync t s) :=
  Ev.of_mk hv (fun m => m) (fun m => m) (fun m => m) (fun m => m) (fun m => m) (fun m => m)

theorem relayOrRun_ev {s0 : State} (effect : Req → State → State) (r : Req) (heffect : ∀ x0 t1, Ev s0 t1 → Ev s0
    (effect x0 t1)) {s : State} (hv : Ev s0 s) : Ev s0 (relayOrRun effect r s) := by
  unfold relayOrRun
  repeat' with_reducible first
    | assumption | (intro _) | apply Ev.ite | apply heffect | apply updTag_ev | apply awaitSync_ev | split
    | (fail_if_no_progress (apply Ev.of_mk <;> first | exact fun h => h | skip)) | dsimp only

theorem relayAtOnce_ev {s0 : State} (effect : Req → State → State) (r : Req) (heffect : ∀ x0 t1, Ev s0 t1 → Ev s0
    (effect x0 t1)) {s : State} (hv : Ev s0 s) : Ev s0 (relayAtOnce effect r s) := by
  unfold relayAtOnce
  repeat' with_reducible first
    | assumption | (intro _) | apply Ev.ite | apply heffect | apply awaitSync_ev | split
    | (fail_if_no_progress (apply Ev.of_mk <;> first | exact fun h => h | skip)) | dsimp only

theorem recordNow_ev {s0 : State} (ty : Nat) (body : Bytes) {s : State} (hv : Ev s0 s) : Ev s0
    (recordNow ty body s) := by
  unfold recordNow
  repeat' with_reducible first
    | assumption | (intro _) | apply Ev.ite | apply countUnrecorded_ev | apply writeRecord_ev | split
    | (fail_if_no_progress (apply Ev.of_mk <;> first | exact fun h => h | skip)) | dsimp only

theorem execSafeReqNLow_ev (lowNs : Nat) {s t : State} (hx : execSafeReqNLow lowNs s = .next t) : Ev s t := by
  unfold execSafeReqNLow at hx
  obtain rfl := Host.Outcome.next.inj hx
  have hv := Ev.refl s
  repeat' with_reducible first
    | assumption | (intro _) | apply Ev.ite | apply enterSafe_ev | split
    | (fail_if_no_progress (apply Ev.of_mk <;> first | exact fun h => h | skip)) | dsimp only

end Sys2Proof.Machine
end

