-- ==== Sys2Proof/Laws/EvolveDataPath.lean ====
section
/-!
SUPPORT. Each operation and command of the lanes, the firewall, the Basin, stream protection and egress only lets fuses blow, keeps the memories canonical and leaves the queue alone:
one lemma per definition.
-/
set_option linter.unusedTactic false
set_option linter.unreachableTactic false
set_option linter.unusedVariables false

namespace Sys2Proof.Machine

/-! Machine/Firewall.lean. -/

theorem noteCt_ev {s0 : State} (k : ConnKey) (c : Option Conn) {s : State} (hv : Ev s0 s) : Ev s0 (noteCt k c s) := by
  unfold noteCt
  repeat' with_reducible first
    | assumption | (intro _) | split
    | (fail_if_no_progress (apply Ev.of_mk <;> first | exact fun h => h | skip)) | dsimp only

theorem connUpdate_ev {s0 : State} (w : Walk) (sz dz : Nat) (track : Bool) (ct : Nat) {s : State} (hv : Ev s0 s)
    : Ev s0 (connUpdate w sz dz track ct s).1 := by
  unfold connUpdate
  repeat' with_reducible first
    | assumption | (intro _) | apply Ev.ite | apply Ev.ite1 | apply noteCt_ev | split
    | refine Ev.of_eq1 ?_ (by assumption) | refine Ev.of_eq2 ?_ (by assumption)
    | (fail_if_no_progress (apply Ev.of_mk <;> first | exact fun h => h | skip)) | dsimp only

theorem dropDeniedConns_ev {s0 : State} {s : State} (hv : Ev s0 s) : Ev s0 (dropDeniedConns s) :=
  Ev.of_mk hv (fun m => m) (fun m => m) (fun m => m) (fun m => m) (fun m => m) (fun m => m)

theorem logRule_ev {s0 : State} (v : Nat) (i : FwIn) {s : State} (hv : Ev s0 s) : Ev s0 (logRule v i s) := by
  unfold logRule
  repeat' with_reducible first
    | assumption | (intro _) | apply Ev.ite | apply recordLimited_ev | split
    | (fail_if_no_progress (apply Ev.of_mk <;> first | exact fun h => h | skip)) | dsimp only

theorem noteVerdict_ev {s0 : State} (v : Option Nat) (i : FwIn) {s : State} (hv : Ev s0 s) : Ev s0
    (noteVerdict v i s) := by
  unfold noteVerdict
  repeat' with_reducible first
    | assumption | (intro _) | apply countSource_ev | apply logRule_ev | split
    | (fail_if_no_progress (apply Ev.of_mk <;> first | exact fun h => h | skip)) | dsimp only

theorem notePermit_ev {s0 : State} {s : State} (hv : Ev s0 s) : Ev s0 (notePermit s) :=
  Ev.of_mk hv (fun m => m) (fun m => m) (fun m => m) (fun m => m) (fun m => m) (fun m => m)

theorem judgeCrossing_ev {s0 : State} (w : Walk) (flags : Nat) (i : FwIn) {s : State} (hv : Ev s0 s) : Ev s0
    (judgeCrossing w flags i s).1 := by
  unfold judgeCrossing
  repeat' with_reducible first
    | assumption | (intro _) | apply Ev.ite | apply Ev.ite1 | apply recordLimited_ev | apply countSource_ev
    | apply connUpdate_ev | apply noteVerdict_ev | apply notePermit_ev | split
    | refine Ev.of_eq1 ?_ (by assumption) | refine Ev.of_eq2 ?_ (by assumption)
    | (fail_if_no_progress (apply Ev.of_mk <;> first | exact fun h => h | skip)) | dsimp only

theorem firewallStage_ev {s0 : State} (w : Walk) (flags srcEp cls colour : Nat) (zoneLock : Bool) (eps : List Nat)
    {s : State} (hv : Ev s0 s) : Ev s0 (firewallStage w flags srcEp cls colour zoneLock eps s).1 := by
  unfold firewallStage
  repeat' with_reducible first
    | assumption | (intro _) | apply Ev.ite | apply Ev.foldl | apply Ev.foldl1 | apply Ev.foldl2 | apply Ev.ite1
    | apply countSource_ev | apply judgeCrossing_ev | split | refine Ev.of_eq1 ?_ (by assumption)
    | refine Ev.of_eq2 ?_ (by assumption)
    | (fail_if_no_progress (apply Ev.of_mk <;> first | exact fun h => h | skip)) | dsimp only

theorem canDrop_ev {s0 : State} (ch k : Nat) {s : State} (hv : Ev s0 s) : Ev s0 (canDrop ch k s) := by
  unfold canDrop
  repeat' with_reducible first
    | assumption | (intro _) | apply countSource_ev | split
    | (fail_if_no_progress (apply Ev.of_mk <;> first | exact fun h => h | skip)) | dsimp only

theorem takeToken_ev {s0 : State} (key rate burst : Nat) {s : State} (hv : Ev s0 s) : Ev s0
    (takeToken key rate burst s).1 := by
  unfold takeToken
  repeat' with_reducible first
    | assumption | (intro _) | apply Ev.ite | apply Ev.ite1 | split | refine Ev.of_eq1 ?_ (by assumption)
    | refine Ev.of_eq2 ?_ (by assumption)
    | (fail_if_no_progress (apply Ev.of_mk <;> first | exact fun h => h | skip)) | dsimp only

theorem canAdmit_ev {s0 : State} (ch dir id : Nat) (ext : Bool) {s : State} (hv : Ev s0 s) : Ev s0
    (canAdmit ch dir id ext s).1 := by
  unfold canAdmit
  repeat' with_reducible first
    | assumption | (intro _) | apply Ev.ite | apply Ev.ite1 | apply canDrop_ev | apply takeToken_ev | split
    | refine Ev.of_eq1 ?_ (by assumption) | refine Ev.of_eq2 ?_ (by assumption)
    | (fail_if_no_progress (apply Ev.of_mk <;> first | exact fun h => h | skip)) | dsimp only

theorem judgeRoute_ev {s0 : State} (n : Nat) {s : State} (hv : Ev s0 s) : Ev s0 (judgeRoute s n) := by
  unfold judgeRoute
  repeat' with_reducible first
    | assumption | (intro _) | apply Ev.ite | apply noteVerdict_ev | apply notePermit_ev | split
    | (fail_if_no_progress (apply Ev.of_mk <;> first | exact fun h => h | skip)) | dsimp only

theorem rejudgeRoutes_ev {s0 : State} {s : State} (hv : Ev s0 s) : Ev s0 (rejudgeRoutes s) := by
  unfold rejudgeRoutes
  repeat' with_reducible first
    | assumption | (intro _) | apply Ev.foldl | apply judgeRoute_ev | split
    | (fail_if_no_progress (apply Ev.of_mk <;> first | exact fun h => h | skip)) | dsimp only

theorem execCtExpiry_ev (entry : Nat) {s t : State} (hx : execCtExpiry entry s = .next t) : Ev s t := by
  unfold execCtExpiry at hx
  obtain rfl := Host.Outcome.next.inj hx
  have hv := Ev.refl s
  repeat' with_reducible first
    | assumption | (intro _) | apply reachClock_ev | split
    | (fail_if_no_progress (apply Ev.of_mk <;> first | exact fun h => h | skip)) | dsimp only

theorem integrityFault_ev {s0 : State} (got3 got4 : Nat) {s : State} (hv : Ev s0 s) : Ev s0
    (integrityFault got3 got4 s) := by
  unfold integrityFault
  repeat' with_reducible first
    | assumption | (intro _) | apply raiseInt_ev | apply recordNow_ev | split
    | (fail_if_no_progress (apply Ev.of_mk <;> first | exact fun h => h | skip)) | dsimp only

theorem execFwlScrubPass_ev (read3 read4 : Option Word64) {s t : State} (hx
    : execFwlScrubPass read3 read4 s = .next t) : Ev s t := by
  unfold execFwlScrubPass at hx
  obtain rfl := Host.Outcome.next.inj hx
  have hv := Ev.refl s
  repeat' with_reducible first
    | assumption | (intro _) | apply Ev.ite | apply integrityFault_ev | split
    | (fail_if_no_progress (apply Ev.of_mk <;> first | exact fun h => h | skip)) | dsimp only

theorem fwlStatusOp_ev : OpEv fwlStatusOp := by
  unfold fwlStatusOp
  constructor <;> intro r s0 s hv <;> dsimp only <;>
  repeat' with_reducible first
    | assumption | (intro _) | apply answer_ev | split
    | (fail_if_no_progress (apply Ev.of_mk <;> first | exact fun h => h | skip)) | dsimp only

theorem execFwlStatus_ev (c : CmdSource) {s t : State} (hx : execFwlStatus c s = .next t) : Ev s t := by
  unfold execFwlStatus at hx
  obtain rfl := Host.Outcome.next.inj hx
  have hv := Ev.refl s
  repeat' with_reducible first
    | assumption | (intro _) | apply runCommand_ev | exact fwlStatusOp_ev | apply fwlStatusOp_ev.commit | split
    | (fail_if_no_progress (apply Ev.of_mk <;> first | exact fun h => h | skip)) | dsimp only

theorem fwlConnListOp_ev : OpEv fwlConnListOp := by
  unfold fwlConnListOp
  constructor <;> intro r s0 s hv <;> dsimp only <;>
  repeat' with_reducible first
    | assumption | (intro _) | apply Ev.ite | apply answer_ev | split
    | (fail_if_no_progress (apply Ev.of_mk <;> first | exact fun h => h | skip)) | dsimp only

theorem execFwlConnList_ev (c : CmdSource) {s t : State} (hx : execFwlConnList c s = .next t) : Ev s t := by
  unfold execFwlConnList at hx
  obtain rfl := Host.Outcome.next.inj hx
  have hv := Ev.refl s
  repeat' with_reducible first
    | assumption | (intro _) | apply runCommand_ev | exact fwlConnListOp_ev | apply fwlConnListOp_ev.commit | split
    | (fail_if_no_progress (apply Ev.of_mk <;> first | exact fun h => h | skip)) | dsimp only

theorem connFlush_ev {s0 : State} (r : Req) {s : State} (hv : Ev s0 s) : Ev s0 (connFlush r s) := by
  unfold connFlush
  repeat' with_reducible first
    | assumption | (intro _) | apply Ev.ite | apply Ev.foldl | apply answer_ev | apply noteCt_ev | split
    | (fail_if_no_progress (apply Ev.of_mk <;> first | exact fun h => h | skip)) | dsimp only

theorem journalFlush_ev {s0 : State} (r : Req) {s : State} (hv : Ev s0 s) : Ev s0 (journalFlush r s) := by
  unfold journalFlush
  repeat' with_reducible first
    | assumption | (intro _) | apply writeRecord_ev | split
    | (fail_if_no_progress (apply Ev.of_mk <;> first | exact fun h => h | skip)) | dsimp only

theorem fwlConnFlushOp_ev : OpEv fwlConnFlushOp := by
  unfold fwlConnFlushOp
  constructor <;> intro r s0 s hv <;> dsimp only <;>
  repeat' with_reducible first
    | assumption | (intro _) | apply Ev.ite | apply relayOrRun_ev | apply connFlush_ev | apply journalFlush_ev
    | split | (fail_if_no_progress (apply Ev.of_mk <;> first | exact fun h => h | skip)) | dsimp only

theorem execFwlConnFlush_ev (c : CmdSource) {s t : State} (hx : execFwlConnFlush c s = .next t) : Ev s t := by
  unfold execFwlConnFlush at hx
  obtain rfl := Host.Outcome.next.inj hx
  have hv := Ev.refl s
  repeat' with_reducible first
    | assumption | (intro _) | apply runCommand_ev | exact fwlConnFlushOp_ev | apply fwlConnFlushOp_ev.commit
    | split | (fail_if_no_progress (apply Ev.of_mk <;> first | exact fun h => h | skip)) | dsimp only

/-! Machine/Basin.lean. -/

theorem setFrame_ev {s0 : State} (n : Nat) (f : Frame) {s : State} (hv : Ev s0 s) : Ev s0 (setFrame n f s) :=
  Ev.of_mk hv (fun m => m) (fun m => m) (fun m => m) (fun m => m) (fun m => m) (fun m => m)

theorem setEgress_ev {s0 : State} (p : Nat) (e : EgrPort) {s : State} (hv : Ev s0 s) : Ev s0 (setEgress p e s) :=
  Ev.of_mk hv (fun m => m) (fun m => m) (fun m => m) (fun m => m) (fun m => m) (fun m => m)

theorem noteTraffic_ev {s0 : State} (ep : Nat) {s : State} (hv : Ev s0 s) : Ev s0 (noteTraffic ep s) := by
  unfold noteTraffic
  repeat' with_reducible first
    | assumption | (intro _) | apply Ev.ite | apply Ev.foldl | split
    | (fail_if_no_progress (apply Ev.of_mk <;> first | exact fun h => h | skip)) | dsimp only

theorem learn_ev {s0 : State} (f : Frame) {s : State} (hv : Ev s0 s) : Ev s0 (learn f s) := by
  unfold learn
  repeat' with_reducible first
    | assumption | (intro _) | apply Ev.ite | apply countSource_ev | split
    | (fail_if_no_progress (apply Ev.of_mk <;> first | exact fun h => h | skip)) | dsimp only

theorem execLearnAgeing_ev (vid mac : Nat) {s t : State} (hx : execLearnAgeing vid mac s = .next t) : Ev s t := by
  unfold execLearnAgeing at hx
  obtain rfl := Host.Outcome.next.inj hx
  have hv := Ev.refl s
  repeat' with_reducible first
    | assumption | (intro _) | apply reachClock_ev | split
    | (fail_if_no_progress (apply Ev.of_mk <;> first | exact fun h => h | skip)) | dsimp only

theorem wakeLpi_ev {s0 : State} (p : Nat) {s : State} (hv : Ev s0 s) : Ev s0 (wakeLpi p s) := by
  unfold wakeLpi
  repeat' with_reducible first
    | assumption | (intro _) | apply Ev.ite | apply setEgress_ev | split
    | (fail_if_no_progress (apply Ev.of_mk <;> first | exact fun h => h | skip)) | dsimp only

theorem bpAct_ev {s0 : State} (p old new : Nat) {s : State} (hv : Ev s0 s) : Ev s0 (bpAct p old new s) := by
  unfold bpAct
  repeat' with_reducible first
    | assumption | (intro _) | apply Ev.ite | apply Ev.foldl | apply countSource_ev | apply setEgress_ev
    | apply wakeLpi_ev | split
    | (fail_if_no_progress (apply Ev.of_mk <;> first | exact fun h => h | skip)) | dsimp only

theorem refreshBp_ev {s0 : State} {s : State} (hv : Ev s0 s) : Ev s0 (refreshBp s) := by
  unfold refreshBp
  repeat' with_reducible first
    | assumption | (intro _) | apply Ev.ite | apply Ev.foldl | apply bpAct_ev | split
    | (fail_if_no_progress (apply Ev.of_mk <;> first | exact fun h => h | skip)) | dsimp only

theorem chargeFrame_ev {s0 : State} (n c : Nat) {s : State} (hv : Ev s0 s) : Ev s0 (chargeFrame n c s) := by
  unfold chargeFrame
  repeat' with_reducible first
    | assumption | (intro _) | apply Ev.ite | apply record_ev | apply countSource_ev | apply setFrame_ev
    | apply refreshBp_ev | split
    | (fail_if_no_progress (apply Ev.of_mk <;> first | exact fun h => h | skip)) | dsimp only

theorem sendOn_ev {s0 : State} (k : Nat) (x : PlaneItem) {s : State} (hv : Ev s0 s) : Ev s0 (sendOn k x s) :=
  Ev.of_mk hv (fun m => m) (fun m => m) (fun m => m) (fun m => m) (fun m => m) (fun m => m)

theorem takeItems_ev {s0 : State} (g : PlaneItem → Bool) {s : State} (hv : Ev s0 s) : Ev s0 (takeItems g s) :=
  Ev.of_mk hv (fun m => m) (fun m => m) (fun m => m) (fun m => m) (fun m => m) (fun m => m)

theorem holeNotice_ev {s0 : State} (f : Frame) (d : Dest) {s : State} (hv : Ev s0 s) : Ev s0 (holeNotice f d s) := by
  unfold holeNotice
  repeat' with_reducible first
    | assumption | (intro _) | apply sendOn_ev | split
    | (fail_if_no_progress (apply Ev.of_mk <;> first | exact fun h => h | skip)) | dsimp only

theorem freeIfDone_ev {s0 : State} (n : Nat) {s : State} (hv : Ev s0 s) : Ev s0 (freeIfDone n s) := by
  unfold freeIfDone
  repeat' with_reducible first
    | assumption | (intro _) | apply Ev.ite | apply refreshBp_ev | split
    | (fail_if_no_progress (apply Ev.of_mk <;> first | exact fun h => h | skip)) | dsimp only

theorem updDest_ev {s0 : State} (n p : Nat) (g : Dest → Dest) {s : State} (hv : Ev s0 s) : Ev s0 (updDest n p g s)
    := by
  unfold updDest
  repeat' with_reducible first
    | assumption | (intro _) | apply Ev.ite | apply setFrame_ev | split
    | (fail_if_no_progress (apply Ev.of_mk <;> first | exact fun h => h | skip)) | dsimp only

theorem dispatchOne_ev {s0 : State} (p : Nat) (n : Nat) {s : State} (hv : Ev s0 s) : Ev s0 (dispatchOne p s n) := by
  unfold dispatchOne
  repeat' with_reducible first
    | assumption | (intro _) | apply Ev.ite | apply sendOn_ev | apply updDest_ev | split
    | (fail_if_no_progress (apply Ev.of_mk <;> first | exact fun h => h | skip)) | dsimp only

theorem dispatch_ev {s0 : State} (p : Nat) {s : State} (hv : Ev s0 s) : Ev s0 (dispatch p s) := by
  unfold dispatch
  repeat' with_reducible first
    | assumption | (intro _) | apply Ev.foldl | apply dispatchOne_ev | split
    | (fail_if_no_progress (apply Ev.of_mk <;> first | exact fun h => h | skip)) | dsimp only

theorem enterQueue_ev {s0 : State} (n p : Nat) {s : State} (hv : Ev s0 s) : Ev s0 (enterQueue n p s) := by
  unfold enterQueue
  repeat' with_reducible first
    | assumption | (intro _) | apply countSource_ev | apply dispatch_ev | split
    | (fail_if_no_progress (apply Ev.of_mk <;> first | exact fun h => h | skip)) | dsimp only

theorem leaveQueue_ev {s0 : State} (n p : Nat) {s : State} (hv : Ev s0 s) : Ev s0 (leaveQueue n p s) := by
  unfold leaveQueue
  repeat' with_reducible first
    | assumption | (intro _) | apply Ev.ite | apply takeItems_ev | apply dispatch_ev | split
    | (fail_if_no_progress (apply Ev.of_mk <;> first | exact fun h => h | skip)) | dsimp only

theorem dropDest_ev {s0 : State} (n p : Nat) {s : State} (hv : Ev s0 s) : Ev s0 (dropDest n p s) := by
  unfold dropDest
  repeat' with_reducible first
    | assumption | (intro _) | apply Ev.ite | apply setFrame_ev | apply setEgress_ev | apply refreshBp_ev
    | apply freeIfDone_ev | apply leaveQueue_ev | split
    | (fail_if_no_progress (apply Ev.of_mk <;> first | exact fun h => h | skip)) | dsimp only

theorem pressForget_ev {s0 : State} (out inPort cls seq : Nat) {s : State} (hv : Ev s0 s) : Ev s0
    (pressForget out inPort cls seq s) := by
  unfold pressForget
  repeat' with_reducible first
    | assumption | (intro _) | apply Ev.ite | split
    | (fail_if_no_progress (apply Ev.of_mk <;> first | exact fun h => h | skip)) | dsimp only

theorem discardCopy_ev {s0 : State} (n p : Nat) {s : State} (hv : Ev s0 s) : Ev s0 (discardCopy n p s) := by
  unfold discardCopy
  repeat' with_reducible first
    | assumption | (intro _) | apply holeNotice_ev | apply dropDest_ev | apply pressForget_ev | split
    | (fail_if_no_progress (apply Ev.of_mk <;> first | exact fun h => h | skip)) | dsimp only

theorem dropFrame_ev {s0 : State} (n : Nat) {s : State} (hv : Ev s0 s) : Ev s0 (dropFrame n s) := by
  unfold dropFrame
  repeat' with_reducible first
    | assumption | (intro _) | apply setFrame_ev | apply refreshBp_ev | split
    | (fail_if_no_progress (apply Ev.of_mk <;> first | exact fun h => h | skip)) | dsimp only

theorem noteDouble_ev {s0 : State} (l : Nat) {s : State} (hv : Ev s0 s) : Ev s0 (noteDouble s l) := by
  unfold noteDouble
  repeat' with_reducible first
    | assumption | (intro _) | apply Ev.ite | apply record_ev | apply raiseInt_ev | apply escalate_ev | split
    | (fail_if_no_progress (apply Ev.of_mk <;> first | exact fun h => h | skip)) | dsimp only

theorem ruinFrame_ev {s0 : State} (n : Nat) {s : State} (hv : Ev s0 s) : Ev s0 (ruinFrame n s) := by
  unfold ruinFrame
  repeat' with_reducible first
    | assumption | (intro _) | apply Ev.ite | apply Ev.foldl | apply stat_ev | apply freeIfDone_ev
    | apply updDest_ev | apply discardCopy_ev | apply dropFrame_ev | split
    | (fail_if_no_progress (apply Ev.of_mk <;> first | exact fun h => h | skip)) | dsimp only

theorem readRow_ev {s0 : State} (e : CellError) {s : State} (hv : Ev s0 s) : Ev s0 (readRow e s) := by
  unfold readRow
  repeat' with_reducible first
    | assumption | (intro _) | apply Ev.ite | apply Ev.foldl | apply record_ev | apply raiseInt_ev
    | apply countSource_ev | apply escalate_ev | apply noteDouble_ev | apply ruinFrame_ev | split
    | (fail_if_no_progress (apply Ev.of_mk <;> first | exact fun h => h | skip)) | dsimp only

theorem execBasinScrub_ev (row : CellError) {s t : State} (hx : execBasinScrub row s = .next t) : Ev s t := by
  unfold execBasinScrub at hx
  obtain rfl := Host.Outcome.next.inj hx
  have hv := Ev.refl s
  repeat' with_reducible first
    | assumption | (intro _) | apply Ev.ite | apply readRow_ev | split
    | (fail_if_no_progress (apply Ev.of_mk <;> first | exact fun h => h | skip)) | dsimp only

theorem bsnStatusOp_ev : OpEv bsnStatusOp := by
  unfold bsnStatusOp
  constructor <;> intro r s0 s hv <;> dsimp only <;>
  repeat' with_reducible first
    | assumption | (intro _) | apply answer_ev | split
    | (fail_if_no_progress (apply Ev.of_mk <;> first | exact fun h => h | skip)) | dsimp only

theorem execBsnStatus_ev (c : CmdSource) {s t : State} (hx : execBsnStatus c s = .next t) : Ev s t := by
  unfold execBsnStatus at hx
  obtain rfl := Host.Outcome.next.inj hx
  have hv := Ev.refl s
  repeat' with_reducible first
    | assumption | (intro _) | apply runCommand_ev | exact bsnStatusOp_ev | apply bsnStatusOp_ev.commit | split
    | (fail_if_no_progress (apply Ev.of_mk <;> first | exact fun h => h | skip)) | dsimp only

/-! Machine/Psfp.lean. -/

theorem countStream_ev {s0 : State} (h k : Nat) {s : State} (hv : Ev s0 s) : Ev s0 (countStream h k s) := by
  unfold countStream
  repeat' with_reducible first
    | assumption | (intro _) | apply countSource_ev | split
    | (fail_if_no_progress (apply Ev.of_mk <;> first | exact fun h => h | skip)) | dsimp only

theorem psfpSteps_ev {s0 : State} (w : Walk) (p : Nat) (stamp : Int) (len : Option Nat) (r : LaneRes) {s : State}
    (hv : Ev s0 s) : Ev s0 (psfpSteps w p stamp len r s).1 := by
  unfold psfpSteps
  repeat' with_reducible first
    | assumption | (intro _) | apply Ev.ite | apply Ev.ite1 | apply stat_ev | apply countStream_ev | split
    | refine Ev.of_eq1 ?_ (by assumption) | refine Ev.of_eq2 ?_ (by assumption)
    | (fail_if_no_progress (apply Ev.of_mk <;> first | exact fun h => h | skip)) | dsimp only

theorem refundMeter_ev {s0 : State} (f : Frame) {s : State} (hv : Ev s0 s) : Ev s0 (refundMeter f s) := by
  unfold refundMeter
  repeat' with_reducible first
    | assumption | (intro _) | apply Ev.ite | split
    | (fail_if_no_progress (apply Ev.of_mk <;> first | exact fun h => h | skip)) | dsimp only

theorem generate_ev {s0 : State} (p e : Nat) (c : Bytes) {s : State} (hv : Ev s0 s) : Ev s0 (generate p e c s).1 := by
  unfold generate
  repeat' with_reducible first
    | assumption | (intro _) | apply Ev.ite | apply Ev.ite1 | apply countSource_ev | apply stat_ev | split
    | refine Ev.of_eq1 ?_ (by assumption) | refine Ev.of_eq2 ?_ (by assumption)
    | (fail_if_no_progress (apply Ev.of_mk <;> first | exact fun h => h | skip)) | dsimp only

theorem setRecovery_ev {s0 : State} (e p : Nat) (r : Recovery) {s : State} (hv : Ev s0 s) : Ev s0
    (setRecovery e p r s) :=
  Ev.of_mk hv (fun m => m) (fun m => m) (fun m => m) (fun m => m) (fun m => m) (fun m => m)

theorem countFrer_ev {s0 : State} (e p k n : Nat) {s : State} (hv : Ev s0 s) : Ev s0 (countFrer e p k n s) := by
  unfold countFrer
  repeat' with_reducible first
    | assumption | (intro _) | apply Ev.ite | apply countSource_ev | apply setRecovery_ev | split
    | (fail_if_no_progress (apply Ev.of_mk <;> first | exact fun h => h | skip)) | dsimp only

theorem frerPass_ev {s0 : State} (e p : Nat) {s : State} (hv : Ev s0 s) : Ev s0 (frerPass e p s) := by
  unfold frerPass
  repeat' with_reducible first
    | assumption | (intro _) | apply setRecovery_ev | apply countFrer_ev | split
    | (fail_if_no_progress (apply Ev.of_mk <;> first | exact fun h => h | skip)) | dsimp only

theorem recover_ev {s0 : State} (e p : Nat) (q : Option Nat) {s : State} (hv : Ev s0 s) : Ev s0 (recover e p q s).1
    := by
  unfold recover
  repeat' with_reducible first
    | assumption | (intro _) | apply Ev.ite | apply Ev.ite1 | apply setRecovery_ev | apply countFrer_ev
    | apply frerPass_ev | split | refine Ev.of_eq1 ?_ (by assumption) | refine Ev.of_eq2 ?_ (by assumption)
    | (fail_if_no_progress (apply Ev.of_mk <;> first | exact fun h => h | skip)) | dsimp only

theorem execFrerResetTimer_ev (entry : Nat) (p : Port) {s t : State} (hx : execFrerResetTimer entry p s = .next t)
    : Ev s t := by
  unfold execFrerResetTimer at hx
  obtain rfl := Host.Outcome.next.inj hx
  have hv := Ev.refl s
  repeat' with_reducible first
    | assumption | (intro _) | apply Ev.ite | apply reachClock_ev | apply setRecovery_ev | apply countFrer_ev
    | split | (fail_if_no_progress (apply Ev.of_mk <;> first | exact fun h => h | skip)) | dsimp only

theorem execFrerLatentTimer_ev (entry : Nat) (p : Port) {s t : State} (hx
    : execFrerLatentTimer entry p s = .next t) : Ev s t := by
  unfold execFrerLatentTimer at hx
  obtain rfl := Host.Outcome.next.inj hx
  have hv := Ev.refl s
  repeat' with_reducible first
    | assumption | (intro _) | apply Ev.ite | apply reachClock_ev | apply record_ev | apply setRecovery_ev
    | apply countFrer_ev | split
    | (fail_if_no_progress (apply Ev.of_mk <;> first | exact fun h => h | skip)) | dsimp only

theorem egrFrerStatusOp_ev : OpEv egrFrerStatusOp := by
  unfold egrFrerStatusOp
  constructor <;> intro r s0 s hv <;> dsimp only <;>
  repeat' with_reducible first
    | assumption | (intro _) | apply Ev.ite | apply answer_ev | split
    | (fail_if_no_progress (apply Ev.of_mk <;> first | exact fun h => h | skip)) | dsimp only

theorem execEgrFrerStatus_ev (c : CmdSource) {s t : State} (hx : execEgrFrerStatus c s = .next t) : Ev s t := by
  unfold execEgrFrerStatus at hx
  obtain rfl := Host.Outcome.next.inj hx
  have hv := Ev.refl s
  repeat' with_reducible first
    | assumption | (intro _) | apply runCommand_ev | exact egrFrerStatusOp_ev | apply egrFrerStatusOp_ev.commit
    | split | (fail_if_no_progress (apply Ev.of_mk <;> first | exact fun h => h | skip)) | dsimp only

/-! Machine/Egress.lean. -/

theorem settle_ev {s0 : State} (p : Nat) {s : State} (hv : Ev s0 s) : Ev s0 (settle p s) := by
  unfold settle
  repeat' with_reducible first
    | assumption | (intro _) | apply Ev.ite | apply setEgress_ev | split
    | (fail_if_no_progress (apply Ev.of_mk <;> first | exact fun h => h | skip)) | dsimp only

theorem endCharge_ev {s0 : State} (p q slack : Nat) {s : State} (hv : Ev s0 s) : Ev s0 (endCharge p q slack s) := by
  unfold endCharge
  repeat' with_reducible first
    | assumption | (intro _) | apply Ev.ite | apply setEgress_ev | split
    | (fail_if_no_progress (apply Ev.of_mk <;> first | exact fun h => h | skip)) | dsimp only

theorem countQueue_ev {s0 : State} (p q k inc : Nat) {s : State} (hv : Ev s0 s) : Ev s0 (countQueue p q k inc s) := by
  unfold countQueue
  repeat' with_reducible first
    | assumption | (intro _) | apply countSource_ev | apply setEgress_ev | split
    | (fail_if_no_progress (apply Ev.of_mk <;> first | exact fun h => h | skip)) | dsimp only

theorem discardQueued_ev {s0 : State} (n p : Nat) {s : State} (hv : Ev s0 s) : Ev s0 (discardQueued n p s) := by
  unfold discardQueued
  repeat' with_reducible first
    | assumption | (intro _) | apply stat_ev | apply dropDest_ev | apply settle_ev | split
    | (fail_if_no_progress (apply Ev.of_mk <;> first | exact fun h => h | skip)) | dsimp only

theorem updTxDesc_ev {s0 : State} (n p : Nat) (g : TxDesc → TxDesc) {s : State} (hv : Ev s0 s) : Ev s0
    (updTxDesc n p g s) := by
  unfold updTxDesc
  repeat' with_reducible first
    | assumption | (intro _) | apply Ev.ite | split
    | (fail_if_no_progress (apply Ev.of_mk <;> first | exact fun h => h | skip)) | dsimp only

theorem launchOutcome_ev {s0 : State} (n p o : Nat) {s : State} (hv : Ev s0 s) : Ev s0 (launchOutcome n p o s) := by
  unfold launchOutcome
  repeat' with_reducible first
    | assumption | (intro _) | apply Ev.ite | apply countQueue_ev | apply updTxDesc_ev | split
    | (fail_if_no_progress (apply Ev.of_mk <;> first | exact fun h => h | skip)) | dsimp only

theorem atsJudge_ev {s0 : State} (f : Frame) (p : Nat) {s : State} (hv : Ev s0 s) : Ev s0 (atsJudge f p s).1 := by
  unfold atsJudge
  repeat' with_reducible first
    | assumption | (intro _) | apply Ev.ite | apply Ev.ite1 | split | refine Ev.of_eq1 ?_ (by assumption)
    | refine Ev.of_eq2 ?_ (by assumption)
    | (fail_if_no_progress (apply Ev.of_mk <;> first | exact fun h => h | skip)) | dsimp only

theorem releaseTo_ev {s0 : State} (n p : Nat) {s : State} (hv : Ev s0 s) : Ev s0 (releaseTo n p s) := by
  unfold releaseTo
  repeat' with_reducible first
    | assumption | (intro _) | apply Ev.ite | apply Ev.ite1 | apply setEgress_ev | apply wakeLpi_ev
    | apply updDest_ev | apply recover_ev | apply settle_ev | apply countQueue_ev | apply discardQueued_ev
    | apply launchOutcome_ev | apply atsJudge_ev | split | refine Ev.of_eq1 ?_ (by assumption)
    | refine Ev.of_eq2 ?_ (by assumption)
    | (fail_if_no_progress (apply Ev.of_mk <;> first | exact fun h => h | skip)) | dsimp only

theorem setPress_ev {s0 : State} (out inPort cls : Nat) (t : Triple) {s : State} (hv : Ev s0 s) : Ev s0
    (setPress out inPort cls t s) :=
  Ev.of_mk hv (fun m => m) (fun m => m) (fun m => m) (fun m => m) (fun m => m) (fun m => m)

theorem releaseRun_ev {s0 : State} (o i c n : Nat) {s : State} (hv : Ev s0 s) : Ev s0 (releaseRun o i c n s) := by
  induction n generalizing s with
  | zero => exact hv
  | succ k ih =>
    unfold releaseRun
    repeat' with_reducible first
      | assumption | (intro _) | apply Ev.ite | apply Ev.foldl | apply ih | apply releaseTo_ev | apply setPress_ev
      | split | (fail_if_no_progress (apply Ev.of_mk <;> first | exact fun h => h | skip)) | dsimp only

theorem releaseAll_ev {s0 : State} (out inPort cls : Nat) {s : State} (hv : Ev s0 s) : Ev s0
    (releaseAll out inPort cls s) := by
  unfold releaseAll
  repeat' with_reducible first
    | assumption | (intro _) | apply releaseRun_ev | split
    | (fail_if_no_progress (apply Ev.of_mk <;> first | exact fun h => h | skip)) | dsimp only

theorem pressArrival_ev {s0 : State} (p n : Nat) {s : State} (hv : Ev s0 s) : Ev s0 (pressArrival p n s) := by
  unfold pressArrival
  repeat' with_reducible first
    | assumption | (intro _) | apply Ev.ite | apply stat_ev | apply takeItems_ev | apply updDest_ev
    | apply dispatch_ev | apply dropDest_ev | apply releaseTo_ev | apply setPress_ev | apply releaseAll_ev | split
    | (fail_if_no_progress (apply Ev.of_mk <;> first | exact fun h => h | skip)) | dsimp only

theorem execPressArrival_ev (p : Port) (n : Nat) {s t : State} (hx : execPressArrival p n s = .next t) : Ev s t := by
  unfold execPressArrival at hx
  obtain rfl := Host.Outcome.next.inj hx
  have hv := Ev.refl s
  repeat' with_reducible first
    | assumption | (intro _) | apply pressArrival_ev | split
    | (fail_if_no_progress (apply Ev.of_mk <;> first | exact fun h => h | skip)) | dsimp only

theorem noteHole_ev {s0 : State} (p input cls n : Nat) {s : State} (hv : Ev s0 s) : Ev s0
    (noteHole p input cls n s) := by
  unfold noteHole
  repeat' with_reducible first
    | assumption | (intro _) | apply Ev.ite | apply countSource_ev | apply dispatch_ev | apply setPress_ev
    | apply releaseAll_ev | split
    | (fail_if_no_progress (apply Ev.of_mk <;> first | exact fun h => h | skip)) | dsimp only

theorem execHoleNotice_ev (p input : Port) (cls : Fin 8) (number : Word) {s t : State} (hx
    : execHoleNotice p input cls number s = .next t) : Ev s t := by
  unfold execHoleNotice at hx
  obtain rfl := Host.Outcome.next.inj hx
  have hv := Ev.refl s
  repeat' with_reducible first
    | assumption | (intro _) | apply Ev.ite | apply takeItems_ev | apply noteHole_ev | split
    | (fail_if_no_progress (apply Ev.of_mk <;> first | exact fun h => h | skip)) | dsimp only

theorem execPressSkip_ev (p input : Port) (cls : Fin 8) {s t : State} (hx : execPressSkip p input cls s = .next t)
    : Ev s t := by
  unfold execPressSkip at hx
  obtain rfl := Host.Outcome.next.inj hx
  have hv := Ev.refl s
  repeat' with_reducible first
    | assumption | (intro _) | apply Ev.ite | apply Ev.foldl | apply reachClock_ev | apply stat_ev
    | apply dispatch_ev | apply setPress_ev | apply releaseAll_ev | split
    | (fail_if_no_progress (apply Ev.of_mk <;> first | exact fun h => h | skip)) | dsimp only

theorem updTxSa_ev {s0 : State} (p : Nat) (g : Sa → Sa) {s : State} (hv : Ev s0 s) : Ev s0 (updTxSa p g s) := by
  unfold updTxSa
  repeat' with_reducible first
    | assumption | (intro _) | apply setPort_ev | split
    | (fail_if_no_progress (apply Ev.of_mk <;> first | exact fun h => h | skip)) | dsimp only

theorem usePn_ev {s0 : State} (p : Nat) {s : State} (hv : Ev s0 s) : Ev s0 (usePn p s) := by
  unfold usePn
  repeat' with_reducible first
    | assumption | (intro _) | apply Ev.ite | apply record_ev | apply raiseInt_ev | apply updTxSa_ev | split
    | (fail_if_no_progress (apply Ev.of_mk <;> first | exact fun h => h | skip)) | dsimp only

theorem sendPause_ev {s0 : State} (p : Nat) {s : State} (hv : Ev s0 s) : Ev s0 (sendPause p s) := by
  unfold sendPause
  repeat' with_reducible first
    | assumption | (intro _) | apply emit_ev | apply reachClock_ev | apply stat_ev | apply setEgress_ev | split
    | (fail_if_no_progress (apply Ev.of_mk <;> first | exact fun h => h | skip)) | dsimp only

theorem execPfcRx_ev (p : Port) (frame : Bytes) {s t : State} (hx : execPfcRx p frame s = .next t) : Ev s t := by
  unfold execPfcRx at hx
  obtain rfl := Host.Outcome.next.inj hx
  have hv := Ev.refl s
  repeat' with_reducible first
    | assumption | (intro _) | apply Ev.ite | apply Ev.foldl | apply stat_ev | apply setEgress_ev | apply settle_ev
    | split | (fail_if_no_progress (apply Ev.of_mk <;> first | exact fun h => h | skip)) | dsimp only

theorem execPauseExpiry_ev (p : Port) (c : Option (Fin 8)) {s t : State} (hx : execPauseExpiry p c s = .next t)
    : Ev s t := by
  unfold execPauseExpiry at hx
  obtain rfl := Host.Outcome.next.inj hx
  have hv := Ev.refl s
  repeat' with_reducible first
    | assumption | (intro _) | apply reachClock_ev | apply setEgress_ev | apply settle_ev | split
    | (fail_if_no_progress (apply Ev.of_mk <;> first | exact fun h => h | skip)) | dsimp only

theorem execPfcRefresh_ev (p : Port) (c : Fin 8) {s t : State} (hx : execPfcRefresh p c s = .next t) : Ev s t := by
  unfold execPfcRefresh at hx
  obtain rfl := Host.Outcome.next.inj hx
  have hv := Ev.refl s
  repeat' with_reducible first
    | assumption | (intro _) | apply Ev.ite | apply reachClock_ev | apply setEgress_ev | apply wakeLpi_ev | split
    | (fail_if_no_progress (apply Ev.of_mk <;> first | exact fun h => h | skip)) | dsimp only

theorem execPfcStuck_ev (p : Port) (c : Option (Fin 8)) {s t : State} (hx : execPfcStuck p c s = .next t) : Ev s t
    := by
  unfold execPfcStuck at hx
  obtain rfl := Host.Outcome.next.inj hx
  have hv := Ev.refl s
  repeat' with_reducible first
    | assumption | (intro _) | apply Ev.ite | apply reachClock_ev | apply record_ev | apply setEgress_ev | split
    | (fail_if_no_progress (apply Ev.of_mk <;> first | exact fun h => h | skip)) | dsimp only

theorem execPlcaHoldExpiry_ev (p : Port) {s t : State} (hx : execPlcaHoldExpiry p s = .next t) : Ev s t := by
  unfold execPlcaHoldExpiry at hx
  obtain rfl := Host.Outcome.next.inj hx
  have hv := Ev.refl s
  repeat' with_reducible first
    | assumption | (intro _) | apply Ev.ite | apply reachClock_ev | apply setEgress_ev | split
    | (fail_if_no_progress (apply Ev.of_mk <;> first | exact fun h => h | skip)) | dsimp only

theorem unqueue_ev {s0 : State} (n p : Nat) {s : State} (hv : Ev s0 s) : Ev s0 (unqueue n p s) := by
  unfold unqueue
  repeat' with_reducible first
    | assumption | (intro _) | apply setEgress_ev | split
    | (fail_if_no_progress (apply Ev.of_mk <;> first | exact fun h => h | skip)) | dsimp only

theorem startOutcome_ev {s0 : State} (n p : Nat) (f : Frame) {s : State} (hv : Ev s0 s) : Ev s0
    (startOutcome n p f s) := by
  unfold startOutcome
  repeat' with_reducible first
    | assumption | (intro _) | apply Ev.ite | apply launchOutcome_ev | split
    | (fail_if_no_progress (apply Ev.of_mk <;> first | exact fun h => h | skip)) | dsimp only

theorem startFrame_ev {s0 : State} (n p : Nat) {s : State} (hv : Ev s0 s) : Ev s0 (startFrame n p s).1 := by
  unfold startFrame
  repeat' with_reducible first
    | assumption | (intro _) | apply Ev.ite | apply Ev.ite1 | apply reachClock_ev | apply setEgress_ev
    | apply updDest_ev | apply settle_ev | apply discardQueued_ev | apply launchOutcome_ev | apply updTxSa_ev
    | apply usePn_ev | apply unqueue_ev | apply startOutcome_ev | split | refine Ev.of_eq1 ?_ (by assumption)
    | refine Ev.of_eq2 ?_ (by assumption)
    | (fail_if_no_progress (apply Ev.of_mk <;> first | exact fun h => h | skip)) | dsimp only

theorem startFirst_ev {s0 : State} (p : Nat) (g : Nat → Bool) (n : Nat) {s : State} (hv : Ev s0 s) : Ev s0
    (startFirst p g n s).1 := by
  induction n generalizing s with
  | zero => exact hv
  | succ k ih =>
    unfold startFirst
    repeat' with_reducible first
      | assumption | (intro _) | apply Ev.ite | apply Ev.foldl | apply ih | apply Ev.ite1 | apply startFrame_ev
      | split | (fail_if_no_progress (apply Ev.of_mk <;> first | exact fun h => h | skip)) | dsimp only

theorem preemptNow_ev {s0 : State} (p : Nat) {s : State} (hv : Ev s0 s) : Ev s0 (preemptNow p s) := by
  unfold preemptNow
  repeat' with_reducible first
    | assumption | (intro _) | apply reachClock_ev | apply setEgress_ev | apply settle_ev | split
    | (fail_if_no_progress (apply Ev.of_mk <;> first | exact fun h => h | skip)) | dsimp only

theorem selectNow_ev {s0 : State} (p : Nat) {s : State} (hv : Ev s0 s) : Ev s0 (selectNow p s) := by
  unfold selectNow
  repeat' with_reducible first
    | assumption | (intro _) | apply Ev.ite | apply Ev.ite1 | apply reachClock_ev | apply setEgress_ev
    | apply settle_ev | apply sendPause_ev | apply startFirst_ev | apply preemptNow_ev | split
    | refine Ev.of_eq1 ?_ (by assumption) | refine Ev.of_eq2 ?_ (by assumption)
    | (fail_if_no_progress (apply Ev.of_mk <;> first | exact fun h => h | skip)) | dsimp only

theorem plcaSent_ev {s0 : State} (p ns : Nat) {s : State} (hv : Ev s0 s) : Ev s0 (plcaSent p ns s) := by
  unfold plcaSent
  repeat' with_reducible first
    | assumption | (intro _) | apply Ev.ite | apply setPort_ev | split
    | (fail_if_no_progress (apply Ev.of_mk <;> first | exact fun h => h | skip)) | dsimp only

theorem enterLpi_ev {s0 : State} (p : Nat) {s : State} (hv : Ev s0 s) : Ev s0 (enterLpi p s) := by
  unfold enterLpi
  repeat' with_reducible first
    | assumption | (intro _) | apply Ev.ite | apply Ev.ite2 | apply drawNat_ev | apply setEgress_ev | split
    | refine Ev.of_eq1 ?_ (by assumption) | refine Ev.of_eq2 ?_ (by assumption)
    | (fail_if_no_progress (apply Ev.of_mk <;> first | exact fun h => h | skip)) | dsimp only

theorem plcaTurn_ev {s0 : State} (p : Nat) {s t : State} (hv : Ev s0 s) (h : plcaTurn p s = some t) : Ev s0 t := by
  unfold plcaTurn at h
  extract_lets at h
  split at h
  · exact Option.some.inj h ▸ hv
  split at h
  · exact Option.some.inj h ▸ setPort_ev _ _ hv
  split at h
  · split at h
    · cases h
    · exact Option.some.inj h ▸ reachClock_ev _ (setPort_ev _ _ (emit_ev _ (reachClock_ev _ hv)))
  split at h
  · cases h
  · exact Option.some.inj h ▸ setPort_ev _ _ (reachClock_ev _ hv)

theorem execEgressSelect_ev (p : Port) (reads : List CellError) {s t : State} (hx
    : execEgressSelect p reads s = .next t) : Ev s t := by
  unfold execEgressSelect at hx
  obtain rfl := Host.Outcome.next.inj hx
  have hv := Ev.refl s
  repeat' with_reducible first
    | assumption | (intro _) | apply Ev.ite | apply Ev.foldl | exact plcaTurn_ev _ (by assumption) (by assumption)
    | apply readRow_ev | apply settle_ev | apply selectNow_ev | split
    | (fail_if_no_progress (apply Ev.of_mk <;> first | exact fun h => h | skip)) | dsimp only

theorem checkBound_ev {s0 : State} (f : Frame) (p : Nat) (start : Int) {s : State} (hv : Ev s0 s) : Ev s0
    (checkBound f p start s) := by
  unfold checkBound
  repeat' with_reducible first
    | assumption | (intro _) | apply Ev.ite | apply recordLimited_ev | apply countSource_ev | apply setEgress_ev
    | split | (fail_if_no_progress (apply Ev.of_mk <;> first | exact fun h => h | skip)) | dsimp only

theorem countSent_ev {s0 : State} (p : Nat) (b : Bytes) {s : State} (hv : Ev s0 s) : Ev s0 (countSent p b s) := by
  unfold countSent
  repeat' with_reducible first
    | assumption | (intro _) | apply Ev.ite | apply stat_ev | split
    | (fail_if_no_progress (apply Ev.of_mk <;> first | exact fun h => h | skip)) | dsimp only

theorem finishSending_ev {s0 : State} (p : Nat) {s : State} (hv : Ev s0 s) : Ev s0 (finishSending p s) := by
  unfold finishSending
  repeat' with_reducible first
    | assumption | (intro _) | apply Ev.ite | apply emit_ev | apply reachClock_ev | apply stat_ev
    | apply setEgress_ev | apply noteTraffic_ev | apply dropDest_ev | apply settle_ev | apply endCharge_ev
    | apply countQueue_ev | apply updTxDesc_ev | apply plcaSent_ev | apply enterLpi_ev | apply checkBound_ev
    | apply countSent_ev | split
    | (fail_if_no_progress (apply Ev.of_mk <;> first | exact fun h => h | skip)) | dsimp only

theorem dropSending_ev {s0 : State} (p k : Nat) {s : State} (hv : Ev s0 s) : Ev s0 (dropSending p k s) := by
  unfold dropSending
  repeat' with_reducible first
    | assumption | (intro _) | apply stat_ev | apply setEgress_ev | apply dropDest_ev | split
    | (fail_if_no_progress (apply Ev.of_mk <;> first | exact fun h => h | skip)) | dsimp only

theorem execGateEntryChange_ev (p : Port) {s t : State} (hx : execGateEntryChange p s = .next t) : Ev s t := by
  unfold execGateEntryChange at hx
  obtain rfl := Host.Outcome.next.inj hx
  have hv := Ev.refl s
  repeat' with_reducible first
    | assumption | (intro _) | apply Ev.ite | apply reachW_ev | apply setEgress_ev | apply settle_ev | split
    | (fail_if_no_progress (apply Ev.of_mk <;> first | exact fun h => h | skip)) | dsimp only

theorem execSetAndHoldMac_ev (p : Port) {s t : State} (hx : execSetAndHoldMac p s = .next t) : Ev s t := by
  unfold execSetAndHoldMac at hx
  obtain rfl := Host.Outcome.next.inj hx
  have hv := Ev.refl s
  repeat' with_reducible first
    | assumption | (intro _) | apply Ev.ite | apply reachW_ev | apply setEgress_ev | apply preemptNow_ev | split
    | (fail_if_no_progress (apply Ev.of_mk <;> first | exact fun h => h | skip)) | dsimp only

theorem execLaunchMissed_ev (p : Port) (n : Nat) {s t : State} (hx : execLaunchMissed p n s = .next t) : Ev s t := by
  unfold execLaunchMissed at hx
  obtain rfl := Host.Outcome.next.inj hx
  have hv := Ev.refl s
  repeat' with_reducible first
    | assumption | (intro _) | apply Ev.ite | apply reachW_ev | apply discardQueued_ev | apply launchOutcome_ev
    | split | (fail_if_no_progress (apply Ev.of_mk <;> first | exact fun h => h | skip)) | dsimp only

theorem startPreemption_ev {s0 : State} (p : Nat) {s : State} (hv : Ev s0 s) : Ev s0 (startPreemption p s) := by
  unfold startPreemption
  repeat' with_reducible first
    | assumption | (intro _) | apply Ev.ite | apply setEgress_ev | split
    | (fail_if_no_progress (apply Ev.of_mk <;> first | exact fun h => h | skip)) | dsimp only

theorem execPreemptVerify_ev (p : Port) {s t : State} (hx : execPreemptVerify p s = .next t) : Ev s t := by
  unfold execPreemptVerify at hx
  obtain rfl := Host.Outcome.next.inj hx
  have hv := Ev.refl s
  repeat' with_reducible first
    | assumption | (intro _) | apply Ev.ite | apply emit_ev | apply reachClock_ev | apply record_ev
    | apply setEgress_ev | split
    | (fail_if_no_progress (apply Ev.of_mk <;> first | exact fun h => h | skip)) | dsimp only

theorem execPreemptResponseRx_ev (p : Port) {s t : State} (hx : execPreemptResponseRx p s = .next t) : Ev s t := by
  unfold execPreemptResponseRx at hx
  obtain rfl := Host.Outcome.next.inj hx
  have hv := Ev.refl s
  repeat' with_reducible first
    | assumption | (intro _) | apply Ev.ite | apply setEgress_ev | split
    | (fail_if_no_progress (apply Ev.of_mk <;> first | exact fun h => h | skip)) | dsimp only

theorem emptyPort_ev {s0 : State} (p : Nat) {s : State} (hv : Ev s0 s) : Ev s0 (emptyPort p s) := by
  unfold emptyPort
  repeat' with_reducible first
    | assumption | (intro _) | apply Ev.foldl | apply stat_ev | apply setEgress_ev | apply discardCopy_ev | split
    | (fail_if_no_progress (apply Ev.of_mk <;> first | exact fun h => h | skip)) | dsimp only

theorem egrStatusOp_ev : OpEv egrStatusOp := by
  unfold egrStatusOp
  constructor <;> intro r s0 s hv <;> dsimp only <;>
  repeat' with_reducible first
    | assumption | (intro _) | apply Ev.ite | apply answer_ev | split
    | (fail_if_no_progress (apply Ev.of_mk <;> first | exact fun h => h | skip)) | dsimp only

theorem execEgrStatus_ev (c : CmdSource) {s t : State} (hx : execEgrStatus c s = .next t) : Ev s t := by
  unfold execEgrStatus at hx
  obtain rfl := Host.Outcome.next.inj hx
  have hv := Ev.refl s
  repeat' with_reducible first
    | assumption | (intro _) | apply runCommand_ev | exact egrStatusOp_ev | apply egrStatusOp_ev.commit | split
    | (fail_if_no_progress (apply Ev.of_mk <;> first | exact fun h => h | skip)) | dsimp only

/-! Machine/Lanes.lean. -/

theorem advanceLane_ev {s0 : State} (p : Nat) {s : State} (hv : Ev s0 s) : Ev s0 (advanceLane p s) :=
  Ev.of_mk hv (fun m => m) (fun m => m) (fun m => m) (fun m => m) (fun m => m) (fun m => m)

theorem enterFrame_ev {s0 : State} (p ep wire : Nat) (content : Bytes) (ended secy : Bool) (launch : Option Int)
    (hp : Option (Nat × Nat)) {s : State} (hv : Ev s0 s) : Ev s0
    (enterFrame p ep wire content ended secy launch hp s) := by
  unfold enterFrame
  repeat' with_reducible first
    | assumption | (intro _) | apply advanceLane_ev | split
    | (fail_if_no_progress (apply Ev.of_mk <;> first | exact fun h => h | skip)) | dsimp only

theorem countReceived_ev {s0 : State} (p len : Nat) (c : Bytes) {s : State} (hv : Ev s0 s) : Ev s0
    (countReceived p len c s) := by
  unfold countReceived
  repeat' with_reducible first
    | assumption | (intro _) | apply Ev.ite | apply stat_ev | split
    | (fail_if_no_progress (apply Ev.of_mk <;> first | exact fun h => h | skip)) | dsimp only

theorem enterInternal_ev {s0 : State} (p ep : Nat) (gen : Option Nat) (content : Bytes) (launch : Option Int) (hp
    : Option (Nat × Nat)) {s : State} (hv : Ev s0 s) : Ev s0 (enterInternal p ep gen content launch hp s) := by
  unfold enterInternal
  repeat' with_reducible first
    | assumption | (intro _) | apply Ev.ite1 | apply generate_ev | apply enterFrame_ev | apply countReceived_ev
    | split | refine Ev.of_eq1 ?_ (by assumption) | refine Ev.of_eq2 ?_ (by assumption)
    | (fail_if_no_progress (apply Ev.of_mk <;> first | exact fun h => h | skip)) | dsimp only

theorem execFrameStart_ev (p : Port) (content : Bytes) (gen : Option (Fin 2048)) {s t : State} (hx
    : execFrameStart p content gen s = .next t) : Ev s t := by
  unfold execFrameStart at hx
  obtain rfl := Host.Outcome.next.inj hx
  have hv := Ev.refl s
  repeat' with_reducible first
    | assumption | (intro _) | apply Ev.ite | apply enterFrame_ev | apply enterInternal_ev | split
    | (fail_if_no_progress (apply Ev.of_mk <;> first | exact fun h => h | skip)) | dsimp only

theorem execLanePassBegin_ev (n : Nat) {s t : State} (hx : execLanePassBegin n s = .next t) : Ev s t := by
  unfold execLanePassBegin at hx
  obtain rfl := Host.Outcome.next.inj hx
  have hv := Ev.refl s
  repeat' with_reducible first
    | assumption | (intro _) | apply Ev.ite | apply setFrame_ev | split
    | (fail_if_no_progress (apply Ev.of_mk <;> first | exact fun h => h | skip)) | dsimp only

theorem countReason_ev {s0 : State} (lane r : Nat) {s : State} (hv : Ev s0 s) : Ev s0 (countReason lane r s) := by
  unfold countReason
  repeat' with_reducible first
    | assumption | (intro _) | apply Ev.ite | apply countSource_ev | split
    | (fail_if_no_progress (apply Ev.of_mk <;> first | exact fun h => h | skip)) | dsimp only

theorem decide_ev {s0 : State} (f : Frame) (h cls colour queue outcome : Nat) (differs : Bool) {s : State} (hv
    : Ev s0 s) : Ev s0 (decide_ f h cls colour queue outcome differs s) := by
  unfold decide_
  repeat' with_reducible first
    | assumption | (intro _) | apply Ev.ite | apply escalate_ev | split
    | (fail_if_no_progress (apply Ev.of_mk <;> first | exact fun h => h | skip)) | dsimp only

theorem assignSeqs_ev {s0 : State} (n : Nat) (b : Bool) (l : List Nat) {s : State} (hv : Ev s0 s) : Ev s0
    (assignSeqs n b l s) := by
  induction l generalizing s with
  | nil => exact hv
  | cons x xs ih =>
    unfold assignSeqs
    repeat' with_reducible first
      | assumption | (intro _) | apply Ev.ite | apply Ev.foldl | apply ih | apply enterQueue_ev
      | apply countSource_ev | apply setFrame_ev | apply settle_ev | split
      | (fail_if_no_progress (apply Ev.of_mk <;> first | exact fun h => h | skip)) | dsimp only

theorem relink_ev {s0 : State} (n : Nat) (c : Nat) {s : State} (hv : Ev s0 s) : Ev s0 (relink n c s) := by
  unfold relink
  repeat' with_reducible first
    | assumption | (intro _) | apply setFrame_ev | apply refreshBp_ev | split
    | (fail_if_no_progress (apply Ev.of_mk <;> first | exact fun h => h | skip)) | dsimp only

theorem dropIgnored_ev {s0 : State} (n p : Nat) {s : State} (hv : Ev s0 s) : Ev s0 (dropIgnored n p s) := by
  unfold dropIgnored
  repeat' with_reducible first
    | assumption | (intro _) | apply recordLimited_ev | apply stat_ev | apply dropFrame_ev | split
    | (fail_if_no_progress (apply Ev.of_mk <;> first | exact fun h => h | skip)) | dsimp only

theorem writeFrame_ev {s0 : State} (n c : Nat) (rinsed : Bool) {s : State} (hv : Ev s0 s) : Ev s0
    (writeFrame n c rinsed s) := by
  unfold writeFrame
  repeat' with_reducible first
    | assumption | (intro _) | apply Ev.ite | apply Ev.foldl | apply setFrame_ev | apply refreshBp_ev
    | apply chargeFrame_ev | apply assignSeqs_ev | apply relink_ev | apply dropIgnored_ev | split
    | (fail_if_no_progress (apply Ev.of_mk <;> first | exact fun h => h | skip)) | dsimp only

theorem dropBadConn_ev {s0 : State} (w : Walk) (f : Frame) (eps : List Nat) {s : State} (hv : Ev s0 s) : Ev s0
    (dropBadConn w f eps s) := by
  unfold dropBadConn
  repeat' with_reducible first
    | assumption | (intro _) | apply Ev.ite | apply record_ev | split
    | (fail_if_no_progress (apply Ev.of_mk <;> first | exact fun h => h | skip)) | dsimp only

theorem judgeFrame_ev {s0 : State} (n : Nat) (w : Walk) (flags : Nat) (r : LaneRes) (rinsed : Bool) (x
    : LaneFaults) {s : State} (hv : Ev s0 s) : Ev s0 (judgeFrame n w flags r rinsed x s) := by
  unfold judgeFrame
  repeat' with_reducible first
    | assumption | (intro _) | apply Ev.ite | apply Ev.ite1 | apply stat_ev | apply firewallStage_ev
    | apply setFrame_ev | apply dropFrame_ev | apply psfpSteps_ev | apply decide_ev | apply writeFrame_ev
    | apply dropBadConn_ev | split | refine Ev.of_eq1 ?_ (by assumption) | refine Ev.of_eq2 ?_ (by assumption)
    | (fail_if_no_progress (apply Ev.of_mk <;> first | exact fun h => h | skip)) | dsimp only

theorem judgeOversize_ev {s0 : State} (n : Nat) {s : State} (hv : Ev s0 s) : Ev s0 (judgeOversize n s) := by
  unfold judgeOversize
  repeat' with_reducible first
    | assumption | (intro _) | apply Ev.ite | apply setFrame_ev | apply countStream_ev | split
    | (fail_if_no_progress (apply Ev.of_mk <;> first | exact fun h => h | skip)) | dsimp only

theorem settleEnd_ev {s0 : State} (n : Nat) {s : State} (hv : Ev s0 s) : Ev s0 (settleEnd n s) := by
  unfold settleEnd
  repeat' with_reducible first
    | assumption | (intro _) | apply Ev.ite | apply learn_ev | apply freeIfDone_ev | apply judgeOversize_ev | split
    | (fail_if_no_progress (apply Ev.of_mk <;> first | exact fun h => h | skip)) | dsimp only

theorem bankFault_ev {s0 : State} (n : Nat) {s : State} (hv : Ev s0 s) : Ev s0 (bankFault n s) := by
  unfold bankFault
  repeat' with_reducible first
    | assumption | (intro _) | apply record_ev | split
    | (fail_if_no_progress (apply Ev.of_mk <;> first | exact fun h => h | skip)) | dsimp only

theorem enterRp_ev {s0 : State} (n : Nat) {s : State} (hv : Ev s0 s) : Ev s0 (enterRp n s) := by
  unfold enterRp
  repeat' with_reducible first
    | assumption | (intro _) | apply Ev.ite | apply setFrame_ev | apply chargeFrame_ev | apply dropIgnored_ev
    | split | (fail_if_no_progress (apply Ev.of_mk <;> first | exact fun h => h | skip)) | dsimp only

theorem firstResult_ev {s0 : State} (n : Nat) (f : Frame) (x : LaneFaults) {s : State} (hv : Ev s0 s) : Ev s0
    (firstResult n f x s) := by
  unfold firstResult
  repeat' with_reducible first
    | assumption | (intro _) | apply Ev.ite | apply stat_ev | apply setFrame_ev | apply refreshBp_ev
    | apply dropFrame_ev | apply countReason_ev | apply judgeFrame_ev | apply bankFault_ev | apply enterRp_ev
    | split | (fail_if_no_progress (apply Ev.of_mk <;> first | exact fun h => h | skip)) | dsimp only

theorem secondResult_ev {s0 : State} (n : Nat) (f : Frame) (x : LaneFaults) {s : State} (hv : Ev s0 s) : Ev s0
    (secondResult n f x s) := by
  unfold secondResult
  repeat' with_reducible first
    | assumption | (intro _) | apply Ev.ite | apply countReason_ev | apply judgeFrame_ev | apply bankFault_ev
    | split | (fail_if_no_progress (apply Ev.of_mk <;> first | exact fun h => h | skip)) | dsimp only

theorem execLaneResult_ev (n : Nat) (x : LaneFaults) {s t : State} (hx : execLaneResult n x s = .next t) : Ev s t
    := by
  unfold execLaneResult at hx
  obtain rfl := Host.Outcome.next.inj hx
  have hv := Ev.refl s
  repeat' with_reducible first
    | assumption | (intro _) | apply settleEnd_ev | apply firstResult_ev | apply secondResult_ev | split
    | (fail_if_no_progress (apply Ev.of_mk <;> first | exact fun h => h | skip)) | dsimp only

theorem execRinseDispatch_ev {s t : State} (hx : execRinseDispatch s = .next t) : Ev s t := by
  unfold execRinseDispatch at hx
  obtain rfl := Host.Outcome.next.inj hx
  have hv := Ev.refl s
  repeat' with_reducible first
    | assumption | (intro _) | apply Ev.ite | apply setFrame_ev | apply advanceLane_ev | split
    | (fail_if_no_progress (apply Ev.of_mk <;> first | exact fun h => h | skip)) | dsimp only

theorem updRxSa_ev {s0 : State} (p k : Nat) (g : Sa → Sa) {s : State} (hv : Ev s0 s) : Ev s0 (updRxSa p k g s) := by
  unfold updRxSa
  repeat' with_reducible first
    | assumption | (intro _) | apply setPort_ev | split
    | (fail_if_no_progress (apply Ev.of_mk <;> first | exact fun h => h | skip)) | dsimp only

theorem countSecy_ev {s0 : State} (p k : Nat) {s : State} (hv : Ev s0 s) : Ev s0 (countSecy p k s) := by
  unfold countSecy
  repeat' with_reducible first
    | assumption | (intro _) | apply setPort_ev | split
    | (fail_if_no_progress (apply Ev.of_mk <;> first | exact fun h => h | skip)) | dsimp only

theorem releaseHold_ev {s0 : State} (n : Nat) (f : Frame) {s : State} (hv : Ev s0 s) : Ev s0 (releaseHold n f s) := by
  unfold releaseHold
  repeat' with_reducible first
    | assumption | (intro _) | apply Ev.ite | split
    | (fail_if_no_progress (apply Ev.of_mk <;> first | exact fun h => h | skip)) | dsimp only

theorem failFrame_ev {s0 : State} (n : Nat) {s : State} (hv : Ev s0 s) : Ev s0 (failFrame n s) := by
  unfold failFrame
  repeat' with_reducible first
    | assumption | (intro _) | apply Ev.ite | apply Ev.foldl | apply stat_ev | apply setFrame_ev
    | apply freeIfDone_ev | apply updDest_ev | apply discardCopy_ev | apply dropFrame_ev | apply refundMeter_ev
    | apply releaseHold_ev | split
    | (fail_if_no_progress (apply Ev.of_mk <;> first | exact fun h => h | skip)) | dsimp only

theorem lateChecks_ev {s0 : State} (n : Nat) {s : State} (hv : Ev s0 s) : Ev s0 (lateChecks_ n s) := by
  unfold lateChecks_
  repeat' with_reducible first
    | assumption | (intro _) | apply Ev.ite | apply Ev.foldl | apply countSource_ev | apply setFrame_ev
    | apply updDest_ev | apply discardCopy_ev | apply countReason_ev | split
    | (fail_if_no_progress (apply Ev.of_mk <;> first | exact fun h => h | skip)) | dsimp only

theorem goodEnd_ev {s0 : State} (n : Nat) {s : State} (hv : Ev s0 s) : Ev s0 (goodEnd n s) := by
  unfold goodEnd
  repeat' with_reducible first
    | assumption | (intro _) | apply Ev.ite | apply Ev.foldl | apply setFrame_ev | apply refreshBp_ev
    | apply enterQueue_ev | apply refundMeter_ev | apply settleEnd_ev | apply lateChecks_ev | split
    | (fail_if_no_progress (apply Ev.of_mk <;> first | exact fun h => h | skip)) | dsimp only

theorem execFrameEnd_ev (n : Nat) (fcsOk : Bool) {s t : State} (hx : execFrameEnd n fcsOk s = .next t) : Ev s t := by
  unfold execFrameEnd at hx
  obtain rfl := Host.Outcome.next.inj hx
  have hv := Ev.refl s
  repeat' with_reducible first
    | assumption | (intro _) | apply Ev.ite | apply stat_ev | apply setFrame_ev | apply noteTraffic_ev
    | apply countReceived_ev | apply updRxSa_ev | apply countSecy_ev | apply failFrame_ev | apply goodEnd_ev
    | split | (fail_if_no_progress (apply Ev.of_mk <;> first | exact fun h => h | skip)) | dsimp only

theorem execRuleBankRelease_ev {s t : State} (hx : execRuleBankRelease s = .next t) : Ev s t := by
  unfold execRuleBankRelease at hx
  obtain rfl := Host.Outcome.next.inj hx
  have hv := Ev.refl s
  repeat' with_reducible first
    | assumption | (intro _) | apply Ev.ite | split
    | (fail_if_no_progress (apply Ev.of_mk <;> first | exact fun h => h | skip)) | dsimp only

theorem prsLaneStatusOp_ev : OpEv prsLaneStatusOp := by
  unfold prsLaneStatusOp
  constructor <;> intro r s0 s hv <;> dsimp only <;>
  repeat' with_reducible first
    | assumption | (intro _) | apply answer_ev | split
    | (fail_if_no_progress (apply Ev.of_mk <;> first | exact fun h => h | skip)) | dsimp only

theorem execPrsLaneStatus_ev (c : CmdSource) {s t : State} (hx : execPrsLaneStatus c s = .next t) : Ev s t := by
  unfold execPrsLaneStatus at hx
  obtain rfl := Host.Outcome.next.inj hx
  have hv := Ev.refl s
  repeat' with_reducible first
    | assumption | (intro _) | apply runCommand_ev | exact prsLaneStatusOp_ev | apply prsLaneStatusOp_ev.commit
    | split | (fail_if_no_progress (apply Ev.of_mk <;> first | exact fun h => h | skip)) | dsimp only

/-! Machine/Gptp.lean. -/

theorem sendGptp_ev {s0 : State} (p : Nat) (m : GptpTx) {s : State} (hv : Ev s0 s) : Ev s0 (sendGptp p m s) := by
  unfold sendGptp
  repeat' with_reducible first
    | assumption | (intro _) | apply Ev.ite | apply refreshBp_ev | apply chargeFrame_ev | apply countReceived_ev
    | apply assignSeqs_ev | split
    | (fail_if_no_progress (apply Ev.of_mk <;> first | exact fun h => h | skip)) | dsimp only

theorem sendEach_ev {s0 : State} (ports : List Nat) (m : GptpTx) {s : State} (hv : Ev s0 s) : Ev s0
    (sendEach ports m s) := by
  unfold sendEach
  repeat' with_reducible first
    | assumption | (intro _) | apply Ev.foldl | apply sendGptp_ev | split
    | (fail_if_no_progress (apply Ev.of_mk <;> first | exact fun h => h | skip)) | dsimp only

theorem takeSyncSeq_ev {s0 : State} (d : Nat) {s : State} (hv : Ev s0 s) : Ev s0 (takeSyncSeq d s) := by
  unfold takeSyncSeq
  repeat' with_reducible first
    | assumption | (intro _) | apply setDom_ev | split
    | (fail_if_no_progress (apply Ev.of_mk <;> first | exact fun h => h | skip)) | dsimp only

theorem gptpSent_ev {s0 : State} (p : Nat) (m : GptpTx) (t : Int) {s : State} (hv : Ev s0 s) : Ev s0
    (gptpSent p m t s) := by
  unfold gptpSent
  repeat' with_reducible first
    | assumption | (intro _) | apply Ev.ite | apply emit_ev | apply setDelay_ev | apply sendGptp_ev | split
    | (fail_if_no_progress (apply Ev.of_mk <;> first | exact fun h => h | skip)) | dsimp only

theorem execEgressTxEnd_ev (p : Port) {s t : State} (hx : execEgressTxEnd p s = .next t) : Ev s t := by
  unfold execEgressTxEnd at hx
  obtain rfl := Host.Outcome.next.inj hx
  have hv := Ev.refl s
  repeat' with_reducible first
    | assumption | (intro _) | apply Ev.ite | apply finishSending_ev | apply dropSending_ev | apply gptpSent_ev
    | split | (fail_if_no_progress (apply Ev.of_mk <;> first | exact fun h => h | skip)) | dsimp only

theorem syncComplete_ev {s0 : State} (d p : Nat) (stamp : Int) (corr : Int) (info : TimeInfo) {s : State} (hv
    : Ev s0 s) : Ev s0 (syncComplete d p stamp corr info s) := by
  unfold syncComplete
  repeat' with_reducible first
    | assumption | (intro _) | apply Ev.ite | apply measure_ev | apply sendEach_ev | apply takeSyncSeq_ev | split
    | (fail_if_no_progress (apply Ev.of_mk <;> first | exact fun h => h | skip)) | dsimp only

theorem gptpSyncRx_ev {s0 : State} (p : Port) (m : SyncMessage) {s : State} (hv : Ev s0 s) : Ev s0
    (gptpSyncRx p m s) := by
  unfold gptpSyncRx
  repeat' with_reducible first
    | assumption | (intro _) | apply Ev.ite | apply Ev.foldl | apply setDom_ev | apply takeAutoSlave_ev
    | apply syncComplete_ev | split
    | (fail_if_no_progress (apply Ev.of_mk <;> first | exact fun h => h | skip)) | dsimp only

theorem execGptpSyncRx_ev (p : Port) (m : SyncMessage) {s t : State} (hx : execGptpSyncRx p m s = .next t) : Ev s t
    := by
  unfold execGptpSyncRx at hx
  obtain rfl := Host.Outcome.next.inj hx
  have hv := Ev.refl s
  repeat' with_reducible first
    | assumption | (intro _) | apply gptpSyncRx_ev | split
    | (fail_if_no_progress (apply Ev.of_mk <;> first | exact fun h => h | skip)) | dsimp only

theorem execGptpFollowUpRx_ev (p : Port) (m : FollowUpMessage) {s t : State} (hx
    : execGptpFollowUpRx p m s = .next t) : Ev s t := by
  unfold execGptpFollowUpRx at hx
  obtain rfl := Host.Outcome.next.inj hx
  have hv := Ev.refl s
  repeat' with_reducible first
    | assumption | (intro _) | apply Ev.ite | apply Ev.foldl | apply setDom_ev | apply syncComplete_ev | split
    | (fail_if_no_progress (apply Ev.of_mk <;> first | exact fun h => h | skip)) | dsimp only

theorem execAnnounceRx_ev (p : Port) (number : Byte) (gm : Word64) {s t : State} (hx
    : execAnnounceRx p number gm s = .next t) : Ev s t := by
  unfold execAnnounceRx at hx
  obtain rfl := Host.Outcome.next.inj hx
  have hv := Ev.refl s
  repeat' with_reducible first
    | assumption | (intro _) | apply Ev.ite | apply Ev.foldl | apply setDom_ev | split
    | (fail_if_no_progress (apply Ev.of_mk <;> first | exact fun h => h | skip)) | dsimp only

theorem execAnnounceTimer_ev {s t : State} (hx : execAnnounceTimer s = .next t) : Ev s t := by
  unfold execAnnounceTimer at hx
  obtain rfl := Host.Outcome.next.inj hx
  have hv := Ev.refl s
  repeat' with_reducible first
    | assumption | (intro _) | apply Ev.ite | apply Ev.foldl | apply reachClock_ev | apply setDom_ev
    | apply sendEach_ev | split
    | (fail_if_no_progress (apply Ev.of_mk <;> first | exact fun h => h | skip)) | dsimp only

theorem execSyncOriginate_ev (d : Fin 4) {s t : State} (hx : execSyncOriginate d s = .next t) : Ev s t := by
  unfold execSyncOriginate at hx
  obtain rfl := Host.Outcome.next.inj hx
  have hv := Ev.refl s
  repeat' with_reducible first
    | assumption | (intro _) | apply Ev.ite | apply reachClock_ev | apply setDom_ev | apply sendEach_ev
    | apply takeSyncSeq_ev | split
    | (fail_if_no_progress (apply Ev.of_mk <;> first | exact fun h => h | skip)) | dsimp only

theorem execPdelayTimer_ev {s t : State} (hx : execPdelayTimer s = .next t) : Ev s t := by
  unfold execPdelayTimer at hx
  obtain rfl := Host.Outcome.next.inj hx
  have hv := Ev.refl s
  repeat' with_reducible first
    | assumption | (intro _) | apply Ev.ite | apply Ev.foldl | apply reachClock_ev | apply setDelay_ev
    | apply sendGptp_ev | split
    | (fail_if_no_progress (apply Ev.of_mk <;> first | exact fun h => h | skip)) | dsimp only

theorem execPdelayMessageRx_ev (p : Port) (m : PdelayMessage) {s t : State} (hx
    : execPdelayMessageRx p m s = .next t) : Ev s t := by
  unfold execPdelayMessageRx at hx
  obtain rfl := Host.Outcome.next.inj hx
  have hv := Ev.refl s
  repeat' with_reducible first
    | assumption | (intro _) | apply Ev.ite | apply setDelay_ev | apply sendGptp_ev | split
    | (fail_if_no_progress (apply Ev.of_mk <;> first | exact fun h => h | skip)) | dsimp only

end Sys2Proof.Machine
end

