-- ==== Sys2Proof/Laws/EvolveHost.lean ====
section
/-!
SUPPORT. Each operation and command of keys, system commands, host interfaces, ports, channels, the sleep ring and segments only lets fuses blow, keeps the memories canonical and leaves the queue alone:
one lemma per definition.
-/
set_option linter.unusedTactic false
set_option linter.unreachableTactic false
set_option linter.unusedVariables false

namespace Sys2Proof.Machine

/-! Machine/Keys.lean. -/

theorem setSlot_ev {s0 : State} (n : Nat) (k : KeySlot) {s : State} (hv : Ev s0 s) : Ev s0 (setSlot n k s) :=
  Ev.of_mk hv (fun m => m) (fun m => m) (fun m => m) (fun m => m) (fun m => m) (fun m => m)

theorem dropMarks_ev {s0 : State} (n : Nat) {s : State} (hv : Ev s0 s) : Ev s0 (dropMarks n s) :=
  Ev.of_mk hv (fun m => m) (fun m => m) (fun m => m) (fun m => m) (fun m => m) (fun m => m)

theorem kdCommit_ev {s0 : State} (r : Req) {s : State} (hv : Ev s0 s) : Ev s0 (kdCommit r s) := by
  unfold kdCommit
  repeat' with_reducible first
    | assumption | (intro _) | apply Ev.ite | apply answer_ev | apply setSlot_ev | apply dropMarks_ev | split
    | (fail_if_no_progress (apply Ev.of_mk <;> first | exact fun h => h | skip)) | dsimp only

theorem keyDeriveOp_ev : OpEv keyDeriveOp := by
  unfold keyDeriveOp
  constructor <;> intro r s0 s hv <;> dsimp only <;>
  repeat' with_reducible first
    | assumption | (intro _) | apply Ev.ite | apply kdCommit_ev | split
    | (fail_if_no_progress (apply Ev.of_mk <;> first | exact fun h => h | skip)) | dsimp only

theorem execKeyDerive_ev (c : CmdSource) {s t : State} (hx : execKeyDerive c s = .next t) : Ev s t := by
  unfold execKeyDerive at hx
  obtain rfl := Host.Outcome.next.inj hx
  have hv := Ev.refl s
  repeat' with_reducible first
    | assumption | (intro _) | apply runCommand_ev | exact keyDeriveOp_ev | apply keyDeriveOp_ev.commit | split
    | (fail_if_no_progress (apply Ev.of_mk <;> first | exact fun h => h | skip)) | dsimp only

theorem keySlotInfoOp_ev : OpEv keySlotInfoOp := by
  unfold keySlotInfoOp
  constructor <;> intro r s0 s hv <;> dsimp only <;>
  repeat' with_reducible first
    | assumption | (intro _) | apply Ev.ite | apply answer_ev | split
    | (fail_if_no_progress (apply Ev.of_mk <;> first | exact fun h => h | skip)) | dsimp only

theorem execKeySlotInfo_ev (c : CmdSource) {s t : State} (hx : execKeySlotInfo c s = .next t) : Ev s t := by
  unfold execKeySlotInfo at hx
  obtain rfl := Host.Outcome.next.inj hx
  have hv := Ev.refl s
  repeat' with_reducible first
    | assumption | (intro _) | apply runCommand_ev | exact keySlotInfoOp_ev | apply keySlotInfoOp_ev.commit | split
    | (fail_if_no_progress (apply Ev.of_mk <;> first | exact fun h => h | skip)) | dsimp only

theorem attestQuoteOp_ev : OpEv attestQuoteOp := by
  unfold attestQuoteOp
  constructor <;> intro r s0 s hv <;> dsimp only <;>
  repeat' with_reducible first
    | assumption | (intro _) | apply Ev.ite | apply Ev.ite2 | apply drawNat_ev | apply drawBytes_ev
    | apply answer_ev | split | refine Ev.of_eq1 ?_ (by assumption) | refine Ev.of_eq2 ?_ (by assumption)
    | (fail_if_no_progress (apply Ev.of_mk <;> first | exact fun h => h | skip)) | dsimp only

theorem execAttestQuote_ev (c : CmdSource) {s t : State} (hx : execAttestQuote c s = .next t) : Ev s t := by
  unfold execAttestQuote at hx
  obtain rfl := Host.Outcome.next.inj hx
  have hv := Ev.refl s
  repeat' with_reducible first
    | assumption | (intro _) | apply runCommand_ev | exact attestQuoteOp_ev | apply attestQuoteOp_ev.commit | split
    | (fail_if_no_progress (apply Ev.of_mk <;> first | exact fun h => h | skip)) | dsimp only

theorem execIdentityKeygenComplete_ev {s t : State} (hx : execIdentityKeygenComplete s = .next t) : Ev s t := by
  unfold execIdentityKeygenComplete at hx
  obtain rfl := Host.Outcome.next.inj hx
  have hv := Ev.refl s
  repeat' with_reducible first
    | assumption | (intro _) | apply Ev.ite | split
    | (fail_if_no_progress (apply Ev.of_mk <;> first | exact fun h => h | skip)) | dsimp only

theorem lcTransitionOp_ev : OpEv lcTransitionOp := by
  unfold lcTransitionOp
  constructor <;> intro r s0 s hv <;> dsimp only
  case commit =>
    apply answer_ev
    refine Ev.trans (t := if lcTarget r = 4 then { s with otp := { s.otp with retiredCell := 7 } }
        else { s with otp := { s.otp with lcCells := s.otp.lcCells.set s.otp.lcCount 7 } }) ?_ ?_
    · split
      · exact Ev.of_otp hv (FusesKept.retire _)
      · exact Ev.of_otp hv (FusesKept.blowCell _ _)
    · generalize (if lcTarget r = 4 then { s with otp := { s.otp with retiredCell := 7 } }
        else { s with otp := { s.otp with lcCells := s.otp.lcCells.set s.otp.lcCount 7 } }) = u
      have hv := Ev.refl u
      repeat' with_reducible first
        | assumption | (intro _) | apply Ev.ite | apply Ev.foldl | split
        | (fail_if_no_progress (apply Ev.of_mk <;> first | exact fun h => h | skip)) | dsimp only
  all_goals exact hv

theorem execLcTransition_ev (c : CmdSource) {s t : State} (hx : execLcTransition c s = .next t) : Ev s t := by
  unfold execLcTransition at hx
  obtain rfl := Host.Outcome.next.inj hx
  have hv := Ev.refl s
  repeat' with_reducible first
    | assumption | (intro _) | apply runCommand_ev | exact lcTransitionOp_ev | apply lcTransitionOp_ev.commit
    | split | (fail_if_no_progress (apply Ev.of_mk <;> first | exact fun h => h | skip)) | dsimp only

/-! Machine/SysCmds.lean. -/

theorem sysGetInfoOp_ev : OpEv sysGetInfoOp := by
  unfold sysGetInfoOp
  constructor <;> intro r s0 s hv <;> dsimp only <;>
  repeat' with_reducible first
    | assumption | (intro _) | apply Ev.ite | apply answer_ev | split
    | (fail_if_no_progress (apply Ev.of_mk <;> first | exact fun h => h | skip)) | dsimp only

theorem execSysGetInfo_ev (c : CmdSource) {s t : State} (hx : execSysGetInfo c s = .next t) : Ev s t := by
  unfold execSysGetInfo at hx
  obtain rfl := Host.Outcome.next.inj hx
  have hv := Ev.refl s
  repeat' with_reducible first
    | assumption | (intro _) | apply runCommand_ev | exact sysGetInfoOp_ev | apply sysGetInfoOp_ev.commit | split
    | (fail_if_no_progress (apply Ev.of_mk <;> first | exact fun h => h | skip)) | dsimp only

theorem sysAbortOp_ev : OpEv sysAbortOp := by
  unfold sysAbortOp
  constructor <;> intro r s0 s hv <;> dsimp only <;>
  repeat' with_reducible first
    | assumption | (intro _) | apply Ev.ite | apply answer_ev | apply abortCommand_ev | split
    | (fail_if_no_progress (apply Ev.of_mk <;> first | exact fun h => h | skip)) | dsimp only

theorem execSysAbort_ev (c : CmdSource) {s t : State} (hx : execSysAbort c s = .next t) : Ev s t := by
  unfold execSysAbort at hx
  obtain rfl := Host.Outcome.next.inj hx
  have hv := Ev.refl s
  repeat' with_reducible first
    | assumption | (intro _) | apply runCommand_ev | exact sysAbortOp_ev | apply sysAbortOp_ev.commit | split
    | (fail_if_no_progress (apply Ev.of_mk <;> first | exact fun h => h | skip)) | dsimp only

theorem setModeEffect_ev {s0 : State} (r : Req) {s : State} (hv : Ev s0 s) : Ev s0 (setModeEffect r s) := by
  unfold setModeEffect
  repeat' with_reducible first
    | assumption | (intro _) | apply Ev.ite | apply answer_ev | apply assertSource_ev | apply enterSafe_ev | split
    | (fail_if_no_progress (apply Ev.of_mk <;> first | exact fun h => h | skip)) | dsimp only

theorem sysSetModeOp_ev : OpEv sysSetModeOp := by
  unfold sysSetModeOp
  constructor <;> intro r s0 s hv <;> dsimp only <;>
  repeat' with_reducible first
    | assumption | (intro _) | apply Ev.ite | apply relayOrRun_ev | apply setModeEffect_ev | split
    | (fail_if_no_progress (apply Ev.of_mk <;> first | exact fun h => h | skip)) | dsimp only

theorem execSysSetMode_ev (c : CmdSource) {s t : State} (hx : execSysSetMode c s = .next t) : Ev s t := by
  unfold execSysSetMode at hx
  obtain rfl := Host.Outcome.next.inj hx
  have hv := Ev.refl s
  repeat' with_reducible first
    | assumption | (intro _) | apply runCommand_ev | exact sysSetModeOp_ev | apply sysSetModeOp_ev.commit | split
    | (fail_if_no_progress (apply Ev.of_mk <;> first | exact fun h => h | skip)) | dsimp only

theorem sysSetAuthPolicyOp_ev : OpEv sysSetAuthPolicyOp := by
  unfold sysSetAuthPolicyOp
  constructor <;> intro r s0 s hv <;> dsimp only <;>
  repeat' with_reducible first
    | assumption | (intro _) | apply Ev.ite | apply answer_ev | split
    | (fail_if_no_progress (apply Ev.of_mk <;> first | exact fun h => h | skip)) | dsimp only

theorem execSysSetAuthPolicy_ev (c : CmdSource) {s t : State} (hx : execSysSetAuthPolicy c s = .next t) : Ev s t := by
  unfold execSysSetAuthPolicy at hx
  obtain rfl := Host.Outcome.next.inj hx
  have hv := Ev.refl s
  repeat' with_reducible first
    | assumption | (intro _) | apply runCommand_ev | exact sysSetAuthPolicyOp_ev
    | apply sysSetAuthPolicyOp_ev.commit | split
    | (fail_if_no_progress (apply Ev.of_mk <;> first | exact fun h => h | skip)) | dsimp only

theorem execBadOpcodeCommand_ev (opcode : Word16) (via : Via) (p : Packet) {s t : State} (hx
    : execBadOpcodeCommand opcode via p s = .next t) : Ev s t := by
  unfold execBadOpcodeCommand at hx
  obtain rfl := Host.Outcome.next.inj hx
  have hv := Ev.refl s
  repeat' with_reducible first
    | assumption | (intro _) | apply Ev.ite | apply OpEv.skip | apply arrive_ev | split
    | (fail_if_no_progress (apply Ev.of_mk <;> first | exact fun h => h | skip)) | dsimp only

theorem endSession_ev {s0 : State} (n : Nat) {s : State} (hv : Ev s0 s) : Ev s0 (endSession n s) :=
  Ev.of_mk hv (fun m => m) (fun m => m) (fun m => m) (fun m => m) (fun m => m) (fun m => m)

theorem execSessionIdleExpiry_ev (n : Fin 16) {s t : State} (hx : execSessionIdleExpiry n s = .next t) : Ev s t := by
  unfold execSessionIdleExpiry at hx
  obtain rfl := Host.Outcome.next.inj hx
  have hv := Ev.refl s
  repeat' with_reducible first
    | assumption | (intro _) | apply Ev.ite | apply reachClock_ev | apply endSession_ev | split
    | (fail_if_no_progress (apply Ev.of_mk <;> first | exact fun h => h | skip)) | dsimp only

/-! Machine/Flags.lean. -/

theorem setHstRing_ev {s0 : State} (receive : Bool) (n : Nat) (r : HstRing) {s : State} (hv : Ev s0 s) : Ev s0
    (setHstRing receive n r s) := by
  unfold setHstRing
  repeat' with_reducible first
    | assumption | (intro _) | apply Ev.ite | split
    | (fail_if_no_progress (apply Ev.of_mk <;> first | exact fun h => h | skip)) | dsimp only

theorem popMailbox_ev {s0 : State} {s : State} (hv : Ev s0 s) : Ev s0 (popMailbox s) := by
  unfold popMailbox
  repeat' with_reducible first
    | assumption | (intro _) | apply Ev.ite | apply freeTag_ev | split
    | (fail_if_no_progress (apply Ev.of_mk <;> first | exact fun h => h | skip)) | dsimp only

theorem clearOvf_ev {s0 : State} (w : Nat) {s : State} (hv : Ev s0 s) : Ev s0 (clearOvf w s) :=
  Ev.of_mk hv (fun m => m) (fun m => m) (fun m => m) (fun m => m) (fun m => m) (fun m => m)

theorem popTsync_ev {s0 : State} (n : Nat) {s : State} (hv : Ev s0 s) : Ev s0 (popTsync n s) := by
  unfold popTsync
  repeat' with_reducible first
    | assumption | (intro _) | apply setTsync_ev | split
    | (fail_if_no_progress (apply Ev.of_mk <;> first | exact fun h => h | skip)) | dsimp only

theorem readEffect_ev {s0 : State} (v : View) (off : Nat) {s : State} (hv : Ev s0 s) : Ev s0 (readEffect v off s)
    := by
  unfold readEffect
  repeat' with_reducible first
    | assumption | (intro _) | apply Ev.ite | apply popMailbox_ev | apply clearOvf_ev | apply popTsync_ev | split
    | (fail_if_no_progress (apply Ev.of_mk <;> first | exact fun h => h | skip)) | dsimp only

/-! Machine/HostIf.lean. -/

theorem flushRx_ev {s0 : State} (f n k : Nat) {s : State} (hv : Ev s0 s) : Ev s0 (flushRx f n k s) := by
  induction k generalizing s with
  | zero => exact hv
  | succ k ih =>
    unfold flushRx
    repeat' with_reducible first
      | assumption | (intro _) | apply Ev.ite | apply Ev.foldl | apply ih | apply setHstRing_ev | apply emit_ev
      | split | (fail_if_no_progress (apply Ev.of_mk <;> first | exact fun h => h | skip)) | dsimp only

theorem stopRing_ev {s0 : State} (receive : Bool) (n : Nat) {s : State} (hv : Ev s0 s) : Ev s0
    (stopRing receive n s) := by
  unfold stopRing
  repeat' with_reducible first
    | assumption | (intro _) | apply Ev.ite | apply sendVector_ev | apply setHstRing_ev | apply flushRx_ev | split
    | (fail_if_no_progress (apply Ev.of_mk <;> first | exact fun h => h | skip)) | dsimp only

theorem silenceRing_ev {s0 : State} (receive : Bool) (n : Nat) {s : State} (hv : Ev s0 s) : Ev s0
    (silenceRing receive n s) := by
  unfold silenceRing
  repeat' with_reducible first
    | assumption | (intro _) | apply setHstRing_ev | split
    | (fail_if_no_progress (apply Ev.of_mk <;> first | exact fun h => h | skip)) | dsimp only

theorem functionReset_ev {s0 : State} (f : Nat) {s : State} (hv : Ev s0 s) : Ev s0 (functionReset f s) := by
  unfold functionReset
  repeat' with_reducible first
    | assumption | (intro _) | apply Ev.ite | apply Ev.foldl | apply setCmdRing_ev | apply freeTag_ev
    | apply silenceRing_ev | split
    | (fail_if_no_progress (apply Ev.of_mk <;> first | exact fun h => h | skip)) | dsimp only

theorem execPcieFlr_ev (f : Fin 4) {s t : State} (hx : execPcieFlr f s = .next t) : Ev s t := by
  unfold execPcieFlr at hx
  obtain rfl := Host.Outcome.next.inj hx
  have hv := Ev.refl s
  repeat' with_reducible first
    | assumption | (intro _) | apply Ev.ite | apply functionReset_ev | split
    | (fail_if_no_progress (apply Ev.of_mk <;> first | exact fun h => h | skip)) | dsimp only

theorem execPcieBmeClear_ev (f : Fin 4) {s t : State} (hx : execPcieBmeClear f s = .next t) : Ev s t := by
  unfold execPcieBmeClear at hx
  obtain rfl := Host.Outcome.next.inj hx
  have hv := Ev.refl s
  repeat' with_reducible first
    | assumption | (intro _) | apply Ev.ite | apply functionReset_ev | split
    | (fail_if_no_progress (apply Ev.of_mk <;> first | exact fun h => h | skip)) | dsimp only

theorem execPcieHotReset_ev {s t : State} (hx : execPcieHotReset s = .next t) : Ev s t := by
  unfold execPcieHotReset at hx
  obtain rfl := Host.Outcome.next.inj hx
  have hv := Ev.refl s
  repeat' with_reducible first
    | assumption | (intro _) | apply Ev.foldl | apply functionReset_ev | split
    | (fail_if_no_progress (apply Ev.of_mk <;> first | exact fun h => h | skip)) | dsimp only

theorem execPcieReady_ev {s t : State} (hx : execPcieReady s = .next t) : Ev s t := by
  unfold execPcieReady at hx
  obtain rfl := Host.Outcome.next.inj hx
  have hv := Ev.refl s
  repeat' with_reducible first
    | assumption | (intro _) | apply Ev.ite | split
    | (fail_if_no_progress (apply Ev.of_mk <;> first | exact fun h => h | skip)) | dsimp only

theorem unmask_ev {s0 : State} (f v : Nat) {s : State} (hv : Ev s0 s) : Ev s0 (unmask f v s) := by
  unfold unmask
  repeat' with_reducible first
    | assumption | (intro _) | apply Ev.ite | apply setVector_ev | apply sendVector_ev | split
    | (fail_if_no_progress (apply Ev.of_mk <;> first | exact fun h => h | skip)) | dsimp only

theorem execMsixUnmask_ev (f : Fin 4) (vec : Fin 64) {s t : State} (hx : execMsixUnmask f vec s = .next t) : Ev s t
    := by
  unfold execMsixUnmask at hx
  obtain rfl := Host.Outcome.next.inj hx
  have hv := Ev.refl s
  repeat' with_reducible first
    | assumption | (intro _) | apply unmask_ev | split
    | (fail_if_no_progress (apply Ev.of_mk <;> first | exact fun h => h | skip)) | dsimp only

theorem execMsixHoldoffEnd_ev (f : Fin 4) (vec : Fin 64) {s t : State} (hx : execMsixHoldoffEnd f vec s = .next t)
    : Ev s t := by
  unfold execMsixHoldoffEnd at hx
  obtain rfl := Host.Outcome.next.inj hx
  have hv := Ev.refl s
  repeat' with_reducible first
    | assumption | (intro _) | apply Ev.ite | apply setVector_ev | apply sendVector_ev | split
    | (fail_if_no_progress (apply Ev.of_mk <;> first | exact fun h => h | skip)) | dsimp only

theorem asOwner_ev {s0 : State} (f : Nat) (receive : Bool) (n : Nat) (g : State → State) (hg
    : ∀ t0, Ev s0 t0 → Ev s0 (g t0)) {s : State} (hv : Ev s0 s) : Ev s0 (asOwner f receive n g s) := by
  unfold asOwner
  repeat' with_reducible first
    | assumption | (intro _) | apply Ev.ite | apply hg | apply setPciFn_ev | split
    | (fail_if_no_progress (apply Ev.of_mk <;> first | exact fun h => h | skip)) | dsimp only

theorem writeCfg_ev {s0 : State} (receive : Bool) (n : Nat) (v : Word) {s : State} (hv : Ev s0 s) : Ev s0
    (writeCfg receive n v s) := by
  unfold writeCfg
  repeat' with_reducible first
    | assumption | (intro _) | apply Ev.ite | apply setHstRing_ev | apply stopRing_ev | split
    | (fail_if_no_progress (apply Ev.of_mk <;> first | exact fun h => h | skip)) | dsimp only

theorem execHstTxCfgWrite_ev (f : Fin 4) (ring : Fin 16) (v : Word) {s t : State} (hx
    : execHstTxCfgWrite f ring v s = .next t) : Ev s t := by
  unfold execHstTxCfgWrite at hx
  obtain rfl := Host.Outcome.next.inj hx
  have hv := Ev.refl s
  repeat' with_reducible first
    | assumption | (intro _) | apply asOwner_ev | apply writeCfg_ev | split
    | (fail_if_no_progress (apply Ev.of_mk <;> first | exact fun h => h | skip)) | dsimp only

theorem execHstRxCfgWrite_ev (f : Fin 4) (ring : Fin 16) (v : Word) {s t : State} (hx
    : execHstRxCfgWrite f ring v s = .next t) : Ev s t := by
  unfold execHstRxCfgWrite at hx
  obtain rfl := Host.Outcome.next.inj hx
  have hv := Ev.refl s
  repeat' with_reducible first
    | assumption | (intro _) | apply asOwner_ev | apply writeCfg_ev | split
    | (fail_if_no_progress (apply Ev.of_mk <;> first | exact fun h => h | skip)) | dsimp only

theorem writeBase_ev {s0 : State} (receive : Bool) (n : Nat) (high : Bool) (v : Word) {s : State} (hv : Ev s0 s)
    : Ev s0 (writeBase receive n high v s) := by
  unfold writeBase
  repeat' with_reducible first
    | assumption | (intro _) | apply Ev.ite | apply setHstRing_ev | split
    | (fail_if_no_progress (apply Ev.of_mk <;> first | exact fun h => h | skip)) | dsimp only

theorem fetchTx_ev {s0 : State} (n : Nat) (l : List Bytes) {s : State} (hv : Ev s0 s) : Ev s0 (fetchTx n l s) := by
  induction l generalizing s with
  | nil => exact hv
  | cons x xs ih =>
    unfold fetchTx
    repeat' with_reducible first
      | assumption | (intro _) | apply Ev.ite | apply Ev.foldl | apply ih | apply setHstRing_ev | split
      | (fail_if_no_progress (apply Ev.of_mk <;> first | exact fun h => h | skip)) | dsimp only

theorem writeTail_ev {s0 : State} (f : Nat) (receive : Bool) (n : Nat) (v : Word) {s : State} (hv : Ev s0 s)
    : Ev s0 (writeTail f receive n v s).1 := by
  unfold writeTail
  repeat' with_reducible first
    | assumption | (intro _) | apply Ev.ite | apply Ev.ite1 | apply setPciFn_ev | apply setHstRing_ev | split
    | refine Ev.of_eq1 ?_ (by assumption) | refine Ev.of_eq2 ?_ (by assumption)
    | (fail_if_no_progress (apply Ev.of_mk <;> first | exact fun h => h | skip)) | dsimp only

theorem execHstTxTailWrite_ev (f : Fin 4) (ring : Fin 16) (v : Word) (fetched : List Bytes) {s t : State} (hx
    : execHstTxTailWrite f ring v fetched s = .next t) : Ev s t := by
  unfold execHstTxTailWrite at hx
  obtain rfl := Host.Outcome.next.inj hx
  have hv := Ev.refl s
  repeat' with_reducible first
    | assumption | (intro _) | apply Ev.ite | apply Ev.ite1 | apply asOwner_ev | apply fetchTx_ev
    | apply writeTail_ev | split | refine Ev.of_eq1 ?_ (by assumption) | refine Ev.of_eq2 ?_ (by assumption)
    | (fail_if_no_progress (apply Ev.of_mk <;> first | exact fun h => h | skip)) | dsimp only

theorem fetchRx_ev {s0 : State} (n : Nat) (l : List Bytes) {s : State} (hv : Ev s0 s) : Ev s0 (fetchRx n l s) := by
  induction l generalizing s with
  | nil => exact hv
  | cons x xs ih =>
    unfold fetchRx
    repeat' with_reducible first
      | assumption | (intro _) | apply Ev.ite | apply Ev.foldl | apply ih | apply setHstRing_ev | split
      | (fail_if_no_progress (apply Ev.of_mk <;> first | exact fun h => h | skip)) | dsimp only

theorem execHstRxTailWrite_ev (f : Fin 4) (ring : Fin 16) (v : Word) (fetched : List Bytes) {s t : State} (hx
    : execHstRxTailWrite f ring v fetched s = .next t) : Ev s t := by
  unfold execHstRxTailWrite at hx
  obtain rfl := Host.Outcome.next.inj hx
  have hv := Ev.refl s
  repeat' with_reducible first
    | assumption | (intro _) | apply Ev.ite | apply Ev.ite1 | apply asOwner_ev | apply writeTail_ev
    | apply fetchRx_ev | split | refine Ev.of_eq1 ?_ (by assumption) | refine Ev.of_eq2 ?_ (by assumption)
    | (fail_if_no_progress (apply Ev.of_mk <;> first | exact fun h => h | skip)) | dsimp only

theorem execDmaFetchError_ev (receive : Bool) (ring : Fin 16) {s t : State} (hx
    : execDmaFetchError receive ring s = .next t) : Ev s t := by
  unfold execDmaFetchError at hx
  obtain rfl := Host.Outcome.next.inj hx
  have hv := Ev.refl s
  repeat' with_reducible first
    | assumption | (intro _) | apply Ev.ite | apply record_ev | apply setHstRing_ev | apply stopRing_ev | split
    | (fail_if_no_progress (apply Ev.of_mk <;> first | exact fun h => h | skip)) | dsimp only

theorem updWork_ev {s0 : State} (n index : Nat) (g : TxDesc → TxDesc) {s : State} (hv : Ev s0 s) : Ev s0
    (updWork n index g s) := by
  unfold updWork
  repeat' with_reducible first
    | assumption | (intro _) | apply Ev.ite | apply setHstRing_ev | split
    | (fail_if_no_progress (apply Ev.of_mk <;> first | exact fun h => h | skip)) | dsimp only

theorem enterFromHost_ev {s0 : State} (n f : Nat) (x : TxDesc) (data : Bytes) {s : State} (hv : Ev s0 s) : Ev s0
    (enterFromHost n f x data s) := by
  unfold enterFromHost
  repeat' with_reducible first
    | assumption | (intro _) | apply Ev.ite | apply enterInternal_ev | apply updWork_ev | split
    | (fail_if_no_progress (apply Ev.of_mk <;> first | exact fun h => h | skip)) | dsimp only

theorem execHpTxFrameRead_ev (ring : Fin 16) (x : HpTxRead) {s t : State} (hx
    : execHpTxFrameRead ring x s = .next t) : Ev s t := by
  unfold execHpTxFrameRead at hx
  obtain rfl := Host.Outcome.next.inj hx
  have hv := Ev.refl s
  repeat' with_reducible first
    | assumption | (intro _) | apply Ev.ite | apply fetchTx_ev | apply updWork_ev | apply enterFromHost_ev | split
    | (fail_if_no_progress (apply Ev.of_mk <;> first | exact fun h => h | skip)) | dsimp only

theorem execTxWriteback_ev (ring : Fin 16) {s t : State} (hx : execTxWriteback ring s = .next t) : Ev s t := by
  unfold execTxWriteback at hx
  obtain rfl := Host.Outcome.next.inj hx
  have hv := Ev.refl s
  repeat' with_reducible first
    | assumption | (intro _) | apply Ev.ite | apply emit_ev | apply sendVector_ev | apply setHstRing_ev | split
    | (fail_if_no_progress (apply Ev.of_mk <;> first | exact fun h => h | skip)) | dsimp only

theorem fillBuffers_ev {s0 : State} (fn n total : Nat) (f : Frame) (l : List Bytes) (c : Bytes) (b : Bool) (acc
    : List Bytes) {s : State} (hv : Ev s0 s) : Ev s0 (fillBuffers fn n total f l c b acc s).2 := by
  induction l generalizing s c b acc with
  | nil => exact hv
  | cons x xs ih =>
    unfold fillBuffers
    repeat' with_reducible first
      | assumption | (intro _) | apply Ev.ite | apply Ev.foldl | apply Ev.foldl1 | apply Ev.foldl2 | apply Ev.ite2
      | apply ih | apply emit_ev | split | refine Ev.of_eq1 ?_ (by assumption)
      | refine Ev.of_eq2 ?_ (by assumption)
      | (fail_if_no_progress (apply Ev.of_mk <;> first | exact fun h => h | skip)) | dsimp only

theorem pushRx_ev {s0 : State} (fn n : Nat) (wb : Bytes) {s : State} (hv : Ev s0 s) : Ev s0 (pushRx fn n wb s) := by
  unfold pushRx
  repeat' with_reducible first
    | assumption | (intro _) | apply Ev.ite | apply emit_ev | apply setHstRing_ev | split
    | (fail_if_no_progress (apply Ev.of_mk <;> first | exact fun h => h | skip)) | dsimp only

theorem deliverTo_ev {s0 : State} (fn : Nat) (f : Frame) (c : Bytes) {s : State} (hv : Ev s0 s) : Ev s0
    (deliverTo fn f c s) := by
  unfold deliverTo
  repeat' with_reducible first
    | assumption | (intro _) | apply Ev.ite | apply Ev.foldl | apply Ev.foldl1 | apply Ev.foldl2 | apply Ev.ite2
    | apply sendVector_ev | apply stat_ev | apply fillBuffers_ev | apply pushRx_ev | split
    | refine Ev.of_eq1 ?_ (by assumption) | refine Ev.of_eq2 ?_ (by assumption)
    | (fail_if_no_progress (apply Ev.of_mk <;> first | exact fun h => h | skip)) | dsimp only

theorem execHpRxDelivery_ev (frame : Nat) {s t : State} (hx : execHpRxDelivery frame s = .next t) : Ev s t := by
  unfold execHpRxDelivery at hx
  obtain rfl := Host.Outcome.next.inj hx
  have hv := Ev.refl s
  repeat' with_reducible first
    | assumption | (intro _) | apply Ev.ite | apply Ev.foldl | apply finishSending_ev | apply deliverTo_ev | split
    | (fail_if_no_progress (apply Ev.of_mk <;> first | exact fun h => h | skip)) | dsimp only

theorem hstRingCtlOp_ev : OpEv hstRingCtlOp := by
  unfold hstRingCtlOp
  constructor <;> intro r s0 s hv <;> dsimp only <;>
  repeat' with_reducible first
    | assumption | (intro _) | apply Ev.ite | apply answer_ev | apply setHstRing_ev | split
    | (fail_if_no_progress (apply Ev.of_mk <;> first | exact fun h => h | skip)) | dsimp only

theorem execHstRingCtl_ev (c : CmdSource) {s t : State} (hx : execHstRingCtl c s = .next t) : Ev s t := by
  unfold execHstRingCtl at hx
  obtain rfl := Host.Outcome.next.inj hx
  have hv := Ev.refl s
  repeat' with_reducible first
    | assumption | (intro _) | apply runCommand_ev | exact hstRingCtlOp_ev | apply hstRingCtlOp_ev.commit | split
    | (fail_if_no_progress (apply Ev.of_mk <;> first | exact fun h => h | skip)) | dsimp only

/-! Machine/Ports.lean. -/

theorem flushPort_ev {s0 : State} (p : Nat) {s : State} (hv : Ev s0 s) : Ev s0 (flushPort p s) := by
  unfold flushPort
  repeat' with_reducible first
    | assumption | (intro _) | apply Ev.ite | apply Ev.foldl | apply setDelay_ev | apply sourceLost_ev
    | apply emptyPort_ev | split
    | (fail_if_no_progress (apply Ev.of_mk <;> first | exact fun h => h | skip)) | dsimp only

theorem takeDown_ev {s0 : State} (p : Nat) (st : PortState) {s : State} (hv : Ev s0 s) : Ev s0 (takeDown p st s) := by
  unfold takeDown
  repeat' with_reducible first
    | assumption | (intro _) | apply Ev.ite | apply setPort_ev | apply flushPort_ev | split
    | (fail_if_no_progress (apply Ev.of_mk <;> first | exact fun h => h | skip)) | dsimp only

theorem bringUp_ev {s0 : State} (p : Nat) {s : State} (hv : Ev s0 s) : Ev s0 (bringUp p s) := by
  unfold bringUp
  repeat' with_reducible first
    | assumption | (intro _) | apply Ev.ite | apply setPort_ev | apply takeDown_ev | split
    | (fail_if_no_progress (apply Ev.of_mk <;> first | exact fun h => h | skip)) | dsimp only

theorem resolveRole_ev {s0 : State} (p : Nat) {s : State} (hv : Ev s0 s) : Ev s0 (resolveRole p s).2 := by
  unfold resolveRole
  repeat' with_reducible first
    | assumption | (intro _) | apply Ev.ite | apply Ev.ite2 | apply drawNat_ev | split
    | refine Ev.of_eq1 ?_ (by assumption) | refine Ev.of_eq2 ?_ (by assumption)
    | (fail_if_no_progress (apply Ev.of_mk <;> first | exact fun h => h | skip)) | dsimp only

theorem becomeUp_ev {s0 : State} (p : Nat) {s : State} (hv : Ev s0 s) : Ev s0 (becomeUp p s) := by
  unfold becomeUp
  repeat' with_reducible first
    | assumption | (intro _) | apply Ev.ite | apply Ev.ite2 | apply setPort_ev | apply setDelay_ev
    | apply enterLpi_ev | apply startPreemption_ev | apply resolveRole_ev | split
    | refine Ev.of_eq1 ?_ (by assumption) | refine Ev.of_eq2 ?_ (by assumption)
    | (fail_if_no_progress (apply Ev.of_mk <;> first | exact fun h => h | skip)) | dsimp only

theorem execLinkUp_ev (p : Port) (rate : Byte) {s t : State} (hx : execLinkUp p rate s = .next t) : Ev s t := by
  unfold execLinkUp at hx
  obtain rfl := Host.Outcome.next.inj hx
  have hv := Ev.refl s
  repeat' with_reducible first
    | assumption | (intro _) | apply Ev.ite | apply setPort_ev | apply becomeUp_ev | split
    | (fail_if_no_progress (apply Ev.of_mk <;> first | exact fun h => h | skip)) | dsimp only

theorem linkLost_ev {s0 : State} (p : Nat) {s : State} (hv : Ev s0 s) : Ev s0 (linkLost p s) := by
  unfold linkLost
  repeat' with_reducible first
    | assumption | (intro _) | apply bringUp_ev | split
    | (fail_if_no_progress (apply Ev.of_mk <;> first | exact fun h => h | skip)) | dsimp only

theorem execLinkDown_ev (p : Port) {s t : State} (hx : execLinkDown p s = .next t) : Ev s t := by
  unfold execLinkDown at hx
  obtain rfl := Host.Outcome.next.inj hx
  have hv := Ev.refl s
  repeat' with_reducible first
    | assumption | (intro _) | apply Ev.ite | apply linkLost_ev | split
    | (fail_if_no_progress (apply Ev.of_mk <;> first | exact fun h => h | skip)) | dsimp only

theorem execPhyCoeffStale_ev (p : Port) {s t : State} (hx : execPhyCoeffStale p s = .next t) : Ev s t := by
  unfold execPhyCoeffStale at hx
  obtain rfl := Host.Outcome.next.inj hx
  have hv := Ev.refl s
  repeat' with_reducible first
    | assumption | (intro _) | apply Ev.ite | apply reachClock_ev | apply record_ev | apply setPort_ev | split
    | (fail_if_no_progress (apply Ev.of_mk <;> first | exact fun h => h | skip)) | dsimp only

theorem execXsModeSearch_ev (p : Port) {s t : State} (hx : execXsModeSearch p s = .next t) : Ev s t := by
  unfold execXsModeSearch at hx
  obtain rfl := Host.Outcome.next.inj hx
  have hv := Ev.refl s
  repeat' with_reducible first
    | assumption | (intro _) | apply Ev.ite | apply reachClock_ev | apply setPort_ev | apply bringUp_ev | split
    | (fail_if_no_progress (apply Ev.of_mk <;> first | exact fun h => h | skip)) | dsimp only

theorem noTurnaround_ev {s0 : State} (p : Nat) {s : State} (hv : Ev s0 s) : Ev s0 (noTurnaround p s) := by
  unfold noTurnaround
  repeat' with_reducible first
    | assumption | (intro _) | apply setPort_ev | split
    | (fail_if_no_progress (apply Ev.of_mk <;> first | exact fun h => h | skip)) | dsimp only

theorem execMdioPoll_ev (p : Port) (link : Option Bool) {s t : State} (hx : execMdioPoll p link s = .next t)
    : Ev s t := by
  unfold execMdioPoll at hx
  obtain rfl := Host.Outcome.next.inj hx
  have hv := Ev.refl s
  repeat' with_reducible first
    | assumption | (intro _) | apply Ev.ite | apply emit_ev | apply reachClock_ev | apply setPort_ev
    | apply takeDown_ev | apply becomeUp_ev | apply noTurnaround_ev | split
    | (fail_if_no_progress (apply Ev.of_mk <;> first | exact fun h => h | skip)) | dsimp only

theorem execPlcaBeaconRx_ev (p : Port) {s t : State} (hx : execPlcaBeaconRx p s = .next t) : Ev s t := by
  unfold execPlcaBeaconRx at hx
  obtain rfl := Host.Outcome.next.inj hx
  have hv := Ev.refl s
  repeat' with_reducible first
    | assumption | (intro _) | apply Ev.ite | apply recordLimited_ev | apply setPort_ev | split
    | (fail_if_no_progress (apply Ev.of_mk <;> first | exact fun h => h | skip)) | dsimp only

theorem execPlcaLost_ev (p : Port) {s t : State} (hx : execPlcaLost p s = .next t) : Ev s t := by
  unfold execPlcaLost at hx
  obtain rfl := Host.Outcome.next.inj hx
  have hv := Ev.refl s
  repeat' with_reducible first
    | assumption | (intro _) | apply Ev.ite | apply reachClock_ev | apply record_ev | apply setPort_ev | split
    | (fail_if_no_progress (apply Ev.of_mk <;> first | exact fun h => h | skip)) | dsimp only

theorem activatePort_ev {s0 : State} (p : Nat) (old : PortCfg) (oldSec : Option Bytes) {s : State} (hv : Ev s0 s)
    : Ev s0 (activatePort p old oldSec s) := by
  unfold activatePort
  repeat' with_reducible first
    | assumption | (intro _) | apply Ev.ite | apply setPort_ev | apply bringUp_ev | split
    | (fail_if_no_progress (apply Ev.of_mk <;> first | exact fun h => h | skip)) | dsimp only

theorem activatePorts_ev {s0 : State} (old : List PortCfg) (oldSec : Option Bytes) {s : State} (hv : Ev s0 s)
    : Ev s0 (activatePorts old oldSec s) := by
  unfold activatePorts
  repeat' with_reducible first
    | assumption | (intro _) | apply Ev.foldl | apply activatePort_ev | split
    | (fail_if_no_progress (apply Ev.of_mk <;> first | exact fun h => h | skip)) | dsimp only

theorem portStatusOp_ev : OpEv portStatusOp := by
  unfold portStatusOp
  constructor <;> intro r s0 s hv <;> dsimp only <;>
  repeat' with_reducible first
    | assumption | (intro _) | apply Ev.ite | apply answer_ev | split
    | (fail_if_no_progress (apply Ev.of_mk <;> first | exact fun h => h | skip)) | dsimp only

theorem execPortStatus_ev (c : CmdSource) {s t : State} (hx : execPortStatus c s = .next t) : Ev s t := by
  unfold execPortStatus at hx
  obtain rfl := Host.Outcome.next.inj hx
  have hv := Ev.refl s
  repeat' with_reducible first
    | assumption | (intro _) | apply runCommand_ev | exact portStatusOp_ev | apply portStatusOp_ev.commit | split
    | (fail_if_no_progress (apply Ev.of_mk <;> first | exact fun h => h | skip)) | dsimp only

theorem linkCtl_ev {s0 : State} (r : Req) {s : State} (hv : Ev s0 s) : Ev s0 (linkCtl r s) := by
  unfold linkCtl
  repeat' with_reducible first
    | assumption | (intro _) | apply Ev.ite | apply Ev.ite2 | apply emit_ev | apply drawNat_ev | apply answer_ev
    | apply setPort_ev | apply takeDown_ev | apply bringUp_ev | apply noTurnaround_ev | split
    | refine Ev.of_eq1 ?_ (by assumption) | refine Ev.of_eq2 ?_ (by assumption)
    | (fail_if_no_progress (apply Ev.of_mk <;> first | exact fun h => h | skip)) | dsimp only

theorem portLinkCtlOp_ev : OpEv portLinkCtlOp := by
  unfold portLinkCtlOp
  constructor <;> intro r s0 s hv <;> dsimp only <;>
  repeat' with_reducible first
    | assumption | (intro _) | apply Ev.ite | apply linkCtl_ev | split
    | (fail_if_no_progress (apply Ev.of_mk <;> first | exact fun h => h | skip)) | dsimp only

theorem execPortLinkCtl_ev (c : CmdSource) {s t : State} (hx : execPortLinkCtl c s = .next t) : Ev s t := by
  unfold execPortLinkCtl at hx
  obtain rfl := Host.Outcome.next.inj hx
  have hv := Ev.refl s
  repeat' with_reducible first
    | assumption | (intro _) | apply runUnlessHeld_ev | exact portLinkCtlOp_ev | apply portLinkCtlOp_ev.commit
    | split | (fail_if_no_progress (apply Ev.of_mk <;> first | exact fun h => h | skip)) | dsimp only

theorem saInstall_ev {s0 : State} (r : Req) {s : State} (hv : Ev s0 s) : Ev s0 (saInstall r s) := by
  unfold saInstall
  repeat' with_reducible first
    | assumption | (intro _) | apply Ev.ite | apply answer_ev | apply setPort_ev | split
    | (fail_if_no_progress (apply Ev.of_mk <;> first | exact fun h => h | skip)) | dsimp only

theorem msecSaInstallOp_ev : OpEv msecSaInstallOp := by
  unfold msecSaInstallOp
  constructor <;> intro r s0 s hv <;> dsimp only <;>
  repeat' with_reducible first
    | assumption | (intro _) | apply Ev.ite | apply saInstall_ev | split
    | (fail_if_no_progress (apply Ev.of_mk <;> first | exact fun h => h | skip)) | dsimp only

theorem execMsecSaInstall_ev (c : CmdSource) {s t : State} (hx : execMsecSaInstall c s = .next t) : Ev s t := by
  unfold execMsecSaInstall at hx
  obtain rfl := Host.Outcome.next.inj hx
  have hv := Ev.refl s
  repeat' with_reducible first
    | assumption | (intro _) | apply runCommand_ev | exact msecSaInstallOp_ev | apply msecSaInstallOp_ev.commit
    | split | (fail_if_no_progress (apply Ev.of_mk <;> first | exact fun h => h | skip)) | dsimp only

theorem msecSaStatusOp_ev : OpEv msecSaStatusOp := by
  unfold msecSaStatusOp
  constructor <;> intro r s0 s hv <;> dsimp only <;>
  repeat' with_reducible first
    | assumption | (intro _) | apply Ev.ite | apply answer_ev | split
    | (fail_if_no_progress (apply Ev.of_mk <;> first | exact fun h => h | skip)) | dsimp only

theorem execMsecSaStatus_ev (c : CmdSource) {s t : State} (hx : execMsecSaStatus c s = .next t) : Ev s t := by
  unfold execMsecSaStatus at hx
  obtain rfl := Host.Outcome.next.inj hx
  have hv := Ev.refl s
  repeat' with_reducible first
    | assumption | (intro _) | apply runCommand_ev | exact msecSaStatusOp_ev | apply msecSaStatusOp_ev.commit
    | split | (fail_if_no_progress (apply Ev.of_mk <;> first | exact fun h => h | skip)) | dsimp only

/-! Machine/Channels.lean. -/

theorem setCh_ev {s0 : State} (ep : Nat) (c : LegCh) {s : State} (hv : Ev s0 s) : Ev s0 (setCh ep c s) :=
  Ev.of_mk hv (fun m => m) (fun m => m) (fun m => m) (fun m => m) (fun m => m) (fun m => m)

theorem countCh_ev {s0 : State} (ep k inc : Nat) {s : State} (hv : Ev s0 s) : Ev s0 (countCh ep k inc s) := by
  unfold countCh
  repeat' with_reducible first
    | assumption | (intro _) | apply Ev.ite | apply countSource_ev | apply setCh_ev | split
    | (fail_if_no_progress (apply Ev.of_mk <;> first | exact fun h => h | skip)) | dsimp only

theorem startChannel_ev {s0 : State} (ep : Nat) {s : State} (hv : Ev s0 s) : Ev s0 (startChannel ep s) := by
  unfold startChannel
  repeat' with_reducible first
    | assumption | (intro _) | apply Ev.ite | apply setStb_ev | apply setCh_ev | split
    | (fail_if_no_progress (apply Ev.of_mk <;> first | exact fun h => h | skip)) | dsimp only

theorem assignEngine_ev {s0 : State} (ep : Nat) {s : State} (hv : Ev s0 s) : Ev s0 (assignEngine ep s) := by
  unfold assignEngine
  repeat' with_reducible first
    | assumption | (intro _) | apply Ev.ite | apply setCh_ev | split
    | (fail_if_no_progress (apply Ev.of_mk <;> first | exact fun h => h | skip)) | dsimp only

theorem discardTx_ev {s0 : State} (ep k : Nat) {s : State} (hv : Ev s0 s) : Ev s0 (discardTx ep k s) := by
  unfold discardTx
  repeat' with_reducible first
    | assumption | (intro _) | apply setCh_ev | apply countCh_ev | split
    | (fail_if_no_progress (apply Ev.of_mk <;> first | exact fun h => h | skip)) | dsimp only

theorem channelDown_ev {s0 : State} (ep st : Nat) {s : State} (hv : Ev s0 s) : Ev s0 (channelDown ep st s) := by
  unfold channelDown
  repeat' with_reducible first
    | assumption | (intro _) | apply setCh_ev | apply discardTx_ev | split
    | (fail_if_no_progress (apply Ev.of_mk <;> first | exact fun h => h | skip)) | dsimp only

theorem dropStaleTx_ev {s0 : State} (ep : Nat) {s : State} (hv : Ev s0 s) : Ev s0 (dropStaleTx ep s) := by
  unfold dropStaleTx
  repeat' with_reducible first
    | assumption | (intro _) | apply Ev.ite | apply setCh_ev | apply countCh_ev | split
    | (fail_if_no_progress (apply Ev.of_mk <;> first | exact fun h => h | skip)) | dsimp only

theorem arbitrate_ev {s0 : State} (ep : Nat) {s : State} (hv : Ev s0 s) : Ev s0 (arbitrate ep s) := by
  unfold arbitrate
  repeat' with_reducible first
    | assumption | (intro _) | apply Ev.ite | apply setCh_ev | apply dropStaleTx_ev | split
    | (fail_if_no_progress (apply Ev.of_mk <;> first | exact fun h => h | skip)) | dsimp only

theorem restartChannel_ev {s0 : State} (ep : Nat) {s : State} (hv : Ev s0 s) : Ev s0 (restartChannel ep s) := by
  unfold restartChannel
  repeat' with_reducible first
    | assumption | (intro _) | apply setCh_ev | apply startChannel_ev | apply assignEngine_ev | split
    | (fail_if_no_progress (apply Ev.of_mk <;> first | exact fun h => h | skip)) | dsimp only

theorem releaseBus_ev {s0 : State} (ep : Nat) {s : State} (hv : Ev s0 s) : Ev s0 (releaseBus ep s) := by
  unfold releaseBus
  repeat' with_reducible first
    | assumption | (intro _) | apply Ev.ite | apply setCh_ev | apply countCh_ev | apply restartChannel_ev | split
    | (fail_if_no_progress (apply Ev.of_mk <;> first | exact fun h => h | skip)) | dsimp only

theorem driveFrame_ev {s0 : State} (ep : Nat) (f : LegacyFrame) {s : State} (hv : Ev s0 s) : Ev s0
    (driveFrame ep f s) := by
  unfold driveFrame
  repeat' with_reducible first
    | assumption | (intro _) | apply emit_ev | apply noteTraffic_ev | apply countCh_ev | split
    | (fail_if_no_progress (apply Ev.of_mk <;> first | exact fun h => h | skip)) | dsimp only

/-! Machine/Dusk.lean. -/

theorem sendPayload_ev {s0 : State} (b : Bytes) {s : State} (hv : Ev s0 s) : Ev s0 (sendPayload b s) := by
  unfold sendPayload
  repeat' with_reducible first
    | assumption | (intro _) | apply Ev.ite | apply Ev.ite2 | apply drawNat_ev | apply enterInternal_ev | split
    | refine Ev.of_eq1 ?_ (by assumption) | refine Ev.of_eq2 ?_ (by assumption)
    | (fail_if_no_progress (apply Ev.of_mk <;> first | exact fun h => h | skip)) | dsimp only

theorem updWake_ev {s0 : State} (g : Wake → Wake) {s : State} (hv : Ev s0 s) : Ev s0 (updWake g s) :=
  Ev.of_mk hv (fun m => m) (fun m => m) (fun m => m) (fun m => m) (fun m => m) (fun m => m)

theorem sendNak_ev {s0 : State} (pair : Nat × Nat) (reason : Nat) {s : State} (hv : Ev s0 s) : Ev s0
    (sendNak pair reason s) := by
  unfold sendNak
  repeat' with_reducible first
    | assumption | (intro _) | apply sendPayload_ev | apply updWake_ev | split
    | (fail_if_no_progress (apply Ev.of_mk <;> first | exact fun h => h | skip)) | dsimp only

theorem driveWakeOut_ev {s0 : State} {s : State} (hv : Ev s0 s) : Ev s0 (driveWakeOut s) := by
  unfold driveWakeOut
  repeat' with_reducible first
    | assumption | (intro _) | apply Ev.ite | apply emit_ev | apply updWake_ev | split
    | (fail_if_no_progress (apply Ev.of_mk <;> first | exact fun h => h | skip)) | dsimp only

theorem sendDawn_ev {s0 : State} (pair : Nat × Nat) (cause timeout : Nat) {s : State} (hv : Ev s0 s) : Ev s0
    (sendDawn pair cause timeout s) := by
  unfold sendDawn
  repeat' with_reducible first
    | assumption | (intro _) | apply sendPayload_ev | apply updWake_ev | split
    | (fail_if_no_progress (apply Ev.of_mk <;> first | exact fun h => h | skip)) | dsimp only

theorem replyRound_ev {s0 : State} (outcome sender reason : Nat) {s : State} (hv : Ev s0 s) : Ev s0
    (replyRound outcome sender reason s) := by
  unfold replyRound
  repeat' with_reducible first
    | assumption | (intro _) | apply finalReply_ev | apply updWake_ev | split
    | (fail_if_no_progress (apply Ev.of_mk <;> first | exact fun h => h | skip)) | dsimp only

theorem ringAwake_ev {s0 : State} {s : State} (hv : Ev s0 s) : Ev s0 (ringAwake s) := by
  unfold ringAwake
  repeat' with_reducible first
    | assumption | (intro _) | apply updWake_ev | split
    | (fail_if_no_progress (apply Ev.of_mk <;> first | exact fun h => h | skip)) | dsimp only

theorem wakeRequest_ev {s0 : State} (cause : Nat) {s : State} (hv : Ev s0 s) : Ev s0 (wakeRequest cause s) := by
  unfold wakeRequest
  repeat' with_reducible first
    | assumption | (intro _) | apply Ev.ite | apply updWake_ev | apply sendNak_ev | apply driveWakeOut_ev
    | apply sendDawn_ev | apply replyRound_ev | apply ringAwake_ev | split
    | (fail_if_no_progress (apply Ev.of_mk <;> first | exact fun h => h | skip)) | dsimp only

theorem driveInh_ev {s0 : State} {s : State} (hv : Ev s0 s) : Ev s0 (driveInh s) := by
  unfold driveInh
  repeat' with_reducible first
    | assumption | (intro _) | apply Ev.ite | apply emit_ev | apply updWake_ev | split
    | (fail_if_no_progress (apply Ev.of_mk <;> first | exact fun h => h | skip)) | dsimp only

theorem detect_ev {s0 : State} (cause : Nat) {s : State} (hv : Ev s0 s) : Ev s0 (detect cause s) := by
  unfold detect
  repeat' with_reducible first
    | assumption | (intro _) | apply Ev.ite | apply wakeRequest_ev | apply driveInh_ev | split
    | (fail_if_no_progress (apply Ev.of_mk <;> first | exact fun h => h | skip)) | dsimp only

theorem execWakeInDetect_ev (high : Bool) {s t : State} (hx : execWakeInDetect high s = .next t) : Ev s t := by
  unfold execWakeInDetect at hx
  obtain rfl := Host.Outcome.next.inj hx
  have hv := Ev.refl s
  repeat' with_reducible first
    | assumption | (intro _) | apply Ev.ite | apply updWake_ev | apply detect_ev | split
    | (fail_if_no_progress (apply Ev.of_mk <;> first | exact fun h => h | skip)) | dsimp only

theorem execLwakeDetect_ev (n : Fin 4) (high : Bool) {s t : State} (hx : execLwakeDetect n high s = .next t)
    : Ev s t := by
  unfold execLwakeDetect at hx
  obtain rfl := Host.Outcome.next.inj hx
  have hv := Ev.refl s
  repeat' with_reducible first
    | assumption | (intro _) | apply Ev.ite | apply updWake_ev | apply wakeRequest_ev | apply detect_ev | split
    | (fail_if_no_progress (apply Ev.of_mk <;> first | exact fun h => h | skip)) | dsimp only

theorem execWakeOutEnd_ev {s t : State} (hx : execWakeOutEnd s = .next t) : Ev s t := by
  unfold execWakeOutEnd at hx
  obtain rfl := Host.Outcome.next.inj hx
  have hv := Ev.refl s
  repeat' with_reducible first
    | assumption | (intro _) | apply Ev.ite | apply emit_ev | apply reachClock_ev | apply updWake_ev | split
    | (fail_if_no_progress (apply Ev.of_mk <;> first | exact fun h => h | skip)) | dsimp only

theorem execWakeRequestExpiry_ev {s t : State} (hx : execWakeRequestExpiry s = .next t) : Ev s t := by
  unfold execWakeRequestExpiry at hx
  obtain rfl := Host.Outcome.next.inj hx
  have hv := Ev.refl s
  repeat' with_reducible first
    | assumption | (intro _) | apply reachClock_ev | apply updWake_ev | split
    | (fail_if_no_progress (apply Ev.of_mk <;> first | exact fun h => h | skip)) | dsimp only

theorem duskReject_ev {s0 : State} {s : State} (hv : Ev s0 s) : Ev s0 (duskReject s) := by
  unfold duskReject
  repeat' with_reducible first
    | assumption | (intro _) | apply updWake_ev | split
    | (fail_if_no_progress (apply Ev.of_mk <;> first | exact fun h => h | skip)) | dsimp only

theorem duskFrame_ev {s0 : State} (ty : Nat) (b : Bytes) (g : State → State) (hg : ∀ t0, Ev s0 t0 → Ev s0 (g t0))
    {s : State} (hv : Ev s0 s) : Ev s0 (duskFrame ty b g s) := by
  unfold duskFrame
  repeat' with_reducible first
    | assumption | (intro _) | apply Ev.ite | apply hg | apply duskReject_ev | split
    | (fail_if_no_progress (apply Ev.of_mk <;> first | exact fun h => h | skip)) | dsimp only

theorem answerToken_ev {s0 : State} (b : Bytes) {s : State} (hv : Ev s0 s) : Ev s0 (answerToken b s) := by
  unfold answerToken
  repeat' with_reducible first
    | assumption | (intro _) | apply Ev.ite | apply sendPayload_ev | apply updWake_ev | apply sendNak_ev | split
    | (fail_if_no_progress (apply Ev.of_mk <;> first | exact fun h => h | skip)) | dsimp only

theorem enterQuiet_ev {s0 : State} (ms : Nat) {s : State} (hv : Ev s0 s) : Ev s0 (enterQuiet ms s) := by
  unfold enterQuiet
  repeat' with_reducible first
    | assumption | (intro _) | apply discardArmed_ev | apply updWake_ev | split
    | (fail_if_no_progress (apply Ev.of_mk <;> first | exact fun h => h | skip)) | dsimp only

theorem ownToken_ev {s0 : State} (b : Bytes) {s : State} (hv : Ev s0 s) : Ev s0 (ownToken b s) := by
  unfold ownToken
  repeat' with_reducible first
    | assumption | (intro _) | apply Ev.ite | apply sendPayload_ev | apply sendNak_ev | apply replyRound_ev
    | apply ringAwake_ev | apply enterQuiet_ev | split
    | (fail_if_no_progress (apply Ev.of_mk <;> first | exact fun h => h | skip)) | dsimp only

theorem token_ev {s0 : State} (b : Bytes) {s : State} (hv : Ev s0 s) : Ev s0 (token b s) := by
  unfold token
  repeat' with_reducible first
    | assumption | (intro _) | apply Ev.ite | apply updWake_ev | apply replyRound_ev | apply duskReject_ev
    | apply answerToken_ev | apply ownToken_ev | split
    | (fail_if_no_progress (apply Ev.of_mk <;> first | exact fun h => h | skip)) | dsimp only

theorem execDuskToken_ev (frame : Bytes) {s t : State} (hx : execDuskToken frame s = .next t) : Ev s t := by
  unfold execDuskToken at hx
  obtain rfl := Host.Outcome.next.inj hx
  have hv := Ev.refl s
  repeat' with_reducible first
    | assumption | (intro _) | apply duskFrame_ev | apply token_ev | split
    | (fail_if_no_progress (apply Ev.of_mk <;> first | exact fun h => h | skip)) | dsimp only

theorem execDuskNak_ev (frame : Bytes) {s t : State} (hx : execDuskNak frame s = .next t) : Ev s t := by
  unfold execDuskNak at hx
  obtain rfl := Host.Outcome.next.inj hx
  have hv := Ev.refl s
  repeat' with_reducible first
    | assumption | (intro _) | apply Ev.ite | apply updWake_ev | apply replyRound_ev | apply ringAwake_ev
    | apply duskFrame_ev | split
    | (fail_if_no_progress (apply Ev.of_mk <;> first | exact fun h => h | skip)) | dsimp only

theorem autoCommit_ev {s0 : State} (b : Bytes) {s : State} (hv : Ev s0 s) : Ev s0 (autoCommit b s) := by
  unfold autoCommit
  repeat' with_reducible first
    | assumption | (intro _) | apply Ev.ite | apply sendPayload_ev | apply updWake_ev | apply enterQuiet_ev | split
    | (fail_if_no_progress (apply Ev.of_mk <;> first | exact fun h => h | skip)) | dsimp only

theorem execDuskCommit_ev (frame : Bytes) {s t : State} (hx : execDuskCommit frame s = .next t) : Ev s t := by
  unfold execDuskCommit at hx
  obtain rfl := Host.Outcome.next.inj hx
  have hv := Ev.refl s
  repeat' with_reducible first
    | assumption | (intro _) | apply Ev.ite | apply updWake_ev | apply duskFrame_ev | apply enterQuiet_ev
    | apply autoCommit_ev | split
    | (fail_if_no_progress (apply Ev.of_mk <;> first | exact fun h => h | skip)) | dsimp only

theorem dawnRx_ev {s0 : State} {s : State} (hv : Ev s0 s) : Ev s0 (dawnRx s) := by
  unfold dawnRx
  repeat' with_reducible first
    | assumption | (intro _) | apply Ev.ite | apply updWake_ev | apply ringAwake_ev | split
    | (fail_if_no_progress (apply Ev.of_mk <;> first | exact fun h => h | skip)) | dsimp only

theorem execDawn_ev (frame : Bytes) {s t : State} (hx : execDawn frame s = .next t) : Ev s t := by
  unfold execDawn at hx
  obtain rfl := Host.Outcome.next.inj hx
  have hv := Ev.refl s
  repeat' with_reducible first
    | assumption | (intro _) | apply Ev.ite | apply duskFrame_ev | apply dawnRx_ev | split
    | (fail_if_no_progress (apply Ev.of_mk <;> first | exact fun h => h | skip)) | dsimp only

theorem execRingTimeout_ev {s t : State} (hx : execRingTimeout s = .next t) : Ev s t := by
  unfold execRingTimeout at hx
  obtain rfl := Host.Outcome.next.inj hx
  have hv := Ev.refl s
  repeat' with_reducible first
    | assumption | (intro _) | apply reachClock_ev | apply sendNak_ev | apply replyRound_ev | apply ringAwake_ev
    | split | (fail_if_no_progress (apply Ev.of_mk <;> first | exact fun h => h | skip)) | dsimp only

theorem initiate_ev {s0 : State} {s : State} (hv : Ev s0 s) : Ev s0 (initiate s) := by
  unfold initiate
  repeat' with_reducible first
    | assumption | (intro _) | apply sendPayload_ev | apply updWake_ev | split
    | (fail_if_no_progress (apply Ev.of_mk <;> first | exact fun h => h | skip)) | dsimp only

theorem execIdleInitiate_ev {s t : State} (hx : execIdleInitiate s = .next t) : Ev s t := by
  unfold execIdleInitiate at hx
  obtain rfl := Host.Outcome.next.inj hx
  have hv := Ev.refl s
  repeat' with_reducible first
    | assumption | (intro _) | apply Ev.ite | apply reachClock_ev | apply initiate_ev | split
    | (fail_if_no_progress (apply Ev.of_mk <;> first | exact fun h => h | skip)) | dsimp only

theorem wakeSleepRequestOp_ev : OpEv wakeSleepRequestOp := by
  unfold wakeSleepRequestOp
  constructor <;> intro r s0 s hv <;> dsimp only <;>
  repeat' with_reducible first
    | assumption | (intro _) | apply Ev.ite | apply updWake_ev | apply initiate_ev | split
    | (fail_if_no_progress (apply Ev.of_mk <;> first | exact fun h => h | skip)) | dsimp only

theorem execWakeSleepRequest_ev (c : CmdSource) {s t : State} (hx : execWakeSleepRequest c s = .next t) : Ev s t := by
  unfold execWakeSleepRequest at hx
  obtain rfl := Host.Outcome.next.inj hx
  have hv := Ev.refl s
  repeat' with_reducible first
    | assumption | (intro _) | apply runCommand_ev | exact wakeSleepRequestOp_ev
    | apply wakeSleepRequestOp_ev.commit | split
    | (fail_if_no_progress (apply Ev.of_mk <;> first | exact fun h => h | skip)) | dsimp only

theorem askAllPorts_ev {s0 : State} {s : State} (hv : Ev s0 s) : Ev s0 (askAllPorts s) := by
  unfold askAllPorts
  repeat' with_reducible first
    | assumption | (intro _) | apply Ev.ite | apply Ev.foldl | apply emit_ev | apply setPort_ev | split
    | (fail_if_no_progress (apply Ev.of_mk <;> first | exact fun h => h | skip)) | dsimp only

theorem stopChannels_ev {s0 : State} {s : State} (hv : Ev s0 s) : Ev s0 (stopChannels s) := by
  unfold stopChannels
  repeat' with_reducible first
    | assumption | (intro _) | apply Ev.ite | apply Ev.foldl | apply setStb_ev | apply setCh_ev | split
    | (fail_if_no_progress (apply Ev.of_mk <;> first | exact fun h => h | skip)) | dsimp only

theorem powerDown_ev {s0 : State} {s : State} (hv : Ev s0 s) : Ev s0 (powerDown s) := by
  unfold powerDown
  repeat' with_reducible first
    | assumption | (intro _) | apply emit_ev | apply discardArmed_ev | apply recordNow_ev | apply updWake_ev
    | apply askAllPorts_ev | apply stopChannels_ev | split
    | (fail_if_no_progress (apply Ev.of_mk <;> first | exact fun h => h | skip)) | dsimp only

theorem execQuietWindowEnd_ev {s t : State} (hx : execQuietWindowEnd s = .next t) : Ev s t := by
  unfold execQuietWindowEnd at hx
  obtain rfl := Host.Outcome.next.inj hx
  have hv := Ev.refl s
  repeat' with_reducible first
    | assumption | (intro _) | apply Ev.ite | apply reachClock_ev | apply powerDown_ev | split
    | (fail_if_no_progress (apply Ev.of_mk <;> first | exact fun h => h | skip)) | dsimp only

theorem reachStandby_ev {s0 : State} {s : State} (hv : Ev s0 s) : Ev s0 (reachStandby s) := by
  unfold reachStandby
  repeat' with_reducible first
    | assumption | (intro _) | apply Ev.ite | apply driveInh_ev | split
    | (fail_if_no_progress (apply Ev.of_mk <;> first | exact fun h => h | skip)) | dsimp only

/-! Machine/Segments.lean. -/

theorem setSeg_ev {s0 : State} (i : Nat) (g : Segment) {s : State} (hv : Ev s0 s) : Ev s0 (setSeg i g s) := by
  unfold setSeg
  repeat' with_reducible first
    | assumption | (intro _) | apply updWake_ev | split
    | (fail_if_no_progress (apply Ev.of_mk <;> first | exact fun h => h | skip)) | dsimp only

theorem replySegment_ev {s0 : State} (i outcome : Nat) {s : State} (hv : Ev s0 s) : Ev s0
    (replySegment i outcome s) := by
  unfold replySegment
  repeat' with_reducible first
    | assumption | (intro _) | apply finalReply_ev | apply setSeg_ev | split
    | (fail_if_no_progress (apply Ev.of_mk <;> first | exact fun h => h | skip)) | dsimp only

theorem wakePort_ev {s0 : State} (p : Nat) {s : State} (hv : Ev s0 s) : Ev s0 (wakePort p s) := by
  unfold wakePort
  repeat' with_reducible first
    | assumption | (intro _) | apply Ev.ite | apply emit_ev | apply bringUp_ev | split
    | (fail_if_no_progress (apply Ev.of_mk <;> first | exact fun h => h | skip)) | dsimp only

theorem wakeSegPorts_ev {s0 : State} (i : Nat) {s : State} (hv : Ev s0 s) : Ev s0 (wakeSegPorts i s) := by
  unfold wakeSegPorts
  repeat' with_reducible first
    | assumption | (intro _) | apply Ev.ite | apply Ev.foldl | apply wakePort_ev | split
    | (fail_if_no_progress (apply Ev.of_mk <;> first | exact fun h => h | skip)) | dsimp only

theorem segSleep_ev {s0 : State} (i : Nat) {s : State} (hv : Ev s0 s) : Ev s0 (segSleep i s) := by
  unfold segSleep
  repeat' with_reducible first
    | assumption | (intro _) | apply Ev.ite | apply Ev.foldl | apply record_ev | apply enterMode_ev
    | apply setStb_ev | apply setCh_ev | apply setSeg_ev | apply replySegment_ev | split
    | (fail_if_no_progress (apply Ev.of_mk <;> first | exact fun h => h | skip)) | dsimp only

theorem segDrain_ev {s0 : State} (i : Nat) {s : State} (hv : Ev s0 s) : Ev s0 (segDrain i s) := by
  unfold segDrain
  repeat' with_reducible first
    | assumption | (intro _) | apply Ev.ite | apply setSeg_ev | apply segSleep_ev | split
    | (fail_if_no_progress (apply Ev.of_mk <;> first | exact fun h => h | skip)) | dsimp only

theorem segProgress_ev {s0 : State} (ep : Nat) {s : State} (hv : Ev s0 s) : Ev s0 (segProgress ep s) := by
  unfold segProgress
  repeat' with_reducible first
    | assumption | (intro _) | apply Ev.ite | apply segSleep_ev | split
    | (fail_if_no_progress (apply Ev.of_mk <;> first | exact fun h => h | skip)) | dsimp only

theorem segBegin_ev {s0 : State} (i : Nat) (tag : Option Word16) {s : State} (hv : Ev s0 s) : Ev s0
    (segBegin i tag s) := by
  unfold segBegin
  repeat' with_reducible first
    | assumption | (intro _) | apply Ev.ite | apply Ev.foldl | apply emit_ev | apply setPort_ev | apply setSeg_ev
    | apply segDrain_ev | split
    | (fail_if_no_progress (apply Ev.of_mk <;> first | exact fun h => h | skip)) | dsimp only

theorem segStop_ev {s0 : State} (i outcome : Nat) {s : State} (hv : Ev s0 s) : Ev s0 (segStop i outcome s) := by
  unfold segStop
  repeat' with_reducible first
    | assumption | (intro _) | apply setSeg_ev | apply replySegment_ev | apply wakeSegPorts_ev | split
    | (fail_if_no_progress (apply Ev.of_mk <;> first | exact fun h => h | skip)) | dsimp only

theorem wakeSegment_ev {s0 : State} (i : Nat) {s : State} (hv : Ev s0 s) : Ev s0 (wakeSegment i s) := by
  unfold wakeSegment
  repeat' with_reducible first
    | assumption | (intro _) | apply Ev.ite | apply Ev.foldl | apply record_ev | apply enterMode_ev
    | apply startChannel_ev | apply arbitrate_ev | apply wakeRequest_ev | apply setSeg_ev | apply wakeSegPorts_ev
    | apply segStop_ev | split
    | (fail_if_no_progress (apply Ev.of_mk <;> first | exact fun h => h | skip)) | dsimp only

theorem execTc10SleepRequestRx_ev (p : Port) {s t : State} (hx : execTc10SleepRequestRx p s = .next t) : Ev s t := by
  unfold execTc10SleepRequestRx at hx
  obtain rfl := Host.Outcome.next.inj hx
  have hv := Ev.refl s
  repeat' with_reducible first
    | assumption | (intro _) | apply Ev.ite | apply emit_ev | apply setPort_ev | apply takeDown_ev | split
    | (fail_if_no_progress (apply Ev.of_mk <;> first | exact fun h => h | skip)) | dsimp only

theorem segAnswer_ev {s0 : State} (i p : Nat) (accepted : Bool) {s : State} (hv : Ev s0 s) : Ev s0
    (segAnswer i p accepted s) := by
  unfold segAnswer
  repeat' with_reducible first
    | assumption | (intro _) | apply Ev.ite | apply record_ev | apply setSeg_ev | apply segDrain_ev
    | apply segStop_ev | split
    | (fail_if_no_progress (apply Ev.of_mk <;> first | exact fun h => h | skip)) | dsimp only

theorem execTc10SleepResponseRx_ev (p : Port) (accepted : Bool) {s t : State} (hx
    : execTc10SleepResponseRx p accepted s = .next t) : Ev s t := by
  unfold execTc10SleepResponseRx at hx
  obtain rfl := Host.Outcome.next.inj hx
  have hv := Ev.refl s
  repeat' with_reducible first
    | assumption | (intro _) | apply Ev.ite | apply record_ev | apply setPort_ev | apply takeDown_ev
    | apply wakePort_ev | apply segAnswer_ev | split
    | (fail_if_no_progress (apply Ev.of_mk <;> first | exact fun h => h | skip)) | dsimp only

theorem execTc10Wake_ev (p : Port) {s t : State} (hx : execTc10Wake p s = .next t) : Ev s t := by
  unfold execTc10Wake at hx
  obtain rfl := Host.Outcome.next.inj hx
  have hv := Ev.refl s
  repeat' with_reducible first
    | assumption | (intro _) | apply Ev.ite | apply bringUp_ev | apply updWake_ev | apply wakeRequest_ev
    | apply detect_ev | apply wakeSegment_ev | split
    | (fail_if_no_progress (apply Ev.of_mk <;> first | exact fun h => h | skip)) | dsimp only

theorem execCanWakePattern_ev (ch : Fin 16) {s t : State} (hx : execCanWakePattern ch s = .next t) : Ev s t := by
  unfold execCanWakePattern at hx
  obtain rfl := Host.Outcome.next.inj hx
  have hv := Ev.refl s
  repeat' with_reducible first
    | assumption | (intro _) | apply Ev.ite | apply updWake_ev | apply wakeRequest_ev | apply detect_ev
    | apply wakeSegment_ev | split
    | (fail_if_no_progress (apply Ev.of_mk <;> first | exact fun h => h | skip)) | dsimp only

theorem execSegmentIdle_ev (i : Fin 32) {s t : State} (hx : execSegmentIdle i s = .next t) : Ev s t := by
  unfold execSegmentIdle at hx
  obtain rfl := Host.Outcome.next.inj hx
  have hv := Ev.refl s
  repeat' with_reducible first
    | assumption | (intro _) | apply Ev.ite | apply reachClock_ev | apply segBegin_ev | split
    | (fail_if_no_progress (apply Ev.of_mk <;> first | exact fun h => h | skip)) | dsimp only

theorem execSegmentDrainTimeout_ev (i : Fin 32) {s t : State} (hx : execSegmentDrainTimeout i s = .next t) : Ev s t
    := by
  unfold execSegmentDrainTimeout at hx
  obtain rfl := Host.Outcome.next.inj hx
  have hv := Ev.refl s
  repeat' with_reducible first
    | assumption | (intro _) | apply Ev.ite | apply Ev.foldl | apply reachClock_ev | apply discardTx_ev
    | apply segSleep_ev | split
    | (fail_if_no_progress (apply Ev.of_mk <;> first | exact fun h => h | skip)) | dsimp only

theorem execHoldExpiry_ev (segment : Option (Fin 32)) {s t : State} (hx : execHoldExpiry segment s = .next t)
    : Ev s t := by
  unfold execHoldExpiry at hx
  obtain rfl := Host.Outcome.next.inj hx
  have hv := Ev.refl s
  repeat' with_reducible first
    | assumption | (intro _) | apply reachClock_ev | apply updWake_ev | apply setSeg_ev | split
    | (fail_if_no_progress (apply Ev.of_mk <;> first | exact fun h => h | skip)) | dsimp only

theorem wakeSegmentEffect_ev {s0 : State} (r : Req) {s : State} (hv : Ev s0 s) : Ev s0 (wakeSegmentEffect r s) := by
  unfold wakeSegmentEffect
  repeat' with_reducible first
    | assumption | (intro _) | apply Ev.ite | apply answer_ev | apply updWake_ev | apply wakeRequest_ev
    | apply setSeg_ev | apply segBegin_ev | apply wakeSegment_ev | split
    | (fail_if_no_progress (apply Ev.of_mk <;> first | exact fun h => h | skip)) | dsimp only

theorem wakeSegmentOp_ev : OpEv wakeSegmentOp := by
  unfold wakeSegmentOp
  constructor <;> intro r s0 s hv <;> dsimp only <;>
  repeat' with_reducible first
    | assumption | (intro _) | apply Ev.ite | apply relayOrRun_ev | apply wakeSegmentEffect_ev | split
    | (fail_if_no_progress (apply Ev.of_mk <;> first | exact fun h => h | skip)) | dsimp only

theorem execWakeSegment_ev (c : CmdSource) {s t : State} (hx : execWakeSegment c s = .next t) : Ev s t := by
  unfold execWakeSegment at hx
  obtain rfl := Host.Outcome.next.inj hx
  have hv := Ev.refl s
  repeat' with_reducible first
    | assumption | (intro _) | apply runCommand_ev | exact wakeSegmentOp_ev | apply wakeSegmentOp_ev.commit | split
    | (fail_if_no_progress (apply Ev.of_mk <;> first | exact fun h => h | skip)) | dsimp only

theorem wakeStatusOp_ev : OpEv wakeStatusOp := by
  unfold wakeStatusOp
  constructor <;> intro r s0 s hv <;> dsimp only <;>
  repeat' with_reducible first
    | assumption | (intro _) | apply answer_ev | split
    | (fail_if_no_progress (apply Ev.of_mk <;> first | exact fun h => h | skip)) | dsimp only

theorem execWakeStatus_ev (c : CmdSource) {s t : State} (hx : execWakeStatus c s = .next t) : Ev s t := by
  unfold execWakeStatus at hx
  obtain rfl := Host.Outcome.next.inj hx
  have hv := Ev.refl s
  repeat' with_reducible first
    | assumption | (intro _) | apply runCommand_ev | exact wakeStatusOp_ev | apply wakeStatusOp_ev.commit | split
    | (fail_if_no_progress (apply Ev.of_mk <;> first | exact fun h => h | skip)) | dsimp only

theorem activateSegments_ev {s0 : State} (old : Option Bytes) {s : State} (hv : Ev s0 s) : Ev s0
    (activateSegments old s) := by
  unfold activateSegments
  repeat' with_reducible first
    | assumption | (intro _) | apply Ev.ite | apply Ev.foldl | apply startChannel_ev | apply updWake_ev
    | apply wakePort_ev | split
    | (fail_if_no_progress (apply Ev.of_mk <;> first | exact fun h => h | skip)) | dsimp only

theorem applyWakeSettings_ev {s0 : State} {s : State} (hv : Ev s0 s) : Ev s0 (applyWakeSettings s) := by
  unfold applyWakeSettings
  repeat' with_reducible first
    | assumption | (intro _) | apply updWake_ev | split
    | (fail_if_no_progress (apply Ev.of_mk <;> first | exact fun h => h | skip)) | dsimp only

theorem firstEntry_ev {s0 : State} {s : State} (hv : Ev s0 s) : Ev s0 (firstEntry s) := by
  unfold firstEntry
  repeat' with_reducible first
    | assumption | (intro _) | apply Ev.ite | apply updWake_ev | apply driveWakeOut_ev | apply sendDawn_ev | split
    | (fail_if_no_progress (apply Ev.of_mk <;> first | exact fun h => h | skip)) | dsimp only

end Sys2Proof.Machine
end

