-- ==== Sys2Proof/Laws/EvolveGateway.lean ====
section
/-!
SUPPORT. Each operation and command of the legacy buses, the Seam engines and the counter commands only lets fuses blow, keeps the memories canonical and leaves the queue alone:
one lemma per definition.
-/
set_option linter.unusedTactic false
set_option linter.unreachableTactic false
set_option linter.unusedVariables false

namespace Sys2Proof.Machine

/-! Machine/Gateway.lean. -/

theorem enqueue_ev {s0 : State} (ep : Nat) (x : LegItem) {s : State} (hv : Ev s0 s) : Ev s0 (enqueue ep x s) := by
  unfold enqueue
  repeat' with_reducible first
    | assumption | (intro _) | apply setCh_ev | apply countCh_ev | apply arbitrate_ev | split
    | (fail_if_no_progress (apply Ev.of_mk <;> first | exact fun h => h | skip)) | dsimp only

theorem writeBuffer_ev {s0 : State} (ep : Nat) (f : LegacyFrame) {s : State} (hv : Ev s0 s) : Ev s0
    (writeBuffer ep f s) := by
  unfold writeBuffer
  repeat' with_reducible first
    | assumption | (intro _) | apply Ev.ite | apply setCh_ev | split
    | (fail_if_no_progress (apply Ev.of_mk <;> first | exact fun h => h | skip)) | dsimp only

theorem toChannel_ev {s0 : State} (ep : Nat) (x : LegItem) (wakeOnRoute : Bool) {s : State} (hv : Ev s0 s) : Ev s0
    (toChannel ep x wakeOnRoute s) := by
  unfold toChannel
  repeat' with_reducible first
    | assumption | (intro _) | apply Ev.ite | apply Ev.ite1 | apply canAdmit_ev | apply countCh_ev
    | apply wakeSegment_ev | apply enqueue_ev | apply writeBuffer_ev | split | refine Ev.of_eq1 ?_ (by assumption)
    | refine Ev.of_eq2 ?_ (by assumption)
    | (fail_if_no_progress (apply Ev.of_mk <;> first | exact fun h => h | skip)) | dsimp only

theorem toGw_ev {s0 : State} (ep : Nat) (c : Bytes) (stamp : Int) (content : Bytes) {s : State} (hv : Ev s0 s)
    : Ev s0 (toGw ep c stamp content s) := by
  unfold toGw
  repeat' with_reducible first
    | assumption | (intro _) | apply Ev.ite | apply enterInternal_ev | split
    | (fail_if_no_progress (apply Ev.of_mk <;> first | exact fun h => h | skip)) | dsimp only

theorem flushBundle_ev {s0 : State} (i : Nat) {s : State} (hv : Ev s0 s) : Ev s0 (flushBundle i s) := by
  unfold flushBundle
  repeat' with_reducible first
    | assumption | (intro _) | apply Ev.ite | apply toGw_ev | split
    | (fail_if_no_progress (apply Ev.of_mk <;> first | exact fun h => h | skip)) | dsimp only

theorem addMessage_ev {s0 : State} (i ep : Nat) (c : Bytes) (m : Bytes) (stamp : Int) {s : State} (hv : Ev s0 s)
    : Ev s0 (addMessage i ep c m stamp s) := by
  unfold addMessage
  repeat' with_reducible first
    | assumption | (intro _) | apply Ev.ite | apply flushBundle_ev | split
    | (fail_if_no_progress (apply Ev.of_mk <;> first | exact fun h => h | skip)) | dsimp only

theorem jobBuffers_ev {s0 : State} (j : SeamJob) {s : State} (hv : Ev s0 s) : Ev s0 (jobBuffers j s).2 := by
  unfold jobBuffers
  repeat' with_reducible first
    | assumption | (intro _) | apply Ev.ite | apply Ev.ite2 | apply drawBytes_ev | split
    | refine Ev.of_eq1 ?_ (by assumption) | refine Ev.of_eq2 ?_ (by assumption)
    | (fail_if_no_progress (apply Ev.of_mk <;> first | exact fun h => h | skip)) | dsimp only

theorem updEngine_ev {s0 : State} (n : Nat) (g : Engine → Engine) {s : State} (hv : Ev s0 s) : Ev s0
    (updEngine n g s) :=
  Ev.of_mk hv (fun m => m) (fun m => m) (fun m => m) (fun m => m) (fun m => m) (fun m => m)

theorem countHandler_ev {s0 : State} (n : Nat) {s : State} (hv : Ev s0 s) : Ev s0 (countHandler n s) := by
  unfold countHandler
  repeat' with_reducible first
    | assumption | (intro _) | apply updEngine_ev | split
    | (fail_if_no_progress (apply Ev.of_mk <;> first | exact fun h => h | skip)) | dsimp only

theorem sendOutput_ev {s0 : State} (n : Nat) (j : SeamJob) (out : Bytes) {s : State} (hv : Ev s0 s) : Ev s0
    (sendOutput n j out s) := by
  unfold sendOutput
  repeat' with_reducible first
    | assumption | (intro _) | apply Ev.ite | apply Ev.foldl | apply countSource_ev | apply countCh_ev
    | apply toChannel_ev | apply toGw_ev | apply addMessage_ev | apply countHandler_ev | split
    | (fail_if_no_progress (apply Ev.of_mk <;> first | exact fun h => h | skip)) | dsimp only

theorem beginJob_ev {s0 : State} (n : Nat) (j : SeamJob) {s : State} (hv : Ev s0 s) : Ev s0 (beginJob n j s) := by
  unfold beginJob
  repeat' with_reducible first
    | assumption | (intro _) | apply Ev.ite | apply Ev.ite2 | apply drawBytes_ev | apply jobBuffers_ev
    | apply updEngine_ev | apply sendOutput_ev | split | refine Ev.of_eq1 ?_ (by assumption)
    | refine Ev.of_eq2 ?_ (by assumption)
    | (fail_if_no_progress (apply Ev.of_mk <;> first | exact fun h => h | skip)) | dsimp only

/-! Machine/Legacy.lean. -/

theorem storeFrame_ev {s0 : State} (ep : Nat) (f : LegacyFrame) (at_ : Nat) {s : State} (hv : Ev s0 s) : Ev s0
    (storeFrame ep f at_ s) := by
  unfold storeFrame
  repeat' with_reducible first
    | assumption | (intro _) | apply Ev.ite | apply setCh_ev | split
    | (fail_if_no_progress (apply Ev.of_mk <;> first | exact fun h => h | skip)) | dsimp only

theorem routeFrameIn_ev {s0 : State} (ch : Nat) (f : LegacyFrame) (at_ : Nat) {s : State} (hv : Ev s0 s) : Ev s0
    (routeFrameIn ch f at_ s) := by
  unfold routeFrameIn
  repeat' with_reducible first
    | assumption | (intro _) | apply countSource_ev | apply setCh_ev | split
    | (fail_if_no_progress (apply Ev.of_mk <;> first | exact fun h => h | skip)) | dsimp only

theorem received_ev {s0 : State} (ep : Nat) (f : LegacyFrame) (at_ : Nat) {s : State} (hv : Ev s0 s) : Ev s0
    (received ep f at_ s) := by
  unfold received
  repeat' with_reducible first
    | assumption | (intro _) | apply Ev.ite | apply Ev.ite1 | apply canAdmit_ev | apply noteTraffic_ev
    | apply countCh_ev | apply storeFrame_ev | apply routeFrameIn_ev | split | refine Ev.of_eq1 ?_ (by assumption)
    | refine Ev.of_eq2 ?_ (by assumption)
    | (fail_if_no_progress (apply Ev.of_mk <;> first | exact fun h => h | skip)) | dsimp only

theorem canError_ev {s0 : State} (ep : Nat) {s : State} (hv : Ev s0 s) : Ev s0 (canError ep s) := by
  unfold canError
  repeat' with_reducible first
    | assumption | (intro _) | apply Ev.ite | apply setCh_ev | apply countCh_ev | split
    | (fail_if_no_progress (apply Ev.of_mk <;> first | exact fun h => h | skip)) | dsimp only

theorem canGood_ev {s0 : State} (ep : Nat) {s : State} (hv : Ev s0 s) : Ev s0 (canGood ep s) := by
  unfold canGood
  repeat' with_reducible first
    | assumption | (intro _) | apply Ev.ite | apply Ev.ite2 | apply emit_ev | apply drawNat_ev | apply setCh_ev
    | split | refine Ev.of_eq1 ?_ (by assumption) | refine Ev.of_eq2 ?_ (by assumption)
    | (fail_if_no_progress (apply Ev.of_mk <;> first | exact fun h => h | skip)) | dsimp only

theorem execCanFrameRx_ev (ch : Fin 16) (x : CanRx) {s t : State} (hx : execCanFrameRx ch x s = .next t) : Ev s t
    := by
  unfold execCanFrameRx at hx
  obtain rfl := Host.Outcome.next.inj hx
  have hv := Ev.refl s
  repeat' with_reducible first
    | assumption | (intro _) | apply Ev.ite | apply setCh_ev | apply arbitrate_ev | apply releaseBus_ev
    | apply received_ev | apply canError_ev | apply canGood_ev | split
    | (fail_if_no_progress (apply Ev.of_mk <;> first | exact fun h => h | skip)) | dsimp only

theorem execCanTxDone_ev (ch : Fin 16) {s t : State} (hx : execCanTxDone ch s = .next t) : Ev s t := by
  unfold execCanTxDone at hx
  obtain rfl := Host.Outcome.next.inj hx
  have hv := Ev.refl s
  repeat' with_reducible first
    | assumption | (intro _) | apply Ev.ite | apply setStb_ev | apply setCh_ev | apply arbitrate_ev
    | apply restartChannel_ev | apply driveFrame_ev | apply segProgress_ev | split
    | (fail_if_no_progress (apply Ev.of_mk <;> first | exact fun h => h | skip)) | dsimp only

theorem execLegErrorPassive_ev (ch : Fin 16) (tec recv : Nat) {s t : State} (hx
    : execLegErrorPassive ch tec recv s = .next t) : Ev s t := by
  unfold execLegErrorPassive at hx
  obtain rfl := Host.Outcome.next.inj hx
  have hv := Ev.refl s
  repeat' with_reducible first
    | assumption | (intro _) | apply Ev.ite | apply record_ev | apply setCh_ev | split
    | (fail_if_no_progress (apply Ev.of_mk <;> first | exact fun h => h | skip)) | dsimp only

theorem busOff_ev {s0 : State} (ep ty : Nat) {s : State} (hv : Ev s0 s) : Ev s0 (busOff ep ty s) := by
  unfold busOff
  repeat' with_reducible first
    | assumption | (intro _) | apply Ev.ite | apply record_ev | apply setCh_ev | apply countCh_ev
    | apply channelDown_ev | apply restartChannel_ev | split
    | (fail_if_no_progress (apply Ev.of_mk <;> first | exact fun h => h | skip)) | dsimp only

theorem execLegBusOff_ev (ch : Fin 16) {s t : State} (hx : execLegBusOff ch s = .next t) : Ev s t := by
  unfold execLegBusOff at hx
  obtain rfl := Host.Outcome.next.inj hx
  have hv := Ev.refl s
  repeat' with_reducible first
    | assumption | (intro _) | apply Ev.ite | apply busOff_ev | split
    | (fail_if_no_progress (apply Ev.of_mk <;> first | exact fun h => h | skip)) | dsimp only

theorem recoverCh_ev {s0 : State} (ep : Nat) {s : State} (hv : Ev s0 s) : Ev s0 (recoverCh ep s) := by
  unfold recoverCh
  repeat' with_reducible first
    | assumption | (intro _) | apply record_ev | apply setCh_ev | apply arbitrate_ev | split
    | (fail_if_no_progress (apply Ev.of_mk <;> first | exact fun h => h | skip)) | dsimp only

theorem execLegRecover_ev (ch : Fin 16) {s t : State} (hx : execLegRecover ch s = .next t) : Ev s t := by
  unfold execLegRecover at hx
  obtain rfl := Host.Outcome.next.inj hx
  have hv := Ev.refl s
  repeat' with_reducible first
    | assumption | (intro _) | apply Ev.ite | apply Ev.ite2 | apply drawNat_ev | apply setCh_ev
    | apply recoverCh_ev | split | refine Ev.of_eq1 ?_ (by assumption) | refine Ev.of_eq2 ?_ (by assumption)
    | (fail_if_no_progress (apply Ev.of_mk <;> first | exact fun h => h | skip)) | dsimp only

theorem execCanRateSearch_ev (ch : Fin 16) {s t : State} (hx : execCanRateSearch ch s = .next t) : Ev s t := by
  unfold execCanRateSearch at hx
  obtain rfl := Host.Outcome.next.inj hx
  have hv := Ev.refl s
  repeat' with_reducible first
    | assumption | (intro _) | apply Ev.ite | apply reachClock_ev | apply setCh_ev | split
    | (fail_if_no_progress (apply Ev.of_mk <;> first | exact fun h => h | skip)) | dsimp only

theorem busWorks_ev {s0 : State} (ep : Nat) {s : State} (hv : Ev s0 s) : Ev s0 (busWorks ep s) := by
  unfold busWorks
  repeat' with_reducible first
    | assumption | (intro _) | apply Ev.ite | apply recoverCh_ev | split
    | (fail_if_no_progress (apply Ev.of_mk <;> first | exact fun h => h | skip)) | dsimp only

theorem linRespond_ev {s0 : State} (ep id e : Nat) {s : State} (hv : Ev s0 s) : Ev s0 (linRespond ep id e s) := by
  unfold linRespond
  repeat' with_reducible first
    | assumption | (intro _) | apply emit_ev | apply noteTraffic_ev | apply countCh_ev | split
    | (fail_if_no_progress (apply Ev.of_mk <;> first | exact fun h => h | skip)) | dsimp only

theorem linHeader_ev {s0 : State} (ep id : Nat) {s : State} (hv : Ev s0 s) : Ev s0 (linHeader ep id s) := by
  unfold linHeader
  repeat' with_reducible first
    | assumption | (intro _) | apply Ev.ite | apply setCh_ev | apply linRespond_ev | split
    | (fail_if_no_progress (apply Ev.of_mk <;> first | exact fun h => h | skip)) | dsimp only

theorem execLinSlotStart_ev (ch : Fin 8) {s t : State} (hx : execLinSlotStart ch s = .next t) : Ev s t := by
  unfold execLinSlotStart at hx
  obtain rfl := Host.Outcome.next.inj hx
  have hv := Ev.refl s
  repeat' with_reducible first
    | assumption | (intro _) | apply Ev.ite | apply emit_ev | apply reachClock_ev | apply setCh_ev
    | apply countCh_ev | apply busWorks_ev | apply linHeader_ev | split
    | (fail_if_no_progress (apply Ev.of_mk <;> first | exact fun h => h | skip)) | dsimp only

theorem execLinHeaderRx_ev (ch : Fin 8) (x : LinHeader) {s t : State} (hx : execLinHeaderRx ch x s = .next t)
    : Ev s t := by
  unfold execLinHeaderRx at hx
  obtain rfl := Host.Outcome.next.inj hx
  have hv := Ev.refl s
  repeat' with_reducible first
    | assumption | (intro _) | apply Ev.ite | apply setCh_ev | apply countCh_ev | apply busWorks_ev
    | apply linHeader_ev | split
    | (fail_if_no_progress (apply Ev.of_mk <;> first | exact fun h => h | skip)) | dsimp only

theorem execLinResponseRx_ev (ch : Fin 8) (id : Fin 64) (data : Option (Bytes × Byte)) {s t : State} (hx
    : execLinResponseRx ch id data s = .next t) : Ev s t := by
  unfold execLinResponseRx at hx
  obtain rfl := Host.Outcome.next.inj hx
  have hv := Ev.refl s
  repeat' with_reducible first
    | assumption | (intro _) | apply Ev.ite | apply setCh_ev | apply countCh_ev | apply received_ev | split
    | (fail_if_no_progress (apply Ev.of_mk <;> first | exact fun h => h | skip)) | dsimp only

theorem execLinBusStuck_ev (ch : Fin 8) {s t : State} (hx : execLinBusStuck ch s = .next t) : Ev s t := by
  unfold execLinBusStuck at hx
  obtain rfl := Host.Outcome.next.inj hx
  have hv := Ev.refl s
  repeat' with_reducible first
    | assumption | (intro _) | apply Ev.ite | apply busOff_ev | split
    | (fail_if_no_progress (apply Ev.of_mk <;> first | exact fun h => h | skip)) | dsimp only

theorem frDrive_ev {s0 : State} (cycle i : Nat) {s : State} (hv : Ev s0 s) : Ev s0 (frDrive cycle i s) := by
  unfold frDrive
  repeat' with_reducible first
    | assumption | (intro _) | apply emit_ev | apply noteTraffic_ev | apply countCh_ev | split
    | (fail_if_no_progress (apply Ev.of_mk <;> first | exact fun h => h | skip)) | dsimp only

theorem frSend_ev {s0 : State} (cycle i : Nat) {s : State} (hv : Ev s0 s) : Ev s0 (frSend cycle i s) := by
  unfold frSend
  repeat' with_reducible first
    | assumption | (intro _) | apply Ev.ite | apply setCh_ev | apply frDrive_ev | split
    | (fail_if_no_progress (apply Ev.of_mk <;> first | exact fun h => h | skip)) | dsimp only

theorem execFrCycleStart_ev (cycle : Fin 64) {s t : State} (hx : execFrCycleStart cycle s = .next t) : Ev s t := by
  unfold execFrCycleStart at hx
  obtain rfl := Host.Outcome.next.inj hx
  have hv := Ev.refl s
  repeat' with_reducible first
    | assumption | (intro _) | apply Ev.ite | apply Ev.foldl | apply setCh_ev | apply busWorks_ev | apply frSend_ev
    | split | (fail_if_no_progress (apply Ev.of_mk <;> first | exact fun h => h | skip)) | dsimp only

theorem execFrFrameRx_ev (slot : Nat) (cycle : Fin 64) (channel : Fin 2) (x : FrRx) {s t : State} (hx
    : execFrFrameRx slot cycle channel x s = .next t) : Ev s t := by
  unfold execFrFrameRx at hx
  obtain rfl := Host.Outcome.next.inj hx
  have hv := Ev.refl s
  repeat' with_reducible first
    | assumption | (intro _) | apply Ev.ite | apply Ev.foldl | apply noteTraffic_ev | apply countCh_ev | split
    | (fail_if_no_progress (apply Ev.of_mk <;> first | exact fun h => h | skip)) | dsimp only

theorem execFrPocHalt_ev {s t : State} (hx : execFrPocHalt s = .next t) : Ev s t := by
  unfold execFrPocHalt at hx
  obtain rfl := Host.Outcome.next.inj hx
  have hv := Ev.refl s
  repeat' with_reducible first
    | assumption | (intro _) | apply Ev.ite | apply setCh_ev | apply busOff_ev | split
    | (fail_if_no_progress (apply Ev.of_mk <;> first | exact fun h => h | skip)) | dsimp only

theorem execFrHaltRestart_ev {s t : State} (hx : execFrHaltRestart s = .next t) : Ev s t := by
  unfold execFrHaltRestart at hx
  obtain rfl := Host.Outcome.next.inj hx
  have hv := Ev.refl s
  repeat' with_reducible first
    | assumption | (intro _) | apply Ev.ite | apply reachClock_ev | apply setCh_ev | split
    | (fail_if_no_progress (apply Ev.of_mk <;> first | exact fun h => h | skip)) | dsimp only

theorem execLegacyAgeExpiry_ev (ch : Fin 25) (index : Nat) {s t : State} (hx
    : execLegacyAgeExpiry ch index s = .next t) : Ev s t := by
  unfold execLegacyAgeExpiry at hx
  obtain rfl := Host.Outcome.next.inj hx
  have hv := Ev.refl s
  repeat' with_reducible first
    | assumption | (intro _) | apply Ev.ite | apply reachClock_ev | apply setCh_ev | apply countCh_ev
    | apply segProgress_ev | split
    | (fail_if_no_progress (apply Ev.of_mk <;> first | exact fun h => h | skip)) | dsimp only

theorem execBundleTimeout_ev (mapping : Nat) {s t : State} (hx : execBundleTimeout mapping s = .next t) : Ev s t := by
  unfold execBundleTimeout at hx
  obtain rfl := Host.Outcome.next.inj hx
  have hv := Ev.refl s
  repeat' with_reducible first
    | assumption | (intro _) | apply Ev.ite | apply reachClock_ev | apply flushBundle_ev | split
    | (fail_if_no_progress (apply Ev.of_mk <;> first | exact fun h => h | skip)) | dsimp only

theorem execGwFrameToSeam_ev (frame : Nat) {s t : State} (hx : execGwFrameToSeam frame s = .next t) : Ev s t := by
  unfold execGwFrameToSeam at hx
  obtain rfl := Host.Outcome.next.inj hx
  have hv := Ev.refl s
  repeat' with_reducible first
    | assumption | (intro _) | apply Ev.ite | apply Ev.foldl | apply finishSending_ev | apply countCh_ev
    | apply updEngine_ev | split
    | (fail_if_no_progress (apply Ev.of_mk <;> first | exact fun h => h | skip)) | dsimp only

theorem dropStaleStores_ev {s0 : State} (n : Nat) {s : State} (hv : Ev s0 s) : Ev s0 (dropStaleStores n s) := by
  unfold dropStaleStores
  repeat' with_reducible first
    | assumption | (intro _) | apply Ev.ite | apply Ev.foldl | apply setCh_ev | apply countCh_ev | split
    | (fail_if_no_progress (apply Ev.of_mk <;> first | exact fun h => h | skip)) | dsimp only

theorem takeStored_ev {s0 : State} (ep place : Nat) {s : State} (hv : Ev s0 s) : Ev s0 (takeStored ep place s) := by
  unfold takeStored
  repeat' with_reducible first
    | assumption | (intro _) | apply Ev.ite | apply setCh_ev | split
    | (fail_if_no_progress (apply Ev.of_mk <;> first | exact fun h => h | skip)) | dsimp only

theorem serve_ev {s0 : State} (n : Nat) (jobs : List SeamJob) {s : State} (hv : Ev s0 s) : Ev s0 (serve n jobs s)
    := by
  unfold serve
  repeat' with_reducible first
    | assumption | (intro _) | apply Ev.ite | apply updEngine_ev | apply beginJob_ev | split
    | (fail_if_no_progress (apply Ev.of_mk <;> first | exact fun h => h | skip)) | dsimp only

theorem gwEvent_ev {s0 : State} (n : Nat) (g : GwItem) {s : State} (hv : Ev s0 s) : Ev s0 (gwEvent n g s) := by
  unfold gwEvent
  repeat' with_reducible first
    | assumption | (intro _) | apply Ev.foldl | apply countCh_ev | apply serve_ev | split
    | (fail_if_no_progress (apply Ev.of_mk <;> first | exact fun h => h | skip)) | dsimp only

theorem serveNext_ev {s0 : State} (n : Nat) {s : State} (hv : Ev s0 s) : Ev s0 (serveNext n s) := by
  unfold serveNext
  repeat' with_reducible first
    | assumption | (intro _) | apply Ev.ite | apply setCh_ev | apply updEngine_ev | apply dropStaleStores_ev
    | apply takeStored_ev | apply serve_ev | apply gwEvent_ev | split
    | (fail_if_no_progress (apply Ev.of_mk <;> first | exact fun h => h | skip)) | dsimp only

theorem execSeamEventServe_ev (engine : Fin 4) {s t : State} (hx : execSeamEventServe engine s = .next t) : Ev s t
    := by
  unfold execSeamEventServe at hx
  obtain rfl := Host.Outcome.next.inj hx
  have hv := Ev.refl s
  repeat' with_reducible first
    | assumption | (intro _) | apply Ev.ite | apply updEngine_ev | apply beginJob_ev | apply serveNext_ev | split
    | (fail_if_no_progress (apply Ev.of_mk <;> first | exact fun h => h | skip)) | dsimp only

theorem execLegEngineFault_ev (engine : Fin 4) {s t : State} (hx : execLegEngineFault engine s = .next t) : Ev s t
    := by
  unfold execLegEngineFault at hx
  obtain rfl := Host.Outcome.next.inj hx
  have hv := Ev.refl s
  repeat' with_reducible first
    | assumption | (intro _) | apply Ev.ite | apply Ev.foldl | apply record_ev | apply setCh_ev | apply countCh_ev
    | apply updEngine_ev | split
    | (fail_if_no_progress (apply Ev.of_mk <;> first | exact fun h => h | skip)) | dsimp only

theorem channelCtl_ev {s0 : State} (r : Req) {s : State} (hv : Ev s0 s) : Ev s0 (channelCtl r s) := by
  unfold channelCtl
  repeat' with_reducible first
    | assumption | (intro _) | apply Ev.ite | apply setStb_ev | apply setCh_ev | apply startChannel_ev
    | apply channelDown_ev | split
    | (fail_if_no_progress (apply Ev.of_mk <;> first | exact fun h => h | skip)) | dsimp only

theorem legChannelCtlOp_ev : OpEv legChannelCtlOp := by
  unfold legChannelCtlOp
  constructor <;> intro r s0 s hv <;> dsimp only <;>
  repeat' with_reducible first
    | assumption | (intro _) | apply Ev.ite | apply answer_ev | apply channelCtl_ev | split
    | (fail_if_no_progress (apply Ev.of_mk <;> first | exact fun h => h | skip)) | dsimp only

theorem execLegChannelCtl_ev (c : CmdSource) {s t : State} (hx : execLegChannelCtl c s = .next t) : Ev s t := by
  unfold execLegChannelCtl at hx
  obtain rfl := Host.Outcome.next.inj hx
  have hv := Ev.refl s
  repeat' with_reducible first
    | assumption | (intro _) | apply runUnlessHeld_ev | exact legChannelCtlOp_ev | apply legChannelCtlOp_ev.commit
    | split | (fail_if_no_progress (apply Ev.of_mk <;> first | exact fun h => h | skip)) | dsimp only

theorem legStatusOp_ev : OpEv legStatusOp := by
  unfold legStatusOp
  constructor <;> intro r s0 s hv <;> dsimp only <;>
  repeat' with_reducible first
    | assumption | (intro _) | apply Ev.ite | apply Ev.ite2 | apply drawNat_ev | apply answer_ev | split
    | refine Ev.of_eq1 ?_ (by assumption) | refine Ev.of_eq2 ?_ (by assumption)
    | (fail_if_no_progress (apply Ev.of_mk <;> first | exact fun h => h | skip)) | dsimp only

theorem execLegStatus_ev (c : CmdSource) {s t : State} (hx : execLegStatus c s = .next t) : Ev s t := by
  unfold execLegStatus at hx
  obtain rfl := Host.Outcome.next.inj hx
  have hv := Ev.refl s
  repeat' with_reducible first
    | assumption | (intro _) | apply runCommand_ev | exact legStatusOp_ev | apply legStatusOp_ev.commit | split
    | (fail_if_no_progress (apply Ev.of_mk <;> first | exact fun h => h | skip)) | dsimp only

theorem activateChannel_ev {s0 : State} (old : Option Bytes) (ep : Nat) {s : State} (hv : Ev s0 s) : Ev s0
    (activateChannel old ep s) := by
  unfold activateChannel
  repeat' with_reducible first
    | assumption | (intro _) | apply Ev.ite | apply setCh_ev | apply discardTx_ev | apply restartChannel_ev | split
    | (fail_if_no_progress (apply Ev.of_mk <;> first | exact fun h => h | skip)) | dsimp only

theorem activateBundles_ev {s0 : State} {s : State} (hv : Ev s0 s) : Ev s0 (activateBundles s) := by
  unfold activateBundles
  repeat' with_reducible first
    | assumption | (intro _) | apply Ev.ite | apply Ev.foldl | apply flushBundle_ev | split
    | (fail_if_no_progress (apply Ev.of_mk <;> first | exact fun h => h | skip)) | dsimp only

theorem activateLegacy_ev {s0 : State} (old : Option Bytes) {s : State} (hv : Ev s0 s) : Ev s0
    (activateLegacy old s) := by
  unfold activateLegacy
  repeat' with_reducible first
    | assumption | (intro _) | apply Ev.foldl | apply activateChannel_ev | apply activateBundles_ev | split
    | (fail_if_no_progress (apply Ev.of_mk <;> first | exact fun h => h | skip)) | dsimp only

/-! Machine/Seam.lean. -/

theorem seamAbort_ev {s0 : State} (n : Nat) {s : State} (hv : Ev s0 s) : Ev s0 (seamAbort n s) := by
  unfold seamAbort
  repeat' with_reducible first
    | assumption | (intro _) | apply updEngine_ev | apply countHandler_ev | split
    | (fail_if_no_progress (apply Ev.of_mk <;> first | exact fun h => h | skip)) | dsimp only

theorem seamRun_ev {s0 : State} (n op : Nat) (g : SeamRun → Nat → State → State) (hg : ∀ x0 x1 t2, Ev s0 t2 → Ev s0
    (g x0 x1 t2)) {s : State} (hv : Ev s0 s) : Ev s0 (seamRun n op g s) := by
  unfold seamRun
  repeat' with_reducible first
    | assumption | (intro _) | apply Ev.ite | apply hg | apply seamAbort_ev | split
    | (fail_if_no_progress (apply Ev.of_mk <;> first | exact fun h => h | skip)) | dsimp only

theorem seamNext_ev {s0 : State} (n skip : Nat) (r : SeamRun) {s : State} (hv : Ev s0 s) : Ev s0
    (seamNext n skip r s) := by
  unfold seamNext
  repeat' with_reducible first
    | assumption | (intro _) | apply updEngine_ev | split
    | (fail_if_no_progress (apply Ev.of_mk <;> first | exact fun h => h | skip)) | dsimp only

theorem seamAlu_ev {s0 : State} (n op : Nat) (f : SeamRun → Nat → Nat) {s : State} (hv : Ev s0 s) : Ev s0
    (seamAlu n op f s) := by
  unfold seamAlu
  repeat' with_reducible first
    | assumption | (intro _) | apply seamRun_ev | apply seamNext_ev | split
    | (fail_if_no_progress (apply Ev.of_mk <;> first | exact fun h => h | skip)) | dsimp only

theorem seamBranch_ev {s0 : State} (n op : Nat) (c : Nat → Nat → Bool) {s : State} (hv : Ev s0 s) : Ev s0
    (seamBranch n op c s) := by
  unfold seamBranch
  repeat' with_reducible first
    | assumption | (intro _) | apply Ev.ite | apply seamRun_ev | apply seamNext_ev | split
    | (fail_if_no_progress (apply Ev.of_mk <;> first | exact fun h => h | skip)) | dsimp only

theorem execSeamEnd_ev (engine : Fin 4) {s t : State} (hx : execSeamEnd engine s = .next t) : Ev s t := by
  unfold execSeamEnd at hx
  obtain rfl := Host.Outcome.next.inj hx
  have hv := Ev.refl s
  repeat' with_reducible first
    | assumption | (intro _) | apply updEngine_ev | apply sendOutput_ev | apply seamRun_ev | split
    | (fail_if_no_progress (apply Ev.of_mk <;> first | exact fun h => h | skip)) | dsimp only

theorem execSeamDrop_ev (engine : Fin 4) {s t : State} (hx : execSeamDrop engine s = .next t) : Ev s t := by
  unfold execSeamDrop at hx
  obtain rfl := Host.Outcome.next.inj hx
  have hv := Ev.refl s
  repeat' with_reducible first
    | assumption | (intro _) | apply seamAbort_ev | apply seamRun_ev | split
    | (fail_if_no_progress (apply Ev.of_mk <;> first | exact fun h => h | skip)) | dsimp only

theorem execSeamLdi_ev (engine : Fin 4) {s t : State} (hx : execSeamLdi engine s = .next t) : Ev s t := by
  unfold execSeamLdi at hx
  obtain rfl := Host.Outcome.next.inj hx
  have hv := Ev.refl s
  repeat' with_reducible first
    | assumption | (intro _) | apply seamAlu_ev | split
    | (fail_if_no_progress (apply Ev.of_mk <;> first | exact fun h => h | skip)) | dsimp only

theorem execSeamLui_ev (engine : Fin 4) {s t : State} (hx : execSeamLui engine s = .next t) : Ev s t := by
  unfold execSeamLui at hx
  obtain rfl := Host.Outcome.next.inj hx
  have hv := Ev.refl s
  repeat' with_reducible first
    | assumption | (intro _) | apply seamAlu_ev | split
    | (fail_if_no_progress (apply Ev.of_mk <;> first | exact fun h => h | skip)) | dsimp only

theorem execSeamMov_ev (engine : Fin 4) {s t : State} (hx : execSeamMov engine s = .next t) : Ev s t := by
  unfold execSeamMov at hx
  obtain rfl := Host.Outcome.next.inj hx
  have hv := Ev.refl s
  repeat' with_reducible first
    | assumption | (intro _) | apply seamAlu_ev | split
    | (fail_if_no_progress (apply Ev.of_mk <;> first | exact fun h => h | skip)) | dsimp only

theorem execSeamAdd_ev (engine : Fin 4) {s t : State} (hx : execSeamAdd engine s = .next t) : Ev s t := by
  unfold execSeamAdd at hx
  obtain rfl := Host.Outcome.next.inj hx
  have hv := Ev.refl s
  repeat' with_reducible first
    | assumption | (intro _) | apply seamAlu_ev | split
    | (fail_if_no_progress (apply Ev.of_mk <;> first | exact fun h => h | skip)) | dsimp only

theorem execSeamAddi_ev (engine : Fin 4) {s t : State} (hx : execSeamAddi engine s = .next t) : Ev s t := by
  unfold execSeamAddi at hx
  obtain rfl := Host.Outcome.next.inj hx
  have hv := Ev.refl s
  repeat' with_reducible first
    | assumption | (intro _) | apply Ev.ite | apply seamAlu_ev | split
    | (fail_if_no_progress (apply Ev.of_mk <;> first | exact fun h => h | skip)) | dsimp only

theorem execSeamSub_ev (engine : Fin 4) {s t : State} (hx : execSeamSub engine s = .next t) : Ev s t := by
  unfold execSeamSub at hx
  obtain rfl := Host.Outcome.next.inj hx
  have hv := Ev.refl s
  repeat' with_reducible first
    | assumption | (intro _) | apply seamAlu_ev | split
    | (fail_if_no_progress (apply Ev.of_mk <;> first | exact fun h => h | skip)) | dsimp only

theorem execSeamAnd_ev (engine : Fin 4) {s t : State} (hx : execSeamAnd engine s = .next t) : Ev s t := by
  unfold execSeamAnd at hx
  obtain rfl := Host.Outcome.next.inj hx
  have hv := Ev.refl s
  repeat' with_reducible first
    | assumption | (intro _) | apply seamAlu_ev | split
    | (fail_if_no_progress (apply Ev.of_mk <;> first | exact fun h => h | skip)) | dsimp only

theorem execSeamOr_ev (engine : Fin 4) {s t : State} (hx : execSeamOr engine s = .next t) : Ev s t := by
  unfold execSeamOr at hx
  obtain rfl := Host.Outcome.next.inj hx
  have hv := Ev.refl s
  repeat' with_reducible first
    | assumption | (intro _) | apply seamAlu_ev | split
    | (fail_if_no_progress (apply Ev.of_mk <;> first | exact fun h => h | skip)) | dsimp only

theorem execSeamXor_ev (engine : Fin 4) {s t : State} (hx : execSeamXor engine s = .next t) : Ev s t := by
  unfold execSeamXor at hx
  obtain rfl := Host.Outcome.next.inj hx
  have hv := Ev.refl s
  repeat' with_reducible first
    | assumption | (intro _) | apply seamAlu_ev | split
    | (fail_if_no_progress (apply Ev.of_mk <;> first | exact fun h => h | skip)) | dsimp only

theorem execSeamShl_ev (engine : Fin 4) {s t : State} (hx : execSeamShl engine s = .next t) : Ev s t := by
  unfold execSeamShl at hx
  obtain rfl := Host.Outcome.next.inj hx
  have hv := Ev.refl s
  repeat' with_reducible first
    | assumption | (intro _) | apply seamAlu_ev | split
    | (fail_if_no_progress (apply Ev.of_mk <;> first | exact fun h => h | skip)) | dsimp only

theorem execSeamShr_ev (engine : Fin 4) {s t : State} (hx : execSeamShr engine s = .next t) : Ev s t := by
  unfold execSeamShr at hx
  obtain rfl := Host.Outcome.next.inj hx
  have hv := Ev.refl s
  repeat' with_reducible first
    | assumption | (intro _) | apply seamAlu_ev | split
    | (fail_if_no_progress (apply Ev.of_mk <;> first | exact fun h => h | skip)) | dsimp only

theorem execSeamSar_ev (engine : Fin 4) {s t : State} (hx : execSeamSar engine s = .next t) : Ev s t := by
  unfold execSeamSar at hx
  obtain rfl := Host.Outcome.next.inj hx
  have hv := Ev.refl s
  repeat' with_reducible first
    | assumption | (intro _) | apply seamAlu_ev | split
    | (fail_if_no_progress (apply Ev.of_mk <;> first | exact fun h => h | skip)) | dsimp only

theorem execSeamMulq_ev (engine : Fin 4) {s t : State} (hx : execSeamMulq engine s = .next t) : Ev s t := by
  unfold execSeamMulq at hx
  obtain rfl := Host.Outcome.next.inj hx
  have hv := Ev.refl s
  repeat' with_reducible first
    | assumption | (intro _) | apply seamAlu_ev | split
    | (fail_if_no_progress (apply Ev.of_mk <;> first | exact fun h => h | skip)) | dsimp only

theorem execSeamBswap_ev (engine : Fin 4) {s t : State} (hx : execSeamBswap engine s = .next t) : Ev s t := by
  unfold execSeamBswap at hx
  obtain rfl := Host.Outcome.next.inj hx
  have hv := Ev.refl s
  repeat' with_reducible first
    | assumption | (intro _) | apply seamAlu_ev | split
    | (fail_if_no_progress (apply Ev.of_mk <;> first | exact fun h => h | skip)) | dsimp only

theorem execSeamGetf_ev (engine : Fin 4) {s t : State} (hx : execSeamGetf engine s = .next t) : Ev s t := by
  unfold execSeamGetf at hx
  obtain rfl := Host.Outcome.next.inj hx
  have hv := Ev.refl s
  repeat' with_reducible first
    | assumption | (intro _) | apply Ev.ite | apply seamAbort_ev | apply seamRun_ev | apply seamNext_ev | split
    | (fail_if_no_progress (apply Ev.of_mk <;> first | exact fun h => h | skip)) | dsimp only

theorem execSeamPutf_ev (engine : Fin 4) {s t : State} (hx : execSeamPutf engine s = .next t) : Ev s t := by
  unfold execSeamPutf at hx
  obtain rfl := Host.Outcome.next.inj hx
  have hv := Ev.refl s
  repeat' with_reducible first
    | assumption | (intro _) | apply Ev.ite | apply seamAbort_ev | apply seamRun_ev | apply seamNext_ev | split
    | (fail_if_no_progress (apply Ev.of_mk <;> first | exact fun h => h | skip)) | dsimp only

theorem execSeamLdc_ev (engine : Fin 4) {s t : State} (hx : execSeamLdc engine s = .next t) : Ev s t := by
  unfold execSeamLdc at hx
  obtain rfl := Host.Outcome.next.inj hx
  have hv := Ev.refl s
  repeat' with_reducible first
    | assumption | (intro _) | apply Ev.ite | apply seamAbort_ev | apply seamRun_ev | apply seamNext_ev | split
    | (fail_if_no_progress (apply Ev.of_mk <;> first | exact fun h => h | skip)) | dsimp only

theorem execSeamTime_ev (engine : Fin 4) {s t : State} (hx : execSeamTime engine s = .next t) : Ev s t := by
  unfold execSeamTime at hx
  obtain rfl := Host.Outcome.next.inj hx
  have hv := Ev.refl s
  repeat' with_reducible first
    | assumption | (intro _) | apply Ev.ite2 | apply drawNat_ev | apply seamRun_ev | apply seamNext_ev | split
    | refine Ev.of_eq1 ?_ (by assumption) | refine Ev.of_eq2 ?_ (by assumption)
    | (fail_if_no_progress (apply Ev.of_mk <;> first | exact fun h => h | skip)) | dsimp only

theorem execSeamBeq_ev (engine : Fin 4) {s t : State} (hx : execSeamBeq engine s = .next t) : Ev s t := by
  unfold execSeamBeq at hx
  obtain rfl := Host.Outcome.next.inj hx
  have hv := Ev.refl s
  repeat' with_reducible first
    | assumption | (intro _) | apply seamBranch_ev | split
    | (fail_if_no_progress (apply Ev.of_mk <;> first | exact fun h => h | skip)) | dsimp only

theorem execSeamBne_ev (engine : Fin 4) {s t : State} (hx : execSeamBne engine s = .next t) : Ev s t := by
  unfold execSeamBne at hx
  obtain rfl := Host.Outcome.next.inj hx
  have hv := Ev.refl s
  repeat' with_reducible first
    | assumption | (intro _) | apply seamBranch_ev | split
    | (fail_if_no_progress (apply Ev.of_mk <;> first | exact fun h => h | skip)) | dsimp only

theorem execSeamBltu_ev (engine : Fin 4) {s t : State} (hx : execSeamBltu engine s = .next t) : Ev s t := by
  unfold execSeamBltu at hx
  obtain rfl := Host.Outcome.next.inj hx
  have hv := Ev.refl s
  repeat' with_reducible first
    | assumption | (intro _) | apply seamBranch_ev | split
    | (fail_if_no_progress (apply Ev.of_mk <;> first | exact fun h => h | skip)) | dsimp only

theorem execSeamBlt_ev (engine : Fin 4) {s t : State} (hx : execSeamBlt engine s = .next t) : Ev s t := by
  unfold execSeamBlt at hx
  obtain rfl := Host.Outcome.next.inj hx
  have hv := Ev.refl s
  repeat' with_reducible first
    | assumption | (intro _) | apply seamBranch_ev | split
    | (fail_if_no_progress (apply Ev.of_mk <;> first | exact fun h => h | skip)) | dsimp only

theorem execSeamJmp_ev (engine : Fin 4) {s t : State} (hx : execSeamJmp engine s = .next t) : Ev s t := by
  unfold execSeamJmp at hx
  obtain rfl := Host.Outcome.next.inj hx
  have hv := Ev.refl s
  repeat' with_reducible first
    | assumption | (intro _) | apply seamBranch_ev | split
    | (fail_if_no_progress (apply Ev.of_mk <;> first | exact fun h => h | skip)) | dsimp only

/-! Machine/Counters.lean. -/

theorem setCounter_ev {s0 : State} (n : Nat) (c : Counter) {s : State} (hv : Ev s0 s) : Ev s0 (setCounter n c s) :=
  Ev.of_mk hv (fun m => m) (fun m => m) (fun m => m) (fun m => m) (fun m => m) (fun m => m)

theorem applyDefaults_ev {s0 : State} (sec : Option Bytes) {s : State} (hv : Ev s0 s) : Ev s0 (applyDefaults sec s)
    := by
  unfold applyDefaults
  repeat' with_reducible first
    | assumption | (intro _) | apply Ev.ite | apply Ev.foldl | apply setCounter_ev | split
    | (fail_if_no_progress (apply Ev.of_mk <;> first | exact fun h => h | skip)) | dsimp only

theorem activateCounters_ev {s0 : State} (sec : Option Bytes) {s : State} (hv : Ev s0 s) : Ev s0
    (activateCounters sec s) := by
  unfold activateCounters
  repeat' with_reducible first
    | assumption | (intro _) | apply Ev.ite | apply applyDefaults_ev | split
    | (fail_if_no_progress (apply Ev.of_mk <;> first | exact fun h => h | skip)) | dsimp only

theorem selectCounters_ev {s0 : State} (r : Req) {s : State} (hv : Ev s0 s) : Ev s0 (selectCounters r s) := by
  unfold selectCounters
  repeat' with_reducible first
    | assumption | (intro _) | apply Ev.foldl | apply setCounter_ev | split
    | (fail_if_no_progress (apply Ev.of_mk <;> first | exact fun h => h | skip)) | dsimp only

theorem cntSelectOp_ev : OpEv cntSelectOp := by
  unfold cntSelectOp
  constructor <;> intro r s0 s hv <;> dsimp only <;>
  repeat' with_reducible first
    | assumption | (intro _) | apply Ev.ite | apply answer_ev | apply relayOrRun_ev | apply selectCounters_ev
    | split | (fail_if_no_progress (apply Ev.of_mk <;> first | exact fun h => h | skip)) | dsimp only

theorem execCntSelect_ev (c : CmdSource) {s t : State} (hx : execCntSelect c s = .next t) : Ev s t := by
  unfold execCntSelect at hx
  obtain rfl := Host.Outcome.next.inj hx
  have hv := Ev.refl s
  repeat' with_reducible first
    | assumption | (intro _) | apply runCommand_ev | exact cntSelectOp_ev | apply cntSelectOp_ev.commit | split
    | (fail_if_no_progress (apply Ev.of_mk <;> first | exact fun h => h | skip)) | dsimp only

theorem armSnapshot_ev {s0 : State} (r : Req) {s : State} (hv : Ev s0 s) : Ev s0 (armSnapshot r s) := by
  unfold armSnapshot
  repeat' with_reducible first
    | assumption | (intro _) | apply Ev.ite | split
    | (fail_if_no_progress (apply Ev.of_mk <;> first | exact fun h => h | skip)) | dsimp only

theorem cntSnapshotAtOp_ev : OpEv cntSnapshotAtOp := by
  unfold cntSnapshotAtOp
  constructor <;> intro r s0 s hv <;> dsimp only <;>
  repeat' with_reducible first
    | assumption | (intro _) | apply armSnapshot_ev | split
    | (fail_if_no_progress (apply Ev.of_mk <;> first | exact fun h => h | skip)) | dsimp only

theorem execCntSnapshotAt_ev (c : CmdSource) {s t : State} (hx : execCntSnapshotAt c s = .next t) : Ev s t := by
  unfold execCntSnapshotAt at hx
  obtain rfl := Host.Outcome.next.inj hx
  have hv := Ev.refl s
  repeat' with_reducible first
    | assumption | (intro _) | apply runCommand_ev | exact cntSnapshotAtOp_ev | apply cntSnapshotAtOp_ev.commit
    | split | (fail_if_no_progress (apply Ev.of_mk <;> first | exact fun h => h | skip)) | dsimp only

theorem snapReply_ev {s0 : State} (t : Word16) {s : State} (hv : Ev s0 s) : Ev s0 (snapReply t s) := by
  unfold snapReply
  repeat' with_reducible first
    | assumption | (intro _) | apply Ev.ite | apply emit_ev | apply finalReply_ev | split
    | (fail_if_no_progress (apply Ev.of_mk <;> first | exact fun h => h | skip)) | dsimp only

theorem completeSnapshot_ev {s0 : State} {s : State} (hv : Ev s0 s) : Ev s0 (completeSnapshot s) := by
  unfold completeSnapshot
  repeat' with_reducible first
    | assumption | (intro _) | apply Ev.ite | apply Ev.foldl | apply raiseInt_ev | apply snapReply_ev | split
    | (fail_if_no_progress (apply Ev.of_mk <;> first | exact fun h => h | skip)) | dsimp only

theorem execSnapshotComplete_ev {s t : State} (hx : execSnapshotComplete s = .next t) : Ev s t := by
  unfold execSnapshotComplete at hx
  obtain rfl := Host.Outcome.next.inj hx
  have hv := Ev.refl s
  repeat' with_reducible first
    | assumption | (intro _) | apply completeSnapshot_ev | split
    | (fail_if_no_progress (apply Ev.of_mk <;> first | exact fun h => h | skip)) | dsimp only

theorem latchSnapshot_ev {s0 : State} (x : Snapshot) {s : State} (hv : Ev s0 s) : Ev s0 (latchSnapshot x s) := by
  unfold latchSnapshot
  repeat' with_reducible first
    | assumption | (intro _) | apply Ev.ite | apply completeSnapshot_ev | split
    | (fail_if_no_progress (apply Ev.of_mk <;> first | exact fun h => h | skip)) | dsimp only

theorem execSnapshotLatch_ev {s t : State} (hx : execSnapshotLatch s = .next t) : Ev s t := by
  unfold execSnapshotLatch at hx
  obtain rfl := Host.Outcome.next.inj hx
  have hv := Ev.refl s
  repeat' with_reducible first
    | assumption | (intro _) | apply Ev.ite | apply Ev.foldl | apply reachW_ev | apply latchSnapshot_ev | split
    | (fail_if_no_progress (apply Ev.of_mk <;> first | exact fun h => h | skip)) | dsimp only

theorem execAutoSnapshot_ev {s t : State} (hx : execAutoSnapshot s = .next t) : Ev s t := by
  unfold execAutoSnapshot at hx
  obtain rfl := Host.Outcome.next.inj hx
  have hv := Ev.refl s
  repeat' with_reducible first
    | assumption | (intro _) | apply Ev.ite | apply reachW_ev | apply latchSnapshot_ev | split
    | (fail_if_no_progress (apply Ev.of_mk <;> first | exact fun h => h | skip)) | dsimp only

end Sys2Proof.Machine
end

