-- ==== Sys2Proof/Laws/EvolveImage.lean ====
section
/-!
SUPPORT. Each operation and command of images, safety, firmware update and the recorder commands only lets fuses blow, keeps the memories canonical and leaves the queue alone:
one lemma per definition.
-/
set_option linter.unusedTactic false
set_option linter.unreachableTactic false
set_option linter.unusedVariables false

namespace Sys2Proof.Machine

/-! Machine/Switch.lean. -/

theorem loadOther_ev {s0 : State} (b : RuleBank) {s : State} (hv : Ev s0 s) : Ev s0 (loadOther b s) :=
  Ev.of_mk hv (fun m => m) (fun m => m) (fun m => m) (fun m => m) (fun m => m) (fun m => m)

theorem releaseOther_ev {s0 : State} {s : State} (hv : Ev s0 s) : Ev s0 (releaseOther s) := by
  unfold releaseOther
  repeat' with_reducible first
    | assumption | (intro _) | apply Ev.ite | split
    | (fail_if_no_progress (apply Ev.of_mk <;> first | exact fun h => h | skip)) | dsimp only

theorem swapBanks_ev {s0 : State} {s : State} (hv : Ev s0 s) : Ev s0 (swapBanks s) :=
  Ev.of_mk hv (fun m => m) (fun m => m) (fun m => m) (fun m => m) (fun m => m) (fun m => m)

theorem runRom_ev {s0 : State} {s : State} (hv : Ev s0 s) : Ev s0 (runRom s) := by
  unfold runRom
  repeat' with_reducible first
    | assumption | (intro _) | apply Ev.ite | apply releaseOther_ev | split
    | (fail_if_no_progress (apply Ev.of_mk <;> first | exact fun h => h | skip)) | dsimp only

theorem firstBank_ev {s0 : State} (i : Option RunImage) {s : State} (hv : Ev s0 s) : Ev s0 (firstBank i s) :=
  Ev.of_mk hv (fun m => m) (fun m => m) (fun m => m) (fun m => m) (fun m => m) (fun m => m)

theorem activateStreams_ev {s0 : State} (old : Nat → Option Bytes) {s : State} (hv : Ev s0 s) : Ev s0
    (activateStreams old s) := by
  unfold activateStreams
  repeat' with_reducible first
    | assumption | (intro _) | apply Ev.foldl | split
    | (fail_if_no_progress (apply Ev.of_mk <;> first | exact fun h => h | skip)) | dsimp only

theorem activateEgress_ev {s0 : State} (p : Nat) (slopes fields : List Nat) {s : State} (hv : Ev s0 s) : Ev s0
    (activateEgress p slopes fields s) := by
  unfold activateEgress
  repeat' with_reducible first
    | assumption | (intro _) | apply Ev.ite | apply setEgress_ev | apply startPreemption_ev | split
    | (fail_if_no_progress (apply Ev.of_mk <;> first | exact fun h => h | skip)) | dsimp only

theorem repin_ev {s0 : State} (old : List Bool) {s : State} (hv : Ev s0 s) : Ev s0 (repin old s) := by
  unfold repin
  repeat' with_reducible first
    | assumption | (intro _) | apply Ev.ite | apply Ev.foldl | apply setPress_ev | split
    | (fail_if_no_progress (apply Ev.of_mk <;> first | exact fun h => h | skip)) | dsimp only

theorem notePlcaHold_ev {s0 : State} {s : State} (hv : Ev s0 s) : Ev s0 (notePlcaHold s) := by
  unfold notePlcaHold
  repeat' with_reducible first
    | assumption | (intro _) | apply Ev.ite | apply Ev.foldl | apply record_ev | split
    | (fail_if_no_progress (apply Ev.of_mk <;> first | exact fun h => h | skip)) | dsimp only

theorem activateDomain_ev {s0 : State} (old : Option Bytes) (d : Nat) {s : State} (hv : Ev s0 s) : Ev s0
    (activateDomain old s d) := by
  unfold activateDomain
  repeat' with_reducible first
    | assumption | (intro _) | apply Ev.ite | apply setDom_ev | apply wOnDomain_ev | apply firstLock_ev | split
    | (fail_if_no_progress (apply Ev.of_mk <;> first | exact fun h => h | skip)) | dsimp only

theorem flushLearned_ev {s0 : State} (leaving : Bool) {s : State} (hv : Ev s0 s) : Ev s0 (flushLearned leaving s)
    := by
  unfold flushLearned
  repeat' with_reducible first
    | assumption | (intro _) | apply Ev.ite | split
    | (fail_if_no_progress (apply Ev.of_mk <;> first | exact fun h => h | skip)) | dsimp only

theorem refreshFirewall_ev {s0 : State} {s : State} (hv : Ev s0 s) : Ev s0 (refreshFirewall s) := by
  unfold refreshFirewall
  repeat' with_reducible first
    | assumption | (intro _) | apply dropDeniedConns_ev | apply rejudgeRoutes_ev | split
    | (fail_if_no_progress (apply Ev.of_mk <;> first | exact fun h => h | skip)) | dsimp only

theorem noteProfile_ev {s0 : State} {s : State} (hv : Ev s0 s) : Ev s0 (noteProfile s) := by
  unfold noteProfile
  repeat' with_reducible first
    | assumption | (intro _) | apply Ev.ite | apply record_ev | split
    | (fail_if_no_progress (apply Ev.of_mk <;> first | exact fun h => h | skip)) | dsimp only

theorem switchTables_ev {s0 : State} (new : Option RunImage) {s : State} (hv : Ev s0 s) : Ev s0
    (switchTables new s) := by
  unfold switchTables
  repeat' with_reducible first
    | assumption | (intro _) | apply Ev.ite | apply Ev.foldl | apply settlePins_ev | apply refreshBp_ev
    | apply settle_ev | apply activatePorts_ev | apply activateSegments_ev | apply applyWakeSettings_ev
    | apply activateLegacy_ev | apply activateCounters_ev | apply activateStreams_ev | apply activateEgress_ev
    | apply repin_ev | apply notePlcaHold_ev | apply activateDomain_ev | apply flushLearned_ev
    | apply refreshFirewall_ev | split
    | (fail_if_no_progress (apply Ev.of_mk <;> first | exact fun h => h | skip)) | dsimp only

theorem putSection_ev {s0 : State} (id : Nat) (content : Bytes) {s : State} (hv : Ev s0 s) : Ev s0
    (putSection id content s) := by
  unfold putSection
  repeat' with_reducible first
    | assumption | (intro _) | split
    | (fail_if_no_progress (apply Ev.of_mk <;> first | exact fun h => h | skip)) | dsimp only

theorem swapPatch_ev {s0 : State} (p : Patch) {s : State} (hv : Ev s0 s) : Ev s0 (swapPatch p s) := by
  unfold swapPatch
  repeat' with_reducible first
    | assumption | (intro _) | apply Ev.ite | apply dropDeniedConns_ev | apply rejudgeRoutes_ev
    | apply applyDefaults_ev | apply releaseOther_ev | apply swapBanks_ev | apply flushLearned_ev
    | apply putSection_ev | split
    | (fail_if_no_progress (apply Ev.of_mk <;> first | exact fun h => h | skip)) | dsimp only

theorem loadImage_ev {s0 : State} (i : RunImage) {s : State} (hv : Ev s0 s) : Ev s0 (loadImage i s) := by
  unfold loadImage
  repeat' with_reducible first
    | assumption | (intro _) | apply Ev.ite | apply record_ev | split
    | (fail_if_no_progress (apply Ev.of_mk <;> first | exact fun h => h | skip)) | dsimp only

/-! Machine/Image.lean. -/

theorem setImgSession_ev {s0 : State} (t : Nat) (x : Option ImgSession) {s : State} (hv : Ev s0 s) : Ev s0
    (setImgSession t x s) := by
  unfold setImgSession
  repeat' with_reducible first
    | assumption | (intro _) | apply Ev.ite | split
    | (fail_if_no_progress (apply Ev.of_mk <;> first | exact fun h => h | skip)) | dsimp only

theorem imgBegin_ev {s0 : State} (r : Req) {s : State} (hv : Ev s0 s) : Ev s0 (imgBegin r s) := by
  unfold imgBegin
  repeat' with_reducible first
    | assumption | (intro _) | apply Ev.ite | apply releaseOther_ev | split
    | (fail_if_no_progress (apply Ev.of_mk <;> first | exact fun h => h | skip)) | dsimp only

theorem imgBeginOp_ev : OpEv imgBeginOp := by
  unfold imgBeginOp
  constructor <;> intro r s0 s hv <;> dsimp only <;>
  repeat' with_reducible first
    | assumption | (intro _) | apply Ev.ite | apply answer_ev | apply imgBegin_ev | split
    | (fail_if_no_progress (apply Ev.of_mk <;> first | exact fun h => h | skip)) | dsimp only

theorem execImgBegin_ev (c : CmdSource) {s t : State} (hx : execImgBegin c s = .next t) : Ev s t := by
  unfold execImgBegin at hx
  obtain rfl := Host.Outcome.next.inj hx
  have hv := Ev.refl s
  repeat' with_reducible first
    | assumption | (intro _) | apply runCommand_ev | exact imgBeginOp_ev | apply imgBeginOp_ev.commit | split
    | (fail_if_no_progress (apply Ev.of_mk <;> first | exact fun h => h | skip)) | dsimp only

theorem imgChunk_ev {s0 : State} (r : Req) {s : State} (hv : Ev s0 s) : Ev s0 (imgChunk r s) := by
  unfold imgChunk
  repeat' with_reducible first
    | assumption | (intro _) | apply Ev.ite | apply setImgSession_ev | split
    | (fail_if_no_progress (apply Ev.of_mk <;> first | exact fun h => h | exact fun h => Mem.writeAll_is h _ _ | exact fun _ => Mem.writeAll_is (Mem.blank_is _) _ _ | exact fun _ => Mem.blank_is _ | exact fun _ => Mem.empty_is _ | exact fun h => img_write h _ _ _ | exact fun h => nor_write h _ _ _ | exact fun h => nor_erase h _ _ | skip)) | dsimp only

theorem imgChunkOp_ev : OpEv imgChunkOp := by
  unfold imgChunkOp
  constructor <;> intro r s0 s hv <;> dsimp only <;>
  repeat' with_reducible first
    | assumption | (intro _) | apply Ev.ite | apply answer_ev | apply imgChunk_ev | split
    | (fail_if_no_progress (apply Ev.of_mk <;> first | exact fun h => h | skip)) | dsimp only

theorem execImgChunk_ev (c : CmdSource) {s t : State} (hx : execImgChunk c s = .next t) : Ev s t := by
  unfold execImgChunk at hx
  obtain rfl := Host.Outcome.next.inj hx
  have hv := Ev.refl s
  repeat' with_reducible first
    | assumption | (intro _) | apply runCommand_ev | exact imgChunkOp_ev | apply imgChunkOp_ev.commit | split
    | (fail_if_no_progress (apply Ev.of_mk <;> first | exact fun h => h | skip)) | dsimp only

theorem noteCert_ev {s0 : State} (i : RunImage) {s : State} (hv : Ev s0 s) : Ev s0 (noteCert i s) := by
  unfold noteCert
  repeat' with_reducible first
    | assumption | (intro _) | apply Ev.ite | apply record_ev | split
    | (fail_if_no_progress (apply Ev.of_mk <;> first | exact fun h => h | skip)) | dsimp only

theorem failedResult_ev {s0 : State} (b : Bytes) (e : VerifyFailure) (pace : Nat) {s : State} (hv : Ev s0 s)
    : Ev s0 (failedResult b e pace s).2 := by
  unfold failedResult
  repeat' with_reducible first
    | assumption | (intro _) | apply Ev.ite | apply Ev.ite2 | apply drawNat_ev | apply drawBytes_ev | split
    | refine Ev.of_eq1 ?_ (by assumption) | refine Ev.of_eq2 ?_ (by assumption)
    | (fail_if_no_progress (apply Ev.of_mk <;> first | exact fun h => h | skip)) | dsimp only

theorem imgVerifyOwn_ev {s0 : State} (r : Req) (x : ImgSession) {s : State} (hv : Ev s0 s) : Ev s0
    (imgVerifyOwn r x s) := by
  unfold imgVerifyOwn
  repeat' with_reducible first
    | assumption | (intro _) | apply Ev.ite2 | apply answer_ev | apply noteCert_ev | apply failedResult_ev | split
    | refine Ev.of_eq1 ?_ (by assumption) | refine Ev.of_eq2 ?_ (by assumption)
    | (fail_if_no_progress (apply Ev.of_mk <;> first | exact fun h => h | skip)) | dsimp only

theorem imgVerifyPeer_ev {s0 : State} (r : Req) (x : ImgSession) {s : State} (hv : Ev s0 s) : Ev s0
    (imgVerifyPeer r x s) := by
  unfold imgVerifyPeer
  repeat' with_reducible first
    | assumption | (intro _) | apply Ev.ite2 | apply drawNat_ev | apply answer_ev | apply failedResult_ev | split
    | refine Ev.of_eq1 ?_ (by assumption) | refine Ev.of_eq2 ?_ (by assumption)
    | (fail_if_no_progress (apply Ev.of_mk <;> first | exact fun h => h | skip)) | dsimp only

theorem imgVerifyOp_ev : OpEv imgVerifyOp := by
  unfold imgVerifyOp
  constructor <;> intro r s0 s hv <;> dsimp only <;>
  repeat' with_reducible first
    | assumption | (intro _) | apply Ev.ite | apply imgVerifyOwn_ev | apply imgVerifyPeer_ev | split
    | (fail_if_no_progress (apply Ev.of_mk <;> first | exact fun h => h | skip)) | dsimp only

theorem execImgVerify_ev (c : CmdSource) {s t : State} (hx : execImgVerify c s = .next t) : Ev s t := by
  unfold execImgVerify at hx
  obtain rfl := Host.Outcome.next.inj hx
  have hv := Ev.refl s
  repeat' with_reducible first
    | assumption | (intro _) | apply runCommand_ev | exact imgVerifyOp_ev | apply imgVerifyOp_ev.commit | split
    | (fail_if_no_progress (apply Ev.of_mk <;> first | exact fun h => h | skip)) | dsimp only

theorem imgStage_ev {s0 : State} (r : Req) {s : State} (hv : Ev s0 s) : Ev s0 (imgStage r s) := by
  unfold imgStage
  repeat' with_reducible first
    | assumption | (intro _) | apply Ev.ite | apply Ev.ite2 | apply drawNat_ev | apply loadOther_ev | split
    | refine Ev.of_eq1 ?_ (by assumption) | refine Ev.of_eq2 ?_ (by assumption)
    | (fail_if_no_progress (apply Ev.of_mk <;> first | exact fun h => h | skip)) | dsimp only

theorem imgStageOp_ev : OpEv imgStageOp := by
  unfold imgStageOp
  constructor <;> intro r s0 s hv <;> dsimp only <;>
  repeat' with_reducible first
    | assumption | (intro _) | apply Ev.ite2 | apply drawNat_ev | apply answer_ev | apply imgStage_ev | split
    | refine Ev.of_eq1 ?_ (by assumption) | refine Ev.of_eq2 ?_ (by assumption)
    | (fail_if_no_progress (apply Ev.of_mk <;> first | exact fun h => h | skip)) | dsimp only

theorem execImgStage_ev (c : CmdSource) {s t : State} (hx : execImgStage c s = .next t) : Ev s t := by
  unfold execImgStage at hx
  obtain rfl := Host.Outcome.next.inj hx
  have hv := Ev.refl s
  repeat' with_reducible first
    | assumption | (intro _) | apply runCommand_ev | exact imgStageOp_ev | apply imgStageOp_ev.commit | split
    | (fail_if_no_progress (apply Ev.of_mk <;> first | exact fun h => h | skip)) | dsimp only

theorem imgActivateOp_ev : OpEv imgActivateOp := by
  unfold imgActivateOp
  constructor <;> intro r s0 s hv <;> dsimp only <;>
  repeat' with_reducible first
    | assumption | (intro _) | apply Ev.ite | apply writeRecord_ev | apply wakeRequest_ev | split
    | (fail_if_no_progress (apply Ev.of_mk <;> first | exact fun h => h | skip)) | dsimp only

theorem execImgActivate_ev (c : CmdSource) {s t : State} (hx : execImgActivate c s = .next t) : Ev s t := by
  unfold execImgActivate at hx
  obtain rfl := Host.Outcome.next.inj hx
  have hv := Ev.refl s
  repeat' with_reducible first
    | assumption | (intro _) | apply runCommand_ev | exact imgActivateOp_ev | apply imgActivateOp_ev.commit | split
    | (fail_if_no_progress (apply Ev.of_mk <;> first | exact fun h => h | skip)) | dsimp only

theorem finishActivation_ev {s0 : State} {s : State} (hv : Ev s0 s) : Ev s0 (finishActivation s) := by
  unfold finishActivation
  repeat' with_reducible first
    | assumption | (intro _) | apply record_ev | apply finalReply_ev | split
    | (fail_if_no_progress (apply Ev.of_mk <;> first | exact fun h => h | skip)) | dsimp only

theorem takeImage_ev {s0 : State} (i : RunImage) {s : State} (hv : Ev s0 s) : Ev s0 (takeImage i s) := by
  unfold takeImage
  repeat' with_reducible first
    | assumption | (intro _) | apply Ev.ite | apply noteBusy_ev | apply enterMode_ev | apply firstEntry_ev
    | apply swapBanks_ev | apply switchTables_ev | split
    | (fail_if_no_progress (apply Ev.of_mk <;> first | exact fun h => h | skip)) | dsimp only

theorem execImageSwitch_ev {s t : State} (hx : execImageSwitch s = .next t) : Ev s t := by
  unfold execImageSwitch at hx
  obtain rfl := Host.Outcome.next.inj hx
  have hv := Ev.refl s
  repeat' with_reducible first
    | assumption | (intro _) | apply Ev.ite | apply reachW_ev | apply discardActivation_ev
    | apply finishActivation_ev | apply takeImage_ev | split
    | (fail_if_no_progress (apply Ev.of_mk <;> first | exact fun h => h | skip)) | dsimp only

theorem imgStatusOp_ev : OpEv imgStatusOp := by
  unfold imgStatusOp
  constructor <;> intro r s0 s hv <;> dsimp only <;>
  repeat' with_reducible first
    | assumption | (intro _) | apply Ev.ite2 | apply drawBytes_ev | apply answer_ev | split
    | refine Ev.of_eq1 ?_ (by assumption) | refine Ev.of_eq2 ?_ (by assumption)
    | (fail_if_no_progress (apply Ev.of_mk <;> first | exact fun h => h | skip)) | dsimp only

theorem execImgStatus_ev (c : CmdSource) {s t : State} (hx : execImgStatus c s = .next t) : Ev s t := by
  unfold execImgStatus at hx
  obtain rfl := Host.Outcome.next.inj hx
  have hv := Ev.refl s
  repeat' with_reducible first
    | assumption | (intro _) | apply runCommand_ev | exact imgStatusOp_ev | apply imgStatusOp_ev.commit | split
    | (fail_if_no_progress (apply Ev.of_mk <;> first | exact fun h => h | skip)) | dsimp only

theorem commitPatch_ev {s0 : State} (r : Req) (tag : Option Word16) {s : State} (hv : Ev s0 s) : Ev s0
    (commitPatch r tag s) := by
  unfold commitPatch
  repeat' with_reducible first
    | assumption | (intro _) | apply Ev.ite | apply recordNow_ev | apply wakeRequest_ev | apply loadOther_ev
    | split | (fail_if_no_progress (apply Ev.of_mk <;> first | exact fun h => h | skip)) | dsimp only

theorem patchEffect_ev {s0 : State} (r : Req) {s : State} (hv : Ev s0 s) : Ev s0 (patchEffect r s) := by
  unfold patchEffect
  repeat' with_reducible first
    | assumption | (intro _) | apply Ev.ite | apply commitPatch_ev | split
    | (fail_if_no_progress (apply Ev.of_mk <;> first | exact fun h => h | skip)) | dsimp only

theorem imgPatchOp_ev : OpEv imgPatchOp := by
  unfold imgPatchOp
  constructor <;> intro r s0 s hv <;> dsimp only <;>
  repeat' with_reducible first
    | assumption | (intro _) | apply Ev.ite | apply writeRecord_ev | apply relayAtOnce_ev | apply commitPatch_ev
    | apply patchEffect_ev | split
    | (fail_if_no_progress (apply Ev.of_mk <;> first | exact fun h => h | skip)) | dsimp only

theorem execImgPatch_ev (c : CmdSource) {s t : State} (hx : execImgPatch c s = .next t) : Ev s t := by
  unfold execImgPatch at hx
  obtain rfl := Host.Outcome.next.inj hx
  have hv := Ev.refl s
  repeat' with_reducible first
    | assumption | (intro _) | apply runCommand_ev | exact imgPatchOp_ev | apply imgPatchOp_ev.commit | split
    | (fail_if_no_progress (apply Ev.of_mk <;> first | exact fun h => h | skip)) | dsimp only

theorem replySwap_ev {s0 : State} (t : Option Word16) (detail : Nat) (result : Bytes) {s : State} (hv : Ev s0 s)
    : Ev s0 (replySwap t detail result s) := by
  unfold replySwap
  repeat' with_reducible first
    | assumption | (intro _) | apply finalReply_ev | split
    | (fail_if_no_progress (apply Ev.of_mk <;> first | exact fun h => h | skip)) | dsimp only

theorem execPatchSwap_ev {s t : State} (hx : execPatchSwap s = .next t) : Ev s t := by
  unfold execPatchSwap at hx
  obtain rfl := Host.Outcome.next.inj hx
  have hv := Ev.refl s
  repeat' with_reducible first
    | assumption | (intro _) | apply Ev.ite | apply reachW_ev | apply noteBusy_ev | apply swapPatch_ev
    | apply replySwap_ev | split
    | (fail_if_no_progress (apply Ev.of_mk <;> first | exact fun h => h | skip)) | dsimp only

theorem rebuildBank_ev {s0 : State} {s : State} (hv : Ev s0 s) : Ev s0 (rebuildBank s) := by
  unfold rebuildBank
  repeat' with_reducible first
    | assumption | (intro _) | apply loadOther_ev | split
    | (fail_if_no_progress (apply Ev.of_mk <;> first | exact fun h => h | skip)) | dsimp only

theorem bankSwapEffect_ev {s0 : State} (r : Req) {s : State} (hv : Ev s0 s) : Ev s0 (bankSwapEffect r s) := by
  unfold bankSwapEffect
  repeat' with_reducible first
    | assumption | (intro _) | apply Ev.ite | apply rebuildBank_ev | split
    | (fail_if_no_progress (apply Ev.of_mk <;> first | exact fun h => h | skip)) | dsimp only

theorem prsBankSwapOp_ev : OpEv prsBankSwapOp := by
  unfold prsBankSwapOp
  constructor <;> intro r s0 s hv <;> dsimp only <;>
  repeat' with_reducible first
    | assumption | (intro _) | apply Ev.ite | apply relayAtOnce_ev | apply rebuildBank_ev | apply bankSwapEffect_ev
    | split | (fail_if_no_progress (apply Ev.of_mk <;> first | exact fun h => h | skip)) | dsimp only

theorem execPrsBankSwap_ev (c : CmdSource) {s t : State} (hx : execPrsBankSwap c s = .next t) : Ev s t := by
  unfold execPrsBankSwap at hx
  obtain rfl := Host.Outcome.next.inj hx
  have hv := Ev.refl s
  repeat' with_reducible first
    | assumption | (intro _) | apply runCommand_ev | exact prsBankSwapOp_ev | apply prsBankSwapOp_ev.commit | split
    | (fail_if_no_progress (apply Ev.of_mk <;> first | exact fun h => h | skip)) | dsimp only

theorem execRuleBankRefresh_ev {s t : State} (hx : execRuleBankRefresh s = .next t) : Ev s t := by
  unfold execRuleBankRefresh at hx
  obtain rfl := Host.Outcome.next.inj hx
  have hv := Ev.refl s
  repeat' with_reducible first
    | assumption | (intro _) | apply Ev.ite | apply rebuildBank_ev | split
    | (fail_if_no_progress (apply Ev.of_mk <;> first | exact fun h => h | skip)) | dsimp only

theorem execRuleBankSwap_ev {s t : State} (hx : execRuleBankSwap s = .next t) : Ev s t := by
  unfold execRuleBankSwap at hx
  obtain rfl := Host.Outcome.next.inj hx
  have hv := Ev.refl s
  repeat' with_reducible first
    | assumption | (intro _) | apply Ev.ite | apply reachW_ev | apply finalReply_ev | apply releaseOther_ev
    | apply swapBanks_ev | apply rebuildBank_ev | split
    | (fail_if_no_progress (apply Ev.of_mk <;> first | exact fun h => h | skip)) | dsimp only

theorem execAutonomousSwitch_ev {s t : State} (hx : execAutonomousSwitch s = .next t) : Ev s t := by
  unfold execAutonomousSwitch at hx
  obtain rfl := Host.Outcome.next.inj hx
  have hv := Ev.refl s
  repeat' with_reducible first
    | assumption | (intro _) | apply Ev.ite | apply reachW_ev | apply enterMode_ev | apply finalReply_ev
    | apply runRom_ev | apply noteProfile_ev | apply switchTables_ev | split
    | (fail_if_no_progress (apply Ev.of_mk <;> first | exact fun h => h | skip)) | dsimp only

theorem raisePace_ev {s0 : State} (reading reaction : Nat) {s : State} (hv : Ev s0 s) : Ev s0
    (raisePace reading reaction s) := by
  unfold raisePace
  repeat' with_reducible first
    | assumption | (intro _) | apply Ev.ite | apply record_ev | apply raiseInt_ev | apply enterSafe_ev | split
    | (fail_if_no_progress (apply Ev.of_mk <;> first | exact fun h => h | skip)) | dsimp only

theorem followPace_ev {s0 : State} (reading threshold : Nat) {s : State} (hv : Ev s0 s) : Ev s0
    (followPace reading threshold s) := by
  unfold followPace
  repeat' with_reducible first
    | assumption | (intro _) | apply Ev.ite | apply record_ev | split
    | (fail_if_no_progress (apply Ev.of_mk <;> first | exact fun h => h | skip)) | dsimp only

theorem paceOf_ev {s0 : State} (count : Nat) {s : State} (hv : Ev s0 s) : Ev s0 (paceOf count s).2 := by
  unfold paceOf
  repeat' with_reducible first
    | assumption | (intro _) | apply Ev.ite | apply Ev.ite2 | apply drawNat_ev | split
    | refine Ev.of_eq1 ?_ (by assumption) | refine Ev.of_eq2 ?_ (by assumption)
    | (fail_if_no_progress (apply Ev.of_mk <;> first | exact fun h => h | skip)) | dsimp only

theorem execPaceReading_ev (m0 m1 m2 m3 : Nat) {s t : State} (hx : execPaceReading m0 m1 m2 m3 s = .next t)
    : Ev s t := by
  unfold execPaceReading at hx
  obtain rfl := Host.Outcome.next.inj hx
  have hv := Ev.refl s
  repeat' with_reducible first
    | assumption | (intro _) | apply Ev.ite | apply Ev.ite2 | apply reachClock_ev | apply record_ev
    | apply raisePace_ev | apply followPace_ev | apply paceOf_ev | split | refine Ev.of_eq1 ?_ (by assumption)
    | refine Ev.of_eq2 ?_ (by assumption)
    | (fail_if_no_progress (apply Ev.of_mk <;> first | exact fun h => h | skip)) | dsimp only

theorem discardPending_ev {s0 : State} {s : State} (hv : Ev s0 s) : Ev s0 (discardPending s) := by
  unfold discardPending
  repeat' with_reducible first
    | assumption | (intro _) | apply Ev.ite | apply noteBusy_ev | apply releaseOther_ev | apply replySwap_ev
    | split | (fail_if_no_progress (apply Ev.of_mk <;> first | exact fun h => h | skip)) | dsimp only

theorem revertTo_ev {s0 : State} (i : RunImage) (ids : List Nat) {s : State} (hv : Ev s0 s) : Ev s0
    (revertTo i ids s) := by
  unfold revertTo
  repeat' with_reducible first
    | assumption | (intro _) | apply Ev.ite | apply Ev.foldl | apply applyDefaults_ev | apply flushLearned_ev
    | apply refreshFirewall_ev | apply putSection_ev | split
    | (fail_if_no_progress (apply Ev.of_mk <;> first | exact fun h => h | skip)) | dsimp only

theorem execFwlRevertComplete_ev {s t : State} (hx : execFwlRevertComplete s = .next t) : Ev s t := by
  unfold execFwlRevertComplete at hx
  obtain rfl := Host.Outcome.next.inj hx
  have hv := Ev.refl s
  repeat' with_reducible first
    | assumption | (intro _) | apply Ev.ite | apply record_ev | apply escalate_ev | apply refreshFirewall_ev
    | apply discardPending_ev | apply revertTo_ev | split
    | (fail_if_no_progress (apply Ev.of_mk <;> first | exact fun h => h | skip)) | dsimp only

/-! Machine/Safety.lean. -/

theorem setCore_ev {s0 : State} (n : Nat) (c : Core) {s : State} (hv : Ev s0 s) : Ev s0 (setCore n c s) :=
  Ev.of_mk hv (fun m => m) (fun m => m) (fun m => m) (fun m => m) (fun m => m) (fun m => m)

theorem maskCore_ev {s0 : State} (n : Nat) {s : State} (hv : Ev s0 s) : Ev s0 (maskCore n s) := by
  unfold maskCore
  repeat' with_reducible first
    | assumption | (intro _) | apply setCore_ev | split
    | (fail_if_no_progress (apply Ev.of_mk <;> first | exact fun h => h | skip)) | dsimp only

theorem retireCore_ev {s0 : State} (n : Nat) {s : State} (hv : Ev s0 s) : Ev s0 (retireCore n s) := by
  unfold retireCore
  repeat' with_reducible first
    | assumption | (intro _) | apply Ev.ite | apply record_ev | apply escalate_ev | apply setCore_ev | split
    | (fail_if_no_progress (apply Ev.of_mk <;> first | exact fun h => h | skip)) | dsimp only

theorem testAllCores_ev {s0 : State} {s : State} (hv : Ev s0 s) : Ev s0 (testAllCores s) := by
  unfold testAllCores
  repeat' with_reducible first
    | assumption | (intro _) | apply Ev.ite | apply Ev.foldl | apply setCore_ev | split
    | (fail_if_no_progress (apply Ev.of_mk <;> first | exact fun h => h | skip)) | dsimp only

theorem voterFault_ev {s0 : State} {s : State} (hv : Ev s0 s) : Ev s0 (voterFault s) := by
  unfold voterFault
  repeat' with_reducible first
    | assumption | (intro _) | apply assertSource_ev | apply testAllCores_ev | split
    | (fail_if_no_progress (apply Ev.of_mk <;> first | exact fun h => h | skip)) | dsimp only

theorem noMajority_ev {s0 : State} {s : State} (hv : Ev s0 s) : Ev s0 (noMajority s) := by
  unfold noMajority
  repeat' with_reducible first
    | assumption | (intro _) | apply record_ev | apply voterFault_ev | split
    | (fail_if_no_progress (apply Ev.of_mk <;> first | exact fun h => h | skip)) | dsimp only

theorem coreDisagrees_ev {s0 : State} (n : Nat) {s : State} (hv : Ev s0 s) : Ev s0 (coreDisagrees n s) := by
  unfold coreDisagrees
  repeat' with_reducible first
    | assumption | (intro _) | apply Ev.ite | apply maskCore_ev | apply noMajority_ev | split
    | (fail_if_no_progress (apply Ev.of_mk <;> first | exact fun h => h | skip)) | dsimp only

theorem execVoterDisagreement_ev (n : Option (Fin 3)) {s t : State} (hx : execVoterDisagreement n s = .next t)
    : Ev s t := by
  unfold execVoterDisagreement at hx
  obtain rfl := Host.Outcome.next.inj hx
  have hv := Ev.refl s
  repeat' with_reducible first
    | assumption | (intro _) | apply Ev.ite | apply noMajority_ev | apply coreDisagrees_ev | split
    | (fail_if_no_progress (apply Ev.of_mk <;> first | exact fun h => h | skip)) | dsimp only

theorem compareSignatures_ev {s0 : State} (sig : Nat → Word64) {s : State} (hv : Ev s0 s) : Ev s0
    (compareSignatures sig s) := by
  unfold compareSignatures
  repeat' with_reducible first
    | assumption | (intro _) | apply Ev.ite | apply maskCore_ev | apply noMajority_ev | split
    | (fail_if_no_progress (apply Ev.of_mk <;> first | exact fun h => h | skip)) | dsimp only

theorem execSignatureWindowEnd_ev (s0 s1 s2 : Word64) {s t : State} (hx
    : execSignatureWindowEnd s0 s1 s2 s = .next t) : Ev s t := by
  unfold execSignatureWindowEnd at hx
  obtain rfl := Host.Outcome.next.inj hx
  have hv := Ev.refl s
  repeat' with_reducible first
    | assumption | (intro _) | apply Ev.ite | apply Ev.foldl | apply setCore_ev | apply compareSignatures_ev
    | split | (fail_if_no_progress (apply Ev.of_mk <;> first | exact fun h => h | skip)) | dsimp only

theorem alignFault_ev {s0 : State} (n : Nat) {s : State} (hv : Ev s0 s) : Ev s0 (alignFault n s) := by
  unfold alignFault
  repeat' with_reducible first
    | assumption | (intro _) | apply Ev.ite | apply record_ev | apply setCore_ev | apply retireCore_ev | split
    | (fail_if_no_progress (apply Ev.of_mk <;> first | exact fun h => h | skip)) | dsimp only

theorem execCoreSelfTestDone_ev (n : Fin 3) (pass : Bool) {s t : State} (hx
    : execCoreSelfTestDone n pass s = .next t) : Ev s t := by
  unfold execCoreSelfTestDone at hx
  obtain rfl := Host.Outcome.next.inj hx
  have hv := Ev.refl s
  repeat' with_reducible first
    | assumption | (intro _) | apply Ev.ite | apply setCore_ev | apply retireCore_ev | apply alignFault_ev | split
    | (fail_if_no_progress (apply Ev.of_mk <;> first | exact fun h => h | skip)) | dsimp only

theorem execVoterFault_ev {s t : State} (hx : execVoterFault s = .next t) : Ev s t := by
  unfold execVoterFault at hx
  obtain rfl := Host.Outcome.next.inj hx
  have hv := Ev.refl s
  repeat' with_reducible first
    | assumption | (intro _) | apply Ev.ite | apply record_ev | apply voterFault_ev | split
    | (fail_if_no_progress (apply Ev.of_mk <;> first | exact fun h => h | skip)) | dsimp only

theorem splitFault_ev {s0 : State} {s : State} (hv : Ev s0 s) : Ev s0 (splitFault s) := by
  unfold splitFault
  repeat' with_reducible first
    | assumption | (intro _) | apply assertSource_ev | split
    | (fail_if_no_progress (apply Ev.of_mk <;> first | exact fun h => h | skip)) | dsimp only

theorem execHeartbeatMissed_ev (n : Fin 2) {s t : State} (hx : execHeartbeatMissed n s = .next t) : Ev s t := by
  unfold execHeartbeatMissed at hx
  obtain rfl := Host.Outcome.next.inj hx
  have hv := Ev.refl s
  repeat' with_reducible first
    | assumption | (intro _) | apply Ev.ite | apply setCore_ev | apply splitFault_ev | split
    | (fail_if_no_progress (apply Ev.of_mk <;> first | exact fun h => h | skip)) | dsimp only

theorem execSplitSelfTest_ev (pass : Bool) {s t : State} (hx : execSplitSelfTest pass s = .next t) : Ev s t := by
  unfold execSplitSelfTest at hx
  obtain rfl := Host.Outcome.next.inj hx
  have hv := Ev.refl s
  repeat' with_reducible first
    | assumption | (intro _) | apply Ev.ite | apply splitFault_ev | split
    | (fail_if_no_progress (apply Ev.of_mk <;> first | exact fun h => h | skip)) | dsimp only

theorem expireWdt_ev {s0 : State} {s : State} (hv : Ev s0 s) : Ev s0 (expireWdt s) := by
  unfold expireWdt
  repeat' with_reducible first
    | assumption | (intro _) | apply assertSource_ev | split
    | (fail_if_no_progress (apply Ev.of_mk <;> first | exact fun h => h | skip)) | dsimp only

theorem kickWdt_ev {s0 : State} (v : Word16) {s : State} (hv : Ev s0 s) : Ev s0 (kickWdt v s) := by
  unfold kickWdt
  repeat' with_reducible first
    | assumption | (intro _) | apply Ev.ite | apply expireWdt_ev | split
    | (fail_if_no_progress (apply Ev.of_mk <;> first | exact fun h => h | skip)) | dsimp only

theorem execSafWdtKick_ev (v : Word16) {s t : State} (hx : execSafWdtKick v s = .next t) : Ev s t := by
  unfold execSafWdtKick at hx
  obtain rfl := Host.Outcome.next.inj hx
  have hv := Ev.refl s
  repeat' with_reducible first
    | assumption | (intro _) | apply kickWdt_ev | split
    | (fail_if_no_progress (apply Ev.of_mk <;> first | exact fun h => h | skip)) | dsimp only

theorem execSafetyWdt_ev {s t : State} (hx : execSafetyWdt s = .next t) : Ev s t := by
  unfold execSafetyWdt at hx
  obtain rfl := Host.Outcome.next.inj hx
  have hv := Ev.refl s
  repeat' with_reducible first
    | assumption | (intro _) | apply Ev.ite | apply reachClock_ev | apply expireWdt_ev | split
    | (fail_if_no_progress (apply Ev.of_mk <;> first | exact fun h => h | skip)) | dsimp only

theorem setEsmAck_ev {s0 : State} (high : Bool) {s : State} (hv : Ev s0 s) : Ev s0 (setEsmAck high s) := by
  unfold setEsmAck
  repeat' with_reducible first
    | assumption | (intro _) | apply Ev.ite | apply emit_ev | split
    | (fail_if_no_progress (apply Ev.of_mk <;> first | exact fun h => h | skip)) | dsimp only

theorem execEsmReqRise_ev {s t : State} (hx : execEsmReqRise s = .next t) : Ev s t := by
  unfold execEsmReqRise at hx
  obtain rfl := Host.Outcome.next.inj hx
  have hv := Ev.refl s
  repeat' with_reducible first
    | assumption | (intro _) | apply Ev.ite | apply setEsmAck_ev | split
    | (fail_if_no_progress (apply Ev.of_mk <;> first | exact fun h => h | skip)) | dsimp only

theorem execEsmReqFall_ev {s t : State} (hx : execEsmReqFall s = .next t) : Ev s t := by
  unfold execEsmReqFall at hx
  obtain rfl := Host.Outcome.next.inj hx
  have hv := Ev.refl s
  repeat' with_reducible first
    | assumption | (intro _) | apply setEsmAck_ev | split
    | (fail_if_no_progress (apply Ev.of_mk <;> first | exact fun h => h | skip)) | dsimp only

theorem execFaultIn_ev (lowNs : Nat) {s t : State} (hx : execFaultIn lowNs s = .next t) : Ev s t := by
  unfold execFaultIn at hx
  obtain rfl := Host.Outcome.next.inj hx
  have hv := Ev.refl s
  repeat' with_reducible first
    | assumption | (intro _) | apply Ev.ite | apply record_ev | apply escalate_ev | split
    | (fail_if_no_progress (apply Ev.of_mk <;> first | exact fun h => h | skip)) | dsimp only

theorem execTimeWMismatch_ev (agreesWithA : Bool) {s t : State} (hx : execTimeWMismatch agreesWithA s = .next t)
    : Ev s t := by
  unfold execTimeWMismatch at hx
  obtain rfl := Host.Outcome.next.inj hx
  have hv := Ev.refl s
  repeat' with_reducible first
    | assumption | (intro _) | apply Ev.ite | apply record_ev | apply escalate_ev | split
    | (fail_if_no_progress (apply Ev.of_mk <;> first | exact fun h => h | skip)) | dsimp only

theorem followPwrGood_ev {s0 : State} {s : State} (hv : Ev s0 s) : Ev s0 (followPwrGood s) := by
  unfold followPwrGood
  repeat' with_reducible first
    | assumption | (intro _) | apply Ev.ite | apply emit_ev | split
    | (fail_if_no_progress (apply Ev.of_mk <;> first | exact fun h => h | skip)) | dsimp only

theorem mainLost_ev {s0 : State} {s : State} (hv : Ev s0 s) : Ev s0 (mainLost s) := by
  unfold mainLost
  repeat' with_reducible first
    | assumption | (intro _) | apply Ev.ite | apply assertSource_ev | apply reachStandby_ev | split
    | (fail_if_no_progress (apply Ev.of_mk <;> first | exact fun h => h | skip)) | dsimp only

theorem execSupplyInvalid_setEsmAckOff_ev {s0 : State} (x : Supply) {s : State} (hv : Ev s0 s) : Ev s0
    (execSupplyInvalid.setEsmAckOff x s) := by
  unfold execSupplyInvalid.setEsmAckOff
  repeat' with_reducible first
    | assumption | (intro _) | apply Ev.ite | apply Ev.foldl | apply setEsmAck_ev | split
    | (fail_if_no_progress (apply Ev.of_mk <;> first | exact fun h => h | skip)) | dsimp only

theorem execSupplyInvalid_ev (x : Supply) {s t : State} (hx : execSupplyInvalid x s = .next t) : Ev s t := by
  unfold execSupplyInvalid at hx
  obtain rfl := Host.Outcome.next.inj hx
  have hv := Ev.refl s
  repeat' with_reducible first
    | assumption | (intro _) | apply Ev.ite | apply execSupplyInvalid_setEsmAckOff_ev | apply hlthLow_ev
    | apply assertSource_ev | apply followPwrGood_ev | apply mainLost_ev | split
    | (fail_if_no_progress (apply Ev.of_mk <;> first | exact fun h => h | skip)) | dsimp only

theorem execSupplyValid_ev (x : Supply) {s t : State} (hx : execSupplyValid x s = .next t) : Ev s t := by
  unfold execSupplyValid at hx
  obtain rfl := Host.Outcome.next.inj hx
  have hv := Ev.refl s
  repeat' with_reducible first
    | assumption | (intro _) | apply followPwrGood_ev | split
    | (fail_if_no_progress (apply Ev.of_mk <;> first | exact fun h => h | skip)) | dsimp only

theorem execVmonOk_ev (high : Bool) {s t : State} (hx : execVmonOk high s = .next t) : Ev s t := by
  unfold execVmonOk at hx
  obtain rfl := Host.Outcome.next.inj hx
  have hv := Ev.refl s
  repeat' with_reducible first
    | assumption | (intro _) | apply Ev.ite | apply assertSource_ev | split
    | (fail_if_no_progress (apply Ev.of_mk <;> first | exact fun h => h | skip)) | dsimp only

theorem execStandbyTimeout_ev {s t : State} (hx : execStandbyTimeout s = .next t) : Ev s t := by
  unfold execStandbyTimeout at hx
  obtain rfl := Host.Outcome.next.inj hx
  have hv := Ev.refl s
  repeat' with_reducible first
    | assumption | (intro _) | apply Ev.ite | apply reachClock_ev | apply applyReach_ev | apply reachStandby_ev
    | split | (fail_if_no_progress (apply Ev.of_mk <;> first | exact fun h => h | skip)) | dsimp only

theorem execPeerHlthToggle_ev {s t : State} (hx : execPeerHlthToggle s = .next t) : Ev s t := by
  unfold execPeerHlthToggle at hx
  obtain rfl := Host.Outcome.next.inj hx
  have hv := Ev.refl s
  repeat' with_reducible first
    | assumption | (intro _) | apply Ev.ite | apply emit_ev | apply reachClock_ev | apply hlthLow_ev | split
    | (fail_if_no_progress (apply Ev.of_mk <;> first | exact fun h => h | skip)) | dsimp only

theorem execPeerIntPulse_ev (highNs : Nat) {s t : State} (hx : execPeerIntPulse highNs s = .next t) : Ev s t := by
  unfold execPeerIntPulse at hx
  obtain rfl := Host.Outcome.next.inj hx
  have hv := Ev.refl s
  repeat' with_reducible first
    | assumption | (intro _) | apply Ev.ite | apply raiseInt_ev | apply assertSource_ev | split
    | (fail_if_no_progress (apply Ev.of_mk <;> first | exact fun h => h | skip)) | dsimp only

/-! Machine/Update.lean. -/

theorem writeSlot_ev {s0 : State} (g : BankSlot → BankSlot) {s : State} (hv : Ev s0 s) : Ev s0 (writeSlot g s) := by
  unfold writeSlot
  repeat' with_reducible first
    | assumption | (intro _) | apply Ev.ite | split
    | (fail_if_no_progress (apply Ev.of_mk <;> first | exact fun h => h | skip)) | dsimp only

theorem revertTrial_ev {s0 : State} {s : State} (hv : Ev s0 s) : Ev s0 (revertTrial s) := by
  unfold revertTrial
  repeat' with_reducible first
    | assumption | (intro _) | apply record_ev | apply writeSlot_ev | split
    | (fail_if_no_progress (apply Ev.of_mk <;> first | exact fun h => h | skip)) | dsimp only

theorem setUpdSession_ev {s0 : State} (t : Nat) (x : Option UpdSession) {s : State} (hv : Ev s0 s) : Ev s0
    (setUpdSession t x s) := by
  unfold setUpdSession
  repeat' with_reducible first
    | assumption | (intro _) | apply Ev.ite | split
    | (fail_if_no_progress (apply Ev.of_mk <;> first | exact fun h => h | skip)) | dsimp only

theorem updBegin_ev {s0 : State} (r : Req) {s : State} (hv : Ev s0 s) : Ev s0 (updBegin r s) := by
  unfold updBegin
  repeat' with_reducible first
    | assumption | (intro _) | apply Ev.ite | apply wakeRequest_ev | apply revertTrial_ev | split
    | (fail_if_no_progress (apply Ev.of_mk <;> first | exact fun h => h | exact fun h => Mem.writeAll_is h _ _ | exact fun _ => Mem.writeAll_is (Mem.blank_is _) _ _ | exact fun _ => Mem.blank_is _ | exact fun _ => Mem.empty_is _ | exact fun h => img_write h _ _ _ | exact fun h => nor_write h _ _ _ | exact fun h => nor_erase h _ _ | skip)) | dsimp only

theorem updBeginOp_ev : OpEv updBeginOp := by
  unfold updBeginOp
  constructor <;> intro r s0 s hv <;> dsimp only <;>
  repeat' with_reducible first
    | assumption | (intro _) | apply Ev.ite | apply answer_ev | apply updBegin_ev | split
    | (fail_if_no_progress (apply Ev.of_mk <;> first | exact fun h => h | skip)) | dsimp only

theorem execUpdBegin_ev (c : CmdSource) {s t : State} (hx : execUpdBegin c s = .next t) : Ev s t := by
  unfold execUpdBegin at hx
  obtain rfl := Host.Outcome.next.inj hx
  have hv := Ev.refl s
  repeat' with_reducible first
    | assumption | (intro _) | apply runCommand_ev | exact updBeginOp_ev | apply updBeginOp_ev.commit | split
    | (fail_if_no_progress (apply Ev.of_mk <;> first | exact fun h => h | skip)) | dsimp only

theorem updChunk_ev {s0 : State} (r : Req) {s : State} (hv : Ev s0 s) : Ev s0 (updChunk r s) := by
  unfold updChunk
  repeat' with_reducible first
    | assumption | (intro _) | apply Ev.ite | apply setUpdSession_ev | split
    | (fail_if_no_progress (apply Ev.of_mk <;> first | exact fun h => h | exact fun h => Mem.writeAll_is h _ _ | exact fun _ => Mem.writeAll_is (Mem.blank_is _) _ _ | exact fun _ => Mem.blank_is _ | exact fun _ => Mem.empty_is _ | exact fun h => img_write h _ _ _ | exact fun h => nor_write h _ _ _ | exact fun h => nor_erase h _ _ | skip)) | dsimp only

theorem updChunkOp_ev : OpEv updChunkOp := by
  unfold updChunkOp
  constructor <;> intro r s0 s hv <;> dsimp only <;>
  repeat' with_reducible first
    | assumption | (intro _) | apply Ev.ite | apply answer_ev | apply updChunk_ev | split
    | (fail_if_no_progress (apply Ev.of_mk <;> first | exact fun h => h | skip)) | dsimp only

theorem execUpdChunk_ev (c : CmdSource) {s t : State} (hx : execUpdChunk c s = .next t) : Ev s t := by
  unfold execUpdChunk at hx
  obtain rfl := Host.Outcome.next.inj hx
  have hv := Ev.refl s
  repeat' with_reducible first
    | assumption | (intro _) | apply runCommand_ev | exact updChunkOp_ev | apply updChunkOp_ev.commit | split
    | (fail_if_no_progress (apply Ev.of_mk <;> first | exact fun h => h | skip)) | dsimp only

theorem failedUpdResult_ev {s0 : State} (bank : Mem) (e : ManifestFailure) {s : State} (hv : Ev s0 s) : Ev s0
    (failedUpdResult bank e s).2 := by
  unfold failedUpdResult
  repeat' with_reducible first
    | assumption | (intro _) | apply Ev.ite | apply Ev.ite2 | apply drawBytes_ev | split
    | refine Ev.of_eq1 ?_ (by assumption) | refine Ev.of_eq2 ?_ (by assumption)
    | (fail_if_no_progress (apply Ev.of_mk <;> first | exact fun h => h | skip)) | dsimp only

theorem updVerifyOwn_ev {s0 : State} (r : Req) (x : UpdSession) {s : State} (hv : Ev s0 s) : Ev s0
    (updVerifyOwn r x s) := by
  unfold updVerifyOwn
  repeat' with_reducible first
    | assumption | (intro _) | apply Ev.ite2 | apply answer_ev | apply failedUpdResult_ev | split
    | refine Ev.of_eq1 ?_ (by assumption) | refine Ev.of_eq2 ?_ (by assumption)
    | (fail_if_no_progress (apply Ev.of_mk <;> first | exact fun h => h | skip)) | dsimp only

theorem updVerifyPeer_ev {s0 : State} (r : Req) (x : UpdSession) {s : State} (hv : Ev s0 s) : Ev s0
    (updVerifyPeer r x s) := by
  unfold updVerifyPeer
  repeat' with_reducible first
    | assumption | (intro _) | apply Ev.ite2 | apply drawNat_ev | apply answer_ev | apply failedUpdResult_ev
    | split | refine Ev.of_eq1 ?_ (by assumption) | refine Ev.of_eq2 ?_ (by assumption)
    | (fail_if_no_progress (apply Ev.of_mk <;> first | exact fun h => h | skip)) | dsimp only

theorem updVerifyOp_ev : OpEv updVerifyOp := by
  unfold updVerifyOp
  constructor <;> intro r s0 s hv <;> dsimp only <;>
  repeat' with_reducible first
    | assumption | (intro _) | apply Ev.ite | apply updVerifyOwn_ev | apply updVerifyPeer_ev | split
    | (fail_if_no_progress (apply Ev.of_mk <;> first | exact fun h => h | skip)) | dsimp only

theorem execUpdVerify_ev (c : CmdSource) {s t : State} (hx : execUpdVerify c s = .next t) : Ev s t := by
  unfold execUpdVerify at hx
  obtain rfl := Host.Outcome.next.inj hx
  have hv := Ev.refl s
  repeat' with_reducible first
    | assumption | (intro _) | apply runCommand_ev | exact updVerifyOp_ev | apply updVerifyOp_ev.commit | split
    | (fail_if_no_progress (apply Ev.of_mk <;> first | exact fun h => h | skip)) | dsimp only

theorem updStageOp_ev : OpEv updStageOp := by
  unfold updStageOp
  constructor <;> intro r s0 s hv <;> dsimp only <;>
  repeat' with_reducible first
    | assumption | (intro _) | apply Ev.ite | apply noteBusy_ev | apply answer_ev | apply setUpdSession_ev | split
    | (fail_if_no_progress (apply Ev.of_mk <;> first | exact fun h => h | skip)) | dsimp only

theorem execUpdStage_ev (c : CmdSource) {s t : State} (hx : execUpdStage c s = .next t) : Ev s t := by
  unfold execUpdStage at hx
  obtain rfl := Host.Outcome.next.inj hx
  have hv := Ev.refl s
  repeat' with_reducible first
    | assumption | (intro _) | apply runCommand_ev | exact updStageOp_ev | apply updStageOp_ev.commit | split
    | (fail_if_no_progress (apply Ev.of_mk <;> first | exact fun h => h | skip)) | dsimp only

theorem updActivate_ev {s0 : State} (bank : Nat) {s : State} (hv : Ev s0 s) : Ev s0 (updActivate bank s) := by
  unfold updActivate
  repeat' with_reducible first
    | assumption | (intro _) | apply Ev.ite | apply writeSlot_ev | split
    | (fail_if_no_progress (apply Ev.of_mk <;> first | exact fun h => h | skip)) | dsimp only

theorem updActivateOp_ev : OpEv updActivateOp := by
  unfold updActivateOp
  constructor <;> intro r s0 s hv <;> dsimp only <;>
  repeat' with_reducible first
    | assumption | (intro _) | apply Ev.ite | apply answer_ev | apply setUpdSession_ev | apply updActivate_ev
    | split | (fail_if_no_progress (apply Ev.of_mk <;> first | exact fun h => h | skip)) | dsimp only

theorem execUpdActivate_ev (c : CmdSource) {s t : State} (hx : execUpdActivate c s = .next t) : Ev s t := by
  unfold execUpdActivate at hx
  obtain rfl := Host.Outcome.next.inj hx
  have hv := Ev.refl s
  repeat' with_reducible first
    | assumption | (intro _) | apply runCommand_ev | exact updActivateOp_ev | apply updActivateOp_ev.commit | split
    | (fail_if_no_progress (apply Ev.of_mk <;> first | exact fun h => h | skip)) | dsimp only

theorem raiseRollbacks_ev {s0 : State} (parts : List (Nat × Nat × Nat × Bytes)) {s : State} (hv : Ev s0 s) : Ev s0
    (raiseRollbacks parts s) := by
  unfold raiseRollbacks
  repeat' with_reducible first
    | assumption | (intro _) | apply Ev.ite | apply Ev.foldl | split
    | (fail_if_no_progress (apply Ev.of_mk <;> first | exact fun h => h | skip)) | dsimp only

theorem updConfirmOp_ev : OpEv updConfirmOp := by
  unfold updConfirmOp
  constructor <;> intro r s0 s hv <;> dsimp only <;>
  repeat' with_reducible first
    | assumption | (intro _) | apply answer_ev | apply writeSlot_ev | apply raiseRollbacks_ev | split
    | (fail_if_no_progress (apply Ev.of_mk <;> first | exact fun h => h | skip)) | dsimp only

theorem execUpdConfirm_ev (c : CmdSource) {s t : State} (hx : execUpdConfirm c s = .next t) : Ev s t := by
  unfold execUpdConfirm at hx
  obtain rfl := Host.Outcome.next.inj hx
  have hv := Ev.refl s
  repeat' with_reducible first
    | assumption | (intro _) | apply runCommand_ev | exact updConfirmOp_ev | apply updConfirmOp_ev.commit | split
    | (fail_if_no_progress (apply Ev.of_mk <;> first | exact fun h => h | skip)) | dsimp only

theorem updStatusOp_ev : OpEv updStatusOp := by
  unfold updStatusOp
  constructor <;> intro r s0 s hv <;> dsimp only <;>
  repeat' with_reducible first
    | assumption | (intro _) | apply answer_ev | split
    | (fail_if_no_progress (apply Ev.of_mk <;> first | exact fun h => h | skip)) | dsimp only

theorem execUpdStatus_ev (c : CmdSource) {s t : State} (hx : execUpdStatus c s = .next t) : Ev s t := by
  unfold execUpdStatus at hx
  obtain rfl := Host.Outcome.next.inj hx
  have hv := Ev.refl s
  repeat' with_reducible first
    | assumption | (intro _) | apply runCommand_ev | exact updStatusOp_ev | apply updStatusOp_ev.commit | split
    | (fail_if_no_progress (apply Ev.of_mk <;> first | exact fun h => h | skip)) | dsimp only

theorem execUpdResetNow_ev {s t : State} (hx : execUpdResetNow s = .next t) : Ev s t := by
  unfold execUpdResetNow at hx
  obtain rfl := Host.Outcome.next.inj hx
  have hv := Ev.refl s
  repeat' with_reducible first
    | assumption | (intro _) | apply Ev.ite | apply reachClock_ev | apply assertGlobal_ev | split
    | (fail_if_no_progress (apply Ev.of_mk <;> first | exact fun h => h | skip)) | dsimp only

theorem execLcReset_ev {s t : State} (hx : execLcReset s = .next t) : Ev s t := by
  unfold execLcReset at hx
  obtain rfl := Host.Outcome.next.inj hx
  have hv := Ev.refl s
  repeat' with_reducible first
    | assumption | (intro _) | apply Ev.ite | apply reachClock_ev | apply assertGlobal_ev | split
    | (fail_if_no_progress (apply Ev.of_mk <;> first | exact fun h => h | skip)) | dsimp only

/-! Machine/Recorder.lean. -/

theorem execEvrRecordWrite_ev {s t : State} (hx : execEvrRecordWrite s = .next t) : Ev s t := by
  unfold execEvrRecordWrite at hx
  obtain rfl := Host.Outcome.next.inj hx
  have hv := Ev.refl s
  repeat' with_reducible first
    | assumption | (intro _) | apply Ev.ite | apply recordNow_ev | split
    | (fail_if_no_progress (apply Ev.of_mk <;> first | exact fun h => h | skip)) | dsimp only

theorem evrReadOp_ev : OpEv evrReadOp := by
  unfold evrReadOp
  constructor <;> intro r s0 s hv <;> dsimp only <;>
  repeat' with_reducible first
    | assumption | (intro _) | apply Ev.ite | apply answer_ev | split
    | (fail_if_no_progress (apply Ev.of_mk <;> first | exact fun h => h | skip)) | dsimp only

theorem execEvrRead_ev (c : CmdSource) {s t : State} (hx : execEvrRead c s = .next t) : Ev s t := by
  unfold execEvrRead at hx
  obtain rfl := Host.Outcome.next.inj hx
  have hv := Ev.refl s
  repeat' with_reducible first
    | assumption | (intro _) | apply runCommand_ev | exact evrReadOp_ev | apply evrReadOp_ev.commit | split
    | (fail_if_no_progress (apply Ev.of_mk <;> first | exact fun h => h | skip)) | dsimp only

theorem completeClear_ev {s0 : State} {s : State} (hv : Ev s0 s) : Ev s0 (completeClear s) := by
  unfold completeClear
  repeat' with_reducible first
    | assumption | (intro _) | apply settleClear_ev | apply finalReply_ev | split
    | (fail_if_no_progress (apply Ev.of_mk <;> first | exact fun h => h | skip)) | dsimp only

theorem evrClearOp_ev : OpEv evrClearOp := by
  unfold evrClearOp
  constructor <;> intro r s0 s hv <;> dsimp only <;>
  repeat' with_reducible first
    | assumption | (intro _) | apply Ev.ite | apply Ev.ite2 | apply drawBytes_ev | apply answer_ev
    | apply completeClear_ev | split | refine Ev.of_eq1 ?_ (by assumption) | refine Ev.of_eq2 ?_ (by assumption)
    | (fail_if_no_progress (apply Ev.of_mk <;> first | exact fun h => h | skip)) | dsimp only

theorem execEvrClear_ev (c : CmdSource) {s t : State} (hx : execEvrClear c s = .next t) : Ev s t := by
  unfold execEvrClear at hx
  obtain rfl := Host.Outcome.next.inj hx
  have hv := Ev.refl s
  repeat' with_reducible first
    | assumption | (intro _) | apply runCommand_ev | exact evrClearOp_ev | apply evrClearOp_ev.commit | split
    | (fail_if_no_progress (apply Ev.of_mk <;> first | exact fun h => h | skip)) | dsimp only

theorem execEvrClearComplete_ev {s t : State} (hx : execEvrClearComplete s = .next t) : Ev s t := by
  unfold execEvrClearComplete at hx
  obtain rfl := Host.Outcome.next.inj hx
  have hv := Ev.refl s
  repeat' with_reducible first
    | assumption | (intro _) | apply Ev.ite | apply completeClear_ev | split
    | (fail_if_no_progress (apply Ev.of_mk <;> first | exact fun h => h | skip)) | dsimp only

theorem execClearNonceExpiry_ev {s t : State} (hx : execClearNonceExpiry s = .next t) : Ev s t := by
  unfold execClearNonceExpiry at hx
  obtain rfl := Host.Outcome.next.inj hx
  have hv := Ev.refl s
  repeat' with_reducible first
    | assumption | (intro _) | apply reachClock_ev | split
    | (fail_if_no_progress (apply Ev.of_mk <;> first | exact fun h => h | skip)) | dsimp only

end Sys2Proof.Machine
end

