-- ==== Sys2Proof/Laws/EvolvePair.lean ====
section
/-!
SUPPORT. Each operation and command of boot, registers, the peer bridge, the pair and the command transports only lets fuses blow, keeps the memories canonical and leaves the queue alone:
one lemma per definition.
-/
set_option linter.unusedTactic false
set_option linter.unreachableTactic false
set_option linter.unusedVariables false

namespace Sys2Proof.Machine

/-! Machine/Boot.lean. -/

theorem resetBlock_ev {s0 : State} (kind index : Nat) {s : State} (hv : Ev s0 s) : Ev s0 (resetBlock kind index s)
    := by
  unfold resetBlock
  repeat' with_reducible first
    | assumption | (intro _) | apply Ev.ite | apply setPort_ev | apply setStb_ev | apply setEgress_ev
    | apply setHstRing_ev | apply setCh_ev | split
    | (fail_if_no_progress (apply Ev.of_mk <;> first | exact fun h => h | skip)) | dsimp only

theorem rstBlockOp_ev : OpEv rstBlockOp := by
  unfold rstBlockOp
  constructor <;> intro r s0 s hv <;> dsimp only <;>
  repeat' with_reducible first
    | assumption | (intro _) | apply Ev.ite | apply resetBlock_ev | split
    | (fail_if_no_progress (apply Ev.of_mk <;> first | exact fun h => h | skip)) | dsimp only

theorem execRstBlock_ev (c : CmdSource) {s t : State} (hx : execRstBlock c s = .next t) : Ev s t := by
  unfold execRstBlock at hx
  obtain rfl := Host.Outcome.next.inj hx
  have hv := Ev.refl s
  repeat' with_reducible first
    | assumption | (intro _) | apply runCommand_ev | exact rstBlockOp_ev | apply rstBlockOp_ev.commit | split
    | (fail_if_no_progress (apply Ev.of_mk <;> first | exact fun h => h | skip)) | dsimp only

theorem execRstBlockRelease_ev {s t : State} (hx : execRstBlockRelease s = .next t) : Ev s t := by
  unfold execRstBlockRelease at hx
  obtain rfl := Host.Outcome.next.inj hx
  have hv := Ev.refl s
  repeat' with_reducible first
    | assumption | (intro _) | apply finalReply_ev | split
    | (fail_if_no_progress (apply Ev.of_mk <;> first | exact fun h => h | skip)) | dsimp only

theorem rstGlobalOp_ev : OpEv rstGlobalOp := by
  unfold rstGlobalOp
  constructor <;> intro r s0 s hv <;> dsimp only <;>
  repeat' with_reducible first
    | assumption | (intro _) | apply Ev.ite | apply assertGlobal_ev | split
    | (fail_if_no_progress (apply Ev.of_mk <;> first | exact fun h => h | skip)) | dsimp only

theorem execRstGlobal_ev (c : CmdSource) {s t : State} (hx : execRstGlobal c s = .next t) : Ev s t := by
  unfold execRstGlobal at hx
  obtain rfl := Host.Outcome.next.inj hx
  have hv := Ev.refl s
  repeat' with_reducible first
    | assumption | (intro _) | apply runCommand_ev | exact rstGlobalOp_ev | apply rstGlobalOp_ev.commit | split
    | (fail_if_no_progress (apply Ev.of_mk <;> first | exact fun h => h | skip)) | dsimp only

theorem replyGlobals_ev {s0 : State} {s : State} (hv : Ev s0 s) : Ev s0 (replyGlobals s) := by
  unfold replyGlobals
  repeat' with_reducible first
    | assumption | (intro _) | apply Ev.foldl | apply finalReply_ev | split
    | (fail_if_no_progress (apply Ev.of_mk <;> first | exact fun h => h | skip)) | dsimp only

theorem countEpisode_ev {s0 : State} (e : Episode) {s : State} (hv : Ev s0 s) : Ev s0 (countEpisode e s) := by
  unfold countEpisode
  repeat' with_reducible first
    | assumption | (intro _) | apply Ev.ite | apply Ev.foldl | split
    | (fail_if_no_progress (apply Ev.of_mk <;> first | exact fun h => h | skip)) | dsimp only

theorem takeStraps_ev {s0 : State} (r : Nat) (x : Straps) {s : State} (hv : Ev s0 s) : Ev s0 (takeStraps r x s) := by
  unfold takeStraps
  repeat' with_reducible first
    | assumption | (intro _) | apply Ev.ite | split
    | (fail_if_no_progress (apply Ev.of_mk <;> first | exact fun h => h | skip)) | dsimp only

theorem readFuses_ev {s0 : State} {s : State} (hv : Ev s0 s) : Ev s0 (readFuses s) :=
  Ev.of_otp hv (FusesKept.readOut _ _ _ _)

theorem bootPort_ev {s0 : State} (wake : Bool) (cfg : PortCfg) (p : Nat) {s : State} (hv : Ev s0 s) : Ev s0
    (bootPort wake cfg p s) := by
  unfold bootPort
  repeat' with_reducible first
    | assumption | (intro _) | apply Ev.ite | apply setPort_ev | split
    | (fail_if_no_progress (apply Ev.of_mk <;> first | exact fun h => h | skip)) | dsimp only

theorem bootPorts_ev {s0 : State} (wake : Bool) {s : State} (hv : Ev s0 s) : Ev s0 (bootPorts wake s) := by
  unfold bootPorts
  repeat' with_reducible first
    | assumption | (intro _) | apply Ev.foldl | apply bootPort_ev | split
    | (fail_if_no_progress (apply Ev.of_mk <;> first | exact fun h => h | skip)) | dsimp only

theorem startClock_ev {s0 : State} {s : State} (hv : Ev s0 s) : Ev s0 (startClock s) :=
  Ev.of_mk hv (fun m => m) (fun m => m) (fun m => m) (fun m => m) (fun m => m) (fun m => m)

theorem sendDeferred_ev {s0 : State} {s : State} (hv : Ev s0 s) : Ev s0 (sendDeferred s) := by
  unfold sendDeferred
  repeat' with_reducible first
    | assumption | (intro _) | apply Ev.foldl | apply signalSource_ev | split
    | (fail_if_no_progress (apply Ev.of_mk <;> first | exact fun h => h | skip)) | dsimp only

theorem resetRecord_ev {s0 : State} {s : State} (hv : Ev s0 s) : Ev s0 (resetRecord s) := by
  unfold resetRecord
  repeat' with_reducible first
    | assumption | (intro _) | apply Ev.ite | apply record_ev | split
    | (fail_if_no_progress (apply Ev.of_mk <;> first | exact fun h => h | skip)) | dsimp only

theorem reloadImage_ev {s0 : State} {s : State} (hv : Ev s0 s) : Ev s0 (reloadImage s) := by
  unfold reloadImage
  repeat' with_reducible first
    | assumption | (intro _) | apply loadImage_ev | split
    | (fail_if_no_progress (apply Ev.of_mk <;> first | exact fun h => h | skip)) | dsimp only

theorem endEpisode_ev {s0 : State} (e : Episode) (straps : Straps) (badLanes : List Nat) {s : State} (hv : Ev s0 s)
    : Ev s0 (endEpisode e straps badLanes s) := by
  unfold endEpisode
  repeat' with_reducible first
    | assumption | (intro _) | apply Ev.ite | apply testAllCores_ev | apply countEpisode_ev | apply takeStraps_ev
    | apply readFuses_ev | apply bootPorts_ev | apply startClock_ev | apply sendDeferred_ev | apply resetRecord_ev
    | apply reloadImage_ev | split
    | (fail_if_no_progress (apply Ev.of_mk <;> first | exact fun h => h | skip)) | dsimp only

theorem dropSource_ev {s0 : State} (src : Nat) {s : State} (hv : Ev s0 s) : Ev s0 (dropSource src s) := by
  unfold dropSource
  repeat' with_reducible first
    | assumption | (intro _) | apply Ev.ite | apply driveInh_ev | split
    | (fail_if_no_progress (apply Ev.of_mk <;> first | exact fun h => h | skip)) | dsimp only

theorem execResetSourceRelease_ev (source : Fin 16) (straps : Straps) (badLanes : List (Fin 36)) {s t : State} (hx
    : execResetSourceRelease source straps badLanes s = .next t) : Ev s t := by
  unfold execResetSourceRelease at hx
  obtain rfl := Host.Outcome.next.inj hx
  have hv := Ev.refl s
  repeat' with_reducible first
    | assumption | (intro _) | apply Ev.ite | apply endEpisode_ev | apply dropSource_ev | split
    | (fail_if_no_progress (apply Ev.of_mk <;> first | exact fun h => h | skip)) | dsimp only

theorem startCluster_ev {s0 : State} (rom : Bool) {s : State} (hv : Ev s0 s) : Ev s0 (startCluster rom s) := by
  unfold startCluster
  repeat' with_reducible first
    | assumption | (intro _) | apply Ev.ite2 | apply drawBytes_ev | split | refine Ev.of_eq1 ?_ (by assumption)
    | refine Ev.of_eq2 ?_ (by assumption)
    | (fail_if_no_progress (apply Ev.of_mk <;> first | exact fun h => h | skip)) | dsimp only

theorem fuseRecords_ev {s0 : State} {s : State} (hv : Ev s0 s) : Ev s0 (fuseRecords s) := by
  unfold fuseRecords
  repeat' with_reducible first
    | assumption | (intro _) | apply Ev.ite | apply Ev.foldl | apply record_ev | split
    | (fail_if_no_progress (apply Ev.of_mk <;> first | exact fun h => h | skip)) | dsimp only

theorem releaseRstout_ev {s0 : State} {s : State} (hv : Ev s0 s) : Ev s0 (releaseRstout s) := by
  unfold releaseRstout
  repeat' with_reducible first
    | assumption | (intro _) | apply Ev.ite | apply emit_ev | split
    | (fail_if_no_progress (apply Ev.of_mk <;> first | exact fun h => h | skip)) | dsimp only

theorem releaseFlash_ev {s0 : State} {s : State} (hv : Ev s0 s) : Ev s0 (releaseFlash s) := by
  unfold releaseFlash
  repeat' with_reducible first
    | assumption | (intro _) | apply Ev.ite | apply emit_ev | split
    | (fail_if_no_progress (apply Ev.of_mk <;> first | exact fun h => h | skip)) | dsimp only

theorem setBootWindows_ev {s0 : State} {s : State} (hv : Ev s0 s) : Ev s0 (setBootWindows s) := by
  unfold setBootWindows
  repeat' with_reducible first
    | assumption | (intro _) | apply Ev.foldl | apply Ev.foldl1 | apply Ev.foldl2 | apply Ev.ite2
    | apply drawBytes_ev | split | refine Ev.of_eq1 ?_ (by assumption) | refine Ev.of_eq2 ?_ (by assumption)
    | (fail_if_no_progress (apply Ev.of_mk <;> first | exact fun h => h | skip)) | dsimp only

theorem enterRecovery_ev {s0 : State} {s : State} (hv : Ev s0 s) : Ev s0 (enterRecovery s) := by
  unfold enterRecovery
  repeat' with_reducible first
    | assumption | (intro _) | apply Ev.foldl | apply bringUp_ev | apply startCluster_ev | apply releaseRstout_ev
    | apply releaseFlash_ev | split
    | (fail_if_no_progress (apply Ev.of_mk <;> first | exact fun h => h | skip)) | dsimp only

theorem completeSlots_ev {s0 : State} {s : State} (hv : Ev s0 s) : Ev s0 (completeSlots s) := by
  unfold completeSlots
  repeat' with_reducible first
    | assumption | (intro _) | apply Ev.ite | split
    | (fail_if_no_progress (apply Ev.of_mk <;> first | exact fun h => h | skip)) | dsimp only

theorem installPart_ev {s0 : State} (m : Manifest) (b : Nat) {s : State} (hv : Ev s0 s) : Ev s0
    (installPart m b s).2 := by
  unfold installPart
  repeat' with_reducible first
    | assumption | (intro _) | apply Ev.ite | apply Ev.ite2 | split | refine Ev.of_eq1 ?_ (by assumption)
    | refine Ev.of_eq2 ?_ (by assumption)
    | (fail_if_no_progress (apply Ev.of_mk <;> first | exact fun h => h | exact fun h => Mem.writeAll_is h _ _ | exact fun _ => Mem.writeAll_is (Mem.blank_is _) _ _ | exact fun _ => Mem.blank_is _ | exact fun _ => Mem.empty_is _ | exact fun h => img_write h _ _ _ | exact fun h => nor_write h _ _ _ | exact fun h => nor_erase h _ _ | skip)) | dsimp only

theorem bootFrom_ev {s0 : State} (m : Manifest) (b : Nat) (trial : Bool) {s : State} (hv : Ev s0 s) : Ev s0
    (bootFrom m b trial s) :=
  Ev.of_mk hv (fun m => m) (fun m => m) (fun m => m) (fun m => m) (fun m => m) (fun m => m)

theorem bootActive_ev {s0 : State} (b : Nat) {s : State} (hv : Ev s0 s) : Ev s0 (bootActive b s).2 := by
  unfold bootActive
  repeat' with_reducible first
    | assumption | (intro _) | apply Ev.ite | apply Ev.ite2 | apply raiseRollbacks_ev | apply installPart_ev
    | apply bootFrom_ev | split | refine Ev.of_eq1 ?_ (by assumption) | refine Ev.of_eq2 ?_ (by assumption)
    | (fail_if_no_progress (apply Ev.of_mk <;> first | exact fun h => h | skip)) | dsimp only

theorem bootOrdinary_ev {s0 : State} {s : State} (hv : Ev s0 s) : Ev s0 (bootOrdinary s).2 := by
  unfold bootOrdinary
  repeat' with_reducible first
    | assumption | (intro _) | apply Ev.ite | apply Ev.ite2 | apply record_ev | apply writeSlot_ev
    | apply bootActive_ev | split | refine Ev.of_eq1 ?_ (by assumption) | refine Ev.of_eq2 ?_ (by assumption)
    | (fail_if_no_progress (apply Ev.of_mk <;> first | exact fun h => h | skip)) | dsimp only

theorem chooseBank_ev {s0 : State} {s : State} (hv : Ev s0 s) : Ev s0 (chooseBank s).2 := by
  unfold chooseBank
  repeat' with_reducible first
    | assumption | (intro _) | apply Ev.ite | apply Ev.ite2 | apply writeSlot_ev | apply revertTrial_ev
    | apply completeSlots_ev | apply installPart_ev | apply bootFrom_ev | apply bootOrdinary_ev | split
    | refine Ev.of_eq1 ?_ (by assumption) | refine Ev.of_eq2 ?_ (by assumption)
    | (fail_if_no_progress (apply Ev.of_mk <;> first | exact fun h => h | skip)) | dsimp only

theorem rootAttempt_ev {s0 : State} {s : State} (hv : Ev s0 s) : Ev s0 (rootAttempt s).2 := by
  unfold rootAttempt
  repeat' with_reducible first
    | assumption | (intro _) | apply Ev.ite | apply Ev.ite2 | apply drawNat_ev | apply drawBytes_ev | split
    | refine Ev.of_eq1 ?_ (by assumption) | refine Ev.of_eq2 ?_ (by assumption)
    | (fail_if_no_progress (apply Ev.of_mk <;> first | exact fun h => h | skip)) | dsimp only

theorem rootAttempt_otp (s : State) : (rootAttempt s).2.otp = s.otp := by
  unfold rootAttempt drawBytes drawNat
  dsimp only
  split
  · rfl
  · split <;> rfl

theorem makeRootB_ev {s0 : State} {s : State} (hb : s.otp.rootBValid = false) (hv : Ev s0 s) : Ev s0 (makeRootB s)
    := by
  unfold makeRootB
  split
  · exact record_ev _ _ hv
  · have h1 : Ev s0 { (rootAttempt s).2 with otp := { (rootAttempt s).2.otp with
        rootB := (rootAttempt s).1.1, rootBValid := (rootAttempt s).1.2 } } :=
      Ev.of_otp (rootAttempt_ev hv) (FusesKept.takeRootB _ (by rw [rootAttempt_otp]; exact hb) _ _)
    dsimp only
    split
    · exact h1
    · exact record_ev _ _ h1

theorem makeRoot_ev {s0 : State} {s : State} (hv : Ev s0 s) : Ev s0 (makeRoot s) := by
  unfold makeRoot
  split
  · exact hv
  · rename_i hc
    have hn : s.otp.rootAValid = false ∧ s.otp.rootBValid = false := by
      cases ha : s.otp.rootAValid <;> cases hb : s.otp.rootBValid <;> simp_all [rootSecret]
    split
    · exact makeRootB_ev hn.2 hv
    · have h1 : Ev s0 { (rootAttempt s).2 with otp := { (rootAttempt s).2.otp with
          rootA := (rootAttempt s).1.1, rootAValid := (rootAttempt s).1.2 } } :=
        Ev.of_otp (rootAttempt_ev hv) (FusesKept.takeRootA _ (by rw [rootAttempt_otp]; exact hn.1) _ _)
      dsimp only
      split
      · exact h1
      · exact makeRootB_ev (by show (rootAttempt s).2.otp.rootBValid = false; rw [rootAttempt_otp]; exact hn.2) h1

theorem eraseRetired_ev {s0 : State} {s : State} (hv : Ev s0 s) : Ev s0 (eraseRetired s) := by
  unfold eraseRetired
  repeat' with_reducible first
    | assumption | (intro _) | apply Ev.ite | split
    | (fail_if_no_progress (apply Ev.of_mk <;> first | exact fun h => h | skip)) | dsimp only

theorem lostRecords_ev {s0 : State} {s : State} (hv : Ev s0 s) : Ev s0 (lostRecords s) := by
  unfold lostRecords
  repeat' with_reducible first
    | assumption | (intro _) | apply Ev.foldl | apply record_ev | split
    | (fail_if_no_progress (apply Ev.of_mk <;> first | exact fun h => h | skip)) | dsimp only

theorem readWakeCause_ev {s0 : State} {s : State} (hv : Ev s0 s) : Ev s0 (readWakeCause s) := by
  unfold readWakeCause
  repeat' with_reducible first
    | assumption | (intro _) | apply updWake_ev | apply firstEntry_ev | split
    | (fail_if_no_progress (apply Ev.of_mk <;> first | exact fun h => h | skip)) | dsimp only

theorem countHours_ev {s0 : State} {s : State} (hv : Ev s0 s) : Ev s0 (countHours s) :=
  Ev.of_mk hv (fun m => m) (fun m => m) (fun m => m) (fun m => m) (fun m => m) (fun m => m)

theorem noteLostActivation_ev {s0 : State} {s : State} (hv : Ev s0 s) : Ev s0 (noteLostActivation s) := by
  unfold noteLostActivation
  repeat' with_reducible first
    | assumption | (intro _) | apply record_ev | split
    | (fail_if_no_progress (apply Ev.of_mk <;> first | exact fun h => h | skip)) | dsimp only

theorem loadActive_ev {s0 : State} {s : State} (hv : Ev s0 s) : Ev s0 (loadActive s) := by
  unfold loadActive
  repeat' with_reducible first
    | assumption | (intro _) | apply Ev.ite | apply loadImage_ev | split
    | (fail_if_no_progress (apply Ev.of_mk <;> first | exact fun h => h | skip)) | dsimp only

theorem bootFirmware_ev {s0 : State} {s : State} (hv : Ev s0 s) : Ev s0 (bootFirmware s) := by
  unfold bootFirmware
  repeat' with_reducible first
    | assumption | (intro _) | apply Ev.ite | apply Ev.ite2 | apply record_ev | apply completeClear_ev
    | apply resetRecord_ev | apply startCluster_ev | apply fuseRecords_ev | apply releaseFlash_ev
    | apply setBootWindows_ev | apply enterRecovery_ev | apply chooseBank_ev | apply makeRoot_ev
    | apply eraseRetired_ev | apply lostRecords_ev | apply countHours_ev | apply noteLostActivation_ev
    | apply loadActive_ev | split | refine Ev.of_eq1 ?_ (by assumption) | refine Ev.of_eq2 ?_ (by assumption)
    | (fail_if_no_progress (apply Ev.of_mk <;> first | exact fun h => h | skip)) | dsimp only

theorem boot_ev {s0 : State} {s : State} (hv : Ev s0 s) : Ev s0 (boot s) := by
  unfold boot
  repeat' with_reducible first
    | assumption | (intro _) | apply Ev.ite | apply enterRecovery_ev | apply readWakeCause_ev
    | apply bootFirmware_ev | split
    | (fail_if_no_progress (apply Ev.of_mk <;> first | exact fun h => h | skip)) | dsimp only

theorem restartCommand_ev {s0 : State} (e : InFlight) {s : State} (hv : Ev s0 s) : Ev s0 (restartCommand s e) := by
  unfold restartCommand
  repeat' with_reducible first
    | assumption | (intro _) | apply Ev.ite | apply finalReply_ev | apply abortCommand_ev | split
    | (fail_if_no_progress (apply Ev.of_mk <;> first | exact fun h => h | skip)) | dsimp only

theorem reissueReplies_ev {s0 : State} {s : State} (hv : Ev s0 s) : Ev s0 (reissueReplies s) :=
  Ev.of_mk hv (fun m => m) (fun m => m) (fun m => m) (fun m => m) (fun m => m) (fun m => m)

theorem restartFirmware_ev {s0 : State} {s : State} (hv : Ev s0 s) : Ev s0 (restartFirmware s) := by
  unfold restartFirmware
  repeat' with_reducible first
    | assumption | (intro _) | apply Ev.ite | apply Ev.foldl | apply setFault_ev | apply finalReply_ev
    | apply finishActivation_ev | apply completeClear_ev | apply replyGlobals_ev | apply resetRecord_ev
    | apply startCluster_ev | apply fuseRecords_ev | apply restartCommand_ev | apply reissueReplies_ev | split
    | (fail_if_no_progress (apply Ev.of_mk <;> first | exact fun h => h | skip)) | dsimp only

theorem startFirmware_ev {s0 : State} {s : State} (hv : Ev s0 s) : Ev s0 (startFirmware s) := by
  unfold startFirmware
  repeat' with_reducible first
    | assumption | (intro _) | apply Ev.ite | apply boot_ev | apply restartFirmware_ev | split
    | (fail_if_no_progress (apply Ev.of_mk <;> first | exact fun h => h | skip)) | dsimp only

theorem startDataPath_ev {s0 : State} (new : Option RunImage) (kept : Bool) {s : State} (hv : Ev s0 s) : Ev s0
    (startDataPath new kept s) := by
  unfold startDataPath
  repeat' with_reducible first
    | assumption | (intro _) | apply Ev.ite | apply Ev.foldl | apply settlePins_ev | apply refreshBp_ev
    | apply bringUp_ev | apply startChannel_ev | apply assignEngine_ev | apply applyWakeSettings_ev
    | apply activateCounters_ev | apply firstBank_ev | apply activateEgress_ev | apply notePlcaHold_ev
    | apply activateDomain_ev | apply refreshFirewall_ev | apply noteProfile_ev | split
    | (fail_if_no_progress (apply Ev.of_mk <;> first | exact fun h => h | skip)) | dsimp only

theorem reachActivation_ev {s0 : State} {s : State} (hv : Ev s0 s) : Ev s0 (reachActivation s) := by
  unfold reachActivation
  repeat' with_reducible first
    | assumption | (intro _) | apply Ev.ite | apply reachW_ev | split
    | (fail_if_no_progress (apply Ev.of_mk <;> first | exact fun h => h | skip)) | dsimp only

theorem forwardWake_ev {s0 : State} {s : State} (hv : Ev s0 s) : Ev s0 (forwardWake s) := by
  unfold forwardWake
  repeat' with_reducible first
    | assumption | (intro _) | apply Ev.ite | apply Ev.foldl | apply emit_ev | split
    | (fail_if_no_progress (apply Ev.of_mk <;> first | exact fun h => h | skip)) | dsimp only

theorem leaveBoot_ev {s0 : State} {s : State} (hv : Ev s0 s) : Ev s0 (leaveBoot s) := by
  unfold leaveBoot
  repeat' with_reducible first
    | assumption | (intro _) | apply Ev.ite | apply noteBusy_ev | apply enterMode_ev | apply setFault_ev
    | apply escalate_ev | apply firstEntry_ev | apply releaseRstout_ev | apply startDataPath_ev
    | apply reachActivation_ev | apply forwardWake_ev | split
    | (fail_if_no_progress (apply Ev.of_mk <;> first | exact fun h => h | skip)) | dsimp only

theorem replySwaps_ev {s0 : State} {s : State} (hv : Ev s0 s) : Ev s0 (replySwaps s) := by
  unfold replySwaps
  repeat' with_reducible first
    | assumption | (intro _) | apply Ev.ite | apply Ev.foldl | apply finalReply_ev | split
    | (fail_if_no_progress (apply Ev.of_mk <;> first | exact fun h => h | skip)) | dsimp only

theorem resumeDataPath_ev {s0 : State} {s : State} (hv : Ev s0 s) : Ev s0 (resumeDataPath s) := by
  unfold resumeDataPath
  repeat' with_reducible first
    | assumption | (intro _) | apply Ev.ite | apply setFault_ev | apply replyGlobals_ev | apply startDataPath_ev
    | apply reachActivation_ev | apply replySwaps_ev | split
    | (fail_if_no_progress (apply Ev.of_mk <;> first | exact fun h => h | skip)) | dsimp only

theorem execBootActivation_ev {s t : State} (hx : execBootActivation s = .next t) : Ev s t := by
  unfold execBootActivation at hx
  obtain rfl := Host.Outcome.next.inj hx
  have hv := Ev.refl s
  repeat' with_reducible first
    | assumption | (intro _) | apply Ev.ite | apply boot_ev | apply leaveBoot_ev | apply resumeDataPath_ev | split
    | (fail_if_no_progress (apply Ev.of_mk <;> first | exact fun h => h | skip)) | dsimp only

/-! Machine/Registers.lean. -/

theorem noteRefused_ev {s0 : State} (v : View) {s : State} (hv : Ev s0 s) : Ev s0 (noteRefused v s) := by
  unfold noteRefused
  repeat' with_reducible first
    | assumption | (intro _) | apply setPciFn_ev | split
    | (fail_if_no_progress (apply Ev.of_mk <;> first | exact fun h => h | skip)) | dsimp only

theorem writeRingCfg_ev {s0 : State} (f : Nat) (v : Word) {s : State} (hv : Ev s0 s) : Ev s0 (writeRingCfg f v s)
    := by
  unfold writeRingCfg
  repeat' with_reducible first
    | assumption | (intro _) | apply Ev.ite | apply setCmdRing_ev | split
    | (fail_if_no_progress (apply Ev.of_mk <;> first | exact fun h => h | skip)) | dsimp only

theorem execCmdRingCfgWrite_ev (f : Fin 2) (v : Word) {s t : State} (hx : execCmdRingCfgWrite f v s = .next t)
    : Ev s t := by
  unfold execCmdRingCfgWrite at hx
  obtain rfl := Host.Outcome.next.inj hx
  have hv := Ev.refl s
  repeat' with_reducible first
    | assumption | (intro _) | apply Ev.ite | apply writeRingCfg_ev | split
    | (fail_if_no_progress (apply Ev.of_mk <;> first | exact fun h => h | skip)) | dsimp only

theorem writeCqHead_ev {s0 : State} (f : Nat) (v : Word) {s : State} (hv : Ev s0 s) : Ev s0 (writeCqHead f v s) := by
  unfold writeCqHead
  repeat' with_reducible first
    | assumption | (intro _) | apply Ev.ite | apply setCmdRing_ev | apply drainCompletions_ev | split
    | (fail_if_no_progress (apply Ev.of_mk <;> first | exact fun h => h | skip)) | dsimp only

theorem execCmdCqHeadWrite_ev (f : Fin 2) (head : Word) {s t : State} (hx : execCmdCqHeadWrite f head s = .next t)
    : Ev s t := by
  unfold execCmdCqHeadWrite at hx
  obtain rfl := Host.Outcome.next.inj hx
  have hv := Ev.refl s
  repeat' with_reducible first
    | assumption | (intro _) | apply Ev.ite | apply writeCqHead_ev | split
    | (fail_if_no_progress (apply Ev.of_mk <;> first | exact fun h => h | skip)) | dsimp only

theorem writeCmd_ev {s0 : State} (f off : Nat) (v : Word) {s : State} (hv : Ev s0 s) : Ev s0 (writeCmd f off v s).1
    := by
  unfold writeCmd
  repeat' with_reducible first
    | assumption | (intro _) | apply Ev.ite | apply Ev.ite1 | apply setCmdRing_ev | apply writeRingCfg_ev
    | apply writeCqHead_ev | split | refine Ev.of_eq1 ?_ (by assumption) | refine Ev.of_eq2 ?_ (by assumption)
    | (fail_if_no_progress (apply Ev.of_mk <;> first | exact fun h => h | exact fun h => Mem.writeAll_is h _ _ | exact fun _ => Mem.writeAll_is (Mem.blank_is _) _ _ | exact fun _ => Mem.blank_is _ | exact fun _ => Mem.empty_is _ | exact fun h => img_write h _ _ _ | exact fun h => nor_write h _ _ _ | exact fun h => nor_erase h _ _ | skip)) | dsimp only

theorem clearInt_ev {s0 : State} (v : Word) (raised : List Nat) {s : State} (hv : Ev s0 s) : Ev s0
    (clearInt v raised s) := by
  unfold clearInt
  repeat' with_reducible first
    | assumption | (intro _) | apply Ev.foldl | apply raiseInt_ev | apply stat_ev | split
    | (fail_if_no_progress (apply Ev.of_mk <;> first | exact fun h => h | skip)) | dsimp only

theorem writeRoute_ev {s0 : State} (v : View) (src : Nat) (w : Word) {s : State} (hv : Ev s0 s) : Ev s0
    (writeRoute v src w s).1 := by
  unfold writeRoute
  repeat' with_reducible first
    | assumption | (intro _) | apply Ev.ite | apply Ev.ite1 | split | refine Ev.of_eq1 ?_ (by assumption)
    | refine Ev.of_eq2 ?_ (by assumption)
    | (fail_if_no_progress (apply Ev.of_mk <;> first | exact fun h => h | exact fun h => Mem.writeAll_is h _ _ | exact fun _ => Mem.writeAll_is (Mem.blank_is _) _ _ | exact fun _ => Mem.blank_is _ | exact fun _ => Mem.empty_is _ | exact fun h => img_write h _ _ _ | exact fun h => nor_write h _ _ _ | exact fun h => nor_erase h _ _ | skip)) | dsimp only

theorem writeMsix_ev {s0 : State} (f off : Nat) (w : Word) {s : State} (hv : Ev s0 s) : Ev s0 (writeMsix f off w s)
    := by
  unfold writeMsix
  repeat' with_reducible first
    | assumption | (intro _) | apply Ev.ite | apply setVector_ev | apply unmask_ev | split
    | (fail_if_no_progress (apply Ev.of_mk <;> first | exact fun h => h | skip)) | dsimp only

theorem writeXspiReg_ev {s0 : State} (off : Nat) (w : Word) {s : State} (hv : Ev s0 s) : Ev s0
    (writeXspiReg off w s) := by
  unfold writeXspiReg
  repeat' with_reducible first
    | assumption | (intro _) | apply Ev.ite | split
    | (fail_if_no_progress (apply Ev.of_mk <;> first | exact fun h => h | skip)) | dsimp only

theorem writeCommon_ev {s0 : State} (v : View) (off : Nat) (w : Word) {s : State} (hv : Ev s0 s) : Ev s0
    (writeCommon v off w s).1 := by
  unfold writeCommon
  repeat' with_reducible first
    | assumption | (intro _) | apply Ev.ite | apply Ev.ite1 | apply timLatch_ev | apply clearInt_ev
    | apply writeRoute_ev | apply writeXspiReg_ev | split | refine Ev.of_eq1 ?_ (by assumption)
    | refine Ev.of_eq2 ?_ (by assumption)
    | (fail_if_no_progress (apply Ev.of_mk <;> first | exact fun h => h | exact fun h => Mem.writeAll_is h _ _ | exact fun _ => Mem.writeAll_is (Mem.blank_is _) _ _ | exact fun _ => Mem.blank_is _ | exact fun _ => Mem.empty_is _ | exact fun h => img_write h _ _ _ | exact fun h => nor_write h _ _ _ | exact fun h => nor_erase h _ _ | skip)) | dsimp only

theorem writeReg_ev {s0 : State} (v : View) (off : Nat) (w : Word) {s : State} (hv : Ev s0 s) : Ev s0
    (writeReg v off w s).1 := by
  unfold writeReg
  repeat' with_reducible first
    | assumption | (intro _) | apply Ev.ite | apply Ev.ite1 | apply setPciFn_ev | apply setCmdRing_ev
    | apply asOwner_ev | apply writeCfg_ev | apply writeBase_ev | apply writeTail_ev | apply writeCmd_ev
    | apply writeMsix_ev | apply writeCommon_ev | split | refine Ev.of_eq1 ?_ (by assumption)
    | refine Ev.of_eq2 ?_ (by assumption)
    | (fail_if_no_progress (apply Ev.of_mk <;> first | exact fun h => h | exact fun h => Mem.writeAll_is h _ _ | exact fun _ => Mem.writeAll_is (Mem.blank_is _) _ _ | exact fun _ => Mem.blank_is _ | exact fun _ => Mem.empty_is _ | exact fun h => img_write h _ _ _ | exact fun h => nor_write h _ _ _ | exact fun h => nor_erase h _ _ | skip)) | dsimp only

theorem putReg_ev {s0 : State} (v : View) (off : Nat) (w : Word) {s : State} (hv : Ev s0 s) : Ev s0
    (putReg v off w s) := by
  unfold putReg
  repeat' with_reducible first
    | assumption | (intro _) | apply Ev.ite | apply Ev.ite1 | apply noteRefused_ev | apply writeReg_ev | split
    | refine Ev.of_eq1 ?_ (by assumption) | refine Ev.of_eq2 ?_ (by assumption)
    | (fail_if_no_progress (apply Ev.of_mk <;> first | exact fun h => h | exact fun h => Mem.writeAll_is h _ _ | exact fun _ => Mem.writeAll_is (Mem.blank_is _) _ _ | exact fun _ => Mem.blank_is _ | exact fun _ => Mem.empty_is _ | exact fun h => img_write h _ _ _ | exact fun h => nor_write h _ _ _ | exact fun h => nor_erase h _ _ | skip)) | dsimp only

theorem execIntStatClear_ev (v : View) (w : Word) (raised : List (Fin 11)) {s t : State} (hx
    : execIntStatClear v w raised s = .next t) : Ev s t := by
  unfold execIntStatClear at hx
  obtain rfl := Host.Outcome.next.inj hx
  have hv := Ev.refl s
  repeat' with_reducible first
    | assumption | (intro _) | apply Ev.ite | apply Ev.foldl | apply raiseInt_ev | apply clearInt_ev | split
    | (fail_if_no_progress (apply Ev.of_mk <;> first | exact fun h => h | skip)) | dsimp only

theorem readWords_ev {s0 : State} (v : View) (n o : Nat) {s : State} (hv : Ev s0 s) : Ev s0 (readWords v n o s).2
    := by
  induction n generalizing s o with
  | zero => exact hv
  | succ k ih =>
    unfold readWords
    repeat' with_reducible first
      | assumption | (intro _) | apply Ev.ite | apply Ev.foldl | apply Ev.foldl1 | apply Ev.foldl2 | apply Ev.ite2
      | apply ih | apply readEffect_ev | split | refine Ev.of_eq1 ?_ (by assumption)
      | refine Ev.of_eq2 ?_ (by assumption)
      | (fail_if_no_progress (apply Ev.of_mk <;> first | exact fun h => h | skip)) | dsimp only

theorem readOne_ev {s0 : State} (v : View) (off : Nat) {s : State} (hv : Ev s0 s) : Ev s0 (readOne v off s) := by
  unfold readOne
  repeat' with_reducible first
    | assumption | (intro _) | apply Ev.ite | apply Ev.ite2 | apply emit_ev | apply readWords_ev | split
    | refine Ev.of_eq1 ?_ (by assumption) | refine Ev.of_eq2 ?_ (by assumption)
    | (fail_if_no_progress (apply Ev.of_mk <;> first | exact fun h => h | skip)) | dsimp only

theorem execCntOvfRead_ev (v : View) (w : Fin 12) {s t : State} (hx : execCntOvfRead v w s = .next t) : Ev s t := by
  unfold execCntOvfRead at hx
  obtain rfl := Host.Outcome.next.inj hx
  have hv := Ev.refl s
  repeat' with_reducible first
    | assumption | (intro _) | apply readOne_ev | split
    | (fail_if_no_progress (apply Ev.of_mk <;> first | exact fun h => h | skip)) | dsimp only

theorem execTimTsPop_ev (v : View) (n : Fin 4) {s t : State} (hx : execTimTsPop v n s = .next t) : Ev s t := by
  unfold execTimTsPop at hx
  obtain rfl := Host.Outcome.next.inj hx
  have hv := Ev.refl s
  repeat' with_reducible first
    | assumption | (intro _) | apply readOne_ev | split
    | (fail_if_no_progress (apply Ev.of_mk <;> first | exact fun h => h | skip)) | dsimp only

theorem execTimLatch_ev (v : View) (w : Word) {s t : State} (hx : execTimLatch v w s = .next t) : Ev s t := by
  unfold execTimLatch at hx
  obtain rfl := Host.Outcome.next.inj hx
  have hv := Ev.refl s
  repeat' with_reducible first
    | assumption | (intro _) | apply Ev.ite | apply putReg_ev | split
    | (fail_if_no_progress (apply Ev.of_mk <;> first | exact fun h => h | skip)) | dsimp only

theorem execMailboxPop_ev {s t : State} (hx : execMailboxPop s = .next t) : Ev s t := by
  unfold execMailboxPop at hx
  obtain rfl := Host.Outcome.next.inj hx
  have hv := Ev.refl s
  repeat' with_reducible first
    | assumption | (intro _) | apply Ev.ite | apply Ev.ite2 | apply emit_ev | apply readWords_ev | split
    | refine Ev.of_eq1 ?_ (by assumption) | refine Ev.of_eq2 ?_ (by assumption)
    | (fail_if_no_progress (apply Ev.of_mk <;> first | exact fun h => h | skip)) | dsimp only

theorem setXspi_ev {s0 : State} (x : Xspi) {s : State} (hv : Ev s0 s) : Ev s0 (setXspi x s) :=
  Ev.of_mk hv (fun m => m) (fun m => m) (fun m => m) (fun m => m) (fun m => m) (fun m => m)

theorem readReplay_ev {s0 : State} (b : XspiBurst) (off n : Nat) {s : State} (hv : Ev s0 s) : Ev s0
    (readReplay b off n s) := by
  unfold readReplay
  repeat' with_reducible first
    | assumption | (intro _) | apply Ev.ite | apply Ev.ite2 | apply emit_ev | apply drawBytes_ev | apply setXspi_ev
    | split | refine Ev.of_eq1 ?_ (by assumption) | refine Ev.of_eq2 ?_ (by assumption)
    | (fail_if_no_progress (apply Ev.of_mk <;> first | exact fun h => h | skip)) | dsimp only

theorem readThrough_ev {s0 : State} (off n : Nat) {s : State} (hv : Ev s0 s) : Ev s0 (readThrough off n s) := by
  unfold readThrough
  repeat' with_reducible first
    | assumption | (intro _) | apply Ev.ite | apply Ev.ite2 | apply emit_ev | apply drawBytes_ev
    | apply readWords_ev | apply setXspi_ev | split | refine Ev.of_eq1 ?_ (by assumption)
    | refine Ev.of_eq2 ?_ (by assumption)
    | (fail_if_no_progress (apply Ev.of_mk <;> first | exact fun h => h | skip)) | dsimp only

theorem readFirst_ev {s0 : State} (off n : Nat) {s : State} (hv : Ev s0 s) : Ev s0 (readFirst off n s) := by
  unfold readFirst
  repeat' with_reducible first
    | assumption | (intro _) | apply Ev.ite | apply Ev.ite2 | apply emit_ev | apply readWords_ev | apply setXspi_ev
    | split | refine Ev.of_eq1 ?_ (by assumption) | refine Ev.of_eq2 ?_ (by assumption)
    | (fail_if_no_progress (apply Ev.of_mk <;> first | exact fun h => h | skip)) | dsimp only

theorem execXspiRead_ev (addr : Word) (words : Nat) (late : Bool) {s t : State} (hx
    : execXspiRead addr words late s = .next t) : Ev s t := by
  unfold execXspiRead at hx
  obtain rfl := Host.Outcome.next.inj hx
  have hv := Ev.refl s
  repeat' with_reducible first
    | assumption | (intro _) | apply Ev.ite | apply emit_ev | apply setXspi_ev | apply readReplay_ev
    | apply readThrough_ev | apply readFirst_ev | split
    | (fail_if_no_progress (apply Ev.of_mk <;> first | exact fun h => h | skip)) | dsimp only

theorem execXspihCsRise_ev (taken : Nat) {s t : State} (hx : execXspihCsRise taken s = .next t) : Ev s t := by
  unfold execXspihCsRise at hx
  obtain rfl := Host.Outcome.next.inj hx
  have hv := Ev.refl s
  repeat' with_reducible first
    | assumption | (intro _) | apply Ev.ite | apply setXspi_ev | split
    | (fail_if_no_progress (apply Ev.of_mk <;> first | exact fun h => h | skip)) | dsimp only

theorem execXspiWrite_ev (addr : Word) (words : List Word) {s t : State} (hx
    : execXspiWrite addr words s = .next t) : Ev s t := by
  unfold execXspiWrite at hx
  obtain rfl := Host.Outcome.next.inj hx
  have hv := Ev.refl s
  repeat' with_reducible first
    | assumption | (intro _) | apply Ev.ite | apply setXspi_ev | split
    | (fail_if_no_progress (apply Ev.of_mk <;> first | exact fun h => h | skip)) | dsimp only

theorem execXspiBadCommand_ev (first second : Byte) {s t : State} (hx
    : execXspiBadCommand first second s = .next t) : Ev s t := by
  unfold execXspiBadCommand at hx
  obtain rfl := Host.Outcome.next.inj hx
  have hv := Ev.refl s
  repeat' with_reducible first
    | assumption | (intro _) | apply Ev.ite | apply setXspi_ev | split
    | (fail_if_no_progress (apply Ev.of_mk <;> first | exact fun h => h | skip)) | dsimp only

/-! Machine/Bridge.lean. -/

theorem writeInternal_ev {s0 : State} (world off : Nat) (w : Word) {s : State} (hv : Ev s0 s) : Ev s0
    (writeInternal world off w s).2 := by
  unfold writeInternal
  repeat' with_reducible first
    | assumption | (intro _) | apply Ev.ite | apply Ev.ite2 | apply timLatch_ev | apply kickWdt_ev
    | apply clearInt_ev | split | refine Ev.of_eq1 ?_ (by assumption) | refine Ev.of_eq2 ?_ (by assumption)
    | (fail_if_no_progress (apply Ev.of_mk <;> first | exact fun h => h | skip)) | dsimp only

theorem noteDenied_ev {s0 : State} (region : Config.Region) {s : State} (hv : Ev s0 s) : Ev s0
    (noteDenied region s) := by
  unfold noteDenied
  repeat' with_reducible first
    | assumption | (intro _) | apply record_ev | split
    | (fail_if_no_progress (apply Ev.of_mk <;> first | exact fun h => h | skip)) | dsimp only

theorem readInternal_ev {s0 : State} (n o : Nat) {s : State} (hv : Ev s0 s) : Ev s0 (readInternal n o s).2 := by
  induction n generalizing s o with
  | zero => exact hv
  | succ k ih =>
    unfold readInternal
    repeat' with_reducible first
      | assumption | (intro _) | apply Ev.ite | apply Ev.foldl | apply Ev.foldl1 | apply Ev.foldl2 | apply Ev.ite2
      | apply ih | apply Ev.ite | apply readEffect_ev | split | refine Ev.of_eq1 ?_ (by assumption)
      | refine Ev.of_eq2 ?_ (by assumption)
      | (fail_if_no_progress (apply Ev.of_mk <;> first | exact fun h => h | skip)) | dsimp only

theorem readWindow_ev {s0 : State} (off n : Nat) {s : State} (hv : Ev s0 s) : Ev s0 (readWindow off n s).2 := by
  unfold readWindow
  repeat' with_reducible first
    | assumption | (intro _) | apply Ev.ite2 | apply readInternal_ev | split | refine Ev.of_eq1 ?_ (by assumption)
    | refine Ev.of_eq2 ?_ (by assumption)
    | (fail_if_no_progress (apply Ev.of_mk <;> first | exact fun h => h | skip)) | dsimp only

theorem writeWindow_ev {s0 : State} (world off : Nat) (data : Bytes) {s : State} (hv : Ev s0 s) : Ev s0
    (writeWindow world off data s).2 := by
  unfold writeWindow
  repeat' with_reducible first
    | assumption | (intro _) | apply Ev.ite | apply Ev.foldl | apply Ev.foldl1 | apply Ev.foldl2 | apply Ev.ite2
    | apply writeInternal_ev | split | refine Ev.of_eq1 ?_ (by assumption) | refine Ev.of_eq2 ?_ (by assumption)
    | (fail_if_no_progress (apply Ev.of_mk <;> first | exact fun h => h | skip)) | dsimp only

theorem readMram_ev {s0 : State} (off n : Nat) {s : State} (hv : Ev s0 s) : Ev s0 (readMram off n s).2 := by
  unfold readMram
  repeat' with_reducible first
    | assumption | (intro _) | apply Ev.ite | apply Ev.ite2 | apply drawBytes_ev | split
    | refine Ev.of_eq1 ?_ (by assumption) | refine Ev.of_eq2 ?_ (by assumption)
    | (fail_if_no_progress (apply Ev.of_mk <;> first | exact fun h => h | skip)) | dsimp only

theorem writeMram_ev {s0 : State} (off : Nat) (data : Bytes) {s : State} (hv : Ev s0 s) : Ev s0
    (writeMram off data s) := by
  unfold writeMram
  repeat' with_reducible first
    | assumption | (intro _) | apply Ev.ite | split
    | (fail_if_no_progress (apply Ev.of_mk <;> first | exact fun h => h | exact fun h => Mem.writeAll_is h _ _ | exact fun _ => Mem.writeAll_is (Mem.blank_is _) _ _ | exact fun _ => Mem.blank_is _ | exact fun _ => Mem.empty_is _ | exact fun h => img_write h _ _ _ | exact fun h => nor_write h _ _ _ | exact fun h => nor_erase h _ _ | skip)) | dsimp only

theorem performAccess_ev {s0 : State} (region : Config.Region) (world : Nat) (write : Bool) (size : Nat) (data
    : Bytes) {s : State} (hv : Ev s0 s) : Ev s0 (performAccess region world write size data s).2.2 := by
  unfold performAccess
  repeat' with_reducible first
    | assumption | (intro _) | apply Ev.ite | apply Ev.ite2 | apply Ev.ite22
    | exact Ev.of_otp (by assumption) (FusesKept.reachBits _ _) | apply drawBytes_ev | apply readWindow_ev
    | apply writeWindow_ev | apply readMram_ev | apply writeMram_ev | split | refine Ev.of_eq1 ?_ (by assumption)
    | refine Ev.of_eq2 ?_ (by assumption)
    | (fail_if_no_progress (apply Ev.of_mk <;> first | exact fun h => h | skip)) | dsimp only

theorem pbWindowSetOp_ev : OpEv pbWindowSetOp := by
  unfold pbWindowSetOp
  constructor <;> intro r s0 s hv <;> dsimp only <;>
  repeat' with_reducible first
    | assumption | (intro _) | apply Ev.ite | apply answer_ev | split
    | (fail_if_no_progress (apply Ev.of_mk <;> first | exact fun h => h | skip)) | dsimp only

theorem execPbWindowSet_ev (c : CmdSource) {s t : State} (hx : execPbWindowSet c s = .next t) : Ev s t := by
  unfold execPbWindowSet at hx
  obtain rfl := Host.Outcome.next.inj hx
  have hv := Ev.refl s
  repeat' with_reducible first
    | assumption | (intro _) | apply runCommand_ev | exact pbWindowSetOp_ev | apply pbWindowSetOp_ev.commit | split
    | (fail_if_no_progress (apply Ev.of_mk <;> first | exact fun h => h | skip)) | dsimp only

theorem sendRequest_ev {s0 : State} (o : PbOpen) {s : State} (hv : Ev s0 s) : Ev s0 (sendRequest o s) := by
  unfold sendRequest
  repeat' with_reducible first
    | assumption | (intro _) | apply Ev.ite | apply emit_ev | split
    | (fail_if_no_progress (apply Ev.of_mk <;> first | exact fun h => h | skip)) | dsimp only

theorem completePb_ev {s0 : State} (tag : Option Word16) (code : Nat) (data : Bytes) {s : State} (hv : Ev s0 s)
    : Ev s0 (completePb tag code data s) := by
  unfold completePb
  repeat' with_reducible first
    | assumption | (intro _) | apply Ev.ite | apply finalReply_ev | split
    | (fail_if_no_progress (apply Ev.of_mk <;> first | exact fun h => h | skip)) | dsimp only

theorem issuePb_ev {s0 : State} (tag : Option Word16) (r : PbAccess) {s : State} (hv : Ev s0 s) : Ev s0
    (issuePb tag r s) := by
  unfold issuePb
  repeat' with_reducible first
    | assumption | (intro _) | apply Ev.ite | apply sendRequest_ev | apply completePb_ev | split
    | (fail_if_no_progress (apply Ev.of_mk <;> first | exact fun h => h | skip)) | dsimp only

theorem execPbRequest_ev (r : PbAccess) {s t : State} (hx : execPbRequest r s = .next t) : Ev s t := by
  unfold execPbRequest at hx
  obtain rfl := Host.Outcome.next.inj hx
  have hv := Ev.refl s
  repeat' with_reducible first
    | assumption | (intro _) | apply Ev.ite | apply issuePb_ev | split
    | (fail_if_no_progress (apply Ev.of_mk <;> first | exact fun h => h | skip)) | dsimp only

theorem closeOpen_ev {s0 : State} (id : Nat) {s : State} (hv : Ev s0 s) : Ev s0 (closeOpen id s) :=
  Ev.of_mk hv (fun m => m) (fun m => m) (fun m => m) (fun m => m) (fun m => m) (fun m => m)

theorem endOpen_ev {s0 : State} (o : PbOpen) (code : Nat) (data : Bytes) {s : State} (hv : Ev s0 s) : Ev s0
    (endOpen o code data s) := by
  unfold endOpen
  repeat' with_reducible first
    | assumption | (intro _) | apply Ev.ite | apply completePb_ev | apply closeOpen_ev | split
    | (fail_if_no_progress (apply Ev.of_mk <;> first | exact fun h => h | skip)) | dsimp only

theorem execPbResponseRx_ev (id : Nat) (code : Fin 8) (data : Bytes) {s t : State} (hx
    : execPbResponseRx id code data s = .next t) : Ev s t := by
  unfold execPbResponseRx at hx
  obtain rfl := Host.Outcome.next.inj hx
  have hv := Ev.refl s
  repeat' with_reducible first
    | assumption | (intro _) | apply Ev.ite | apply closeOpen_ev | apply endOpen_ev | split
    | (fail_if_no_progress (apply Ev.of_mk <;> first | exact fun h => h | skip)) | dsimp only

theorem execPbPostedErr_ev (id : Nat) (code : Fin 8) {s t : State} (hx : execPbPostedErr id code s = .next t)
    : Ev s t := by
  unfold execPbPostedErr at hx
  obtain rfl := Host.Outcome.next.inj hx
  have hv := Ev.refl s
  repeat' with_reducible first
    | assumption | (intro _) | apply Ev.ite | apply record_ev | apply raiseInt_ev | apply closeOpen_ev | split
    | (fail_if_no_progress (apply Ev.of_mk <;> first | exact fun h => h | skip)) | dsimp only

theorem execPbTimeout_ev (id : Nat) {s t : State} (hx : execPbTimeout id s = .next t) : Ev s t := by
  unfold execPbTimeout at hx
  obtain rfl := Host.Outcome.next.inj hx
  have hv := Ev.refl s
  repeat' with_reducible first
    | assumption | (intro _) | apply Ev.ite | apply reachClock_ev | apply endOpen_ev | split
    | (fail_if_no_progress (apply Ev.of_mk <;> first | exact fun h => h | skip)) | dsimp only

theorem pbLinkDown_ev {s0 : State} {s : State} (hv : Ev s0 s) : Ev s0 (pbLinkDown s) := by
  unfold pbLinkDown
  repeat' with_reducible first
    | assumption | (intro _) | apply Ev.ite | apply Ev.foldl | apply record_ev | apply raiseInt_ev
    | apply endOpen_ev | split
    | (fail_if_no_progress (apply Ev.of_mk <;> first | exact fun h => h | skip)) | dsimp only

theorem respond_ev {s0 : State} (r : PbInbound) (code : Nat) (data : Bytes) {s : State} (hv : Ev s0 s) : Ev s0
    (respond r code data s) := by
  unfold respond
  repeat' with_reducible first
    | assumption | (intro _) | apply Ev.ite | apply emit_ev | split
    | (fail_if_no_progress (apply Ev.of_mk <;> first | exact fun h => h | skip)) | dsimp only

theorem serveInbound_ev {s0 : State} (r : PbInbound) {s : State} (hv : Ev s0 s) : Ev s0 (serveInbound r s).2.2 := by
  unfold serveInbound
  repeat' with_reducible first
    | assumption | (intro _) | apply Ev.ite | apply Ev.ite2 | apply Ev.ite22 | apply noteDenied_ev
    | apply performAccess_ev | split | refine Ev.of_eq1 ?_ (by assumption) | refine Ev.of_eq2 ?_ (by assumption)
    | (fail_if_no_progress (apply Ev.of_mk <;> first | exact fun h => h | skip)) | dsimp only

theorem inbound_ev {s0 : State} (r : PbInbound) {s : State} (hv : Ev s0 s) : Ev s0 (inbound r s) := by
  unfold inbound
  repeat' with_reducible first
    | assumption | (intro _) | apply Ev.ite | apply Ev.ite2 | apply Ev.ite22 | apply respond_ev
    | apply serveInbound_ev | split | refine Ev.of_eq1 ?_ (by assumption) | refine Ev.of_eq2 ?_ (by assumption)
    | (fail_if_no_progress (apply Ev.of_mk <;> first | exact fun h => h | skip)) | dsimp only

theorem serveWaiting_ev {s0 : State} {s : State} (hv : Ev s0 s) : Ev s0 (serveWaiting s) := by
  unfold serveWaiting
  repeat' with_reducible first
    | assumption | (intro _) | apply Ev.foldl | apply inbound_ev | split
    | (fail_if_no_progress (apply Ev.of_mk <;> first | exact fun h => h | skip)) | dsimp only

theorem backOff_ev {s0 : State} (locked : Bool) {s : State} (hv : Ev s0 s) : Ev s0 (backOff locked s) := by
  unfold backOff
  repeat' with_reducible first
    | assumption | (intro _) | apply Ev.ite | apply Ev.foldl | apply endOpen_ev | split
    | (fail_if_no_progress (apply Ev.of_mk <;> first | exact fun h => h | skip)) | dsimp only

theorem execPbInboundRequest_ev (r : PbInbound) {s t : State} (hx : execPbInboundRequest r s = .next t) : Ev s t := by
  unfold execPbInboundRequest at hx
  obtain rfl := Host.Outcome.next.inj hx
  have hv := Ev.refl s
  repeat' with_reducible first
    | assumption | (intro _) | apply Ev.ite | apply inbound_ev | apply serveWaiting_ev | apply backOff_ev | split
    | (fail_if_no_progress (apply Ev.of_mk <;> first | exact fun h => h | skip)) | dsimp only

theorem execPbLockBroken_ev {s t : State} (hx : execPbLockBroken s = .next t) : Ev s t := by
  unfold execPbLockBroken at hx
  obtain rfl := Host.Outcome.next.inj hx
  have hv := Ev.refl s
  repeat' with_reducible first
    | assumption | (intro _) | apply reachClock_ev | apply record_ev | apply serveWaiting_ev | split
    | (fail_if_no_progress (apply Ev.of_mk <;> first | exact fun h => h | skip)) | dsimp only

theorem execPbBackoffResend_ev {s t : State} (hx : execPbBackoffResend s = .next t) : Ev s t := by
  unfold execPbBackoffResend at hx
  obtain rfl := Host.Outcome.next.inj hx
  have hv := Ev.refl s
  repeat' with_reducible first
    | assumption | (intro _) | apply Ev.ite | apply Ev.foldl | apply reachClock_ev | apply sendRequest_ev | split
    | (fail_if_no_progress (apply Ev.of_mk <;> first | exact fun h => h | skip)) | dsimp only

theorem dbgLocal_ev {s0 : State} (r : Req) {s : State} (hv : Ev s0 s) : Ev s0 (dbgLocal r s) := by
  unfold dbgLocal
  repeat' with_reducible first
    | assumption | (intro _) | apply Ev.ite | apply Ev.ite2 | apply Ev.ite22 | apply answer_ev
    | apply performAccess_ev | split | refine Ev.of_eq1 ?_ (by assumption) | refine Ev.of_eq2 ?_ (by assumption)
    | (fail_if_no_progress (apply Ev.of_mk <;> first | exact fun h => h | skip)) | dsimp only

theorem dbgPeer_ev {s0 : State} (r : Req) {s : State} (hv : Ev s0 s) : Ev s0 (dbgPeer r s) := by
  unfold dbgPeer
  repeat' with_reducible first
    | assumption | (intro _) | apply Ev.ite | apply issuePb_ev | split
    | (fail_if_no_progress (apply Ev.of_mk <;> first | exact fun h => h | skip)) | dsimp only

theorem haltCluster_ev {s0 : State} {s : State} (hv : Ev s0 s) : Ev s0 (haltCluster s) :=
  Ev.of_mk hv (fun m => m) (fun m => m) (fun m => m) (fun m => m) (fun m => m) (fun m => m)

theorem resumeCluster_ev {s0 : State} {s : State} (hv : Ev s0 s) : Ev s0 (resumeCluster s) :=
  Ev.of_mk hv (fun m => m) (fun m => m) (fun m => m) (fun m => m) (fun m => m) (fun m => m)

theorem dbgAccessOp_ev : OpEv dbgAccessOp := by
  unfold dbgAccessOp
  constructor <;> intro r s0 s hv <;> dsimp only <;>
  repeat' with_reducible first
    | assumption | (intro _) | apply Ev.ite | apply answer_ev | apply noteDenied_ev | apply dbgLocal_ev
    | apply dbgPeer_ev | apply haltCluster_ev | apply resumeCluster_ev | split
    | (fail_if_no_progress (apply Ev.of_mk <;> first | exact fun h => h | skip)) | dsimp only

theorem runDbg_ev {s0 : State} (c : CmdSource) {s : State} (hv : Ev s0 s) : Ev s0 (runDbg c s) := by
  unfold runDbg
  repeat' with_reducible first
    | assumption | (intro _) | apply Ev.ite | apply beginCommand_ev | apply arriveWith_ev | exact dbgAccessOp_ev
    | apply dbgAccessOp_ev.commit | split
    | (fail_if_no_progress (apply Ev.of_mk <;> first | exact fun h => h | skip)) | dsimp only

theorem execJtagHaltRequest_ev {s t : State} (hx : execJtagHaltRequest s = .next t) : Ev s t := by
  unfold execJtagHaltRequest at hx
  obtain rfl := Host.Outcome.next.inj hx
  have hv := Ev.refl s
  repeat' with_reducible first
    | assumption | (intro _) | apply Ev.ite | apply haltCluster_ev | split
    | (fail_if_no_progress (apply Ev.of_mk <;> first | exact fun h => h | skip)) | dsimp only

/-! Machine/Pair.lean. -/

theorem updPair_ev {s0 : State} (f : Pair → Pair) {s : State} (hv : Ev s0 s) : Ev s0 (updPair f s) :=
  Ev.of_mk hv (fun m => m) (fun m => m) (fun m => m) (fun m => m) (fun m => m) (fun m => m)

theorem linkAlive_ev {s0 : State} {s : State} (hv : Ev s0 s) : Ev s0 (linkAlive s) := by
  unfold linkAlive
  repeat' with_reducible first
    | assumption | (intro _) | apply updPair_ev | split
    | (fail_if_no_progress (apply Ev.of_mk <;> first | exact fun h => h | skip)) | dsimp only

theorem sendDarn_ev {s0 : State} {s : State} (hv : Ev s0 s) : Ev s0 (sendDarn s) := by
  unfold sendDarn
  repeat' with_reducible first
    | assumption | (intro _) | apply emit_ev | apply updPair_ev | split
    | (fail_if_no_progress (apply Ev.of_mk <;> first | exact fun h => h | skip)) | dsimp only

theorem awaitDarn_ev {s0 : State} {s : State} (hv : Ev s0 s) : Ev s0 (awaitDarn s) := by
  unfold awaitDarn
  repeat' with_reducible first
    | assumption | (intro _) | apply Ev.ite | apply updPair_ev | split
    | (fail_if_no_progress (apply Ev.of_mk <;> first | exact fun h => h | skip)) | dsimp only

theorem relayedOp_ev {op : Nat} {d : OpDef} (h : relayedOp op = some d) : OpEv d := by
  unfold relayedOp at h
  split at h
  · exact Option.some.inj h ▸ imgPatchOp_ev
  split at h
  · exact Option.some.inj h ▸ prsBankSwapOp_ev
  split at h
  · exact Option.some.inj h ▸ fwlConnFlushOp_ev
  split at h
  · exact Option.some.inj h ▸ cntSelectOp_ev
  split at h
  · exact Option.some.inj h ▸ wakeSegmentOp_ev
  split at h
  · exact Option.some.inj h ▸ sysSetModeOp_ev
  · cases h

theorem relayedEffect_ev {s0 : State} (op : Nat) (r : Req) {s : State} (hv : Ev s0 s) : Ev s0
    (relayedEffect op r s) := by
  unfold relayedEffect
  split
  · rename_i d e; exact (relayedOp_ev e).effect _ _ _ hv
  · exact hv

theorem releaseRelayed_ev {s0 : State} (t : Word16) {s : State} (hv : Ev s0 s) : Ev s0 (releaseRelayed t s) := by
  unfold releaseRelayed
  repeat' with_reducible first
    | assumption | (intro _) | apply Ev.ite | apply updPair_ev | apply relayedEffect_ev | split
    | (fail_if_no_progress (apply Ev.of_mk <;> first | exact fun h => h | skip)) | dsimp only

theorem releasePending_ev {s0 : State} {s : State} (hv : Ev s0 s) : Ev s0 (releasePending s) := by
  unfold releasePending
  repeat' with_reducible first
    | assumption | (intro _) | apply Ev.foldl | apply releaseRelayed_ev | split
    | (fail_if_no_progress (apply Ev.of_mk <;> first | exact fun h => h | skip)) | dsimp only

theorem releaseCarried_ev {s0 : State} (cycle : Nat) {s : State} (hv : Ev s0 s) : Ev s0 (releaseCarried cycle s) := by
  unfold releaseCarried
  repeat' with_reducible first
    | assumption | (intro _) | apply Ev.foldl | apply releaseRelayed_ev | split
    | (fail_if_no_progress (apply Ev.of_mk <;> first | exact fun h => h | skip)) | dsimp only

theorem armWithPeer_ev {s0 : State} (new : List JournalRec) {s : State} (hv : Ev s0 s) : Ev s0 (armWithPeer new s)
    := by
  unfold armWithPeer
  repeat' with_reducible first
    | assumption | (intro _) | apply Ev.ite | apply noteBusy_ev | apply wakeRequest_ev | split
    | (fail_if_no_progress (apply Ev.of_mk <;> first | exact fun h => h | skip)) | dsimp only

theorem applyJournal_ev {s0 : State} (new : List JournalRec) {s : State} (hv : Ev s0 s) : Ev s0
    (applyJournal new s) := by
  unfold applyJournal
  repeat' with_reducible first
    | assumption | (intro _) | apply Ev.foldl | apply updPair_ev | apply relayedEffect_ev | apply armWithPeer_ev
    | split | (fail_if_no_progress (apply Ev.of_mk <;> first | exact fun h => h | skip)) | dsimp only

theorem mergeCt_ev {s0 : State} (d : CtDelta) {s : State} (hv : Ev s0 s) : Ev s0 (mergeCt s d) := by
  unfold mergeCt
  repeat' with_reducible first
    | assumption | (intro _) | apply Ev.ite | apply recordLimited_ev | split
    | (fail_if_no_progress (apply Ev.of_mk <;> first | exact fun h => h | skip)) | dsimp only

theorem seedDomain_ev {s0 : State} (v : Servo) {s : State} (hv : Ev s0 s) : Ev s0 (seedDomain s v) := by
  unfold seedDomain
  repeat' with_reducible first
    | assumption | (intro _) | apply setDom_ev | apply setDomRate_ev | split
    | (fail_if_no_progress (apply Ev.of_mk <;> first | exact fun h => h | skip)) | dsimp only

theorem applySync_ev {s0 : State} (m : SyncFrame) {s : State} (hv : Ev s0 s) : Ev s0 (applySync m s) := by
  unfold applySync
  repeat' with_reducible first
    | assumption | (intro _) | apply Ev.ite | apply Ev.foldl | apply updPair_ev | apply applyJournal_ev
    | apply mergeCt_ev | split
    | (fail_if_no_progress (apply Ev.of_mk <;> first | exact fun h => h | skip)) | dsimp only

theorem undoRelayed_ev {s0 : State} (t : Word16) {s : State} (hv : Ev s0 s) : Ev s0 (undoRelayed t s) := by
  unfold undoRelayed
  repeat' with_reducible first
    | assumption | (intro _) | apply Ev.ite | apply noteBusy_ev | apply releaseOther_ev | apply updPair_ev | split
    | (fail_if_no_progress (apply Ev.of_mk <;> first | exact fun h => h | skip)) | dsimp only

theorem failCommand_ev {s0 : State} (t : Word16) {s : State} (hv : Ev s0 s) : Ev s0 (failCommand t s) := by
  unfold failCommand
  repeat' with_reducible first
    | assumption | (intro _) | apply Ev.ite | apply finalReply_ev | apply lateInterim_ev | apply withdraw_ev
    | apply withdrawalRecord_ev | apply undoRelayed_ev | split
    | (fail_if_no_progress (apply Ev.of_mk <;> first | exact fun h => h | skip)) | dsimp only

theorem resolveOwn_ev {s0 : State} (keep : Option Word16) {s : State} (hv : Ev s0 s) : Ev s0 (resolveOwn keep s) := by
  unfold resolveOwn
  repeat' with_reducible first
    | assumption | (intro _) | apply Ev.foldl | apply failCommand_ev | split
    | (fail_if_no_progress (apply Ev.of_mk <;> first | exact fun h => h | skip)) | dsimp only

theorem becomeActive_ev {s0 : State} {s : State} (hv : Ev s0 s) : Ev s0 (becomeActive s) := by
  unfold becomeActive
  repeat' with_reducible first
    | assumption | (intro _) | apply Ev.foldl | apply updPair_ev | apply armWithPeer_ev | apply seedDomain_ev
    | split | (fail_if_no_progress (apply Ev.of_mk <;> first | exact fun h => h | skip)) | dsimp only

theorem takeOver_ev {s0 : State} {s : State} (hv : Ev s0 s) : Ev s0 (takeOver s) := by
  unfold takeOver
  repeat' with_reducible first
    | assumption | (intro _) | apply record_ev | apply updPair_ev | apply becomeActive_ev | split
    | (fail_if_no_progress (apply Ev.of_mk <;> first | exact fun h => h | skip)) | dsimp only

theorem goAlone_ev {s0 : State} {s : State} (hv : Ev s0 s) : Ev s0 (goAlone s) := by
  unfold goAlone
  repeat' with_reducible first
    | assumption | (intro _) | apply updPair_ev | apply releasePending_ev | split
    | (fail_if_no_progress (apply Ev.of_mk <;> first | exact fun h => h | skip)) | dsimp only

theorem takeoverAhead_ev {s0 : State} {s : State} (hv : Ev s0 s) : Ev s0 (takeoverAhead s) := by
  unfold takeoverAhead
  repeat' with_reducible first
    | assumption | (intro _) | apply Ev.ite | apply updPair_ev | split
    | (fail_if_no_progress (apply Ev.of_mk <;> first | exact fun h => h | skip)) | dsimp only

theorem react_ev {s0 : State} {s : State} (hv : Ev s0 s) : Ev s0 (react s) := by
  unfold react
  repeat' with_reducible first
    | assumption | (intro _) | apply Ev.ite | apply updPair_ev | apply awaitDarn_ev | apply goAlone_ev
    | apply takeoverAhead_ev | split
    | (fail_if_no_progress (apply Ev.of_mk <;> first | exact fun h => h | skip)) | dsimp only

theorem meet_ev {s0 : State} (m : ControlFrame) {s : State} (hv : Ev s0 s) : Ev s0 (meet m s) := by
  unfold meet
  repeat' with_reducible first
    | assumption | (intro _) | apply Ev.ite | apply record_ev | apply updPair_ev | apply sendDarn_ev
    | apply awaitDarn_ev | apply resolveOwn_ev | split
    | (fail_if_no_progress (apply Ev.of_mk <;> first | exact fun h => h | skip)) | dsimp only

theorem roleConflict_ev {s0 : State} {s : State} (hv : Ev s0 s) : Ev s0 (roleConflict s) := by
  unfold roleConflict
  repeat' with_reducible first
    | assumption | (intro _) | apply Ev.ite | apply record_ev | apply pbLinkDown_ev | split
    | (fail_if_no_progress (apply Ev.of_mk <;> first | exact fun h => h | skip)) | dsimp only

theorem followHealth_ev {s0 : State} (m : ControlFrame) {s : State} (hv : Ev s0 s) : Ev s0 (followHealth m s) := by
  unfold followHealth
  repeat' with_reducible first
    | assumption | (intro _) | apply Ev.ite | apply updPair_ev | split
    | (fail_if_no_progress (apply Ev.of_mk <;> first | exact fun h => h | skip)) | dsimp only

theorem controlRx_ev {s0 : State} (m : ControlFrame) {s : State} (hv : Ev s0 s) : Ev s0 (controlRx m s) := by
  unfold controlRx
  repeat' with_reducible first
    | assumption | (intro _) | apply Ev.ite | apply updPair_ev | apply linkAlive_ev | apply sendDarn_ev
    | apply awaitDarn_ev | apply resolveOwn_ev | apply goAlone_ev | apply meet_ev | apply roleConflict_ev
    | apply followHealth_ev | split
    | (fail_if_no_progress (apply Ev.of_mk <;> first | exact fun h => h | skip)) | dsimp only

theorem execMlControlRx_ev (m : ControlFrame) {s t : State} (hx : execMlControlRx m s = .next t) : Ev s t := by
  unfold execMlControlRx at hx
  obtain rfl := Host.Outcome.next.inj hx
  have hv := Ev.refl s
  repeat' with_reducible first
    | assumption | (intro _) | apply Ev.ite | apply controlRx_ev | split
    | (fail_if_no_progress (apply Ev.of_mk <;> first | exact fun h => h | skip)) | dsimp only

theorem execControlTx_ev {s t : State} (hx : execControlTx s = .next t) : Ev s t := by
  unfold execControlTx at hx
  obtain rfl := Host.Outcome.next.inj hx
  have hv := Ev.refl s
  repeat' with_reducible first
    | assumption | (intro _) | apply Ev.ite | apply emit_ev | apply reachClock_ev | apply updPair_ev | split
    | (fail_if_no_progress (apply Ev.of_mk <;> first | exact fun h => h | skip)) | dsimp only

theorem execMlGoingDownRx_ev {s t : State} (hx : execMlGoingDownRx s = .next t) : Ev s t := by
  unfold execMlGoingDownRx at hx
  obtain rfl := Host.Outcome.next.inj hx
  have hv := Ev.refl s
  repeat' with_reducible first
    | assumption | (intro _) | apply Ev.ite | apply updPair_ev | apply linkAlive_ev | split
    | (fail_if_no_progress (apply Ev.of_mk <;> first | exact fun h => h | skip)) | dsimp only

theorem execMlLinkLost_ev {s t : State} (hx : execMlLinkLost s = .next t) : Ev s t := by
  unfold execMlLinkLost at hx
  obtain rfl := Host.Outcome.next.inj hx
  have hv := Ev.refl s
  repeat' with_reducible first
    | assumption | (intro _) | apply Ev.ite | apply pbLinkDown_ev | apply updPair_ev | apply react_ev | split
    | (fail_if_no_progress (apply Ev.of_mk <;> first | exact fun h => h | skip)) | dsimp only

theorem execPeerHlthChange_ev (active : Bool) {s t : State} (hx : execPeerHlthChange active s = .next t) : Ev s t
    := by
  unfold execPeerHlthChange at hx
  obtain rfl := Host.Outcome.next.inj hx
  have hv := Ev.refl s
  repeat' with_reducible first
    | assumption | (intro _) | apply Ev.ite | apply updPair_ev | apply react_ev | split
    | (fail_if_no_progress (apply Ev.of_mk <;> first | exact fun h => h | skip)) | dsimp only

theorem thawDomain_ev {s0 : State} (d : Nat) {s : State} (hv : Ev s0 s) : Ev s0 (thawDomain s d) := by
  unfold thawDomain
  repeat' with_reducible first
    | assumption | (intro _) | apply Ev.ite | apply setDom_ev | apply setDomRate_ev | split
    | (fail_if_no_progress (apply Ev.of_mk <;> first | exact fun h => h | skip)) | dsimp only

theorem execPartition_ev {s t : State} (hx : execPartition s = .next t) : Ev s t := by
  unfold execPartition at hx
  obtain rfl := Host.Outcome.next.inj hx
  have hv := Ev.refl s
  repeat' with_reducible first
    | assumption | (intro _) | apply Ev.ite | apply Ev.foldl | apply reachClock_ev | apply freezeDomain_ev
    | apply updPair_ev | apply resolveOwn_ev | apply takeOver_ev | apply goAlone_ev | split
    | (fail_if_no_progress (apply Ev.of_mk <;> first | exact fun h => h | skip)) | dsimp only

theorem sendSync_ev {s0 : State} (cycle : Nat) {s : State} (hv : Ev s0 s) : Ev s0 (sendSync cycle s) := by
  unfold sendSync
  repeat' with_reducible first
    | assumption | (intro _) | apply Ev.ite | apply emit_ev | apply updPair_ev | split
    | (fail_if_no_progress (apply Ev.of_mk <;> first | exact fun h => h | skip)) | dsimp only

theorem settleRecords_ev {s0 : State} {s : State} (hv : Ev s0 s) : Ev s0 (settleRecords s).2 := by
  unfold settleRecords
  repeat' with_reducible first
    | assumption | (intro _) | apply Ev.ite2 | apply updPair_ev | split | refine Ev.of_eq1 ?_ (by assumption)
    | refine Ev.of_eq2 ?_ (by assumption)
    | (fail_if_no_progress (apply Ev.of_mk <;> first | exact fun h => h | skip)) | dsimp only

theorem ageRecords_ev {s0 : State} {s : State} (hv : Ev s0 s) : Ev s0 (ageRecords s) := by
  unfold ageRecords
  repeat' with_reducible first
    | assumption | (intro _) | apply Ev.ite | apply updPair_ev | split
    | (fail_if_no_progress (apply Ev.of_mk <;> first | exact fun h => h | skip)) | dsimp only

theorem requestPeerReset_ev {s0 : State} {s : State} (hv : Ev s0 s) : Ev s0 (requestPeerReset s) := by
  unfold requestPeerReset
  repeat' with_reducible first
    | assumption | (intro _) | apply Ev.ite | apply emit_ev | split
    | (fail_if_no_progress (apply Ev.of_mk <;> first | exact fun h => h | skip)) | dsimp only

theorem darnPatch_ev {s0 : State} {s : State} (hv : Ev s0 s) : Ev s0 (darnPatch s) := by
  unfold darnPatch
  repeat' with_reducible first
    | assumption | (intro _) | apply Ev.ite | apply Ev.foldl | apply recordNow_ev | apply loadOther_ev
    | apply swapBanks_ev | apply refreshFirewall_ev | apply putSection_ev | apply swapPatch_ev | split
    | (fail_if_no_progress (apply Ev.of_mk <;> first | exact fun h => h | skip)) | dsimp only

theorem countUnsynced_ev {s0 : State} {s : State} (hv : Ev s0 s) : Ev s0 (countUnsynced s) := by
  unfold countUnsynced
  repeat' with_reducible first
    | assumption | (intro _) | apply Ev.ite | apply record_ev | apply updPair_ev | apply awaitDarn_ev | split
    | (fail_if_no_progress (apply Ev.of_mk <;> first | exact fun h => h | skip)) | dsimp only

theorem execCycleBoundarySync_ev {s t : State} (hx : execCycleBoundarySync s = .next t) : Ev s t := by
  unfold execCycleBoundarySync at hx
  obtain rfl := Host.Outcome.next.inj hx
  have hv := Ev.refl s
  repeat' with_reducible first
    | assumption | (intro _) | apply Ev.ite | apply Ev.ite2 | apply emit_ev | apply reachW_ev | apply updPair_ev
    | apply takeOver_ev | apply react_ev | apply sendSync_ev | apply settleRecords_ev | apply ageRecords_ev
    | apply requestPeerReset_ev | apply darnPatch_ev | apply countUnsynced_ev | split
    | refine Ev.of_eq1 ?_ (by assumption) | refine Ev.of_eq2 ?_ (by assumption)
    | (fail_if_no_progress (apply Ev.of_mk <;> first | exact fun h => h | skip)) | dsimp only

theorem exchangeRoles_ev {s0 : State} {s : State} (hv : Ev s0 s) : Ev s0 (exchangeRoles s) := by
  unfold exchangeRoles
  repeat' with_reducible first
    | assumption | (intro _) | apply Ev.ite | apply finalReply_ev | apply updPair_ev | apply resolveOwn_ev
    | apply becomeActive_ev | split
    | (fail_if_no_progress (apply Ev.of_mk <;> first | exact fun h => h | skip)) | dsimp only

theorem finishDarn_ev {s0 : State} {s : State} (hv : Ev s0 s) : Ev s0 (finishDarn s) := by
  unfold finishDarn
  repeat' with_reducible first
    | assumption | (intro _) | apply Ev.foldl | apply record_ev | apply updPair_ev | apply thawDomain_ev | split
    | (fail_if_no_progress (apply Ev.of_mk <;> first | exact fun h => h | skip)) | dsimp only

theorem takeSync_ev {s0 : State} (m : SyncFrame) {s : State} (hv : Ev s0 s) : Ev s0 (takeSync m s) := by
  unfold takeSync
  repeat' with_reducible first
    | assumption | (intro _) | apply Ev.ite | apply emit_ev | apply updPair_ev | apply applySync_ev
    | apply exchangeRoles_ev | apply finishDarn_ev | split
    | (fail_if_no_progress (apply Ev.of_mk <;> first | exact fun h => h | skip)) | dsimp only

theorem execMlSyncRx_ev (m : SyncFrame) {s t : State} (hx : execMlSyncRx m s = .next t) : Ev s t := by
  unfold execMlSyncRx at hx
  obtain rfl := Host.Outcome.next.inj hx
  have hv := Ev.refl s
  repeat' with_reducible first
    | assumption | (intro _) | apply Ev.ite | apply Ev.foldl | apply updPair_ev | apply linkAlive_ev
    | apply takeSync_ev | split
    | (fail_if_no_progress (apply Ev.of_mk <;> first | exact fun h => h | skip)) | dsimp only

theorem execMlSyncAckRx_ev (cycle : Word) {s t : State} (hx : execMlSyncAckRx cycle s = .next t) : Ev s t := by
  unfold execMlSyncAckRx at hx
  obtain rfl := Host.Outcome.next.inj hx
  have hv := Ev.refl s
  repeat' with_reducible first
    | assumption | (intro _) | apply Ev.ite | apply updPair_ev | apply linkAlive_ev | apply releaseCarried_ev
    | apply exchangeRoles_ev | split
    | (fail_if_no_progress (apply Ev.of_mk <;> first | exact fun h => h | skip)) | dsimp only

theorem followMismatch_ev {s0 : State} (n peerBad : Nat) {s : State} (hv : Ev s0 s) : Ev s0
    (followMismatch n peerBad s) := by
  unfold followMismatch
  repeat' with_reducible first
    | assumption | (intro _) | apply Ev.ite | apply record_ev | apply raiseInt_ev | apply updPair_ev | split
    | (fail_if_no_progress (apply Ev.of_mk <;> first | exact fun h => h | skip)) | dsimp only

theorem execMlDigestRx_ev (m : DigestFrame) {s t : State} (hx : execMlDigestRx m s = .next t) : Ev s t := by
  unfold execMlDigestRx at hx
  obtain rfl := Host.Outcome.next.inj hx
  have hv := Ev.refl s
  repeat' with_reducible first
    | assumption | (intro _) | apply Ev.ite | apply Ev.ite2 | apply updPair_ev | apply linkAlive_ev
    | apply react_ev | apply settleRecords_ev | apply followMismatch_ev | split
    | refine Ev.of_eq1 ?_ (by assumption) | refine Ev.of_eq2 ?_ (by assumption)
    | (fail_if_no_progress (apply Ev.of_mk <;> first | exact fun h => h | skip)) | dsimp only

theorem loadRecovery_ev {s0 : State} (r : FrerRec) {s : State} (hv : Ev s0 s) : Ev s0 (loadRecovery s r) := by
  unfold loadRecovery
  repeat' with_reducible first
    | assumption | (intro _) | apply Ev.ite | apply setRecovery_ev | split
    | (fail_if_no_progress (apply Ev.of_mk <;> first | exact fun h => h | skip)) | dsimp only

theorem loadMeter_ev {s0 : State} (m : MeterRec) {s : State} (hv : Ev s0 s) : Ev s0 (loadMeter s m) := by
  unfold loadMeter
  repeat' with_reducible first
    | assumption | (intro _) | apply Ev.ite | split
    | (fail_if_no_progress (apply Ev.of_mk <;> first | exact fun h => h | skip)) | dsimp only

theorem execMlDarnRx_ev (m : DarnPart) {s t : State} (hx : execMlDarnRx m s = .next t) : Ev s t := by
  unfold execMlDarnRx at hx
  obtain rfl := Host.Outcome.next.inj hx
  have hv := Ev.refl s
  repeat' with_reducible first
    | assumption | (intro _) | apply Ev.ite | apply Ev.foldl | apply updPair_ev | apply linkAlive_ev
    | apply mergeCt_ev | apply seedDomain_ev | apply loadRecovery_ev | apply loadMeter_ev | split
    | (fail_if_no_progress (apply Ev.of_mk <;> first | exact fun h => h | skip)) | dsimp only

theorem execMlRoleRx_ev (m : RoleFrame) {s t : State} (hx : execMlRoleRx m s = .next t) : Ev s t := by
  unfold execMlRoleRx at hx
  obtain rfl := Host.Outcome.next.inj hx
  have hv := Ev.refl s
  repeat' with_reducible first
    | assumption | (intro _) | apply Ev.ite | apply emit_ev | apply updPair_ev | apply linkAlive_ev | split
    | (fail_if_no_progress (apply Ev.of_mk <;> first | exact fun h => h | skip)) | dsimp only

theorem pairSwitchoverOp_ev : OpEv pairSwitchoverOp := by
  unfold pairSwitchoverOp
  constructor <;> intro r s0 s hv <;> dsimp only <;>
  repeat' with_reducible first
    | assumption | (intro _) | apply Ev.ite | apply emit_ev | apply updPair_ev | split
    | (fail_if_no_progress (apply Ev.of_mk <;> first | exact fun h => h | skip)) | dsimp only

theorem execPairSwitchover_ev (c : CmdSource) {s t : State} (hx : execPairSwitchover c s = .next t) : Ev s t := by
  unfold execPairSwitchover at hx
  obtain rfl := Host.Outcome.next.inj hx
  have hv := Ev.refl s
  repeat' with_reducible first
    | assumption | (intro _) | apply runCommand_ev | exact pairSwitchoverOp_ev | apply pairSwitchoverOp_ev.commit
    | split | (fail_if_no_progress (apply Ev.of_mk <;> first | exact fun h => h | skip)) | dsimp only

theorem execTakeoverTimeout_ev {s t : State} (hx : execTakeoverTimeout s = .next t) : Ev s t := by
  unfold execTakeoverTimeout at hx
  obtain rfl := Host.Outcome.next.inj hx
  have hv := Ev.refl s
  repeat' with_reducible first
    | assumption | (intro _) | apply Ev.ite | apply reachClock_ev | apply takeoverAhead_ev | split
    | (fail_if_no_progress (apply Ev.of_mk <;> first | exact fun h => h | skip)) | dsimp only

theorem pairStatusOp_ev : OpEv pairStatusOp := by
  unfold pairStatusOp
  constructor <;> intro r s0 s hv <;> dsimp only <;>
  repeat' with_reducible first
    | assumption | (intro _) | apply answer_ev | split
    | (fail_if_no_progress (apply Ev.of_mk <;> first | exact fun h => h | skip)) | dsimp only

theorem execPairStatus_ev (c : CmdSource) {s t : State} (hx : execPairStatus c s = .next t) : Ev s t := by
  unfold execPairStatus at hx
  obtain rfl := Host.Outcome.next.inj hx
  have hv := Ev.refl s
  repeat' with_reducible first
    | assumption | (intro _) | apply runCommand_ev | exact pairStatusOp_ev | apply pairStatusOp_ev.commit | split
    | (fail_if_no_progress (apply Ev.of_mk <;> first | exact fun h => h | skip)) | dsimp only

/-! Machine/CmdTable.lean. -/

theorem opDefs_ev {d : OpDef} (h : d ∈ opDefs) : OpEv d := by
  simp only [opDefs, opDefs0, opDefs1, opDefs2, List.mem_append, List.mem_cons, List.not_mem_nil, or_false] at h
  rcases h with (h | h) | h <;> casesm* _ ∨ _ <;> subst d
  all_goals first
    | exact timeStatusOp_ev | exact timeRestepOp_ev | exact fwlStatusOp_ev | exact fwlConnListOp_ev
    | exact fwlConnFlushOp_ev | exact bsnStatusOp_ev | exact egrFrerStatusOp_ev | exact egrStatusOp_ev
    | exact prsLaneStatusOp_ev | exact keyDeriveOp_ev | exact keySlotInfoOp_ev | exact attestQuoteOp_ev
    | exact lcTransitionOp_ev | exact sysGetInfoOp_ev | exact sysAbortOp_ev | exact sysSetModeOp_ev
    | exact sysSetAuthPolicyOp_ev | exact hstRingCtlOp_ev | exact portStatusOp_ev | exact portLinkCtlOp_ev
    | exact msecSaInstallOp_ev | exact msecSaStatusOp_ev | exact wakeSleepRequestOp_ev | exact wakeSegmentOp_ev
    | exact wakeStatusOp_ev | exact legChannelCtlOp_ev | exact legStatusOp_ev | exact cntSelectOp_ev
    | exact cntSnapshotAtOp_ev | exact imgBeginOp_ev | exact imgChunkOp_ev | exact imgVerifyOp_ev
    | exact imgStageOp_ev | exact imgActivateOp_ev | exact imgStatusOp_ev | exact imgPatchOp_ev
    | exact prsBankSwapOp_ev | exact updBeginOp_ev | exact updChunkOp_ev | exact updVerifyOp_ev
    | exact updStageOp_ev | exact updActivateOp_ev | exact updConfirmOp_ev | exact updStatusOp_ev
    | exact evrReadOp_ev | exact evrClearOp_ev | exact rstBlockOp_ev | exact rstGlobalOp_ev
    | exact pbWindowSetOp_ev | exact dbgAccessOp_ev | exact pairSwitchoverOp_ev | exact pairStatusOp_ev

theorem meaningOf_ev (op : Nat) : OpEv (meaningOf op) := by
  unfold meaningOf
  cases h : opDefs.find? (fun d => d.code == op) with
  | none => exact OpEv.skip op
  | some d => exact opDefs_ev (List.mem_of_find?_eq_some h)

/-! Machine/Transports.lean. -/

theorem takeCommand_ev {s0 : State} (via : Via) (op : Nat) (p : Packet) {s : State} (hv : Ev s0 s) : Ev s0
    (takeCommand via op p s) := by
  unfold takeCommand
  repeat' with_reducible first
    | assumption | (intro _) | exact meaningOf_ev _ | exact (meaningOf_ev _).commit _ _ _ (by assumption)
    | apply (meaningOf_ev _).commit | apply (meaningOf_ev _).effect | apply arriveWith_ev | exact meaningOf_ev
    | apply meaningOf_ev.commit | split
    | (fail_if_no_progress (apply Ev.of_mk <;> first | exact fun h => h | skip)) | dsimp only

theorem passDescriptor_ev {s0 : State} (f : Nat) (g : CmdRing → CmdRing) {s : State} (hv : Ev s0 s) : Ev s0
    (passDescriptor f g s) := by
  unfold passDescriptor
  repeat' with_reducible first
    | assumption | (intro _) | exact meaningOf_ev _ | exact (meaningOf_ev _).commit _ _ _ (by assumption)
    | apply (meaningOf_ev _).commit | apply (meaningOf_ev _).effect | apply setCmdRing_ev | split
    | (fail_if_no_progress (apply Ev.of_mk <;> first | exact fun h => h | skip)) | dsimp only

theorem fetchDescriptors_ev {s0 : State} (f : Fin 2) (l : List SqFetch) {s : State} (hv : Ev s0 s) : Ev s0
    (fetchDescriptors f l s) := by
  induction l generalizing s with
  | nil => exact hv
  | cons x xs ih =>
    unfold fetchDescriptors
    repeat' with_reducible first
      | assumption | (intro _) | apply Ev.ite | apply Ev.foldl | apply ih | apply passDescriptor_ev
      | apply takeCommand_ev | apply setCmdRing_ev | split
      | (fail_if_no_progress (apply Ev.of_mk <;> first | exact fun h => h | skip)) | dsimp only

theorem execCmdSqTailWrite_ev (f : Fin 2) (tail : Word) (fetched : List SqFetch) {s t : State} (hx
    : execCmdSqTailWrite f tail fetched s = .next t) : Ev s t := by
  unfold execCmdSqTailWrite at hx
  obtain rfl := Host.Outcome.next.inj hx
  have hv := Ev.refl s
  repeat' with_reducible first
    | assumption | (intro _) | apply Ev.ite | exact meaningOf_ev _
    | exact (meaningOf_ev _).commit _ _ _ (by assumption) | apply (meaningOf_ev _).commit
    | apply (meaningOf_ev _).effect | apply setCmdRing_ev | apply fetchDescriptors_ev | split
    | (fail_if_no_progress (apply Ev.of_mk <;> first | exact fun h => h | skip)) | dsimp only

theorem takeRequest_ev {s0 : State} {s : State} (hv : Ev s0 s) : Ev s0 (takeRequest s) := by
  unfold takeRequest
  repeat' with_reducible first
    | assumption | (intro _) | apply Ev.ite | exact meaningOf_ev _
    | exact (meaningOf_ev _).commit _ _ _ (by assumption) | apply (meaningOf_ev _).commit
    | apply (meaningOf_ev _).effect | apply takeCommand_ev | split
    | (fail_if_no_progress (apply Ev.of_mk <;> first | exact fun h => h | skip)) | dsimp only

theorem fetchOffered_ev {s0 : State} (f : Fin 2) {s : State} (hv : Ev s0 s) : Ev s0 (fetchOffered f s) := by
  unfold fetchOffered
  repeat' with_reducible first
    | assumption | (intro _) | exact meaningOf_ev _ | exact (meaningOf_ev _).commit _ _ _ (by assumption)
    | apply (meaningOf_ev _).commit | apply (meaningOf_ev _).effect | apply setCmdRing_ev
    | apply fetchDescriptors_ev | split
    | (fail_if_no_progress (apply Ev.of_mk <;> first | exact fun h => h | skip)) | dsimp only

theorem takeWaiting_ev {s0 : State} {s : State} (hv : Ev s0 s) : Ev s0 (takeWaiting s) := by
  unfold takeWaiting
  repeat' with_reducible first
    | assumption | (intro _) | exact meaningOf_ev _ | exact (meaningOf_ev _).commit _ _ _ (by assumption)
    | apply (meaningOf_ev _).commit | apply (meaningOf_ev _).effect | apply takeRequest_ev | apply fetchOffered_ev
    | split | (fail_if_no_progress (apply Ev.of_mk <;> first | exact fun h => h | skip)) | dsimp only

theorem ringMailbox_ev {s0 : State} (v : Word) {s : State} (hv : Ev s0 s) : Ev s0 (ringMailbox v s) := by
  unfold ringMailbox
  repeat' with_reducible first
    | assumption | (intro _) | apply Ev.ite | exact meaningOf_ev _
    | exact (meaningOf_ev _).commit _ _ _ (by assumption) | apply (meaningOf_ev _).commit
    | apply (meaningOf_ev _).effect | apply takeRequest_ev | split
    | (fail_if_no_progress (apply Ev.of_mk <;> first | exact fun h => h | skip)) | dsimp only

theorem execCmdMbDbSubmit_ev (v : Word) {s t : State} (hx : execCmdMbDbSubmit v s = .next t) : Ev s t := by
  unfold execCmdMbDbSubmit at hx
  obtain rfl := Host.Outcome.next.inj hx
  have hv := Ev.refl s
  repeat' with_reducible first
    | assumption | (intro _) | apply Ev.ite | exact meaningOf_ev _
    | exact (meaningOf_ev _).commit _ _ _ (by assumption) | apply (meaningOf_ev _).commit
    | apply (meaningOf_ev _).effect | apply ringMailbox_ev | split
    | (fail_if_no_progress (apply Ev.of_mk <;> first | exact fun h => h | skip)) | dsimp only

theorem finishLate_ev {s0 : State} {s : State} (hv : Ev s0 s) : Ev s0 (finishLate s) := by
  unfold finishLate
  repeat' with_reducible first
    | assumption | (intro _) | apply Ev.ite | exact meaningOf_ev _
    | exact (meaningOf_ev _).commit _ _ _ (by assumption) | apply (meaningOf_ev _).commit
    | apply (meaningOf_ev _).effect | apply finishActivation_ev | split
    | (fail_if_no_progress (apply Ev.of_mk <;> first | exact fun h => h | skip)) | dsimp only

theorem catchUp_ev {s0 : State} {s : State} (hv : Ev s0 s) : Ev s0 (catchUp s) := by
  unfold catchUp
  repeat' with_reducible first
    | assumption | (intro _) | exact meaningOf_ev _ | exact (meaningOf_ev _).commit _ _ _ (by assumption)
    | apply (meaningOf_ev _).commit | apply (meaningOf_ev _).effect | apply takeWaiting_ev | apply finishLate_ev
    | split | (fail_if_no_progress (apply Ev.of_mk <;> first | exact fun h => h | skip)) | dsimp only

theorem execDbgAccess_ev (c : CmdSource) {s t : State} (hx : execDbgAccess c s = .next t) : Ev s t := by
  unfold execDbgAccess at hx
  obtain rfl := Host.Outcome.next.inj hx
  have hv := Ev.refl s
  repeat' with_reducible first
    | assumption | (intro _) | exact meaningOf_ev _ | exact (meaningOf_ev _).commit _ _ _ (by assumption)
    | apply (meaningOf_ev _).commit | apply (meaningOf_ev _).effect | apply runDbg_ev | apply catchUp_ev | split
    | (fail_if_no_progress (apply Ev.of_mk <;> first | exact fun h => h | skip)) | dsimp only

theorem putWord_ev {s0 : State} (v : View) (off : Nat) (w : Word) {s : State} (hv : Ev s0 s) : Ev s0
    (putWord v off w s) := by
  unfold putWord
  repeat' with_reducible first
    | assumption | (intro _) | apply Ev.ite | exact meaningOf_ev _
    | exact (meaningOf_ev _).commit _ _ _ (by assumption) | apply (meaningOf_ev _).commit
    | apply (meaningOf_ev _).effect | apply putReg_ev | apply ringMailbox_ev | split
    | (fail_if_no_progress (apply Ev.of_mk <;> first | exact fun h => h | skip)) | dsimp only

theorem applyWord_ev {s0 : State} (off : Nat) (w : Word) {s : State} (hv : Ev s0 s) : Ev s0 (applyWord off w s) := by
  unfold applyWord
  repeat' with_reducible first
    | assumption | (intro _) | exact meaningOf_ev _ | exact (meaningOf_ev _).commit _ _ _ (by assumption)
    | apply (meaningOf_ev _).commit | apply (meaningOf_ev _).effect | apply putWord_ev | split
    | (fail_if_no_progress (apply Ev.of_mk <;> first | exact fun h => h | skip)) | dsimp only

theorem execRegisterWrite_ev (v : View) (off : Word16) (w : Word) {s t : State} (hx
    : execRegisterWrite v off w s = .next t) : Ev s t := by
  unfold execRegisterWrite at hx
  obtain rfl := Host.Outcome.next.inj hx
  have hv := Ev.refl s
  repeat' with_reducible first
    | assumption | (intro _) | apply Ev.ite | exact meaningOf_ev _
    | exact (meaningOf_ev _).commit _ _ _ (by assumption) | apply (meaningOf_ev _).commit
    | apply (meaningOf_ev _).effect | apply setPciFn_ev | apply setXspi_ev | apply putWord_ev | split
    | (fail_if_no_progress (apply Ev.of_mk <;> first | exact fun h => h | skip)) | dsimp only

theorem applyWords_ev {s0 : State} (o : Nat) (l : List Word) {s : State} (hv : Ev s0 s) : Ev s0 (applyWords o l s)
    := by
  induction l generalizing s o with
  | nil => exact hv
  | cons x xs ih =>
    unfold applyWords
    repeat' with_reducible first
      | assumption | (intro _) | apply Ev.ite | apply Ev.foldl | apply ih | apply applyWord_ev | split
      | (fail_if_no_progress (apply Ev.of_mk <;> first | exact fun h => h | skip)) | dsimp only

theorem execLbWriteApply_ev {s t : State} (hx : execLbWriteApply s = .next t) : Ev s t := by
  unfold execLbWriteApply at hx
  obtain rfl := Host.Outcome.next.inj hx
  have hv := Ev.refl s
  repeat' with_reducible first
    | assumption | (intro _) | apply Ev.ite | exact meaningOf_ev _
    | exact (meaningOf_ev _).commit _ _ _ (by assumption) | apply (meaningOf_ev _).commit
    | apply (meaningOf_ev _).effect | apply setXspi_ev | apply applyWords_ev | split
    | (fail_if_no_progress (apply Ev.of_mk <;> first | exact fun h => h | skip)) | dsimp only

theorem handOver_ev {s0 : State} (d : OpDef) (e : InFlight) (hd : OpEv d) {s : State} (hv : Ev s0 s) : Ev s0
    (handOver d e s) := by
  unfold handOver
  repeat' with_reducible first
    | assumption | (intro _) | apply Ev.ite | exact hd | apply hd.commit | apply hd.handOver | apply hd.arm
    | apply hd.onFail | apply hd.onClosed | apply hd.onAccept | apply hd.effect | exact meaningOf_ev _
    | exact (meaningOf_ev _).commit _ _ _ (by assumption) | apply (meaningOf_ev _).commit
    | apply (meaningOf_ev _).effect | apply updTag_ev | apply finalReply_ev | apply awaitSync_ev | split
    | (fail_if_no_progress (apply Ev.of_mk <;> first | exact fun h => h | skip)) | dsimp only

theorem handOverPeer_ev {s0 : State} {s : State} (hv : Ev s0 s) : Ev s0 (handOverPeer s) := by
  unfold handOverPeer
  repeat' with_reducible first
    | assumption | (intro _) | apply Ev.ite | exact meaningOf_ev _
    | exact (meaningOf_ev _).commit _ _ _ (by assumption) | apply (meaningOf_ev _).commit
    | apply (meaningOf_ev _).effect | apply reachW_ev | split
    | (fail_if_no_progress (apply Ev.of_mk <;> first | exact fun h => h | skip)) | dsimp only

theorem execTimedHandover_ev (tag : Word16) {s t : State} (hx : execTimedHandover tag s = .next t) : Ev s t := by
  unfold execTimedHandover at hx
  obtain rfl := Host.Outcome.next.inj hx
  have hv := Ev.refl s
  repeat' with_reducible first
    | assumption | (intro _) | apply Ev.ite | exact meaningOf_ev _
    | exact (meaningOf_ev _).commit _ _ _ (by assumption) | apply (meaningOf_ev _).commit
    | apply (meaningOf_ev _).effect | apply reachW_ev | apply handOver_ev | apply handOverPeer_ev
    | exact meaningOf_ev | apply meaningOf_ev.commit | split
    | (fail_if_no_progress (apply Ev.of_mk <;> first | exact fun h => h | skip)) | dsimp only

theorem executePeerTimed_ev {s0 : State} (tag : Word16) {s : State} (hv : Ev s0 s) : Ev s0 (executePeerTimed tag s)
    := by
  unfold executePeerTimed
  repeat' with_reducible first
    | assumption | (intro _) | exact meaningOf_ev _ | exact (meaningOf_ev _).commit _ _ _ (by assumption)
    | apply (meaningOf_ev _).commit | apply (meaningOf_ev _).effect | apply reachW_ev | exact meaningOf_ev
    | apply meaningOf_ev.commit | split
    | (fail_if_no_progress (apply Ev.of_mk <;> first | exact fun h => h | skip)) | dsimp only

theorem execAtTimeExecute_ev (tag : Word16) {s t : State} (hx : execAtTimeExecute tag s = .next t) : Ev s t := by
  unfold execAtTimeExecute at hx
  obtain rfl := Host.Outcome.next.inj hx
  have hv := Ev.refl s
  repeat' with_reducible first
    | assumption | (intro _) | apply Ev.ite | exact meaningOf_ev _
    | exact (meaningOf_ev _).commit _ _ _ (by assumption) | apply (meaningOf_ev _).commit
    | apply (meaningOf_ev _).effect | apply reachW_ev | apply updTag_ev | apply executePeerTimed_ev
    | exact meaningOf_ev | apply meaningOf_ev.commit | split
    | (fail_if_no_progress (apply Ev.of_mk <;> first | exact fun h => h | skip)) | dsimp only

theorem execFirmwareStart_ev {s t : State} (hx : execFirmwareStart s = .next t) : Ev s t := by
  unfold execFirmwareStart at hx
  obtain rfl := Host.Outcome.next.inj hx
  have hv := Ev.refl s
  repeat' with_reducible first
    | assumption | (intro _) | exact meaningOf_ev _ | exact (meaningOf_ev _).commit _ _ _ (by assumption)
    | apply (meaningOf_ev _).commit | apply (meaningOf_ev _).effect | apply startFirmware_ev | apply takeWaiting_ev
    | split | (fail_if_no_progress (apply Ev.of_mk <;> first | exact fun h => h | skip)) | dsimp only

end Sys2Proof.Machine
end

