-- ==== Sys2Proof/Laws/State.lean ====
section
/-!
SUPPORT. One lemma per field of the state for each named update, and what an update's own reader gives after it.
-/
namespace Sys2Proof.Machine

variable (s : State)

/-! emit -/

@[simp] theorem emit_pending (o : Out) : (emit o s).pending = s.pending := rfl
@[simp] theorem emit_freeCtr (o : Out) : (emit o s).freeCtr = s.freeCtr := rfl
@[simp] theorem emit_clk (o : Out) : (emit o s).clk = s.clk := rfl
@[simp] theorem emit_sys (o : Out) : (emit o s).sys = s.sys := rfl
@[simp] theorem emit_otp (o : Out) : (emit o s).otp = s.otp := rfl
@[simp] theorem emit_keys (o : Out) : (emit o s).keys = s.keys := rfl
@[simp] theorem emit_cmd (o : Out) : (emit o s).cmd = s.cmd := rfl
@[simp] theorem emit_intr (o : Out) : (emit o s).intr = s.intr := rfl
@[simp] theorem emit_hst (o : Out) : (emit o s).hst = s.hst := rfl
@[simp] theorem emit_cnt (o : Out) : (emit o s).cnt = s.cnt := rfl
@[simp] theorem emit_evr (o : Out) : (emit o s).evr = s.evr := rfl
@[simp] theorem emit_bkp (o : Out) : (emit o s).bkp = s.bkp := rfl
@[simp] theorem emit_time (o : Out) : (emit o s).time = s.time := rfl
@[simp] theorem emit_img (o : Out) : (emit o s).img = s.img := rfl
@[simp] theorem emit_rst (o : Out) : (emit o s).rst = s.rst := rfl
@[simp] theorem emit_upd (o : Out) : (emit o s).upd = s.upd := rfl
@[simp] theorem emit_saf (o : Out) : (emit o s).saf = s.saf := rfl
@[simp] theorem emit_pair (o : Out) : (emit o s).pair = s.pair := rfl
@[simp] theorem emit_pb (o : Out) : (emit o s).pb = s.pb := rfl
@[simp] theorem emit_ports (o : Out) : (emit o s).ports = s.ports := rfl
@[simp] theorem emit_frames (o : Out) : (emit o s).frames = s.frames := rfl
@[simp] theorem emit_nextFrame (o : Out) : (emit o s).nextFrame = s.nextFrame := rfl
@[simp] theorem emit_lanes (o : Out) : (emit o s).lanes = s.lanes := rfl
@[simp] theorem emit_fwl (o : Out) : (emit o s).fwl = s.fwl := rfl
@[simp] theorem emit_bsn (o : Out) : (emit o s).bsn = s.bsn := rfl
@[simp] theorem emit_egr (o : Out) : (emit o s).egr = s.egr := rfl
@[simp] theorem emit_leg (o : Out) : (emit o s).leg = s.leg := rfl
@[simp] theorem emit_wake (o : Out) : (emit o s).wake = s.wake := rfl

/-! reachClock -/

@[simp] theorem reachClock_pending (t : Nat) : (reachClock t s).pending = s.pending := rfl
@[simp] theorem reachClock_freeCtr (t : Nat) : (reachClock t s).freeCtr = s.freeCtr := rfl
@[simp] theorem reachClock_wire (t : Nat) : (reachClock t s).wire = s.wire := rfl
@[simp] theorem reachClock_sys (t : Nat) : (reachClock t s).sys = s.sys := rfl
@[simp] theorem reachClock_otp (t : Nat) : (reachClock t s).otp = s.otp := rfl
@[simp] theorem reachClock_keys (t : Nat) : (reachClock t s).keys = s.keys := rfl
@[simp] theorem reachClock_cmd (t : Nat) : (reachClock t s).cmd = s.cmd := rfl
@[simp] theorem reachClock_intr (t : Nat) : (reachClock t s).intr = s.intr := rfl
@[simp] theorem reachClock_hst (t : Nat) : (reachClock t s).hst = s.hst := rfl
@[simp] theorem reachClock_cnt (t : Nat) : (reachClock t s).cnt = s.cnt := rfl
@[simp] theorem reachClock_evr (t : Nat) : (reachClock t s).evr = s.evr := rfl
@[simp] theorem reachClock_bkp (t : Nat) : (reachClock t s).bkp = s.bkp := rfl
@[simp] theorem reachClock_time (t : Nat) : (reachClock t s).time = s.time := rfl
@[simp] theorem reachClock_img (t : Nat) : (reachClock t s).img = s.img := rfl
@[simp] theorem reachClock_rst (t : Nat) : (reachClock t s).rst = s.rst := rfl
@[simp] theorem reachClock_upd (t : Nat) : (reachClock t s).upd = s.upd := rfl
@[simp] theorem reachClock_saf (t : Nat) : (reachClock t s).saf = s.saf := rfl
@[simp] theorem reachClock_pair (t : Nat) : (reachClock t s).pair = s.pair := rfl
@[simp] theorem reachClock_pb (t : Nat) : (reachClock t s).pb = s.pb := rfl
@[simp] theorem reachClock_ports (t : Nat) : (reachClock t s).ports = s.ports := rfl
@[simp] theorem reachClock_frames (t : Nat) : (reachClock t s).frames = s.frames := rfl
@[simp] theorem reachClock_nextFrame (t : Nat) : (reachClock t s).nextFrame = s.nextFrame := rfl
@[simp] theorem reachClock_lanes (t : Nat) : (reachClock t s).lanes = s.lanes := rfl
@[simp] theorem reachClock_fwl (t : Nat) : (reachClock t s).fwl = s.fwl := rfl
@[simp] theorem reachClock_bsn (t : Nat) : (reachClock t s).bsn = s.bsn := rfl
@[simp] theorem reachClock_egr (t : Nat) : (reachClock t s).egr = s.egr := rfl
@[simp] theorem reachClock_leg (t : Nat) : (reachClock t s).leg = s.leg := rfl
@[simp] theorem reachClock_wake (t : Nat) : (reachClock t s).wake = s.wake := rfl

/-! reachW -/

@[simp] theorem reachW_pending (t : Int) : (reachW t s).pending = s.pending := rfl
@[simp] theorem reachW_freeCtr (t : Int) : (reachW t s).freeCtr = s.freeCtr := rfl
@[simp] theorem reachW_wire (t : Int) : (reachW t s).wire = s.wire := rfl
@[simp] theorem reachW_sys (t : Int) : (reachW t s).sys = s.sys := rfl
@[simp] theorem reachW_otp (t : Int) : (reachW t s).otp = s.otp := rfl
@[simp] theorem reachW_keys (t : Int) : (reachW t s).keys = s.keys := rfl
@[simp] theorem reachW_cmd (t : Int) : (reachW t s).cmd = s.cmd := rfl
@[simp] theorem reachW_intr (t : Int) : (reachW t s).intr = s.intr := rfl
@[simp] theorem reachW_hst (t : Int) : (reachW t s).hst = s.hst := rfl
@[simp] theorem reachW_cnt (t : Int) : (reachW t s).cnt = s.cnt := rfl
@[simp] theorem reachW_evr (t : Int) : (reachW t s).evr = s.evr := rfl
@[simp] theorem reachW_bkp (t : Int) : (reachW t s).bkp = s.bkp := rfl
@[simp] theorem reachW_time (t : Int) : (reachW t s).time = s.time := rfl
@[simp] theorem reachW_img (t : Int) : (reachW t s).img = s.img := rfl
@[simp] theorem reachW_rst (t : Int) : (reachW t s).rst = s.rst := rfl
@[simp] theorem reachW_upd (t : Int) : (reachW t s).upd = s.upd := rfl
@[simp] theorem reachW_saf (t : Int) : (reachW t s).saf = s.saf := rfl
@[simp] theorem reachW_pair (t : Int) : (reachW t s).pair = s.pair := rfl
@[simp] theorem reachW_pb (t : Int) : (reachW t s).pb = s.pb := rfl
@[simp] theorem reachW_ports (t : Int) : (reachW t s).ports = s.ports := rfl
@[simp] theorem reachW_frames (t : Int) : (reachW t s).frames = s.frames := rfl
@[simp] theorem reachW_nextFrame (t : Int) : (reachW t s).nextFrame = s.nextFrame := rfl
@[simp] theorem reachW_lanes (t : Int) : (reachW t s).lanes = s.lanes := rfl
@[simp] theorem reachW_fwl (t : Int) : (reachW t s).fwl = s.fwl := rfl
@[simp] theorem reachW_bsn (t : Int) : (reachW t s).bsn = s.bsn := rfl
@[simp] theorem reachW_egr (t : Int) : (reachW t s).egr = s.egr := rfl
@[simp] theorem reachW_leg (t : Int) : (reachW t s).leg = s.leg := rfl
@[simp] theorem reachW_wake (t : Int) : (reachW t s).wake = s.wake := rfl

/-! drawNat -/

@[simp] theorem drawNat_pending : (drawNat s).2.pending = s.pending := rfl
@[simp] theorem drawNat_wire : (drawNat s).2.wire = s.wire := rfl
@[simp] theorem drawNat_clk : (drawNat s).2.clk = s.clk := rfl
@[simp] theorem drawNat_sys : (drawNat s).2.sys = s.sys := rfl
@[simp] theorem drawNat_otp : (drawNat s).2.otp = s.otp := rfl
@[simp] theorem drawNat_keys : (drawNat s).2.keys = s.keys := rfl
@[simp] theorem drawNat_cmd : (drawNat s).2.cmd = s.cmd := rfl
@[simp] theorem drawNat_intr : (drawNat s).2.intr = s.intr := rfl
@[simp] theorem drawNat_hst : (drawNat s).2.hst = s.hst := rfl
@[simp] theorem drawNat_cnt : (drawNat s).2.cnt = s.cnt := rfl
@[simp] theorem drawNat_evr : (drawNat s).2.evr = s.evr := rfl
@[simp] theorem drawNat_bkp : (drawNat s).2.bkp = s.bkp := rfl
@[simp] theorem drawNat_time : (drawNat s).2.time = s.time := rfl
@[simp] theorem drawNat_img : (drawNat s).2.img = s.img := rfl
@[simp] theorem drawNat_rst : (drawNat s).2.rst = s.rst := rfl
@[simp] theorem drawNat_upd : (drawNat s).2.upd = s.upd := rfl
@[simp] theorem drawNat_saf : (drawNat s).2.saf = s.saf := rfl
@[simp] theorem drawNat_pair : (drawNat s).2.pair = s.pair := rfl
@[simp] theorem drawNat_pb : (drawNat s).2.pb = s.pb := rfl
@[simp] theorem drawNat_ports : (drawNat s).2.ports = s.ports := rfl
@[simp] theorem drawNat_frames : (drawNat s).2.frames = s.frames := rfl
@[simp] theorem drawNat_nextFrame : (drawNat s).2.nextFrame = s.nextFrame := rfl
@[simp] theorem drawNat_lanes : (drawNat s).2.lanes = s.lanes := rfl
@[simp] theorem drawNat_fwl : (drawNat s).2.fwl = s.fwl := rfl
@[simp] theorem drawNat_bsn : (drawNat s).2.bsn = s.bsn := rfl
@[simp] theorem drawNat_egr : (drawNat s).2.egr = s.egr := rfl
@[simp] theorem drawNat_leg : (drawNat s).2.leg = s.leg := rfl
@[simp] theorem drawNat_wake : (drawNat s).2.wake = s.wake := rfl

/-! drawBytes -/

@[simp] theorem drawBytes_pending (n : Nat) : (drawBytes n s).2.pending = s.pending := rfl
@[simp] theorem drawBytes_wire (n : Nat) : (drawBytes n s).2.wire = s.wire := rfl
@[simp] theorem drawBytes_clk (n : Nat) : (drawBytes n s).2.clk = s.clk := rfl
@[simp] theorem drawBytes_sys (n : Nat) : (drawBytes n s).2.sys = s.sys := rfl
@[simp] theorem drawBytes_otp (n : Nat) : (drawBytes n s).2.otp = s.otp := rfl
@[simp] theorem drawBytes_keys (n : Nat) : (drawBytes n s).2.keys = s.keys := rfl
@[simp] theorem drawBytes_cmd (n : Nat) : (drawBytes n s).2.cmd = s.cmd := rfl
@[simp] theorem drawBytes_intr (n : Nat) : (drawBytes n s).2.intr = s.intr := rfl
@[simp] theorem drawBytes_hst (n : Nat) : (drawBytes n s).2.hst = s.hst := rfl
@[simp] theorem drawBytes_cnt (n : Nat) : (drawBytes n s).2.cnt = s.cnt := rfl
@[simp] theorem drawBytes_evr (n : Nat) : (drawBytes n s).2.evr = s.evr := rfl
@[simp] theorem drawBytes_bkp (n : Nat) : (drawBytes n s).2.bkp = s.bkp := rfl
@[simp] theorem drawBytes_time (n : Nat) : (drawBytes n s).2.time = s.time := rfl
@[simp] theorem drawBytes_img (n : Nat) : (drawBytes n s).2.img = s.img := rfl
@[simp] theorem drawBytes_rst (n : Nat) : (drawBytes n s).2.rst = s.rst := rfl
@[simp] theorem drawBytes_upd (n : Nat) : (drawBytes n s).2.upd = s.upd := rfl
@[simp] theorem drawBytes_saf (n : Nat) : (drawBytes n s).2.saf = s.saf := rfl
@[simp] theorem drawBytes_pair (n : Nat) : (drawBytes n s).2.pair = s.pair := rfl
@[simp] theorem drawBytes_pb (n : Nat) : (drawBytes n s).2.pb = s.pb := rfl
@[simp] theorem drawBytes_ports (n : Nat) : (drawBytes n s).2.ports = s.ports := rfl
@[simp] theorem drawBytes_frames (n : Nat) : (drawBytes n s).2.frames = s.frames := rfl
@[simp] theorem drawBytes_nextFrame (n : Nat) : (drawBytes n s).2.nextFrame = s.nextFrame := rfl
@[simp] theorem drawBytes_lanes (n : Nat) : (drawBytes n s).2.lanes = s.lanes := rfl
@[simp] theorem drawBytes_fwl (n : Nat) : (drawBytes n s).2.fwl = s.fwl := rfl
@[simp] theorem drawBytes_bsn (n : Nat) : (drawBytes n s).2.bsn = s.bsn := rfl
@[simp] theorem drawBytes_egr (n : Nat) : (drawBytes n s).2.egr = s.egr := rfl
@[simp] theorem drawBytes_leg (n : Nat) : (drawBytes n s).2.leg = s.leg := rfl
@[simp] theorem drawBytes_wake (n : Nat) : (drawBytes n s).2.wake = s.wake := rfl

/-! setDom -/

@[simp] theorem setDom_pending (d : Nat) (v : Domain) : (setDom d v s).pending = s.pending := rfl
@[simp] theorem setDom_freeCtr (d : Nat) (v : Domain) : (setDom d v s).freeCtr = s.freeCtr := rfl
@[simp] theorem setDom_wire (d : Nat) (v : Domain) : (setDom d v s).wire = s.wire := rfl
@[simp] theorem setDom_clk (d : Nat) (v : Domain) : (setDom d v s).clk = s.clk := rfl
@[simp] theorem setDom_sys (d : Nat) (v : Domain) : (setDom d v s).sys = s.sys := rfl
@[simp] theorem setDom_otp (d : Nat) (v : Domain) : (setDom d v s).otp = s.otp := rfl
@[simp] theorem setDom_keys (d : Nat) (v : Domain) : (setDom d v s).keys = s.keys := rfl
@[simp] theorem setDom_cmd (d : Nat) (v : Domain) : (setDom d v s).cmd = s.cmd := rfl
@[simp] theorem setDom_intr (d : Nat) (v : Domain) : (setDom d v s).intr = s.intr := rfl
@[simp] theorem setDom_hst (d : Nat) (v : Domain) : (setDom d v s).hst = s.hst := rfl
@[simp] theorem setDom_cnt (d : Nat) (v : Domain) : (setDom d v s).cnt = s.cnt := rfl
@[simp] theorem setDom_evr (d : Nat) (v : Domain) : (setDom d v s).evr = s.evr := rfl
@[simp] theorem setDom_bkp (d : Nat) (v : Domain) : (setDom d v s).bkp = s.bkp := rfl
@[simp] theorem setDom_img (d : Nat) (v : Domain) : (setDom d v s).img = s.img := rfl
@[simp] theorem setDom_rst (d : Nat) (v : Domain) : (setDom d v s).rst = s.rst := rfl
@[simp] theorem setDom_upd (d : Nat) (v : Domain) : (setDom d v s).upd = s.upd := rfl
@[simp] theorem setDom_saf (d : Nat) (v : Domain) : (setDom d v s).saf = s.saf := rfl
@[simp] theorem setDom_pair (d : Nat) (v : Domain) : (setDom d v s).pair = s.pair := rfl
@[simp] theorem setDom_pb (d : Nat) (v : Domain) : (setDom d v s).pb = s.pb := rfl
@[simp] theorem setDom_ports (d : Nat) (v : Domain) : (setDom d v s).ports = s.ports := rfl
@[simp] theorem setDom_frames (d : Nat) (v : Domain) : (setDom d v s).frames = s.frames := rfl
@[simp] theorem setDom_nextFrame (d : Nat) (v : Domain) : (setDom d v s).nextFrame = s.nextFrame := rfl
@[simp] theorem setDom_lanes (d : Nat) (v : Domain) : (setDom d v s).lanes = s.lanes := rfl
@[simp] theorem setDom_fwl (d : Nat) (v : Domain) : (setDom d v s).fwl = s.fwl := rfl
@[simp] theorem setDom_bsn (d : Nat) (v : Domain) : (setDom d v s).bsn = s.bsn := rfl
@[simp] theorem setDom_egr (d : Nat) (v : Domain) : (setDom d v s).egr = s.egr := rfl
@[simp] theorem setDom_leg (d : Nat) (v : Domain) : (setDom d v s).leg = s.leg := rfl
@[simp] theorem setDom_wake (d : Nat) (v : Domain) : (setDom d v s).wake = s.wake := rfl

/-! setDelay -/

@[simp] theorem setDelay_pending (p : Nat) (v : PortDelay) : (setDelay p v s).pending = s.pending := rfl
@[simp] theorem setDelay_freeCtr (p : Nat) (v : PortDelay) : (setDelay p v s).freeCtr = s.freeCtr := rfl
@[simp] theorem setDelay_wire (p : Nat) (v : PortDelay) : (setDelay p v s).wire = s.wire := rfl
@[simp] theorem setDelay_clk (p : Nat) (v : PortDelay) : (setDelay p v s).clk = s.clk := rfl
@[simp] theorem setDelay_sys (p : Nat) (v : PortDelay) : (setDelay p v s).sys = s.sys := rfl
@[simp] theorem setDelay_otp (p : Nat) (v : PortDelay) : (setDelay p v s).otp = s.otp := rfl
@[simp] theorem setDelay_keys (p : Nat) (v : PortDelay) : (setDelay p v s).keys = s.keys := rfl
@[simp] theorem setDelay_cmd (p : Nat) (v : PortDelay) : (setDelay p v s).cmd = s.cmd := rfl
@[simp] theorem setDelay_intr (p : Nat) (v : PortDelay) : (setDelay p v s).intr = s.intr := rfl
@[simp] theorem setDelay_hst (p : Nat) (v : PortDelay) : (setDelay p v s).hst = s.hst := rfl
@[simp] theorem setDelay_cnt (p : Nat) (v : PortDelay) : (setDelay p v s).cnt = s.cnt := rfl
@[simp] theorem setDelay_evr (p : Nat) (v : PortDelay) : (setDelay p v s).evr = s.evr := rfl
@[simp] theorem setDelay_bkp (p : Nat) (v : PortDelay) : (setDelay p v s).bkp = s.bkp := rfl
@[simp] theorem setDelay_img (p : Nat) (v : PortDelay) : (setDelay p v s).img = s.img := rfl
@[simp] theorem setDelay_rst (p : Nat) (v : PortDelay) : (setDelay p v s).rst = s.rst := rfl
@[simp] theorem setDelay_upd (p : Nat) (v : PortDelay) : (setDelay p v s).upd = s.upd := rfl
@[simp] theorem setDelay_saf (p : Nat) (v : PortDelay) : (setDelay p v s).saf = s.saf := rfl
@[simp] theorem setDelay_pair (p : Nat) (v : PortDelay) : (setDelay p v s).pair = s.pair := rfl
@[simp] theorem setDelay_pb (p : Nat) (v : PortDelay) : (setDelay p v s).pb = s.pb := rfl
@[simp] theorem setDelay_ports (p : Nat) (v : PortDelay) : (setDelay p v s).ports = s.ports := rfl
@[simp] theorem setDelay_frames (p : Nat) (v : PortDelay) : (setDelay p v s).frames = s.frames := rfl
@[simp] theorem setDelay_nextFrame (p : Nat) (v : PortDelay) : (setDelay p v s).nextFrame = s.nextFrame := rfl
@[simp] theorem setDelay_lanes (p : Nat) (v : PortDelay) : (setDelay p v s).lanes = s.lanes := rfl
@[simp] theorem setDelay_fwl (p : Nat) (v : PortDelay) : (setDelay p v s).fwl = s.fwl := rfl
@[simp] theorem setDelay_bsn (p : Nat) (v : PortDelay) : (setDelay p v s).bsn = s.bsn := rfl
@[simp] theorem setDelay_egr (p : Nat) (v : PortDelay) : (setDelay p v s).egr = s.egr := rfl
@[simp] theorem setDelay_leg (p : Nat) (v : PortDelay) : (setDelay p v s).leg = s.leg := rfl
@[simp] theorem setDelay_wake (p : Nat) (v : PortDelay) : (setDelay p v s).wake = s.wake := rfl

/-! setTsync -/

@[simp] theorem setTsync_pending (n : Nat) (v : Tsync) : (setTsync n v s).pending = s.pending := rfl
@[simp] theorem setTsync_freeCtr (n : Nat) (v : Tsync) : (setTsync n v s).freeCtr = s.freeCtr := rfl
@[simp] theorem setTsync_wire (n : Nat) (v : Tsync) : (setTsync n v s).wire = s.wire := rfl
@[simp] theorem setTsync_clk (n : Nat) (v : Tsync) : (setTsync n v s).clk = s.clk := rfl
@[simp] theorem setTsync_sys (n : Nat) (v : Tsync) : (setTsync n v s).sys = s.sys := rfl
@[simp] theorem setTsync_otp (n : Nat) (v : Tsync) : (setTsync n v s).otp = s.otp := rfl
@[simp] theorem setTsync_keys (n : Nat) (v : Tsync) : (setTsync n v s).keys = s.keys := rfl
@[simp] theorem setTsync_cmd (n : Nat) (v : Tsync) : (setTsync n v s).cmd = s.cmd := rfl
@[simp] theorem setTsync_intr (n : Nat) (v : Tsync) : (setTsync n v s).intr = s.intr := rfl
@[simp] theorem setTsync_hst (n : Nat) (v : Tsync) : (setTsync n v s).hst = s.hst := rfl
@[simp] theorem setTsync_cnt (n : Nat) (v : Tsync) : (setTsync n v s).cnt = s.cnt := rfl
@[simp] theorem setTsync_evr (n : Nat) (v : Tsync) : (setTsync n v s).evr = s.evr := rfl
@[simp] theorem setTsync_bkp (n : Nat) (v : Tsync) : (setTsync n v s).bkp = s.bkp := rfl
@[simp] theorem setTsync_img (n : Nat) (v : Tsync) : (setTsync n v s).img = s.img := rfl
@[simp] theorem setTsync_rst (n : Nat) (v : Tsync) : (setTsync n v s).rst = s.rst := rfl
@[simp] theorem setTsync_upd (n : Nat) (v : Tsync) : (setTsync n v s).upd = s.upd := rfl
@[simp] theorem setTsync_saf (n : Nat) (v : Tsync) : (setTsync n v s).saf = s.saf := rfl
@[simp] theorem setTsync_pair (n : Nat) (v : Tsync) : (setTsync n v s).pair = s.pair := rfl
@[simp] theorem setTsync_pb (n : Nat) (v : Tsync) : (setTsync n v s).pb = s.pb := rfl
@[simp] theorem setTsync_ports (n : Nat) (v : Tsync) : (setTsync n v s).ports = s.ports := rfl
@[simp] theorem setTsync_frames (n : Nat) (v : Tsync) : (setTsync n v s).frames = s.frames := rfl
@[simp] theorem setTsync_nextFrame (n : Nat) (v : Tsync) : (setTsync n v s).nextFrame = s.nextFrame := rfl
@[simp] theorem setTsync_lanes (n : Nat) (v : Tsync) : (setTsync n v s).lanes = s.lanes := rfl
@[simp] theorem setTsync_fwl (n : Nat) (v : Tsync) : (setTsync n v s).fwl = s.fwl := rfl
@[simp] theorem setTsync_bsn (n : Nat) (v : Tsync) : (setTsync n v s).bsn = s.bsn := rfl
@[simp] theorem setTsync_egr (n : Nat) (v : Tsync) : (setTsync n v s).egr = s.egr := rfl
@[simp] theorem setTsync_leg (n : Nat) (v : Tsync) : (setTsync n v s).leg = s.leg := rfl
@[simp] theorem setTsync_wake (n : Nat) (v : Tsync) : (setTsync n v s).wake = s.wake := rfl

/-! setPciFn -/

@[simp] theorem setPciFn_pending (f : Nat) (p : PciFn) : (setPciFn f p s).pending = s.pending := rfl
@[simp] theorem setPciFn_freeCtr (f : Nat) (p : PciFn) : (setPciFn f p s).freeCtr = s.freeCtr := rfl
@[simp] theorem setPciFn_wire (f : Nat) (p : PciFn) : (setPciFn f p s).wire = s.wire := rfl
@[simp] theorem setPciFn_clk (f : Nat) (p : PciFn) : (setPciFn f p s).clk = s.clk := rfl
@[simp] theorem setPciFn_sys (f : Nat) (p : PciFn) : (setPciFn f p s).sys = s.sys := rfl
@[simp] theorem setPciFn_otp (f : Nat) (p : PciFn) : (setPciFn f p s).otp = s.otp := rfl
@[simp] theorem setPciFn_keys (f : Nat) (p : PciFn) : (setPciFn f p s).keys = s.keys := rfl
@[simp] theorem setPciFn_cmd (f : Nat) (p : PciFn) : (setPciFn f p s).cmd = s.cmd := rfl
@[simp] theorem setPciFn_intr (f : Nat) (p : PciFn) : (setPciFn f p s).intr = s.intr := rfl
@[simp] theorem setPciFn_cnt (f : Nat) (p : PciFn) : (setPciFn f p s).cnt = s.cnt := rfl
@[simp] theorem setPciFn_evr (f : Nat) (p : PciFn) : (setPciFn f p s).evr = s.evr := rfl
@[simp] theorem setPciFn_bkp (f : Nat) (p : PciFn) : (setPciFn f p s).bkp = s.bkp := rfl
@[simp] theorem setPciFn_time (f : Nat) (p : PciFn) : (setPciFn f p s).time = s.time := rfl
@[simp] theorem setPciFn_img (f : Nat) (p : PciFn) : (setPciFn f p s).img = s.img := rfl
@[simp] theorem setPciFn_rst (f : Nat) (p : PciFn) : (setPciFn f p s).rst = s.rst := rfl
@[simp] theorem setPciFn_upd (f : Nat) (p : PciFn) : (setPciFn f p s).upd = s.upd := rfl
@[simp] theorem setPciFn_saf (f : Nat) (p : PciFn) : (setPciFn f p s).saf = s.saf := rfl
@[simp] theorem setPciFn_pair (f : Nat) (p : PciFn) : (setPciFn f p s).pair = s.pair := rfl
@[simp] theorem setPciFn_pb (f : Nat) (p : PciFn) : (setPciFn f p s).pb = s.pb := rfl
@[simp] theorem setPciFn_ports (f : Nat) (p : PciFn) : (setPciFn f p s).ports = s.ports := rfl
@[simp] theorem setPciFn_frames (f : Nat) (p : PciFn) : (setPciFn f p s).frames = s.frames := rfl
@[simp] theorem setPciFn_nextFrame (f : Nat) (p : PciFn) : (setPciFn f p s).nextFrame = s.nextFrame := rfl
@[simp] theorem setPciFn_lanes (f : Nat) (p : PciFn) : (setPciFn f p s).lanes = s.lanes := rfl
@[simp] theorem setPciFn_fwl (f : Nat) (p : PciFn) : (setPciFn f p s).fwl = s.fwl := rfl
@[simp] theorem setPciFn_bsn (f : Nat) (p : PciFn) : (setPciFn f p s).bsn = s.bsn := rfl
@[simp] theorem setPciFn_egr (f : Nat) (p : PciFn) : (setPciFn f p s).egr = s.egr := rfl
@[simp] theorem setPciFn_leg (f : Nat) (p : PciFn) : (setPciFn f p s).leg = s.leg := rfl
@[simp] theorem setPciFn_wake (f : Nat) (p : PciFn) : (setPciFn f p s).wake = s.wake := rfl

/-! setVector -/

@[simp] theorem setVector_pending (f v : Nat) (e : Vector) : (setVector f v e s).pending = s.pending := rfl
@[simp] theorem setVector_freeCtr (f v : Nat) (e : Vector) : (setVector f v e s).freeCtr = s.freeCtr := rfl
@[simp] theorem setVector_wire (f v : Nat) (e : Vector) : (setVector f v e s).wire = s.wire := rfl
@[simp] theorem setVector_clk (f v : Nat) (e : Vector) : (setVector f v e s).clk = s.clk := rfl
@[simp] theorem setVector_sys (f v : Nat) (e : Vector) : (setVector f v e s).sys = s.sys := rfl
@[simp] theorem setVector_otp (f v : Nat) (e : Vector) : (setVector f v e s).otp = s.otp := rfl
@[simp] theorem setVector_keys (f v : Nat) (e : Vector) : (setVector f v e s).keys = s.keys := rfl
@[simp] theorem setVector_cmd (f v : Nat) (e : Vector) : (setVector f v e s).cmd = s.cmd := rfl
@[simp] theorem setVector_intr (f v : Nat) (e : Vector) : (setVector f v e s).intr = s.intr := rfl
@[simp] theorem setVector_cnt (f v : Nat) (e : Vector) : (setVector f v e s).cnt = s.cnt := rfl
@[simp] theorem setVector_evr (f v : Nat) (e : Vector) : (setVector f v e s).evr = s.evr := rfl
@[simp] theorem setVector_bkp (f v : Nat) (e : Vector) : (setVector f v e s).bkp = s.bkp := rfl
@[simp] theorem setVector_time (f v : Nat) (e : Vector) : (setVector f v e s).time = s.time := rfl
@[simp] theorem setVector_img (f v : Nat) (e : Vector) : (setVector f v e s).img = s.img := rfl
@[simp] theorem setVector_rst (f v : Nat) (e : Vector) : (setVector f v e s).rst = s.rst := rfl
@[simp] theorem setVector_upd (f v : Nat) (e : Vector) : (setVector f v e s).upd = s.upd := rfl
@[simp] theorem setVector_saf (f v : Nat) (e : Vector) : (setVector f v e s).saf = s.saf := rfl
@[simp] theorem setVector_pair (f v : Nat) (e : Vector) : (setVector f v e s).pair = s.pair := rfl
@[simp] theorem setVector_pb (f v : Nat) (e : Vector) : (setVector f v e s).pb = s.pb := rfl
@[simp] theorem setVector_ports (f v : Nat) (e : Vector) : (setVector f v e s).ports = s.ports := rfl
@[simp] theorem setVector_frames (f v : Nat) (e : Vector) : (setVector f v e s).frames = s.frames := rfl
@[simp] theorem setVector_nextFrame (f v : Nat) (e : Vector) : (setVector f v e s).nextFrame = s.nextFrame := rfl
@[simp] theorem setVector_lanes (f v : Nat) (e : Vector) : (setVector f v e s).lanes = s.lanes := rfl
@[simp] theorem setVector_fwl (f v : Nat) (e : Vector) : (setVector f v e s).fwl = s.fwl := rfl
@[simp] theorem setVector_bsn (f v : Nat) (e : Vector) : (setVector f v e s).bsn = s.bsn := rfl
@[simp] theorem setVector_egr (f v : Nat) (e : Vector) : (setVector f v e s).egr = s.egr := rfl
@[simp] theorem setVector_leg (f v : Nat) (e : Vector) : (setVector f v e s).leg = s.leg := rfl
@[simp] theorem setVector_wake (f v : Nat) (e : Vector) : (setVector f v e s).wake = s.wake := rfl

/-! setXspi -/

@[simp] theorem setXspi_pending (x : Xspi) : (setXspi x s).pending = s.pending := rfl
@[simp] theorem setXspi_freeCtr (x : Xspi) : (setXspi x s).freeCtr = s.freeCtr := rfl
@[simp] theorem setXspi_wire (x : Xspi) : (setXspi x s).wire = s.wire := rfl
@[simp] theorem setXspi_clk (x : Xspi) : (setXspi x s).clk = s.clk := rfl
@[simp] theorem setXspi_sys (x : Xspi) : (setXspi x s).sys = s.sys := rfl
@[simp] theorem setXspi_otp (x : Xspi) : (setXspi x s).otp = s.otp := rfl
@[simp] theorem setXspi_keys (x : Xspi) : (setXspi x s).keys = s.keys := rfl
@[simp] theorem setXspi_cmd (x : Xspi) : (setXspi x s).cmd = s.cmd := rfl
@[simp] theorem setXspi_intr (x : Xspi) : (setXspi x s).intr = s.intr := rfl
@[simp] theorem setXspi_cnt (x : Xspi) : (setXspi x s).cnt = s.cnt := rfl
@[simp] theorem setXspi_evr (x : Xspi) : (setXspi x s).evr = s.evr := rfl
@[simp] theorem setXspi_bkp (x : Xspi) : (setXspi x s).bkp = s.bkp := rfl
@[simp] theorem setXspi_time (x : Xspi) : (setXspi x s).time = s.time := rfl
@[simp] theorem setXspi_img (x : Xspi) : (setXspi x s).img = s.img := rfl
@[simp] theorem setXspi_rst (x : Xspi) : (setXspi x s).rst = s.rst := rfl
@[simp] theorem setXspi_upd (x : Xspi) : (setXspi x s).upd = s.upd := rfl
@[simp] theorem setXspi_saf (x : Xspi) : (setXspi x s).saf = s.saf := rfl
@[simp] theorem setXspi_pair (x : Xspi) : (setXspi x s).pair = s.pair := rfl
@[simp] theorem setXspi_pb (x : Xspi) : (setXspi x s).pb = s.pb := rfl
@[simp] theorem setXspi_ports (x : Xspi) : (setXspi x s).ports = s.ports := rfl
@[simp] theorem setXspi_frames (x : Xspi) : (setXspi x s).frames = s.frames := rfl
@[simp] theorem setXspi_nextFrame (x : Xspi) : (setXspi x s).nextFrame = s.nextFrame := rfl
@[simp] theorem setXspi_lanes (x : Xspi) : (setXspi x s).lanes = s.lanes := rfl
@[simp] theorem setXspi_fwl (x : Xspi) : (setXspi x s).fwl = s.fwl := rfl
@[simp] theorem setXspi_bsn (x : Xspi) : (setXspi x s).bsn = s.bsn := rfl
@[simp] theorem setXspi_egr (x : Xspi) : (setXspi x s).egr = s.egr := rfl
@[simp] theorem setXspi_leg (x : Xspi) : (setXspi x s).leg = s.leg := rfl
@[simp] theorem setXspi_wake (x : Xspi) : (setXspi x s).wake = s.wake := rfl

/-! setCmdRing -/

@[simp] theorem setCmdRing_pending (f : Nat) (r : CmdRing) : (setCmdRing f r s).pending = s.pending := rfl
@[simp] theorem setCmdRing_freeCtr (f : Nat) (r : CmdRing) : (setCmdRing f r s).freeCtr = s.freeCtr := rfl
@[simp] theorem setCmdRing_wire (f : Nat) (r : CmdRing) : (setCmdRing f r s).wire = s.wire := rfl
@[simp] theorem setCmdRing_clk (f : Nat) (r : CmdRing) : (setCmdRing f r s).clk = s.clk := rfl
@[simp] theorem setCmdRing_sys (f : Nat) (r : CmdRing) : (setCmdRing f r s).sys = s.sys := rfl
@[simp] theorem setCmdRing_otp (f : Nat) (r : CmdRing) : (setCmdRing f r s).otp = s.otp := rfl
@[simp] theorem setCmdRing_keys (f : Nat) (r : CmdRing) : (setCmdRing f r s).keys = s.keys := rfl
@[simp] theorem setCmdRing_intr (f : Nat) (r : CmdRing) : (setCmdRing f r s).intr = s.intr := rfl
@[simp] theorem setCmdRing_hst (f : Nat) (r : CmdRing) : (setCmdRing f r s).hst = s.hst := rfl
@[simp] theorem setCmdRing_cnt (f : Nat) (r : CmdRing) : (setCmdRing f r s).cnt = s.cnt := rfl
@[simp] theorem setCmdRing_evr (f : Nat) (r : CmdRing) : (setCmdRing f r s).evr = s.evr := rfl
@[simp] theorem setCmdRing_bkp (f : Nat) (r : CmdRing) : (setCmdRing f r s).bkp = s.bkp := rfl
@[simp] theorem setCmdRing_time (f : Nat) (r : CmdRing) : (setCmdRing f r s).time = s.time := rfl
@[simp] theorem setCmdRing_img (f : Nat) (r : CmdRing) : (setCmdRing f r s).img = s.img := rfl
@[simp] theorem setCmdRing_rst (f : Nat) (r : CmdRing) : (setCmdRing f r s).rst = s.rst := rfl
@[simp] theorem setCmdRing_upd (f : Nat) (r : CmdRing) : (setCmdRing f r s).upd = s.upd := rfl
@[simp] theorem setCmdRing_saf (f : Nat) (r : CmdRing) : (setCmdRing f r s).saf = s.saf := rfl
@[simp] theorem setCmdRing_pair (f : Nat) (r : CmdRing) : (setCmdRing f r s).pair = s.pair := rfl
@[simp] theorem setCmdRing_pb (f : Nat) (r : CmdRing) : (setCmdRing f r s).pb = s.pb := rfl
@[simp] theorem setCmdRing_ports (f : Nat) (r : CmdRing) : (setCmdRing f r s).ports = s.ports := rfl
@[simp] theorem setCmdRing_frames (f : Nat) (r : CmdRing) : (setCmdRing f r s).frames = s.frames := rfl
@[simp] theorem setCmdRing_nextFrame (f : Nat) (r : CmdRing) : (setCmdRing f r s).nextFrame = s.nextFrame := rfl
@[simp] theorem setCmdRing_lanes (f : Nat) (r : CmdRing) : (setCmdRing f r s).lanes = s.lanes := rfl
@[simp] theorem setCmdRing_fwl (f : Nat) (r : CmdRing) : (setCmdRing f r s).fwl = s.fwl := rfl
@[simp] theorem setCmdRing_bsn (f : Nat) (r : CmdRing) : (setCmdRing f r s).bsn = s.bsn := rfl
@[simp] theorem setCmdRing_egr (f : Nat) (r : CmdRing) : (setCmdRing f r s).egr = s.egr := rfl
@[simp] theorem setCmdRing_leg (f : Nat) (r : CmdRing) : (setCmdRing f r s).leg = s.leg := rfl
@[simp] theorem setCmdRing_wake (f : Nat) (r : CmdRing) : (setCmdRing f r s).wake = s.wake := rfl

/-! updTag -/

@[simp] theorem updTag_pending (t : Word16) (f : InFlight → InFlight) : (updTag t f s).pending = s.pending := rfl
@[simp] theorem updTag_freeCtr (t : Word16) (f : InFlight → InFlight) : (updTag t f s).freeCtr = s.freeCtr := rfl
@[simp] theorem updTag_wire (t : Word16) (f : InFlight → InFlight) : (updTag t f s).wire = s.wire := rfl
@[simp] theorem updTag_clk (t : Word16) (f : InFlight → InFlight) : (updTag t f s).clk = s.clk := rfl
@[simp] theorem updTag_sys (t : Word16) (f : InFlight → InFlight) : (updTag t f s).sys = s.sys := rfl
@[simp] theorem updTag_otp (t : Word16) (f : InFlight → InFlight) : (updTag t f s).otp = s.otp := rfl
@[simp] theorem updTag_keys (t : Word16) (f : InFlight → InFlight) : (updTag t f s).keys = s.keys := rfl
@[simp] theorem updTag_intr (t : Word16) (f : InFlight → InFlight) : (updTag t f s).intr = s.intr := rfl
@[simp] theorem updTag_hst (t : Word16) (f : InFlight → InFlight) : (updTag t f s).hst = s.hst := rfl
@[simp] theorem updTag_cnt (t : Word16) (f : InFlight → InFlight) : (updTag t f s).cnt = s.cnt := rfl
@[simp] theorem updTag_evr (t : Word16) (f : InFlight → InFlight) : (updTag t f s).evr = s.evr := rfl
@[simp] theorem updTag_bkp (t : Word16) (f : InFlight → InFlight) : (updTag t f s).bkp = s.bkp := rfl
@[simp] theorem updTag_time (t : Word16) (f : InFlight → InFlight) : (updTag t f s).time = s.time := rfl
@[simp] theorem updTag_img (t : Word16) (f : InFlight → InFlight) : (updTag t f s).img = s.img := rfl
@[simp] theorem updTag_rst (t : Word16) (f : InFlight → InFlight) : (updTag t f s).rst = s.rst := rfl
@[simp] theorem updTag_upd (t : Word16) (f : InFlight → InFlight) : (updTag t f s).upd = s.upd := rfl
@[simp] theorem updTag_saf (t : Word16) (f : InFlight → InFlight) : (updTag t f s).saf = s.saf := rfl
@[simp] theorem updTag_pair (t : Word16) (f : InFlight → InFlight) : (updTag t f s).pair = s.pair := rfl
@[simp] theorem updTag_pb (t : Word16) (f : InFlight → InFlight) : (updTag t f s).pb = s.pb := rfl
@[simp] theorem updTag_ports (t : Word16) (f : InFlight → InFlight) : (updTag t f s).ports = s.ports := rfl
@[simp] theorem updTag_frames (t : Word16) (f : InFlight → InFlight) : (updTag t f s).frames = s.frames := rfl
@[simp] theorem updTag_nextFrame (t : Word16) (f : InFlight → InFlight) : (updTag t f s).nextFrame = s.nextFrame := rfl
@[simp] theorem updTag_lanes (t : Word16) (f : InFlight → InFlight) : (updTag t f s).lanes = s.lanes := rfl
@[simp] theorem updTag_fwl (t : Word16) (f : InFlight → InFlight) : (updTag t f s).fwl = s.fwl := rfl
@[simp] theorem updTag_bsn (t : Word16) (f : InFlight → InFlight) : (updTag t f s).bsn = s.bsn := rfl
@[simp] theorem updTag_egr (t : Word16) (f : InFlight → InFlight) : (updTag t f s).egr = s.egr := rfl
@[simp] theorem updTag_leg (t : Word16) (f : InFlight → InFlight) : (updTag t f s).leg = s.leg := rfl
@[simp] theorem updTag_wake (t : Word16) (f : InFlight → InFlight) : (updTag t f s).wake = s.wake := rfl

/-! setCounter -/

@[simp] theorem setCounter_pending (n : Nat) (c : Counter) : (setCounter n c s).pending = s.pending := rfl
@[simp] theorem setCounter_freeCtr (n : Nat) (c : Counter) : (setCounter n c s).freeCtr = s.freeCtr := rfl
@[simp] theorem setCounter_wire (n : Nat) (c : Counter) : (setCounter n c s).wire = s.wire := rfl
@[simp] theorem setCounter_clk (n : Nat) (c : Counter) : (setCounter n c s).clk = s.clk := rfl
@[simp] theorem setCounter_sys (n : Nat) (c : Counter) : (setCounter n c s).sys = s.sys := rfl
@[simp] theorem setCounter_otp (n : Nat) (c : Counter) : (setCounter n c s).otp = s.otp := rfl
@[simp] theorem setCounter_keys (n : Nat) (c : Counter) : (setCounter n c s).keys = s.keys := rfl
@[simp] theorem setCounter_cmd (n : Nat) (c : Counter) : (setCounter n c s).cmd = s.cmd := rfl
@[simp] theorem setCounter_intr (n : Nat) (c : Counter) : (setCounter n c s).intr = s.intr := rfl
@[simp] theorem setCounter_hst (n : Nat) (c : Counter) : (setCounter n c s).hst = s.hst := rfl
@[simp] theorem setCounter_evr (n : Nat) (c : Counter) : (setCounter n c s).evr = s.evr := rfl
@[simp] theorem setCounter_bkp (n : Nat) (c : Counter) : (setCounter n c s).bkp = s.bkp := rfl
@[simp] theorem setCounter_time (n : Nat) (c : Counter) : (setCounter n c s).time = s.time := rfl
@[simp] theorem setCounter_img (n : Nat) (c : Counter) : (setCounter n c s).img = s.img := rfl
@[simp] theorem setCounter_rst (n : Nat) (c : Counter) : (setCounter n c s).rst = s.rst := rfl
@[simp] theorem setCounter_upd (n : Nat) (c : Counter) : (setCounter n c s).upd = s.upd := rfl
@[simp] theorem setCounter_saf (n : Nat) (c : Counter) : (setCounter n c s).saf = s.saf := rfl
@[simp] theorem setCounter_pair (n : Nat) (c : Counter) : (setCounter n c s).pair = s.pair := rfl
@[simp] theorem setCounter_pb (n : Nat) (c : Counter) : (setCounter n c s).pb = s.pb := rfl
@[simp] theorem setCounter_ports (n : Nat) (c : Counter) : (setCounter n c s).ports = s.ports := rfl
@[simp] theorem setCounter_frames (n : Nat) (c : Counter) : (setCounter n c s).frames = s.frames := rfl
@[simp] theorem setCounter_nextFrame (n : Nat) (c : Counter) : (setCounter n c s).nextFrame = s.nextFrame := rfl
@[simp] theorem setCounter_lanes (n : Nat) (c : Counter) : (setCounter n c s).lanes = s.lanes := rfl
@[simp] theorem setCounter_fwl (n : Nat) (c : Counter) : (setCounter n c s).fwl = s.fwl := rfl
@[simp] theorem setCounter_bsn (n : Nat) (c : Counter) : (setCounter n c s).bsn = s.bsn := rfl
@[simp] theorem setCounter_egr (n : Nat) (c : Counter) : (setCounter n c s).egr = s.egr := rfl
@[simp] theorem setCounter_leg (n : Nat) (c : Counter) : (setCounter n c s).leg = s.leg := rfl
@[simp] theorem setCounter_wake (n : Nat) (c : Counter) : (setCounter n c s).wake = s.wake := rfl

/-! setSlot -/

@[simp] theorem setSlot_pending (n : Nat) (k : KeySlot) : (setSlot n k s).pending = s.pending := rfl
@[simp] theorem setSlot_freeCtr (n : Nat) (k : KeySlot) : (setSlot n k s).freeCtr = s.freeCtr := rfl
@[simp] theorem setSlot_wire (n : Nat) (k : KeySlot) : (setSlot n k s).wire = s.wire := rfl
@[simp] theorem setSlot_clk (n : Nat) (k : KeySlot) : (setSlot n k s).clk = s.clk := rfl
@[simp] theorem setSlot_sys (n : Nat) (k : KeySlot) : (setSlot n k s).sys = s.sys := rfl
@[simp] theorem setSlot_otp (n : Nat) (k : KeySlot) : (setSlot n k s).otp = s.otp := rfl
@[simp] theorem setSlot_cmd (n : Nat) (k : KeySlot) : (setSlot n k s).cmd = s.cmd := rfl
@[simp] theorem setSlot_intr (n : Nat) (k : KeySlot) : (setSlot n k s).intr = s.intr := rfl
@[simp] theorem setSlot_hst (n : Nat) (k : KeySlot) : (setSlot n k s).hst = s.hst := rfl
@[simp] theorem setSlot_cnt (n : Nat) (k : KeySlot) : (setSlot n k s).cnt = s.cnt := rfl
@[simp] theorem setSlot_evr (n : Nat) (k : KeySlot) : (setSlot n k s).evr = s.evr := rfl
@[simp] theorem setSlot_bkp (n : Nat) (k : KeySlot) : (setSlot n k s).bkp = s.bkp := rfl
@[simp] theorem setSlot_time (n : Nat) (k : KeySlot) : (setSlot n k s).time = s.time := rfl
@[simp] theorem setSlot_img (n : Nat) (k : KeySlot) : (setSlot n k s).img = s.img := rfl
@[simp] theorem setSlot_rst (n : Nat) (k : KeySlot) : (setSlot n k s).rst = s.rst := rfl
@[simp] theorem setSlot_upd (n : Nat) (k : KeySlot) : (setSlot n k s).upd = s.upd := rfl
@[simp] theorem setSlot_saf (n : Nat) (k : KeySlot) : (setSlot n k s).saf = s.saf := rfl
@[simp] theorem setSlot_pair (n : Nat) (k : KeySlot) : (setSlot n k s).pair = s.pair := rfl
@[simp] theorem setSlot_pb (n : Nat) (k : KeySlot) : (setSlot n k s).pb = s.pb := rfl
@[simp] theorem setSlot_ports (n : Nat) (k : KeySlot) : (setSlot n k s).ports = s.ports := rfl
@[simp] theorem setSlot_frames (n : Nat) (k : KeySlot) : (setSlot n k s).frames = s.frames := rfl
@[simp] theorem setSlot_nextFrame (n : Nat) (k : KeySlot) : (setSlot n k s).nextFrame = s.nextFrame := rfl
@[simp] theorem setSlot_lanes (n : Nat) (k : KeySlot) : (setSlot n k s).lanes = s.lanes := rfl
@[simp] theorem setSlot_fwl (n : Nat) (k : KeySlot) : (setSlot n k s).fwl = s.fwl := rfl
@[simp] theorem setSlot_bsn (n : Nat) (k : KeySlot) : (setSlot n k s).bsn = s.bsn := rfl
@[simp] theorem setSlot_egr (n : Nat) (k : KeySlot) : (setSlot n k s).egr = s.egr := rfl
@[simp] theorem setSlot_leg (n : Nat) (k : KeySlot) : (setSlot n k s).leg = s.leg := rfl
@[simp] theorem setSlot_wake (n : Nat) (k : KeySlot) : (setSlot n k s).wake = s.wake := rfl

/-! setPort -/

@[simp] theorem setPort_pending (p : Nat) (e : EthPort) : (setPort p e s).pending = s.pending := rfl
@[simp] theorem setPort_freeCtr (p : Nat) (e : EthPort) : (setPort p e s).freeCtr = s.freeCtr := rfl
@[simp] theorem setPort_wire (p : Nat) (e : EthPort) : (setPort p e s).wire = s.wire := rfl
@[simp] theorem setPort_clk (p : Nat) (e : EthPort) : (setPort p e s).clk = s.clk := rfl
@[simp] theorem setPort_sys (p : Nat) (e : EthPort) : (setPort p e s).sys = s.sys := rfl
@[simp] theorem setPort_otp (p : Nat) (e : EthPort) : (setPort p e s).otp = s.otp := rfl
@[simp] theorem setPort_keys (p : Nat) (e : EthPort) : (setPort p e s).keys = s.keys := rfl
@[simp] theorem setPort_cmd (p : Nat) (e : EthPort) : (setPort p e s).cmd = s.cmd := rfl
@[simp] theorem setPort_intr (p : Nat) (e : EthPort) : (setPort p e s).intr = s.intr := rfl
@[simp] theorem setPort_hst (p : Nat) (e : EthPort) : (setPort p e s).hst = s.hst := rfl
@[simp] theorem setPort_cnt (p : Nat) (e : EthPort) : (setPort p e s).cnt = s.cnt := rfl
@[simp] theorem setPort_evr (p : Nat) (e : EthPort) : (setPort p e s).evr = s.evr := rfl
@[simp] theorem setPort_bkp (p : Nat) (e : EthPort) : (setPort p e s).bkp = s.bkp := rfl
@[simp] theorem setPort_time (p : Nat) (e : EthPort) : (setPort p e s).time = s.time := rfl
@[simp] theorem setPort_img (p : Nat) (e : EthPort) : (setPort p e s).img = s.img := rfl
@[simp] theorem setPort_rst (p : Nat) (e : EthPort) : (setPort p e s).rst = s.rst := rfl
@[simp] theorem setPort_upd (p : Nat) (e : EthPort) : (setPort p e s).upd = s.upd := rfl
@[simp] theorem setPort_saf (p : Nat) (e : EthPort) : (setPort p e s).saf = s.saf := rfl
@[simp] theorem setPort_pair (p : Nat) (e : EthPort) : (setPort p e s).pair = s.pair := rfl
@[simp] theorem setPort_pb (p : Nat) (e : EthPort) : (setPort p e s).pb = s.pb := rfl
@[simp] theorem setPort_frames (p : Nat) (e : EthPort) : (setPort p e s).frames = s.frames := rfl
@[simp] theorem setPort_nextFrame (p : Nat) (e : EthPort) : (setPort p e s).nextFrame = s.nextFrame := rfl
@[simp] theorem setPort_lanes (p : Nat) (e : EthPort) : (setPort p e s).lanes = s.lanes := rfl
@[simp] theorem setPort_fwl (p : Nat) (e : EthPort) : (setPort p e s).fwl = s.fwl := rfl
@[simp] theorem setPort_bsn (p : Nat) (e : EthPort) : (setPort p e s).bsn = s.bsn := rfl
@[simp] theorem setPort_egr (p : Nat) (e : EthPort) : (setPort p e s).egr = s.egr := rfl
@[simp] theorem setPort_leg (p : Nat) (e : EthPort) : (setPort p e s).leg = s.leg := rfl
@[simp] theorem setPort_wake (p : Nat) (e : EthPort) : (setPort p e s).wake = s.wake := rfl

/-! setFrame -/

@[simp] theorem setFrame_pending (n : Nat) (f : Frame) : (setFrame n f s).pending = s.pending := rfl
@[simp] theorem setFrame_freeCtr (n : Nat) (f : Frame) : (setFrame n f s).freeCtr = s.freeCtr := rfl
@[simp] theorem setFrame_wire (n : Nat) (f : Frame) : (setFrame n f s).wire = s.wire := rfl
@[simp] theorem setFrame_clk (n : Nat) (f : Frame) : (setFrame n f s).clk = s.clk := rfl
@[simp] theorem setFrame_sys (n : Nat) (f : Frame) : (setFrame n f s).sys = s.sys := rfl
@[simp] theorem setFrame_otp (n : Nat) (f : Frame) : (setFrame n f s).otp = s.otp := rfl
@[simp] theorem setFrame_keys (n : Nat) (f : Frame) : (setFrame n f s).keys = s.keys := rfl
@[simp] theorem setFrame_cmd (n : Nat) (f : Frame) : (setFrame n f s).cmd = s.cmd := rfl
@[simp] theorem setFrame_intr (n : Nat) (f : Frame) : (setFrame n f s).intr = s.intr := rfl
@[simp] theorem setFrame_hst (n : Nat) (f : Frame) : (setFrame n f s).hst = s.hst := rfl
@[simp] theorem setFrame_cnt (n : Nat) (f : Frame) : (setFrame n f s).cnt = s.cnt := rfl
@[simp] theorem setFrame_evr (n : Nat) (f : Frame) : (setFrame n f s).evr = s.evr := rfl
@[simp] theorem setFrame_bkp (n : Nat) (f : Frame) : (setFrame n f s).bkp = s.bkp := rfl
@[simp] theorem setFrame_time (n : Nat) (f : Frame) : (setFrame n f s).time = s.time := rfl
@[simp] theorem setFrame_img (n : Nat) (f : Frame) : (setFrame n f s).img = s.img := rfl
@[simp] theorem setFrame_rst (n : Nat) (f : Frame) : (setFrame n f s).rst = s.rst := rfl
@[simp] theorem setFrame_upd (n : Nat) (f : Frame) : (setFrame n f s).upd = s.upd := rfl
@[simp] theorem setFrame_saf (n : Nat) (f : Frame) : (setFrame n f s).saf = s.saf := rfl
@[simp] theorem setFrame_pair (n : Nat) (f : Frame) : (setFrame n f s).pair = s.pair := rfl
@[simp] theorem setFrame_pb (n : Nat) (f : Frame) : (setFrame n f s).pb = s.pb := rfl
@[simp] theorem setFrame_ports (n : Nat) (f : Frame) : (setFrame n f s).ports = s.ports := rfl
@[simp] theorem setFrame_nextFrame (n : Nat) (f : Frame) : (setFrame n f s).nextFrame = s.nextFrame := rfl
@[simp] theorem setFrame_lanes (n : Nat) (f : Frame) : (setFrame n f s).lanes = s.lanes := rfl
@[simp] theorem setFrame_fwl (n : Nat) (f : Frame) : (setFrame n f s).fwl = s.fwl := rfl
@[simp] theorem setFrame_bsn (n : Nat) (f : Frame) : (setFrame n f s).bsn = s.bsn := rfl
@[simp] theorem setFrame_egr (n : Nat) (f : Frame) : (setFrame n f s).egr = s.egr := rfl
@[simp] theorem setFrame_leg (n : Nat) (f : Frame) : (setFrame n f s).leg = s.leg := rfl
@[simp] theorem setFrame_wake (n : Nat) (f : Frame) : (setFrame n f s).wake = s.wake := rfl

/-! setEgress -/

@[simp] theorem setEgress_pending (p : Nat) (e : EgrPort) : (setEgress p e s).pending = s.pending := rfl
@[simp] theorem setEgress_freeCtr (p : Nat) (e : EgrPort) : (setEgress p e s).freeCtr = s.freeCtr := rfl
@[simp] theorem setEgress_wire (p : Nat) (e : EgrPort) : (setEgress p e s).wire = s.wire := rfl
@[simp] theorem setEgress_clk (p : Nat) (e : EgrPort) : (setEgress p e s).clk = s.clk := rfl
@[simp] theorem setEgress_sys (p : Nat) (e : EgrPort) : (setEgress p e s).sys = s.sys := rfl
@[simp] theorem setEgress_otp (p : Nat) (e : EgrPort) : (setEgress p e s).otp = s.otp := rfl
@[simp] theorem setEgress_keys (p : Nat) (e : EgrPort) : (setEgress p e s).keys = s.keys := rfl
@[simp] theorem setEgress_cmd (p : Nat) (e : EgrPort) : (setEgress p e s).cmd = s.cmd := rfl
@[simp] theorem setEgress_intr (p : Nat) (e : EgrPort) : (setEgress p e s).intr = s.intr := rfl
@[simp] theorem setEgress_hst (p : Nat) (e : EgrPort) : (setEgress p e s).hst = s.hst := rfl
@[simp] theorem setEgress_cnt (p : Nat) (e : EgrPort) : (setEgress p e s).cnt = s.cnt := rfl
@[simp] theorem setEgress_evr (p : Nat) (e : EgrPort) : (setEgress p e s).evr = s.evr := rfl
@[simp] theorem setEgress_bkp (p : Nat) (e : EgrPort) : (setEgress p e s).bkp = s.bkp := rfl
@[simp] theorem setEgress_time (p : Nat) (e : EgrPort) : (setEgress p e s).time = s.time := rfl
@[simp] theorem setEgress_img (p : Nat) (e : EgrPort) : (setEgress p e s).img = s.img := rfl
@[simp] theorem setEgress_rst (p : Nat) (e : EgrPort) : (setEgress p e s).rst = s.rst := rfl
@[simp] theorem setEgress_upd (p : Nat) (e : EgrPort) : (setEgress p e s).upd = s.upd := rfl
@[simp] theorem setEgress_saf (p : Nat) (e : EgrPort) : (setEgress p e s).saf = s.saf := rfl
@[simp] theorem setEgress_pair (p : Nat) (e : EgrPort) : (setEgress p e s).pair = s.pair := rfl
@[simp] theorem setEgress_pb (p : Nat) (e : EgrPort) : (setEgress p e s).pb = s.pb := rfl
@[simp] theorem setEgress_ports (p : Nat) (e : EgrPort) : (setEgress p e s).ports = s.ports := rfl
@[simp] theorem setEgress_frames (p : Nat) (e : EgrPort) : (setEgress p e s).frames = s.frames := rfl
@[simp] theorem setEgress_nextFrame (p : Nat) (e : EgrPort) : (setEgress p e s).nextFrame = s.nextFrame := rfl
@[simp] theorem setEgress_lanes (p : Nat) (e : EgrPort) : (setEgress p e s).lanes = s.lanes := rfl
@[simp] theorem setEgress_fwl (p : Nat) (e : EgrPort) : (setEgress p e s).fwl = s.fwl := rfl
@[simp] theorem setEgress_bsn (p : Nat) (e : EgrPort) : (setEgress p e s).bsn = s.bsn := rfl
@[simp] theorem setEgress_leg (p : Nat) (e : EgrPort) : (setEgress p e s).leg = s.leg := rfl
@[simp] theorem setEgress_wake (p : Nat) (e : EgrPort) : (setEgress p e s).wake = s.wake := rfl

/-! setRecovery -/

@[simp] theorem setRecovery_pending (e p : Nat) (r : Recovery) : (setRecovery e p r s).pending = s.pending := rfl
@[simp] theorem setRecovery_freeCtr (e p : Nat) (r : Recovery) : (setRecovery e p r s).freeCtr = s.freeCtr := rfl
@[simp] theorem setRecovery_wire (e p : Nat) (r : Recovery) : (setRecovery e p r s).wire = s.wire := rfl
@[simp] theorem setRecovery_clk (e p : Nat) (r : Recovery) : (setRecovery e p r s).clk = s.clk := rfl
@[simp] theorem setRecovery_sys (e p : Nat) (r : Recovery) : (setRecovery e p r s).sys = s.sys := rfl
@[simp] theorem setRecovery_otp (e p : Nat) (r : Recovery) : (setRecovery e p r s).otp = s.otp := rfl
@[simp] theorem setRecovery_keys (e p : Nat) (r : Recovery) : (setRecovery e p r s).keys = s.keys := rfl
@[simp] theorem setRecovery_cmd (e p : Nat) (r : Recovery) : (setRecovery e p r s).cmd = s.cmd := rfl
@[simp] theorem setRecovery_intr (e p : Nat) (r : Recovery) : (setRecovery e p r s).intr = s.intr := rfl
@[simp] theorem setRecovery_hst (e p : Nat) (r : Recovery) : (setRecovery e p r s).hst = s.hst := rfl
@[simp] theorem setRecovery_cnt (e p : Nat) (r : Recovery) : (setRecovery e p r s).cnt = s.cnt := rfl
@[simp] theorem setRecovery_evr (e p : Nat) (r : Recovery) : (setRecovery e p r s).evr = s.evr := rfl
@[simp] theorem setRecovery_bkp (e p : Nat) (r : Recovery) : (setRecovery e p r s).bkp = s.bkp := rfl
@[simp] theorem setRecovery_time (e p : Nat) (r : Recovery) : (setRecovery e p r s).time = s.time := rfl
@[simp] theorem setRecovery_img (e p : Nat) (r : Recovery) : (setRecovery e p r s).img = s.img := rfl
@[simp] theorem setRecovery_rst (e p : Nat) (r : Recovery) : (setRecovery e p r s).rst = s.rst := rfl
@[simp] theorem setRecovery_upd (e p : Nat) (r : Recovery) : (setRecovery e p r s).upd = s.upd := rfl
@[simp] theorem setRecovery_saf (e p : Nat) (r : Recovery) : (setRecovery e p r s).saf = s.saf := rfl
@[simp] theorem setRecovery_pair (e p : Nat) (r : Recovery) : (setRecovery e p r s).pair = s.pair := rfl
@[simp] theorem setRecovery_pb (e p : Nat) (r : Recovery) : (setRecovery e p r s).pb = s.pb := rfl
@[simp] theorem setRecovery_ports (e p : Nat) (r : Recovery) : (setRecovery e p r s).ports = s.ports := rfl
@[simp] theorem setRecovery_frames (e p : Nat) (r : Recovery) : (setRecovery e p r s).frames = s.frames := rfl
@[simp] theorem setRecovery_nextFrame (e p : Nat) (r : Recovery) : (setRecovery e p r s).nextFrame = s.nextFrame := rfl
@[simp] theorem setRecovery_lanes (e p : Nat) (r : Recovery) : (setRecovery e p r s).lanes = s.lanes := rfl
@[simp] theorem setRecovery_fwl (e p : Nat) (r : Recovery) : (setRecovery e p r s).fwl = s.fwl := rfl
@[simp] theorem setRecovery_bsn (e p : Nat) (r : Recovery) : (setRecovery e p r s).bsn = s.bsn := rfl
@[simp] theorem setRecovery_leg (e p : Nat) (r : Recovery) : (setRecovery e p r s).leg = s.leg := rfl
@[simp] theorem setRecovery_wake (e p : Nat) (r : Recovery) : (setRecovery e p r s).wake = s.wake := rfl

/-! setPress -/

@[simp] theorem setPress_pending (o i c : Nat) (t : Triple) : (setPress o i c t s).pending = s.pending := rfl
@[simp] theorem setPress_freeCtr (o i c : Nat) (t : Triple) : (setPress o i c t s).freeCtr = s.freeCtr := rfl
@[simp] theorem setPress_wire (o i c : Nat) (t : Triple) : (setPress o i c t s).wire = s.wire := rfl
@[simp] theorem setPress_clk (o i c : Nat) (t : Triple) : (setPress o i c t s).clk = s.clk := rfl
@[simp] theorem setPress_sys (o i c : Nat) (t : Triple) : (setPress o i c t s).sys = s.sys := rfl
@[simp] theorem setPress_otp (o i c : Nat) (t : Triple) : (setPress o i c t s).otp = s.otp := rfl
@[simp] theorem setPress_keys (o i c : Nat) (t : Triple) : (setPress o i c t s).keys = s.keys := rfl
@[simp] theorem setPress_cmd (o i c : Nat) (t : Triple) : (setPress o i c t s).cmd = s.cmd := rfl
@[simp] theorem setPress_intr (o i c : Nat) (t : Triple) : (setPress o i c t s).intr = s.intr := rfl
@[simp] theorem setPress_hst (o i c : Nat) (t : Triple) : (setPress o i c t s).hst = s.hst := rfl
@[simp] theorem setPress_cnt (o i c : Nat) (t : Triple) : (setPress o i c t s).cnt = s.cnt := rfl
@[simp] theorem setPress_evr (o i c : Nat) (t : Triple) : (setPress o i c t s).evr = s.evr := rfl
@[simp] theorem setPress_bkp (o i c : Nat) (t : Triple) : (setPress o i c t s).bkp = s.bkp := rfl
@[simp] theorem setPress_time (o i c : Nat) (t : Triple) : (setPress o i c t s).time = s.time := rfl
@[simp] theorem setPress_img (o i c : Nat) (t : Triple) : (setPress o i c t s).img = s.img := rfl
@[simp] theorem setPress_rst (o i c : Nat) (t : Triple) : (setPress o i c t s).rst = s.rst := rfl
@[simp] theorem setPress_upd (o i c : Nat) (t : Triple) : (setPress o i c t s).upd = s.upd := rfl
@[simp] theorem setPress_saf (o i c : Nat) (t : Triple) : (setPress o i c t s).saf = s.saf := rfl
@[simp] theorem setPress_pair (o i c : Nat) (t : Triple) : (setPress o i c t s).pair = s.pair := rfl
@[simp] theorem setPress_pb (o i c : Nat) (t : Triple) : (setPress o i c t s).pb = s.pb := rfl
@[simp] theorem setPress_ports (o i c : Nat) (t : Triple) : (setPress o i c t s).ports = s.ports := rfl
@[simp] theorem setPress_frames (o i c : Nat) (t : Triple) : (setPress o i c t s).frames = s.frames := rfl
@[simp] theorem setPress_nextFrame (o i c : Nat) (t : Triple) : (setPress o i c t s).nextFrame = s.nextFrame := rfl
@[simp] theorem setPress_lanes (o i c : Nat) (t : Triple) : (setPress o i c t s).lanes = s.lanes := rfl
@[simp] theorem setPress_fwl (o i c : Nat) (t : Triple) : (setPress o i c t s).fwl = s.fwl := rfl
@[simp] theorem setPress_egr (o i c : Nat) (t : Triple) : (setPress o i c t s).egr = s.egr := rfl
@[simp] theorem setPress_leg (o i c : Nat) (t : Triple) : (setPress o i c t s).leg = s.leg := rfl
@[simp] theorem setPress_wake (o i c : Nat) (t : Triple) : (setPress o i c t s).wake = s.wake := rfl

/-! setCh -/

@[simp] theorem setCh_pending (ep : Nat) (c : LegCh) : (setCh ep c s).pending = s.pending := rfl
@[simp] theorem setCh_freeCtr (ep : Nat) (c : LegCh) : (setCh ep c s).freeCtr = s.freeCtr := rfl
@[simp] theorem setCh_wire (ep : Nat) (c : LegCh) : (setCh ep c s).wire = s.wire := rfl
@[simp] theorem setCh_clk (ep : Nat) (c : LegCh) : (setCh ep c s).clk = s.clk := rfl
@[simp] theorem setCh_sys (ep : Nat) (c : LegCh) : (setCh ep c s).sys = s.sys := rfl
@[simp] theorem setCh_otp (ep : Nat) (c : LegCh) : (setCh ep c s).otp = s.otp := rfl
@[simp] theorem setCh_keys (ep : Nat) (c : LegCh) : (setCh ep c s).keys = s.keys := rfl
@[simp] theorem setCh_cmd (ep : Nat) (c : LegCh) : (setCh ep c s).cmd = s.cmd := rfl
@[simp] theorem setCh_intr (ep : Nat) (c : LegCh) : (setCh ep c s).intr = s.intr := rfl
@[simp] theorem setCh_hst (ep : Nat) (c : LegCh) : (setCh ep c s).hst = s.hst := rfl
@[simp] theorem setCh_cnt (ep : Nat) (c : LegCh) : (setCh ep c s).cnt = s.cnt := rfl
@[simp] theorem setCh_evr (ep : Nat) (c : LegCh) : (setCh ep c s).evr = s.evr := rfl
@[simp] theorem setCh_bkp (ep : Nat) (c : LegCh) : (setCh ep c s).bkp = s.bkp := rfl
@[simp] theorem setCh_time (ep : Nat) (c : LegCh) : (setCh ep c s).time = s.time := rfl
@[simp] theorem setCh_img (ep : Nat) (c : LegCh) : (setCh ep c s).img = s.img := rfl
@[simp] theorem setCh_rst (ep : Nat) (c : LegCh) : (setCh ep c s).rst = s.rst := rfl
@[simp] theorem setCh_upd (ep : Nat) (c : LegCh) : (setCh ep c s).upd = s.upd := rfl
@[simp] theorem setCh_saf (ep : Nat) (c : LegCh) : (setCh ep c s).saf = s.saf := rfl
@[simp] theorem setCh_pair (ep : Nat) (c : LegCh) : (setCh ep c s).pair = s.pair := rfl
@[simp] theorem setCh_pb (ep : Nat) (c : LegCh) : (setCh ep c s).pb = s.pb := rfl
@[simp] theorem setCh_ports (ep : Nat) (c : LegCh) : (setCh ep c s).ports = s.ports := rfl
@[simp] theorem setCh_frames (ep : Nat) (c : LegCh) : (setCh ep c s).frames = s.frames := rfl
@[simp] theorem setCh_nextFrame (ep : Nat) (c : LegCh) : (setCh ep c s).nextFrame = s.nextFrame := rfl
@[simp] theorem setCh_lanes (ep : Nat) (c : LegCh) : (setCh ep c s).lanes = s.lanes := rfl
@[simp] theorem setCh_fwl (ep : Nat) (c : LegCh) : (setCh ep c s).fwl = s.fwl := rfl
@[simp] theorem setCh_bsn (ep : Nat) (c : LegCh) : (setCh ep c s).bsn = s.bsn := rfl
@[simp] theorem setCh_egr (ep : Nat) (c : LegCh) : (setCh ep c s).egr = s.egr := rfl
@[simp] theorem setCh_wake (ep : Nat) (c : LegCh) : (setCh ep c s).wake = s.wake := rfl

/-! updEngine -/

@[simp] theorem updEngine_pending (n : Nat) (g : Engine → Engine) : (updEngine n g s).pending = s.pending := rfl
@[simp] theorem updEngine_freeCtr (n : Nat) (g : Engine → Engine) : (updEngine n g s).freeCtr = s.freeCtr := rfl
@[simp] theorem updEngine_wire (n : Nat) (g : Engine → Engine) : (updEngine n g s).wire = s.wire := rfl
@[simp] theorem updEngine_clk (n : Nat) (g : Engine → Engine) : (updEngine n g s).clk = s.clk := rfl
@[simp] theorem updEngine_sys (n : Nat) (g : Engine → Engine) : (updEngine n g s).sys = s.sys := rfl
@[simp] theorem updEngine_otp (n : Nat) (g : Engine → Engine) : (updEngine n g s).otp = s.otp := rfl
@[simp] theorem updEngine_keys (n : Nat) (g : Engine → Engine) : (updEngine n g s).keys = s.keys := rfl
@[simp] theorem updEngine_cmd (n : Nat) (g : Engine → Engine) : (updEngine n g s).cmd = s.cmd := rfl
@[simp] theorem updEngine_intr (n : Nat) (g : Engine → Engine) : (updEngine n g s).intr = s.intr := rfl
@[simp] theorem updEngine_hst (n : Nat) (g : Engine → Engine) : (updEngine n g s).hst = s.hst := rfl
@[simp] theorem updEngine_cnt (n : Nat) (g : Engine → Engine) : (updEngine n g s).cnt = s.cnt := rfl
@[simp] theorem updEngine_evr (n : Nat) (g : Engine → Engine) : (updEngine n g s).evr = s.evr := rfl
@[simp] theorem updEngine_bkp (n : Nat) (g : Engine → Engine) : (updEngine n g s).bkp = s.bkp := rfl
@[simp] theorem updEngine_time (n : Nat) (g : Engine → Engine) : (updEngine n g s).time = s.time := rfl
@[simp] theorem updEngine_img (n : Nat) (g : Engine → Engine) : (updEngine n g s).img = s.img := rfl
@[simp] theorem updEngine_rst (n : Nat) (g : Engine → Engine) : (updEngine n g s).rst = s.rst := rfl
@[simp] theorem updEngine_upd (n : Nat) (g : Engine → Engine) : (updEngine n g s).upd = s.upd := rfl
@[simp] theorem updEngine_saf (n : Nat) (g : Engine → Engine) : (updEngine n g s).saf = s.saf := rfl
@[simp] theorem updEngine_pair (n : Nat) (g : Engine → Engine) : (updEngine n g s).pair = s.pair := rfl
@[simp] theorem updEngine_pb (n : Nat) (g : Engine → Engine) : (updEngine n g s).pb = s.pb := rfl
@[simp] theorem updEngine_ports (n : Nat) (g : Engine → Engine) : (updEngine n g s).ports = s.ports := rfl
@[simp] theorem updEngine_frames (n : Nat) (g : Engine → Engine) : (updEngine n g s).frames = s.frames := rfl
@[simp] theorem updEngine_nextFrame (n : Nat) (g : Engine → Engine) : (updEngine n g s).nextFrame = s.nextFrame := rfl
@[simp] theorem updEngine_lanes (n : Nat) (g : Engine → Engine) : (updEngine n g s).lanes = s.lanes := rfl
@[simp] theorem updEngine_fwl (n : Nat) (g : Engine → Engine) : (updEngine n g s).fwl = s.fwl := rfl
@[simp] theorem updEngine_bsn (n : Nat) (g : Engine → Engine) : (updEngine n g s).bsn = s.bsn := rfl
@[simp] theorem updEngine_egr (n : Nat) (g : Engine → Engine) : (updEngine n g s).egr = s.egr := rfl
@[simp] theorem updEngine_wake (n : Nat) (g : Engine → Engine) : (updEngine n g s).wake = s.wake := rfl

/-! updWake -/

@[simp] theorem updWake_pending (g : Wake → Wake) : (updWake g s).pending = s.pending := rfl
@[simp] theorem updWake_freeCtr (g : Wake → Wake) : (updWake g s).freeCtr = s.freeCtr := rfl
@[simp] theorem updWake_wire (g : Wake → Wake) : (updWake g s).wire = s.wire := rfl
@[simp] theorem updWake_clk (g : Wake → Wake) : (updWake g s).clk = s.clk := rfl
@[simp] theorem updWake_sys (g : Wake → Wake) : (updWake g s).sys = s.sys := rfl
@[simp] theorem updWake_otp (g : Wake → Wake) : (updWake g s).otp = s.otp := rfl
@[simp] theorem updWake_keys (g : Wake → Wake) : (updWake g s).keys = s.keys := rfl
@[simp] theorem updWake_cmd (g : Wake → Wake) : (updWake g s).cmd = s.cmd := rfl
@[simp] theorem updWake_intr (g : Wake → Wake) : (updWake g s).intr = s.intr := rfl
@[simp] theorem updWake_hst (g : Wake → Wake) : (updWake g s).hst = s.hst := rfl
@[simp] theorem updWake_cnt (g : Wake → Wake) : (updWake g s).cnt = s.cnt := rfl
@[simp] theorem updWake_evr (g : Wake → Wake) : (updWake g s).evr = s.evr := rfl
@[simp] theorem updWake_bkp (g : Wake → Wake) : (updWake g s).bkp = s.bkp := rfl
@[simp] theorem updWake_time (g : Wake → Wake) : (updWake g s).time = s.time := rfl
@[simp] theorem updWake_img (g : Wake → Wake) : (updWake g s).img = s.img := rfl
@[simp] theorem updWake_rst (g : Wake → Wake) : (updWake g s).rst = s.rst := rfl
@[simp] theorem updWake_upd (g : Wake → Wake) : (updWake g s).upd = s.upd := rfl
@[simp] theorem updWake_saf (g : Wake → Wake) : (updWake g s).saf = s.saf := rfl
@[simp] theorem updWake_pair (g : Wake → Wake) : (updWake g s).pair = s.pair := rfl
@[simp] theorem updWake_pb (g : Wake → Wake) : (updWake g s).pb = s.pb := rfl
@[simp] theorem updWake_ports (g : Wake → Wake) : (updWake g s).ports = s.ports := rfl
@[simp] theorem updWake_frames (g : Wake → Wake) : (updWake g s).frames = s.frames := rfl
@[simp] theorem updWake_nextFrame (g : Wake → Wake) : (updWake g s).nextFrame = s.nextFrame := rfl
@[simp] theorem updWake_lanes (g : Wake → Wake) : (updWake g s).lanes = s.lanes := rfl
@[simp] theorem updWake_fwl (g : Wake → Wake) : (updWake g s).fwl = s.fwl := rfl
@[simp] theorem updWake_bsn (g : Wake → Wake) : (updWake g s).bsn = s.bsn := rfl
@[simp] theorem updWake_egr (g : Wake → Wake) : (updWake g s).egr = s.egr := rfl
@[simp] theorem updWake_leg (g : Wake → Wake) : (updWake g s).leg = s.leg := rfl

/-! setSeg -/

@[simp] theorem setSeg_pending (i : Nat) (g : Segment) : (setSeg i g s).pending = s.pending := rfl
@[simp] theorem setSeg_freeCtr (i : Nat) (g : Segment) : (setSeg i g s).freeCtr = s.freeCtr := rfl
@[simp] theorem setSeg_wire (i : Nat) (g : Segment) : (setSeg i g s).wire = s.wire := rfl
@[simp] theorem setSeg_clk (i : Nat) (g : Segment) : (setSeg i g s).clk = s.clk := rfl
@[simp] theorem setSeg_sys (i : Nat) (g : Segment) : (setSeg i g s).sys = s.sys := rfl
@[simp] theorem setSeg_otp (i : Nat) (g : Segment) : (setSeg i g s).otp = s.otp := rfl
@[simp] theorem setSeg_keys (i : Nat) (g : Segment) : (setSeg i g s).keys = s.keys := rfl
@[simp] theorem setSeg_cmd (i : Nat) (g : Segment) : (setSeg i g s).cmd = s.cmd := rfl
@[simp] theorem setSeg_intr (i : Nat) (g : Segment) : (setSeg i g s).intr = s.intr := rfl
@[simp] theorem setSeg_hst (i : Nat) (g : Segment) : (setSeg i g s).hst = s.hst := rfl
@[simp] theorem setSeg_cnt (i : Nat) (g : Segment) : (setSeg i g s).cnt = s.cnt := rfl
@[simp] theorem setSeg_evr (i : Nat) (g : Segment) : (setSeg i g s).evr = s.evr := rfl
@[simp] theorem setSeg_bkp (i : Nat) (g : Segment) : (setSeg i g s).bkp = s.bkp := rfl
@[simp] theorem setSeg_time (i : Nat) (g : Segment) : (setSeg i g s).time = s.time := rfl
@[simp] theorem setSeg_img (i : Nat) (g : Segment) : (setSeg i g s).img = s.img := rfl
@[simp] theorem setSeg_rst (i : Nat) (g : Segment) : (setSeg i g s).rst = s.rst := rfl
@[simp] theorem setSeg_upd (i : Nat) (g : Segment) : (setSeg i g s).upd = s.upd := rfl
@[simp] theorem setSeg_saf (i : Nat) (g : Segment) : (setSeg i g s).saf = s.saf := rfl
@[simp] theorem setSeg_pair (i : Nat) (g : Segment) : (setSeg i g s).pair = s.pair := rfl
@[simp] theorem setSeg_pb (i : Nat) (g : Segment) : (setSeg i g s).pb = s.pb := rfl
@[simp] theorem setSeg_ports (i : Nat) (g : Segment) : (setSeg i g s).ports = s.ports := rfl
@[simp] theorem setSeg_frames (i : Nat) (g : Segment) : (setSeg i g s).frames = s.frames := rfl
@[simp] theorem setSeg_nextFrame (i : Nat) (g : Segment) : (setSeg i g s).nextFrame = s.nextFrame := rfl
@[simp] theorem setSeg_lanes (i : Nat) (g : Segment) : (setSeg i g s).lanes = s.lanes := rfl
@[simp] theorem setSeg_fwl (i : Nat) (g : Segment) : (setSeg i g s).fwl = s.fwl := rfl
@[simp] theorem setSeg_bsn (i : Nat) (g : Segment) : (setSeg i g s).bsn = s.bsn := rfl
@[simp] theorem setSeg_egr (i : Nat) (g : Segment) : (setSeg i g s).egr = s.egr := rfl
@[simp] theorem setSeg_leg (i : Nat) (g : Segment) : (setSeg i g s).leg = s.leg := rfl

/-! updPair -/

@[simp] theorem updPair_pending (f : Pair → Pair) : (updPair f s).pending = s.pending := rfl
@[simp] theorem updPair_freeCtr (f : Pair → Pair) : (updPair f s).freeCtr = s.freeCtr := rfl
@[simp] theorem updPair_wire (f : Pair → Pair) : (updPair f s).wire = s.wire := rfl
@[simp] theorem updPair_clk (f : Pair → Pair) : (updPair f s).clk = s.clk := rfl
@[simp] theorem updPair_sys (f : Pair → Pair) : (updPair f s).sys = s.sys := rfl
@[simp] theorem updPair_otp (f : Pair → Pair) : (updPair f s).otp = s.otp := rfl
@[simp] theorem updPair_keys (f : Pair → Pair) : (updPair f s).keys = s.keys := rfl
@[simp] theorem updPair_cmd (f : Pair → Pair) : (updPair f s).cmd = s.cmd := rfl
@[simp] theorem updPair_intr (f : Pair → Pair) : (updPair f s).intr = s.intr := rfl
@[simp] theorem updPair_hst (f : Pair → Pair) : (updPair f s).hst = s.hst := rfl
@[simp] theorem updPair_cnt (f : Pair → Pair) : (updPair f s).cnt = s.cnt := rfl
@[simp] theorem updPair_evr (f : Pair → Pair) : (updPair f s).evr = s.evr := rfl
@[simp] theorem updPair_bkp (f : Pair → Pair) : (updPair f s).bkp = s.bkp := rfl
@[simp] theorem updPair_time (f : Pair → Pair) : (updPair f s).time = s.time := rfl
@[simp] theorem updPair_img (f : Pair → Pair) : (updPair f s).img = s.img := rfl
@[simp] theorem updPair_rst (f : Pair → Pair) : (updPair f s).rst = s.rst := rfl
@[simp] theorem updPair_upd (f : Pair → Pair) : (updPair f s).upd = s.upd := rfl
@[simp] theorem updPair_saf (f : Pair → Pair) : (updPair f s).saf = s.saf := rfl
@[simp] theorem updPair_pb (f : Pair → Pair) : (updPair f s).pb = s.pb := rfl
@[simp] theorem updPair_ports (f : Pair → Pair) : (updPair f s).ports = s.ports := rfl
@[simp] theorem updPair_frames (f : Pair → Pair) : (updPair f s).frames = s.frames := rfl
@[simp] theorem updPair_nextFrame (f : Pair → Pair) : (updPair f s).nextFrame = s.nextFrame := rfl
@[simp] theorem updPair_lanes (f : Pair → Pair) : (updPair f s).lanes = s.lanes := rfl
@[simp] theorem updPair_fwl (f : Pair → Pair) : (updPair f s).fwl = s.fwl := rfl
@[simp] theorem updPair_bsn (f : Pair → Pair) : (updPair f s).bsn = s.bsn := rfl
@[simp] theorem updPair_egr (f : Pair → Pair) : (updPair f s).egr = s.egr := rfl
@[simp] theorem updPair_leg (f : Pair → Pair) : (updPair f s).leg = s.leg := rfl
@[simp] theorem updPair_wake (f : Pair → Pair) : (updPair f s).wake = s.wake := rfl

/-! setCore -/

@[simp] theorem setCore_pending (n : Nat) (c : Core) : (setCore n c s).pending = s.pending := rfl
@[simp] theorem setCore_freeCtr (n : Nat) (c : Core) : (setCore n c s).freeCtr = s.freeCtr := rfl
@[simp] theorem setCore_wire (n : Nat) (c : Core) : (setCore n c s).wire = s.wire := rfl
@[simp] theorem setCore_clk (n : Nat) (c : Core) : (setCore n c s).clk = s.clk := rfl
@[simp] theorem setCore_sys (n : Nat) (c : Core) : (setCore n c s).sys = s.sys := rfl
@[simp] theorem setCore_otp (n : Nat) (c : Core) : (setCore n c s).otp = s.otp := rfl
@[simp] theorem setCore_keys (n : Nat) (c : Core) : (setCore n c s).keys = s.keys := rfl
@[simp] theorem setCore_cmd (n : Nat) (c : Core) : (setCore n c s).cmd = s.cmd := rfl
@[simp] theorem setCore_intr (n : Nat) (c : Core) : (setCore n c s).intr = s.intr := rfl
@[simp] theorem setCore_hst (n : Nat) (c : Core) : (setCore n c s).hst = s.hst := rfl
@[simp] theorem setCore_cnt (n : Nat) (c : Core) : (setCore n c s).cnt = s.cnt := rfl
@[simp] theorem setCore_evr (n : Nat) (c : Core) : (setCore n c s).evr = s.evr := rfl
@[simp] theorem setCore_bkp (n : Nat) (c : Core) : (setCore n c s).bkp = s.bkp := rfl
@[simp] theorem setCore_time (n : Nat) (c : Core) : (setCore n c s).time = s.time := rfl
@[simp] theorem setCore_img (n : Nat) (c : Core) : (setCore n c s).img = s.img := rfl
@[simp] theorem setCore_rst (n : Nat) (c : Core) : (setCore n c s).rst = s.rst := rfl
@[simp] theorem setCore_upd (n : Nat) (c : Core) : (setCore n c s).upd = s.upd := rfl
@[simp] theorem setCore_pair (n : Nat) (c : Core) : (setCore n c s).pair = s.pair := rfl
@[simp] theorem setCore_pb (n : Nat) (c : Core) : (setCore n c s).pb = s.pb := rfl
@[simp] theorem setCore_ports (n : Nat) (c : Core) : (setCore n c s).ports = s.ports := rfl
@[simp] theorem setCore_frames (n : Nat) (c : Core) : (setCore n c s).frames = s.frames := rfl
@[simp] theorem setCore_nextFrame (n : Nat) (c : Core) : (setCore n c s).nextFrame = s.nextFrame := rfl
@[simp] theorem setCore_lanes (n : Nat) (c : Core) : (setCore n c s).lanes = s.lanes := rfl
@[simp] theorem setCore_fwl (n : Nat) (c : Core) : (setCore n c s).fwl = s.fwl := rfl
@[simp] theorem setCore_bsn (n : Nat) (c : Core) : (setCore n c s).bsn = s.bsn := rfl
@[simp] theorem setCore_egr (n : Nat) (c : Core) : (setCore n c s).egr = s.egr := rfl
@[simp] theorem setCore_leg (n : Nat) (c : Core) : (setCore n c s).leg = s.leg := rfl
@[simp] theorem setCore_wake (n : Nat) (c : Core) : (setCore n c s).wake = s.wake := rfl

/-! closeOpen -/

@[simp] theorem closeOpen_pending (id : Nat) : (closeOpen id s).pending = s.pending := rfl
@[simp] theorem closeOpen_freeCtr (id : Nat) : (closeOpen id s).freeCtr = s.freeCtr := rfl
@[simp] theorem closeOpen_wire (id : Nat) : (closeOpen id s).wire = s.wire := rfl
@[simp] theorem closeOpen_clk (id : Nat) : (closeOpen id s).clk = s.clk := rfl
@[simp] theorem closeOpen_sys (id : Nat) : (closeOpen id s).sys = s.sys := rfl
@[simp] theorem closeOpen_otp (id : Nat) : (closeOpen id s).otp = s.otp := rfl
@[simp] theorem closeOpen_keys (id : Nat) : (closeOpen id s).keys = s.keys := rfl
@[simp] theorem closeOpen_cmd (id : Nat) : (closeOpen id s).cmd = s.cmd := rfl
@[simp] theorem closeOpen_intr (id : Nat) : (closeOpen id s).intr = s.intr := rfl
@[simp] theorem closeOpen_hst (id : Nat) : (closeOpen id s).hst = s.hst := rfl
@[simp] theorem closeOpen_cnt (id : Nat) : (closeOpen id s).cnt = s.cnt := rfl
@[simp] theorem closeOpen_evr (id : Nat) : (closeOpen id s).evr = s.evr := rfl
@[simp] theorem closeOpen_bkp (id : Nat) : (closeOpen id s).bkp = s.bkp := rfl
@[simp] theorem closeOpen_time (id : Nat) : (closeOpen id s).time = s.time := rfl
@[simp] theorem closeOpen_img (id : Nat) : (closeOpen id s).img = s.img := rfl
@[simp] theorem closeOpen_rst (id : Nat) : (closeOpen id s).rst = s.rst := rfl
@[simp] theorem closeOpen_upd (id : Nat) : (closeOpen id s).upd = s.upd := rfl
@[simp] theorem closeOpen_saf (id : Nat) : (closeOpen id s).saf = s.saf := rfl
@[simp] theorem closeOpen_pair (id : Nat) : (closeOpen id s).pair = s.pair := rfl
@[simp] theorem closeOpen_ports (id : Nat) : (closeOpen id s).ports = s.ports := rfl
@[simp] theorem closeOpen_frames (id : Nat) : (closeOpen id s).frames = s.frames := rfl
@[simp] theorem closeOpen_nextFrame (id : Nat) : (closeOpen id s).nextFrame = s.nextFrame := rfl
@[simp] theorem closeOpen_lanes (id : Nat) : (closeOpen id s).lanes = s.lanes := rfl
@[simp] theorem closeOpen_fwl (id : Nat) : (closeOpen id s).fwl = s.fwl := rfl
@[simp] theorem closeOpen_bsn (id : Nat) : (closeOpen id s).bsn = s.bsn := rfl
@[simp] theorem closeOpen_egr (id : Nat) : (closeOpen id s).egr = s.egr := rfl
@[simp] theorem closeOpen_leg (id : Nat) : (closeOpen id s).leg = s.leg := rfl
@[simp] theorem closeOpen_wake (id : Nat) : (closeOpen id s).wake = s.wake := rfl

/-! What is written is read back. -/

@[simp] theorem emit_wire (o : Out) : (emit o s).wire = s.wire ++ [o] := rfl
@[simp] theorem reachClock_clk (t : Nat) : (reachClock t s).clk = Nat.max s.clk t := rfl
@[simp] theorem drawNat_freeCtr : (drawNat s).2.freeCtr = s.freeCtr + 1 := rfl
@[simp] theorem drawBytes_freeCtr (n : Nat) : (drawBytes n s).2.freeCtr = s.freeCtr + n := rfl
@[simp] theorem drawBytes_length (n : Nat) : (drawBytes n s).1.length = n := by simp [drawBytes]
@[simp] theorem updWake_wake (g : Wake → Wake) : (updWake g s).wake = g s.wake := rfl
@[simp] theorem updPair_pair (f : Pair → Pair) : (updPair f s).pair = f s.pair := rfl
theorem port_setPort (p q : Nat) (e : EthPort) : port (setPort p e s) q = if q = p then e else port s q := Tab.get_set _ _ _ _ _
theorem egress_setEgress (p q : Nat) (e : EgrPort) : egress (setEgress p e s) q = if q = p then e else egress s q :=
  Tab.get_set _ _ _ _ _
theorem dom_setDom (d k : Nat) (v : Domain) : dom (setDom d v s) k = if k = d then v else dom s k := Tab.get_set _ _ _ _ _
theorem delay_setDelay (p q : Nat) (v : PortDelay) : delay (setDelay p v s) q = if q = p then v else delay s q :=
  Tab.get_set _ _ _ _ _
theorem tsync_setTsync (n k : Nat) (v : Tsync) : tsync (setTsync n v s) k = if k = n then v else tsync s k :=
  Tab.get_set _ _ _ _ _
theorem pciFn_setPciFn (f g : Nat) (p : PciFn) : pciFn (setPciFn f p s) g = if g = f then p else pciFn s g :=
  Tab.get_set _ _ _ _ _
theorem cmdRing_setCmdRing (f g : Nat) (r : CmdRing) : cmdRing (setCmdRing f r s) g = if g = f then r else cmdRing s g :=
  Tab.get_set _ _ _ _ _
theorem counter_setCounter (n k : Nat) (c : Counter) : counter (setCounter n c s) k = if k = n then c else counter s k :=
  Tab.get_set _ _ _ _ _
theorem keySlot_setSlot (n k : Nat) (v : KeySlot) : keySlot (setSlot n v s) k = if k = n then v else keySlot s k :=
  Tab.get_set _ _ _ _ _
theorem chOf_setCh (ep e : Nat) (c : LegCh) : chOf (setCh ep c s) e = if e = ep then c else chOf s e := Tab.get_set _ _ _ _ _
theorem segOf_setSeg (i k : Nat) (g : Segment) : segOf (setSeg i g s) k = if k = i then g else segOf s k := Tab.get_set _ _ _ _ _
theorem coreUnit_setCore (n k : Nat) (c : Core) : coreUnit (setCore n c s) k = if k = n then c else coreUnit s k := Tab.get_set _ _ _ _ _

end Sys2Proof.Machine
end

