-- ==== Sys2Proof/Tests/Slice0.lean ====
section
/-!
SUPPORT. Tests.  Ill-formed terms that the check refuses; for every statement concrete states and operands that meet the hypotheses of
each of its clauses; and single steps whose expected results are worked out from the spec's tables.
-/
set_option Elab.async false

namespace Sys2Proof.Tests

open Sys2Proof.Machine

/-! Helpers: small states and byte strings. -/

/-- `n` bytes, all zero but those listed. -/
def bytesOf (n : Nat) (l : List (Nat × Nat)) : Bytes := (List.range n).map (fun i => BitVec.ofNat 8 ((l.lookup i).getD 0))

/-- A powered block in CONFIGURED whose cluster runs, with no episode and no image. -/
def on : State :=
  { State.reset with
    sys := { State.reset.sys with mode := .configured, clusterUp := true }
    rst := { State.reset.rst with asserted := 0, episode := none }
    hst := { State.reset.hst with ready := true }
    saf := { State.reset.saf with wdtRuns := true } }

/-- An image with the given sections. -/
def imageWith (l : List (Nat × Bytes)) : RunImage := { header := bytesOf 128 [(46, 8)], sections := l, patchable := [], digest := [] }

/-- The block with such an image active. -/
def withImage (l : List (Nat × Bytes)) : State := { on with img := { on.img with live := some (imageWith l) } }

/-- A W1 command of payload `p` on the mailbox. -/
def packet (p : Bytes) : Packet :=
  { tag := 0x1005, flags := 0, length := BitVec.ofNat 16 p.length, cred := 0x10000000, sequence := 0, auth := List.replicate 16 0
    payload := p, transported := 32 + p.length }

/-- The same accepted, of opcode `op`. -/
def cmd (op : Nat) (p : Bytes) : InFlight := { opcode := op, via := .mailbox, packet := packet p, phase := .waiting }

/-- The block `b` with that command in flight. -/
def flight (op : Nat) (p : Bytes) (b : State) : State := { b with cmd := { b.cmd with inflight := [cmd op p] } }

/-- The command is ready in `b`. -/
def isReady (op : Nat) (p : Bytes) (b : State) : Bool := ready op 0x1005 (cmd op p) (flight op p b)

/-- The request it makes. -/
def reqOfCmd (op : Nat) (p : Bytes) : Req := reqAt (cmd op p)

/-- A timed command of opcode `op`, its instant 1 ms ahead on W. -/
def timed (op : Nat) (p : Bytes) : InFlight := { cmd op p with instant := some (nsVal 1000000) }

/-- A frame in the lanes: in by port 0, 64 bytes on the wire. -/
def frame : Frame :=
  { inPort := 0, srcEp := 0, content := List.replicate 60 0, wireLen := 64, startClk := 0, stamp := 0, lane := 0 }

/-- The block with frame 7 as given. -/
def withFrame (f : Frame) : State := { on with frames := [(7, f)] }

/-- The block with egress port `p` as given. -/
def withEgress (p : Nat) (e : EgrPort) : State := { on with egr := { on.egr with ports := [(p, e)] } }

/-- The block with port `p` as given. -/
def withPort (p : Nat) (e : EthPort) : State := { on with ports := [(p, e)] }


/-! Witnesses: the machine and the command protocol. -/

theorem witness_StepRunsTheFrontCommand : ({ on with pending := [.esmReqFall] } : State).pending = [Instr.esmReqFall] ∧ on.pending = [] := by
  decide
theorem witness_EnvelopeRoundTrip : (0xFFFF : Nat) < 65536 ∧ (packet [1, 2, 3]).wf = true := by decide
theorem witness_OpcodeRowsShareOnePath :
    channelCtlHeld on (packet [48, 1]) = false ∧ linkCtlHeld on (packet [0, 0]) = false
      ∧ channelCtlHeld { on with rst := { on.rst with blocks := [(1, 48, 7)] } } (packet [48, 1]) = true
      ∧ linkCtlHeld { on with rst := { on.rst with blocks := [(0, 3, 7)] } } (packet [3, 1]) = true := by decide
theorem witness_ArrivalIsAcceptanceThenTheRow :
    clusterServes on = true ∧ transportServed .mailbox on = true ∧ inBandDropped sysGetInfoOp .mailbox (packet []) on = false
      ∧ isDuplicate .mailbox (packet []) on = false ∧ judge sysGetInfoOp .mailbox (packet []) on = none := by decide
theorem witness_RefusedCommandHasNoEffect :
    judge sysGetInfoOp .mailbox (packet [1]) on = some (stBadParam, 0, false) ∧ stBadParam ≠ stNoResources := by decide
theorem witness_DryRunOnlyAnswers :
    let e : InFlight := { cmd 0x0010 [7, 0, 0, 0] with packet := { packet [7, 0, 0, 0] with flags := 0x4 } }
    let s : State := { on with cmd := { on.cmd with inflight := [e] } }
    findTag s 0x1005 = some e ∧ e.phase = .waiting ∧ clusterServes s = true ∧ mayBegin e s = true ∧ isDryrun e.packet = true := by decide
theorem witness_OrderHoldsACommandBack :
    let y : InFlight := { cmd 0x0103 [] with packet := { packet [] with tag := 0x1004, flags := 0x1 } }
    let s : State := { on with cmd := { on.cmd with inflight := [y, cmd 0x0001 []] } }
    findTag s 0x1005 = some (cmd 0x0001 []) ∧ y ∈ earlier s 0x1005 ∧ tagTransport y.packet.tag = tagTransport 0x1005
      ∧ y.phase ≠ .replied ∧ isOrdered y.packet = true := by decide
theorem witness_SequenceMarks :
    let p : Packet := { packet [] with cred := 0x18000000, sequence := 5 }
    let s : State := { on with cmd := { on.cmd with marks := [(16 * 64, 5)] } }
    p.length.toNat ≤ 4064 ∧ lengthDisagrees .mailbox p = false ∧ tagTransport p.tag = viaTransport .mailbox p.tag ∧ findTag s p.tag = none
      ∧ opWorlds 0x0001 ≠ none ∧ p.flags.toNat / 16 = 0 ∧ bits p.cred.toNat 0 21 = 0 ∧ credAuth p = true
      ∧ p.sequence.toNat ≤ Tab.get s.cmd.marks (viaTransport .mailbox p.tag * 64 + credSlot p) 0
      ∧ isDryrun p = false ∧ credAuth (packet []) = false := by decide
theorem witness_EarlyChecksInOrder :
    4064 < ({ packet [] with length := 4065 } : Packet).length.toNat
      ∧ tagTransport ({ packet [] with tag := 0x0205 } : Packet).tag ≠ viaTransport .mailbox 0x1005
      ∧ opWorlds 0x0003 = none ∧ ({ packet [] with flags := 0x10 } : Packet).flags.toNat / 16 ≠ 0 := by decide
theorem witness_PartsAndFinalReplies :
    let e : InFlight := { cmd 0x0001 [] with phase := .replied }
    findTag { on with cmd := { on.cmd with inflight := [e] } } 0x1005 = some e ∧ e.phase = .replied := by decide
theorem witness_CommitAndAbort :
    isReady 0x0001 [] on = true ∧ sysGetInfoOp.checks (reqOfCmd 0x0001 []) (flight 0x0001 [] on) = none
      ∧ isReady 0x0B10 [1, 48, 0, 0] on = true
      ∧ rstBlockOp.checks (reqOfCmd 0x0B10 [1, 48, 0, 0]) (flight 0x0B10 [1, 48, 0, 0] on) = some (stNotIdle, 0)
      ∧ isReady 0x0002 [4, 0x10, 0, 0] on = true ∧ abortTarget (reqOfCmd 0x0002 [4, 0x10, 0, 0]) = 0x1004
      ∧ abortable 0x1004 (committed 0x1005 (flight 0x0002 [4, 0x10, 0, 0] on)) = false
      ∧ (let y : InFlight := { cmd 0x0101 [] with packet := { packet [] with tag := 0x1004 } }
         abortable 0x1004 { on with cmd := { on.cmd with inflight := [y] } } = true) := by decide
theorem witness_StatusCommandsReplied :
    ([0x0001, 0x0106, 0x0202, 0x0301, 0x0302, 0x0401, 0x0501, 0x0502, 0x0601, 0x0804, 0x0A02, 0x0B07, 0x0C01, 0x0D02, 0x0F01, 0x0701, 0x0801].all
        (fun op => isReady op [0xFF, 0, 0, 0, 0, 0, 0, 0] on)) = true
      ∧ (48 : Nat) ≠ 0xFF ∧ ¬(isLin 48 = true ∧ legAuto on = true) ∧ isLin 64 = true ∧ legAuto on = true := by decide
theorem witness_ModeAndRoleCommands :
    isReady 0x0010 [7, 0, 0, 0] on = true ∧ relays (committed 0x1005 (flight 0x0010 [7, 0, 0, 0] on)) = false
      ∧ (reqOfCmd 0x0010 [7, 0, 0, 0]).instant = none ∧ modeTarget (reqOfCmd 0x0010 [7, 0, 0, 0]) = 7 ∧ setModeRuns 7 on = true
      ∧ modeTarget (reqOfCmd 0x0010 [4, 0, 0, 0]) = 4 ∧ setModeRuns 4 on = true ∧ modeTarget (reqOfCmd 0x0010 [3, 0, 0, 0]) = 3 ∧ setModeRuns 3 on = true
      ∧ setModeRuns 4 { on with sys := { on.sys with autonomousTag := some 0x1004 } } = false
      ∧ relays { on with pair := { on.pair with st := .paired } } = true
      ∧ isReady 0x0020 [1, 2, 3] on = true ∧ isReady 0x0C02 [] on = true ∧ on.pair.switchTag = none
      ∧ (some 7 : Option Word16).isSome = true := by decide

theorem witness_StagingCommands :
    isReady 0x0101 [0, 0x10, 0, 0, 0, 0, 0, 0] on = true
      ∧ imgBeginOp.checks (reqOfCmd 0x0101 [0, 0x10, 0, 0, 0, 0, 0, 0]) (flight 0x0101 [0, 0x10, 0, 0, 0, 0, 0, 0] on) = none
      ∧ imgTarget 4 (reqOfCmd 0x0101 [0, 0x10, 0, 0, 0, 0, 0, 0]) = 0 ∧ imgTarget 4 (reqOfCmd 0x0101 [0, 0x10, 0, 0, 1, 0, 0, 0]) ≠ 0
      ∧ imgBeginOp.checks (reqOfCmd 0x0101 [0, 0x10, 0, 0, 1, 0, 0, 0]) (flight 0x0101 [0, 0x10, 0, 0, 1, 0, 0, 0] on) = none
      ∧ (let x : ImgSession := { owner := 0x10, bank := 1, len := 16, written := [], verified := false, staged := false }
         let s : State := { on with img := { on.img with session := some x } }
         let p : Bytes := [0, 0, 0, 0, 0, 0, 0, 0, 1, 2]
         isReady 0x0102 p s = true ∧ imgChunkOp.checks (reqOfCmd 0x0102 p) (flight 0x0102 p s) = none ∧ fieldLe p 0 4 + (p.length - 8) ≤ 2097152
          ∧ isReady 0x0103 [0, 0, 0, 0] s = true ∧ imgVerifyOp.checks (reqOfCmd 0x0103 [0, 0, 0, 0]) (flight 0x0103 [0, 0, 0, 0] s) = none)
      ∧ (let x : ImgSession := { owner := 0x10, bank := 0, len := 16, written := [], verified := false, staged := false }
         let s : State := { on with img := { on.img with peerSession := some x } }
         imgChunkOp.checks (reqOfCmd 0x0102 [0, 0, 0, 0, 1, 0, 0, 0, 1]) (flight 0x0102 [0, 0, 0, 0, 1, 0, 0, 0, 1] s) = none
          ∧ imgTarget 0 (reqOfCmd 0x0103 [1, 0, 0, 0]) ≠ 0 ∧ imgVerifyOp.checks (reqOfCmd 0x0103 [1, 0, 0, 0]) (flight 0x0103 [1, 0, 0, 0] s) = none)
      ∧ (let x : ImgSession := { owner := 0x10, bank := 1, len := 16, written := [(0, 16)], verified := true, staged := false }
         let s : State := { on with img := { on.img with session := some x } }
         isReady 0x0104 [0, 0, 0, 0] s = true ∧ stageChecks (reqOfCmd 0x0104 [0, 0, 0, 0]) (flight 0x0104 [0, 0, 0, 0] s) = none) := by
  decide

/-- The peer's session, verified, where the free bit that stands for the peer's draining bank is 0. -/
theorem witness_StagingCommands_of_the_peer (h : bit (Config.freeNat 0) 0 = false) :
    let x : ImgSession := { owner := 0x10, bank := 0, len := 16, written := [], verified := true, staged := false }
    let s : State := { on with img := { on.img with peerSession := some x } }
    stageChecks (reqOfCmd 0x0104 [1, 0, 0, 0]) s = none := by
  show (if (bit (Config.freeNat 0) 0) = true then some (stBusyDraining, 0) else none) = none
  rw [h]; rfl

theorem witness_ArmingCommands :
    (let e := timed 0x0105 [0, 0, 0, 0]
     let s : State := { on with cmd := { on.cmd with inflight := [e] } }
     findTag s 0x1005 = some e ∧ clusterServes s = true ∧ mayBegin e s = true ∧ isDryrun e.packet = false ∧ isAtTime e.packet = false
       ∧ imageBusy s = false ∧ imageBusy { s with img := { s.img with armed := some (0x1004, 0) } } = true)
    ∧ isReady 0x0110 [0x10, 0, 0, 0] on = true ∧ (patchChecks (reqOfCmd 0x0110 [0x10, 0, 0, 0]) on).isSome = true
    ∧ isReady 0x0201 [] on = true ∧ imageBusy (flight 0x0201 [] on) = false ∧ on.lanes.other = 0
    ∧ ({ on with lanes := { on.lanes with other := 1 } } : State).lanes.other ≠ 0 := by
  decide
theorem witness_FlushAndRestepCommands :
    isReady 0x0303 (bytesOf 12 []) on = true ∧ recorderClosed 8 (flight 0x0303 [] on) = false ∧ (reqOfCmd 0x0303 []).instant = none
      ∧ relays on = false ∧ recorderClosed 8 { on with evr := { on.evr with full := true } } = true
      ∧ relays { on with pair := { on.pair with st := .paired } } = true ∧ isReady 0x0602 (bytesOf 12 []) on = true ∧ recorderClosed restepLen (flight 0x0602 [] on) = false
      ∧ (cmd 0x0602 []).aux = [] := by decide
theorem witness_ChannelAndPortCommands :
    (let s : State := { on with leg := { on.leg with chs := [(48, { st := 3 }), (49, { st := 1 }), (50, { st := 6 })] } }
     isReady 0x0702 [48, 0, 0, 0] s = true ∧ channelCtlHeld s (packet [48, 0, 0, 0]) = false ∧ (chOf s 48).st = 3
       ∧ isReady 0x0702 [49, 1, 0, 0] s = true ∧ (chOf s 49).st ≠ 0 ∧ (chOf s 49).st ≠ 6
       ∧ isReady 0x0702 [50, 2, 0, 0] s = true ∧ (chOf s 50).st = 6 ∧ (chOf s 49).st ≠ 3)
    ∧ ([0, 1, 2, 3, 4].all (fun a => isReady 0x0802 (bytesOf 12 [(0, 27), (1, a)]) on && !linkCtlHeld on (packet (bytesOf 12 [(0, 27), (1, a)])))) = true
    ∧ isReady 0x0803 (bytesOf 36 [(0, 0), (3, 1)]) on = true ∧ bit 1 1 = false ∧ bit 1 0 = true ∧ bit 2 1 = true
    ∧ isReady 0x0803 (bytesOf 36 [(0, 0), (1, 1), (3, 2)]) on = true := by decide
theorem witness_HostAndDebugCommands :
    isReady 0x0901 [15, 1, 0, 1, 0, 0, 0, 0] on = true ∧ (hstRing on true 15).enable = false
      ∧ (let s : State := { on with hst := { on.hst with rx := [(15, { enable := true })] } }
         isReady 0x0901 [15, 1, 0, 1, 0, 0, 0, 0] s = true ∧ (hstRing s true 15).enable = true)
      ∧ isReady 0x0902 (bytesOf 24 [(0, 4)]) on = true ∧ windowBusy 4 on = false
      ∧ (let s : State := { on with pb := { on.pb with ownLock := some 15 } }
         isReady 0x0902 (bytesOf 24 [(0, 15)]) s = true ∧ windowBusy 15 s = true)
      ∧ ([4, 2, 3, 1, 0].all (fun o => isReady 0x7F01 (bytesOf 24 [(0, o), (1, 4)]) on)) = true ∧ dbgLocked (packet (bytesOf 24 [(0, 1), (1, 4)])) on = false := by
  decide
theorem witness_WakeCommands :
    isReady 0x0A01 [] on = true ∧ on.wake.ring = .awake ∧ stayAwake (flight 0x0A01 [] on) = none
      ∧ (stayAwake { on with sys := { on.sys with mode := .recovery } }).isSome = true
      ∧ ({ on.wake with ring := .quiet } : Wake).ring ≠ .awake
      ∧ isReady 0x0A03 [0, 0, 0, 0, 0, 0, 0, 0] on = true ∧ relays on = false
      ∧ wsAction (reqOfCmd 0x0A03 [0, 0, 0, 0, 0, 0, 0, 0]) = 0 ∧ (segOf on 0).st = .awake
      ∧ (segOf { on with wake := { on.wake with segs := [(15, { st := .asleep })] } } 15).st ≠ .awake
      ∧ wsAction (reqOfCmd 0x0A03 [0, 1, 0, 0, 0, 0, 0, 0]) = 1 ∧ segHeld on 0 = false
      ∧ wsAction (reqOfCmd 0x0A03 [15, 2, 1, 0, 0, 0, 0, 0]) = 2 ∧ wsSegment (reqOfCmd 0x0A03 [15, 2, 1, 0, 0, 0, 0, 0]) ≠ 0xFF
      ∧ wsAction (reqOfCmd 0x0A03 [15, 3, 0, 0, 0, 0, 0, 0]) = 3 ∧ wsSegment (reqOfCmd 0x0A03 [255, 2, 1, 0, 0, 0, 0, 0]) = 0xFF
      ∧ segHeld { on with wake := { on.wake with segs := [(15, { hold := some 5 })] } } 15 = true ∧ (reqOfCmd 0x0A03 []).instant = none
      ∧ relays { on with pair := { on.pair with st := .paired } } = true := by decide
theorem witness_UpdateCommands :
    isReady 0x0B01 [0, 0x10, 0, 0, 0, 0, 0, 0] on = true
      ∧ updBeginOp.checks (reqOfCmd 0x0B01 [0, 0x10, 0, 0, 0, 0, 0, 0]) (flight 0x0B01 [] on) = none
      ∧ (let x : UpdSession := { owner := 0x10, bank := 1, len := 4096, written := [], state := 1 }
         let s : State := { on with upd := { on.upd with session := some x } }
         isReady 0x0B02 [0, 0, 0, 0, 0, 0, 0, 0, 7] s = true ∧ updChunkOp.checks (reqOfCmd 0x0B02 [0, 0, 0, 0, 0, 0, 0, 0, 7]) s = none
           ∧ updVerifyOp.checks (reqOfCmd 0x0B03 [0, 0, 0, 0]) s = none)
      ∧ (let x : UpdSession := { owner := 0x10, bank := 0, len := 4096, written := [], state := 1 }
         let s : State := { on with upd := { on.upd with peerSession := some x } }
         updChunkOp.checks (reqOfCmd 0x0B02 [0, 0, 0, 0, 1, 0, 0, 0, 7]) s = none ∧ updVerifyOp.checks (reqOfCmd 0x0B03 [1, 0, 0, 0]) s = none
           ∧ updActivateOp.checks (reqOfCmd 0x0B05 [1, 0, 0, 0]) { s with upd := { s.upd with peerSession := some { x with state := 3 } } } = none)
      ∧ (let s : State := { on with upd := { on.upd with session := some { owner := 0x10, bank := 1, len := 4096, written := [], state := 2 } } }
         isReady 0x0B04 [0, 0, 0, 0] s = true ∧ updStageOp.checks (reqOfCmd 0x0B04 [0, 0, 0, 0]) s = none)
      ∧ (let s : State := { on with upd := { on.upd with session := some { owner := 0x10, bank := 1, len := 4096, written := [], state := 3 } } }
         isReady 0x0B05 [0, 0, 0, 0] s = true ∧ updActivateOp.checks (reqOfCmd 0x0B05 [0, 0, 0, 0]) s = none ∧ s.sys.mode ≠ .recovery)
      ∧ isReady 0x0B06 [] on = true := by decide
theorem witness_ResetCommands :
    isReady 0x0B10 [4, 0, 0, 0] on = true ∧ blockIdle 4 0 on = true ∧ blockIdle 1 48 on = false ∧ isReady 0x0B11 [4, 0, 0, 0] on = true
      ∧ ({ on with rst := { on.rst with blocks := [(1, 48, 7)] } } : State).rst.blocks = (1, 48, 7) :: [] ∧ on.rst.blocks = [] := by decide
theorem witness_KeyCommands :
    isReady 0x0D01 (bytesOf 120 [(0, 2), (1, 6)]) on = true ∧ kdChecks (reqOfCmd 0x0D01 (bytesOf 120 [(0, 2), (1, 6)])) on = none
      ∧ kdOp (reqOfCmd 0x0D01 (bytesOf 120 [(0, 2), (1, 6)])) ≠ 4 ∧ kdOp (reqOfCmd 0x0D01 [4]) = 4 ∧ kdOp (reqOfCmd 0x0D01 [5]) = 5
      ∧ isReady 0x0D10 (bytesOf 36 [(0, 1)]) on = true ∧ on.keys.identityReady = false
      ∧ isReady 0x0D10 (bytesOf 36 []) { on with keys := { on.keys with identityReady := true } } = true
      ∧ isReady 0x0D20 [1, 0, 0, 0, 0, 0, 0, 0] on = true ∧ lcTransitionOp.checks (reqOfCmd 0x0D20 [1, 0, 0, 0, 0, 0, 0, 0]) on = none
      ∧ lcTarget (reqOfCmd 0x0D20 [4, 0, 0, 0, 0, 0, 0, 0]) = 4 := by decide +kernel
theorem witness_CounterAndRecorderCommands :
    isReady 0x0E02 (bytesOf 16 []) on = true ∧ relays on = false ∧ (reqOfCmd 0x0E02 []).instant = none
      ∧ (let e := timed 0x0E01 (bytesOf 32 [])
         let s : State := { on with cmd := { on.cmd with inflight := [e] } }
         findTag s 0x1005 = some e ∧ mayBegin e s = true ∧ isDryrun e.packet = false ∧ isAtTime e.packet = false)
      ∧ isReady 0x0F02 [0, 0, 0, 0] on = true ∧ clearOp (reqOfCmd 0x0F02 [0, 0, 0, 0]) = 0 ∧ clearOp (reqOfCmd 0x0F02 [1, 0, 0, 0]) ≠ 0
      ∧ clearChecks (reqOfCmd 0x0F02 [1, 0, 0, 0]) on = some (stBadParam, 0x0F01)
      ∧ relays { on with pair := { on.pair with st := .paired } } = true := by decide

/-! Witnesses: transports, host rings, lanes, tables. -/

theorem witness_TransportRegistersTakeEffect :
    pcieUp on = true ∧ (15 : Nat) % 256 < sqEntries (cmdRing on 1) ∧ sqEntries (cmdRing on 1) ≤ 16 % 256
      ∧ 31 % 512 < cqSize (cmdRing on 1) ∧ cqSize (cmdRing on 1) ≤ 32 % 512 ∧ viewUp .xspi on = true ∧ bit (1 : Word).toNat 0 = true := by
  decide +kernel
theorem witness_TransportAndTimedEvents :
    opWorlds (0x0003 : Word16).toNat = none ∧ transportServed (.ring 1 0 4096 0) on = true ∧ (0 : Nat) ≤ 4064
      ∧ tagTransport 0x0205 = 1 + (1 : Fin 2).val ∧ findTag on 0x0205 = none
      ∧ (let s : State := { on with cmd := { on.cmd with sessions := [(15, { src := 1, slot := 0, lastActive := 0 })] } }
         s.cmd.sessions.lookup 15 = some { src := 1, slot := 0, lastActive := 0 } ∧ sessionBusy 15 s = false)
      ∧ (let s : State := setXspi { on.hst.xspi with posted := [(0x18, [1])] } on
         s.hst.xspi.posted = (0x18, [1]) :: [])
      ∧ (let e : InFlight := { timed 0x0303 (bytesOf 12 []) with phase := .armed }
         findTag { on with cmd := { on.cmd with inflight := [e] } } 0x1005 = some e ∧ e.instant = some (nsVal 1000000))
      ∧ (let e : InFlight := { timed 0x0303 (bytesOf 12 []) with phase := .committed }
         findTag { on with cmd := { on.cmd with inflight := [e] } } 0x1005 = some e ∧ ownRow e.opcode = false
           ∧ (meaningOf e.opcode).commitsAtOnce = false)
      ∧ (cmd 0x0303 []).phase ≠ .committed := by decide +kernel
theorem witness_RegisterAndIntStatWrites :
    viewUp .f0 on = true ∧ (0x0018 : Word16).toNat % 4 = 0 ∧ (writeReg .f0 0x0018 5 on).2 = .done ∧ (writeReg .f2 0x0018 5 on).2 = .refused
      ∧ viewFn .f3 = some (3 : Fin 4).val ∧ viewUp .f3 on = true ∧ (0xFFFF : Word16).toNat % 4 ≠ 0 ∧ viewUp .f2 on = true
      ∧ restricted .f1 = false ∧ viewUp .f1 on = true ∧ restricted .f2 = true := by decide +kernel
theorem witness_XspiAccesses :
    viewUp .xspi on = true ∧ xspiBadAccess 0 1 = false ∧ inWindow (0 : Word).toNat = false ∧ xspiBadAccess 0x9000 1024 = false
      ∧ inWindow (0x9000 : Word).toNat = true ∧ on.hst.xspi.replay = none ∧ on.hst.xspi.burstThrough = false ∧ xspiBadAccess 2 1 = true
      ∧ on.hst.xspi.posted.length < 64
      ∧ 64 ≤ (setXspi { on.hst.xspi with posted := List.replicate 64 (0, []) } on).hst.xspi.posted.length
      ∧ (let b : XspiBurst := { base := 0x9000, words := List.replicate 16 0, start := 0x9000 }
         15 < b.words.length - (b.start - b.base) / 4 ∧ b.words.length - (b.start - b.base) / 4 ≤ 16)
      ∧ (5 : Byte) ≠ ~~~ 6 := by decide +kernel
theorem witness_PcieRingsAndFrames :
    pcieUp on = true ∧ on.rst.episode = none
      ∧ (let r : HstRing := { owner := some 3, enable := true, size := 8, work := [{ index := 0, bytes := [] }] }
         let s : State := { on with hst := { on.hst with tx := [(15, r)], rx := [(15, r)] } }
         (hstRing s false 15).owner = some 3 ∧ (hstRing s true 15).owner = some 3 ∧ (hstRing s true 0).owner ≠ some 3
           ∧ 255 % 4096 < hstEntries (hstRing s false 15) ∧ (hstRing s true 15).enable = true
           ∧ (hstRing s false 15).work.find? (fun x => x.frame.isNone && x.status.isNone) = some { index := 0, bytes := [] }
           ∧ internalWaits 28 s = false ∧ forwarding s.sys.mode = true ∧ dataPathDown s = false)
      ∧ (let r : HstRing := { owner := some 3, enable := true, work := [{ index := 0, bytes := [], status := some 0 }] }
         let s : State := { on with hst := { on.hst with tx := [(15, r)] } }
         (hstRing s false 15).work = { index := 0, bytes := [], status := some 0 } :: []
           ∧ writebackDue { index := 0, bytes := [], status := some 0 } s = true)
      ∧ (let f := { frame with ended := true, funcs := 0 }
         let s : State := { withFrame f with egr := { on.egr with ports := [(28, { sending := some { frame := 7, startClk := 0, left := 0, preemptible := false } })] } }
         (egress s 28).sending = some { frame := 7, startClk := 0, left := 0, preemptible := false } ∧ frameOf s 7 = some f ∧ f.ended = true
           ∧ ringsReady f (editedBytes s 28 f).length s = true ∧ f.oversize = false ∧ destAt f 28 = none) := by decide +kernel
theorem witness_FramesThroughTheLanes :
    forwarding on.sys.mode = true ∧ dataPathDown on = false ∧ portUp (withPort 27 { st := .up }) 27 = true ∧ clusterServes on = true
      ∧ internalWaits 29 on = false ∧ forwarding State.reset.sys.mode = false ∧ dataPathDown State.reset = true
      ∧ frameOf (withFrame frame) 7 = some frame ∧ frame.phase = .waiting ∧ frame.throughSecY = false
      ∧ ({ frame with phase := .firstPass } : Frame).phase = .firstPass ∧ ({ frame with phase := .secondPass } : Frame).phase = .secondPass
      ∧ (rpFirst (withFrame { frame with phase := .rinse, ended := true })).isSome = true ∧ frame.ended = false
      ∧ ({ frame with wireLen := 63 } : Frame).wireLen < 64 ∧ 64 ≤ frame.wireLen ∧ 10240 < ({ frame with wireLen := 10241 } : Frame).wireLen
      ∧ frame.wireLen ≤ (portCfg on 0).maxFrame
      ∧ ({ on with lanes := { on.lanes with other := 1 } } : State).lanes.other = 1 ∧ drainingFrames on = 0 := by decide +kernel
theorem witness_TablesAgeAndTimersRun :
    (let s : State := { on with bsn := { on.bsn with learned := [(learnKey 1 2, { port := 3, seen := 0 })] } }
     (s.bsn.learned.lookup (learnKey 1 2)).isSome = true)
    ∧ (let s : State := { on with fwl := { on.fwl with conns := [(65535, { key := { ver := 4, src := 1, dst := 2, proto := 17, sport := 3, dport := 4, szone := 0, dzone := 1 }, st := .udpNew, expiry := 5 })] } }
       (s.fwl.conns.lookup 65535).isSome = true)
    ∧ on.fwl.suspended = false ∧ forwarding on.sys.mode = true ∧ (1 : Word64).toNat ≠ on.fwl.ref3
    ∧ (let s := withImage [(8, bytesOf 128 [(0, 1), (66, 10), (68, 1), (72, 1), (78, 1), (80, 1)])]
       let o := 64
       let sec := (liveSection s 8).getD []
       frerEntry s 0 = some (sec, o) ∧ bit (byteAt sec (o + 2)) 1 = true ∧ bit (byteAt sec (o + 2)) 3 = true
         ∧ bit (fieldLe sec (o + 4) 4) 0 = true
         ∧ (let u := setRecovery 0 0 { recoveryOf s 0 0 with takeAny := false } s
            frerEntry u 0 = some (sec, o) ∧ (recoveryOf u 0 0).takeAny = false)
         ∧ (recoveryOf s 0 0).resetAt + fieldLe sec (o + 16) 4 * 1000000
             ≤ (reachClock ((recoveryOf s 0 0).testedAt + fieldLe sec (o + 14) 2 * 1000000) s).clk) := by decide +kernel

/-! Witnesses: egress, image switches, time. -/

theorem witness_FlowControl :
    (let b := bytesOf 64 [(12, 0x88), (13, 0x08), (15, 1), (16, 0), (17, 5)]
     fieldBe b 12 2 = 0x8808 ∧ fieldBe b 14 2 = 0x0001 ∧ fieldBe b 16 2 = 5)
    ∧ (egress (withEgress 27 { pausedTill := [(8, 3)], pausedFrom := [(8, 1)] }) 27).pausedTill.lookup (pauseKey none) = some 3
    ∧ (egress (withEgress 0 { pausedFrom := [(7, 1)] }) 0).pausedFrom.lookup (pauseKey (some 7)) = some 1
    ∧ (egress (withEgress 0 { pausedFrom := [(7, 1)] }) 0).stuckAt.lookup (pauseKey (some 7)) = none
    ∧ (let s := { withImage [(6, bytesOf 400 [(130 + 8 * 27, 2)])] with bsn := { on.bsn with raised := [(27, 0x80)] } }
       fcMode s 27 = 2 ∧ bit (raisedMask s 27) 7 = true)
    ∧ (let s := { on with bsn := { on.bsn with raised := [(24, 1)] } }
       fcMode s 24 = 3 ∧ raisedMask s 24 ≠ 0) := by decide +kernel
theorem witness_EgressEvents :
    (isBehind 5 6 = true ∧ isBehind 6 6 = false ∧ isBehind 7 6 = false)
    ∧ (let s := { on with bsn := { on.bsn with press := [(seqKey 3 4 5, { e := 1, held := [(2, 7)], waitFrom := some 9 })] } }
       (pressOf s 3 4 5).waitFrom = some 9 ∧ (pressOf s 3 4 5).held ≠ [])
    ∧ (let sec := bytesOf 144 [(0, 8), (64, 100), (72, 2), (128, 50), (133, 2), (136, 50), (141, 2)]
       let s := withImage [(9, sec)]
       gateBlock s 3 = some (sec, 64) ∧ gateOp sec 64 (((gateEntry s sec 64 (wNow s)).1 + 1) % fieldLe sec (64 + 8) 2) = 2)
    ∧ (let sec := bytesOf 144 [(0, 8), (64, 100), (72, 2), (128, 50), (133, 1), (136, 50), (141, 1)]
       let s := { withImage [(9, sec)] with egr := { on.egr with ports := [(3, { preempt := 2 })] } }
       gateBlock s 3 = some (sec, 64) ∧ (egress s 3).preempt = 2
         ∧ (untilHold sec 64 (fieldLe sec (64 + 8) 2) (gateEntry s sec 64 (wNow s)).1 (gateEntry s sec 64 (wNow s)).2).isSome = true)
    ∧ (let f := { frame with launch := some 0 }
       let s := { withFrame f with egr := { on.egr with ports := [(23, { queues := [(2, [7])] })] } }
       hasLaunch 23 = true ∧ (egress s 23).queues.any (fun q => q.2.contains 7) = true ∧ frameOf s 7 = some f ∧ f.launch = some 0)
    ∧ (let s := { withPort 27 { st := .up } with egr := { on.egr with ports := [(27, { preempt := 1, verifyTries := 2 })] } }
       (egress s 27).preempt = 1 ∧ portUp s 27 = true ∧ (egress s 27).verifyTries < 3)
    ∧ (let s := { withPort 27 { st := .up } with egr := { on.egr with ports := [(27, { preempt := 1, verifyTries := 3 })] } }
       (egress s 27).preempt = 1 ∧ portUp s 27 = true ∧ 3 ≤ (egress s 27).verifyTries) := by decide +kernel
theorem witness_ImageSwitchesAndPace :
    (let x := imageWith []
     let s := { on with img := { on.img with armed := some (0x1005, 9), pendingMark := some (1, 9), shadow := some x } }
     s.img.armed = some (0x1005, 9) ∧ s.img.pendingMark = some (1, 9) ∧ s.img.shadow = some x ∧ runMode s.sys.mode = true
       ∧ s.wake.down = false)
    ∧ (let p : Patch := { section_ := 3, offset := 0, data := [1], crc := 0 }
       let x : PendingSwap := { tag := some 0x1005, instant := 9, patch := some p }
       let s := { on with img := { on.img with pending := some x } }
       s.img.pending = some x ∧ x.patch = some p ∧ swapDue x.tag s = true ∧ forwarding s.sys.mode = true ∧ inL34 s = false ∧ s.fwl.st ≠ 1)
    ∧ (let s := { on with lanes := { on.lanes with refreshDue := true } }
       s.lanes.refreshDue = true ∧ s.lanes.other = 0 ∧ forwarding s.sys.mode = true)
    ∧ (let s := { on with lanes := { on.lanes with refreshAt := some 9, other := 2 } }
       s.lanes.swap = none ∧ s.lanes.refreshAt = some 9 ∧ s.lanes.other = 2)
    ∧ (let s := { on with lanes := { on.lanes with swap := some (0x1005, 9), other := 2 } }
       s.lanes.swap = some (0x1005, 9) ∧ awaitsSync 0x1005 s = false ∧ s.lanes.other = 2)
    ∧ ({ on with sys := { on.sys with autonomousTag := some 0x1005 } } : State).sys.mode = .configured
    ∧ (let s := { withImage [] with fwl := { on.fwl with st := 1 }, img := { (withImage []).img with activeMark := some 0 } }
       s.fwl.st = 1 ∧ s.img.live.isSome = true ∧ s.img.activeMark = some 0 ∧ (revertSections s).all (digestHolds (bankContainer s 0)) = true)
    ∧ (({ on with fwl := { on.fwl with st := 1 } } : State).fwl.st = 1 ∧ on.img.live = none)
    ∧ (on.img.paceCal ≠ 0 ∧ on.img.margin = false ∧ paceThreshold (imageWith []) ≤ 0
        ∧ 4095 < paceThreshold (imageWith [(0x00F0, bytesOf 64 [(5, 16)])]) ∧ 4096 ≤ Nat.min 65535 (4096 * 4096 / on.img.paceCal)
        ∧ ({ on with img := { on.img with margin := true } } : State).img.margin = true) := by decide +kernel

/-- Section 0x000F with domain 0 on slave port 27 and master port 3. -/
def timeSec (source : Nat) : Bytes := bytesOf 512 [(1, 0), (64, 2), (81, 3), (129, source), (130, 27), (132, 8)]

theorem witness_GptpRows :
    (let s := withImage [(15, timeSec 0)]
     clusterServes s = true ∧ s.img.live.isSome = true ∧ domainsOf s 0 = [0] ∧ measurePort s 0 = 27)
    ∧ (let s := { on with time := { on.time with doms := [(0, { pendingSync := some (5, 27, 9, 0) })] } }
       domainsOf s 0 = [0] ∧ (dom s 0).pendingSync = some (5, 27, 9, 0))
    ∧ (let s := { withImage [(15, timeSec 1)] with ports := [(3, { st := .up })], time := { on.time with doms := [(0, { st := .locked, lastValid := some 5 })] } }
       clusterServes s = true ∧ (dom s 0).st ≠ .disabled ∧ isGrandmaster s 0 = true ∧ frozen s = false ∧ 3 ∈ masterPorts s 0
         ∧ (dom s 0).st = .locked ∧ (dom s 0).lastValid = some 5)
    ∧ (let s := { on with time := { on.time with delays := [(27, { seq := 4, t1 := some 1 })], doms := [(0, { fallback := true, lastValid := some 5 })] } }
       (4 : Word16).toNat = (delay s 27).seq ∧ (delay s 27).t1.isSome = true ∧ (dom s 0).fallback = true ∧ (dom s 0).lastValid = some 5) := by
  decide +kernel
theorem witness_TimePins :
    (let s := { on with time := { on.time with ppsEdges := [0] } }
     s.time.ppsEdges = 0 :: [] ∧ s.clk < 0 + 500000000 ∧ clockStopped s = false ∧ 0 + 500000000 ≤ ({ s with clk := 500000000 } : State).clk)
    ∧ (on.time.ppsEdges = [] ∧ clockStopped State.reset = true ∧ clusterServes State.reset = false)
    ∧ (let s := { withImage [(15, timeSec 0)] with time := { on.time with doms := [(0, { st := .locked })] } }
       ppsOutOn s = true ∧ s.time.ppsOut = false ∧ ({ s with time := { s.time with ppsOut := true } } : State).time.ppsOut = true)
    ∧ (let s := withImage [(15, bytesOf 512 [(112, 1), (113, 3)])]
       timeField s (64 + 16 * 3) 1 0 = 1 ∧ bit (timeField s (64 + 16 * 3 + 1) 1 0) 0 = true ∧ bit (timeField s (64 + 16 * 3 + 1) 1 0) 1 = true
         ∧ (tsync s 3).last = none ∧ (tsync s 3).fifo.length < 16)
    ∧ (timeField (withImage [(15, timeSec 0)]) 64 1 0 = 2 ∧ (tsync on 0).high = false
        ∧ (tsync { on with time := { on.time with tsync := [(0, { high := true })] } } 0).high = true)
    ∧ ({ on with time := { on.time with w := { mode := .slew } } } : State).time.w.mode = .slew
    ∧ ({ on with rst := { on.rst with invalid := [] } } : State).rst.invalid.contains .vddCore = false := by decide +kernel

/-! Witnesses: the gateway and the legacy buses. -/

/-- Engine 3 at instruction word `w` of a handler, with 5 in G1 and 7 in G2. -/
def seamRunOf (w : Nat) : SeamRun :=
  { job := .fromMsg [] 0
      { frame := { fmt := 0, ext := false, rtr := false, esi := false, id := 0, chA := false, chB := false, cycle := 0, sdt := 0
                   vcid := 0, data := [] }
        stamp := 0, since := 0, maxAge := 0, owner := 0 }
    handler := 0, code := leBytes 4 w, consts := [1, 2, 3, 4], pc := 0, input := [], output := [], regs := [(1, 5), (2, 7)] }

/-- The block with that handler in engine 3. -/
def seamOn (w : Nat) : State := { on with leg := { on.leg with engines := [(3, { run := some (seamRunOf w) })] } }

/-- The hypotheses of `seamAt`, as a test: the word's top bits are the opcode. -/
def seamReady (w : Nat) : Bool :=
  !(engineOf (seamOn w) 3).stopped && (engineOf (seamOn w) 3).run == some (seamRunOf w) && seamWord (seamRunOf w) == some w

theorem witness_SeamInstructions :
    ([0x00, 0x01, 0x02, 0x03, 0x04, 0x05, 0x06, 0x07, 0x08, 0x09, 0x0A, 0x0B, 0x0C, 0x0D, 0x0E, 0x0F, 0x10, 0x11, 0x12, 0x13, 0x18, 0x19, 0x1A,
      0x1B, 0x1C].all (fun op =>
        let w := op * 2 ^ 26 + 1 * 2 ^ 22 + 2 * 2 ^ 18 + 1
        seamReady w && seamOp w == op && seamImm w == 1)) = true
    ∧ seamImm (0x06 * 2 ^ 26 + 2 ^ 17) = 2 ^ 17 ∧ seamImm (0x06 * 2 ^ 26 + 2 ^ 17 - 1) < 2 ^ 17
    ∧ seamImm (0x13 * 2 ^ 26) = 0 ∧ 2 ≤ seamImm (0x13 * 2 ^ 26 + 2)
    ∧ 8 * bufferSize - 1 + 1 ≤ 8 * bufferSize ∧ 8 * bufferSize < 8 * bufferSize - 1 + 2
    ∧ 4 * 0 + 4 ≤ (seamRunOf 0).consts.length ∧ (seamRunOf 0).consts.length < 4 * 1 + 4 := by decide +kernel

/-- A classic CAN frame. -/
def canFrame : LegacyFrame :=
  { fmt := 0, ext := false, rtr := false, esi := false, id := 5, chA := false, chB := false, cycle := 0, sdt := 0, vcid := 0, data := [1] }

/-- That frame as an item of a channel. -/
def item : LegItem := { frame := canFrame, stamp := 0, since := 0, maxAge := 1000, owner := 0 }

/-- The block with channel `ep` as given. -/
def withCh (ep : Nat) (c : LegCh) (b : State) : State := { b with leg := { b.leg with chs := [(ep, c)] } }

theorem witness_CanChannels :
    (let s := withCh 63 { st := 1 } on
     legRuns s = true ∧ chReceives (chOf s 63) = true ∧ fmtMode canFrame.fmt ≤ canMode (releaseBus 63 s) 63
       ∧ canLenOk canFrame.fmt canFrame.data.length = true)
    ∧ (let s := withCh 63 { st := 1 } (withImage [(13, bytesOf 1920 [(1, 128), (64 + 32 * 15, 1)])])
       canMode (releaseBus 63 s) 63 < fmtMode 1)
    ∧ (chOf (withCh 63 { st := 1, onBus := some item } on) 63).onBus = some item ∧ (chOf (withCh 63 { st := 6, onBus := some item } on) 63).st = 6
    ∧ (chOf (withCh 48 { st := 2 } on) 48).st = 2
    ∧ (let s := withCh 48 { st := 3, recovering := true } on
       (chOf s 48).st = 3 ∧ (chOf s 48).recovering = true)
    ∧ (let s := withCh 48 { st := 4 } on
       legAuto s = true ∧ (chOf s 48).st = 4 ∧ (chOf s 48).rateKept = false) := by decide +kernel

theorem witness_LinAndFlexRay :
    (let s := withCh 71 { st := 1 } (withImage [(13, bytesOf 4096 [(2, 128), (576 + 32 * 7, 1)])])
     legRuns s = true ∧ legAuto s = false ∧ linMaster s 71 = true ∧ (chOf s 71).st = 1 ∧ (chOf s 71).slotAt = 0 ∧ (chOf s 71).awaiting = none)
    ∧ (let s := withCh 71 { st := 1 } on
       linMaster s 71 = false)
    ∧ (let s := withCh 64 { st := 1, awaiting := some 63 } on
       (chOf s 64).awaiting = some 63 ∧ linEntry s 64 63 = none ∧ 1 ≤ ([9] : Bytes).length ∧ ([9] : Bytes).length ≤ 8)
    ∧ (let s := withCh 72 { st := 1, engine := some 0 } (withImage
          [(13, bytesOf 4096 [(3, 1), (835, 1), (896, 5), (898, 1), (900, 1)]), (11, bytesOf 112 [(0, 1), (66, 72), (72, 255), (73, 255)])])
       legRuns s = true ∧ chConfigured s 72 = true ∧ chReceives (chOf s 72) = true
         ∧ (frBufs s).find? (fun i => !bit (frField s i 2 1) 2 && bit (frField s i 2 1) 0 && frField s i 0 2 == 5 && frSelects s i 3) = some 0
         ∧ (frBufs s).find? (fun i => !bit (frField s i 2 1) 2 && bit (frField s i 2 1) 1 && frField s i 0 2 == 5 && frSelects s i 3) = none
         ∧ (let f := { frFrame s 0 3 [1] with chA := true, chB := false }
            let w := noteTraffic 72 (countCh 72 0 1 s)
            (chOf w 72).engine.isSome = true ∧ (mappingFor w 72 f).isSome = true ∧ Tab.has w.leg.frRx 0 = false)
         ∧ (let t := withCh 72 { st := 1 } s
            (chOf (noteTraffic 72 (countCh 72 0 1 t)) 72).engine = none))
    ∧ (let s := withCh 72 { st := 3 } (withImage [(13, bytesOf 4096 [(3, 1), (832 + 52, 1)])])
       (chOf s 72).st = 3 ∧ autoRecover s 72 = true ∧ (chOf s 72).recovering = false) := by decide +kernel

theorem witness_GatewayEvents :
    (chOf (withCh 63 { store := [item] } on) 63).store[0]? = some item
    ∧ (let s := { on with leg := { on.leg with bundles := [(2, { messages := [[1]] })] } }
       (Tab.get s.leg.bundles 2 {}).messages ≠ [] ∧ gwHeld s (mapClass (Tab.get s.leg.bundles 2 {}).cfg) = false)
    ∧ (let x : Sending := { frame := 7, startClk := 0, left := 0, preemptible := false }
       let f := { frame with ended := true, oversize := true }
       let s := { withEgress 30 { sending := some x } with frames := [(7, f)] }
       (egress s 30).sending = some x ∧ frameOf s 7 = some f ∧ x.frame = 7 ∧ f.ended = true ∧ f.channels = 0 ∧ f.oversize = true)
    ∧ (let x : Sending := { frame := 7, startClk := 0, left := 0, preemptible := false }
       let f := { frame with ended := true, channels := 1 }
       let s := withCh 48 { engine := some 2 } { withEgress 30 { sending := some x } with frames := [(7, f)] }
       (egress s 30).sending = some x ∧ frameOf s 7 = some f ∧ f.ended = true ∧ f.channels = 1 ∧ f.oversize = false ∧ destAt f 30 = none
         ∧ gwPlaces s 48 < 128 ∧ (chOf (finishSending 30 s) 48).engine = some 2)
    ∧ (let j : SeamJob := .fromEth [] [] 0 0 0
       let s := { on with leg := { on.leg with engines := [(3, { jobs := [j] })] } }
       (engineOf s 3).stopped = false ∧ (engineOf s 3).run = none ∧ legRuns s = true ∧ (engineOf s 3).jobs = j :: [] ∧ jobReady s j = true) := by
  decide +kernel

/-! Witnesses: sleep, ports, resets, safety, the pair, the bridge, counters and the recorder. -/

/-- Section 0x0010 of a ring with SET_ID 1, node 0 of 2, initiating when idle for 1 s, and one segment of port 27, LIN 7 and CAN 15. -/
def sleepSec : Bytes := bytesOf 80 [(0, 1), (3, 2), (5, 2), (13, 1), (28, 1), (65, 128), (66, 128), (71, 8), (72, 1), (76, 5)]

/-- An accepted Dusk frame of type `ty` in that ring: round 3, initiator 1. -/
def dusk (ty : Nat) : Bytes := bytesOf 48 [(0, 1), (1, ty), (3, 1), (7, 3), (8, 1), (10, 2)]

/-- The block `b` with its sleep state as given. -/
def withWake (w : Wake) (b : State) : State := { b with wake := w }

/-- The block with that section and its sleep state as given. -/
def asleepIn (w : Wake) : State := withWake w (withImage [(16, sleepSec)])

theorem witness_WakeEvents :
    bit (wakeEn on) 0 = true ∧ bit (wakeEn on) (3 + 1) = true ∧ bit (wakeEn (withWake { settings := some (bytesOf 12 []) } on)) 0 = false
      ∧ (withWake { wakeOut := true } on).wake.wakeOut = true ∧ (withWake { requestAt := some 4 } on).wake.requestAt = some 4 := by decide
theorem witness_DuskRing :
    (let s := asleepIn { ring := .consented, round := (3, 1) }
     duskServed s = true ∧ ringMember s = true ∧ s.sys.mode ≠ .autonomous ∧ s.wake.ring = .consented
       ∧ [1, 2, 3].all (fun ty => (dusk ty).length == 48 && byteAt (dusk ty) 1 == ty && duskAccepted s (dusk ty) && duskPair (dusk ty) == s.wake.round)
         = true
       ∧ duskAccepted s (bytesOf 48 [(1, 1)]) = false)
    ∧ (let s := asleepIn { ring := .quiet }
       duskAccepted s (dusk 4) = true ∧ byteAt (dusk 4) 1 = 4 ∧ s.wake.ring = .quiet ∧ s.wake.down = false ∧ s.rst.episode = none)
    ∧ (let s := asleepIn {}
       sleepField s 28 4 ≠ 0 ∧ ringMember s = true ∧ duskServed s = true ∧ bit (sleepField s 5 1) 1 = true ∧ s.wake.ring = .awake
         ∧ frozen s = false ∧ stayAwake s = none) := by decide +kernel
theorem witness_SegmentEvents :
    (let s := { withImage [(14, bytesOf 2048 [(0, 255), (3, 15), (64 + 64 * 27 + 1, 16)])] with ports := [(27, { st := .up })] }
     (port s 27).st = .up ∧ bit (portCfg s 27).flags 4 = true ∧ bit (portCfg s 27).flags 5 = false)
    ∧ (let s := withWake { down := true } (withPort 27 { st := .asleep, tc10 := 2 })
       (port s 27).tc10 = 2 ∧ s.wake.down = true ∧ bit (tc10WakeMask s) 27 = true ∧ bit (wakeEn s) 6 = true ∧ portType 27 ≠ 1)
    ∧ (let s := withWake { settings := some (bytesOf 12 []) } (withPort 27 { st := .asleep })
       s.sys.mode ≠ .standby ∧ s.sys.mode ≠ .backup ∧ (port s 27).st = .asleep ∧ bit (wakeEn s) 6 = false ∧ segOfPort s 27 = none)
    ∧ (let s := asleepIn { segs := [(0, { st := .asleep, hold := some 4 })] }
       segOfChannel s (48 + 15) = some 0 ∧ (segOf s 0).st = .asleep ∧ bit (segField s 0 8 1) 0 = true ∧ (segOf s 0).hold = some 4)
    ∧ (let s := asleepIn {}
       0 < segCount s ∧ segField s 0 12 4 ≠ 0 ∧ imageMode s.sys.mode = true ∧ (segOf s 0).st = .awake ∧ segHeld s 0 = false)
    ∧ (let s := asleepIn { segs := [(0, { st := .draining })] }
       0 < segCount s ∧ (segOf s 0).st = .draining)
    ∧ (withWake { hold := some 4 } on).wake.hold = some 4 := by decide +kernel
theorem witness_PortEvents :
    (let s := withPort 27 { st := .training }
     (port s 27).st = .training ∧ reportedRate (port s 27).mode 0 = some 0 ∧ hasPhy s 27 = false)
    ∧ (let s := withPort 8 { st := .training, mode := 0x13 }
       (port s 8).st = .training ∧ (reportedRate (port s 8).mode 5).isSome = true ∧ hasPhy s 8 = false)
    ∧ (port (withPort 27 { st := .up }) 27).st = .up ∧ (port on 0).st = .disabled
    ∧ (portType 7 = 0 ∧ (port (withPort 7 { st := .training, coeff := 1 }) 7).coeff = 1)
    ∧ (let s := { withPort 11 { st := .training } with sys := { on.sys with mode := .autonomous } }
       portType 11 = 1 ∧ s.img.live = none ∧ (port s 11).st = .training ∧ (port s 11).searchDone = false)
    ∧ (let s := withImage [(14, bytesOf 2048 [(1, 8), (64 + 64 * 11 + 9, 4)])]
       hasPhy s 11 = true ∧ clusterServes s = true ∧ blockHeld 4 0 s = false ∧ (port s 11).st = .disabled)
    ∧ (portType 24 = 3 ∧ (port (withPort 24 { st := .up, plca := 2 }) 24).plca = 2) := by decide +kernel
theorem witness_ReachesNest :
    reachCovers 2 3 = true ∧ reachCovers 2 4 = true ∧ reachCovers 0 0 = true
      ∧ sourceReach 15 { on with rst := { on.rst with episode := some { reach := 4, sources := 0x2000 } } } ≠ none := by decide
theorem witness_ResetSources :
    sourceReach 4 on = some 0 ∧ sourceReach 15 on ≠ none ∧ on.rst.episode = none ∧ on.rst.exit = none ∧ on.sys.clusterUp = true
      ∧ on.sys.halted = false
      ∧ (let s := { on with rst := { on.rst with asserted := 0x0840, episode := some { reach := 1, sources := 0x0840 } } }
         s.rst.episode = some { reach := 1, sources := 0x0840 } ∧ sourceAsserted 6 s = true ∧ s.sys.mode ≠ .standby
           ∧ s.rst.asserted &&& ~~~(BitVec.ofNat 16 (2 ^ 6)) ≠ 0
           ∧ ({ s with rst := { s.rst with asserted := 0x0040 } } : State).rst.asserted &&& ~~~(BitVec.ofNat 16 (2 ^ 6)) = 0) := by decide
theorem witness_StartAndActivation :
    (let s := { on with sys := { on.sys with clusterUp := false, mode := .boot }, rst := { on.rst with exit := some 2 } }
     s.rst.episode = none ∧ s.sys.clusterUp = false ∧ s.rst.exit = some 2)
    ∧ ({ on with rst := { on.rst with exit := some 4 } } : State).rst.exit = some 4
    ∧ (let s := { on with sys := { on.sys with mode := .boot }, rst := { on.rst with exit := some 0, updReset := true, lcReset := true } }
       s.rst.episode = none ∧ s.sys.clusterUp = true ∧ s.sys.mode = .boot ∧ s.rst.exit = some 0 ∧ s.rst.updReset = true
         ∧ s.rst.lcReset = true) := by decide
theorem witness_CoreEvents :
    votes on = true ∧ votingCores on = [0, 1, 2] ∧ (1 : Word64) ≠ 2
      ∧ (let s := { on with saf := { on.saf with cores := [(2, { masked := true })] } }
         votes s = true ∧ votingCores s = [0, 1] ∧ (votingCores s).length = 2 ∧ (votingCores s).contains 1 = true ∧ (coreUnit s 2).masked = true
           ∧ (coreUnit s 2).testing = false ∧ (coreUnit s 2).retired = false ∧ s.rst.episode = none)
      ∧ (let s := { on with saf := { on.saf with cores := [(0, { testing := true }), (2, { masked := true, testing := true })] } }
         (coreUnit s 0).testing = true ∧ (coreUnit s 0).masked = false ∧ s.sys.split = false ∧ (coreUnit s 2).testing = true ∧ (coreUnit s 2).masked = true
           ∧ (coreUnit s 2).faults = [])
      ∧ (let s := { on with sys := { on.sys with split := true } }
         s.sys.split = true ∧ s.sys.clusterUp = true ∧ s.sys.halted = false) := by decide
theorem witness_SafetyMonitors :
    mayKick on = true ∧ on.saf.wdtFresh = true ∧ on.clk - on.saf.wdtAt ≤ 200000000
      ∧ (let s := { on with clk := 1000000, saf := { on.saf with wdtFresh := false } }
         mayKick s = true ∧ s.saf.wdtFresh = false ∧ 1000000 ≤ s.clk - s.saf.wdtAt ∧ s.clk - s.saf.wdtAt ≤ 20000000
           ∧ ¬ 1000000 ≤ ({ s with clk := 999999 } : State).clk - s.saf.wdtAt)
      ∧ healthGood { on with rst := { on.rst with invalid := [] } } = true ∧ healthGood on = false ∧ on.saf.esmAck = false
      ∧ ({ on with saf := { on.saf with esmAck := true } } : State).saf.esmAck = true
      ∧ runMode on.sys.mode = true ∧ forwarding on.sys.mode = true ∧ byteAt (liveBytes on 0x0012) 7 ≠ 1
      ∧ byteAt (liveBytes (withImage [(18, bytesOf 64 [(7, 1)])]) 0x0012) 7 = 1 ∧ on.time.w.ignored = 0 := by decide +kernel
theorem witness_SupplyEvents :
    on.rst.invalid.contains .vbkp = true
      ∧ (let s := { on with rst := { on.rst with invalid := [] } }
         s.rst.invalid.contains .vbkp = false ∧ s.rst.invalid.contains .vddMram = false ∧ s.rst.episode = none ∧ s.rst.exit = none)
      ∧ (withWake { down := true } on).wake.down = true := by decide
/-- A paired block. -/
def paired (standby : Bool) : State :=
  { on with
    rst := { on.rst with invalid := [] }
    pair := { on.pair with st := .paired, standby := standby, mlUp := true, hlthIn := true, peerKnown := true } }
theorem witness_MirrorLinkAndTakeover :
    mlOpen on = true ∧ on.pair.st ≠ .paired ∧ on.sys.straps.secondary = false ∧ (paired true).pair.peerKnown = true
      ∧ (paired true).pair.mlUp = true ∧ (paired true).pair.hlthIn = true
      ∧ (let s := { paired true with pair := { (paired true).pair with peerFaulty := some 0 } }
         s.pair.st = .paired ∧ s.pair.standby = true ∧ conclude s = .failed ∧ healthGood s = true)
      ∧ (let s := { paired true with pair := { (paired true).pair with mlUp := false, hlthIn := false, mlLostAt := some 3, hlthLostAt := some 4 } }
         s.pair.mlUp = false ∧ s.pair.hlthIn = false ∧ announced s = false ∧ s.pair.mlLostAt = some 3 ∧ s.pair.hlthLostAt = some 4
           ∧ s.pair.peerKnown = true ∧ s.pair.st = .paired)
      ∧ ({ paired true with pair := { (paired true).pair with peerBadSince := some 3 } } : State).pair.partsAbsentSince = none := by
  decide +kernel
theorem witness_CycleProtocol :
    runsPair State.reset = false ∧ runsPair on = true ∧ on.pair.st = .alone ∧ on.pair.mlUp = false ∧ on.pair.takeoverDue = false
      ∧ on.pair.darnCopied = false ∧ on.pair.peerFaulty = none ∧ mlOpen (paired true) = true ∧ (paired true).pair.syncPoint < 1
      ∧ (paired true).pair.roleRequested = false ∧ (paired true).pair.own = [] ∧ (paired true).pair.peerRecs = []
      ∧ (let s := { paired true with pair := { (paired true).pair with st := .joining } }
         mlOpen s = true ∧ s.pair.standby = true ∧ s.pair.st = .joining ∧ s.pair.darnCopied = false)
      ∧ (let s := { paired false with pair := { (paired false).pair with st := .joining, switchTag := some 0x1005 } }
         s.pair.standby = false ∧ s.pair.st = .joining ∧ s.pair.relayed = [] ∧ s.pair.roleRequested = false ∧ s.pair.switchTag.isSome = true) := by
  decide
theorem witness_BridgeEvents :
    (let s := { paired false with pb := { on.pb with windows := [(15, { enable := true, near := 4096 })] } }
     clusterServes s = true ∧ openCount s < 64
       ∧ nearJudge { addr := 8188, size := 4, kind := .read, data := [], world := 0 } s = .ok 15
       ∧ nearJudge { addr := 8192, size := 4, kind := .read, data := [], world := 0 } s = .error 1
       ∧ (pbWindow s 15).posted = false)
    ∧ (let o : PbOpen := { id := 9, window := 0, access := { addr := 0, size := 4, kind := .read, data := [], world := 0 }, far := 0, posted := false,
                           tag := none }
       let s := { paired false with pb := { on.pb with open_ := List.replicate 64 o } }
       64 ≤ openCount s ∧ findOpen 9 s = some o ∧ o.posted = false ∧ o.withdrawn = false ∧ findOpen 8 s = none
         ∧ findOpen 9 { s with pb := { on.pb with open_ := [{ o with posted := true }] } } = some { o with posted := true }
         ∧ ({ o with withdrawn := true } : PbOpen).withdrawn = true)
    ∧ (let r : PbInbound := { id := 1, addr := 0, size := 4, kind := .write, posted := false, data := [], world := 0, rangeBase := 64, rangeSize := 64 }
       let s := paired false
       s.pair.mlUp = true ∧ s.pb.disabled = false ∧ s.pb.waiting = [] ∧ collides r s = false ∧ s.pb.lock = none ∧ s.pb.broken = none
         ∧ inSequence r { base := 0, size := 64, since := 0 } = false ∧ spansMeet r.addr r.size 0 64 = true)
    ∧ ({ on with otp := { on.otp with lcState := .service } } : State).otp.lcState = .service
    ∧ ({ on with otp := { on.otp with lcState := .field } } : State).otp.lcState ≠ .test := by decide +kernel
theorem witness_CounterAndRecorderEvents :
    (let c : Counter := { value := 2 ^ 48 - 1, dflt := (0, 2) }
     c.value < 2 ^ 48 ∧ (counterConf c).2 = 2 ∧ (counterConf { c with dflt := (0, 1), sat := true }).2 = 1 ∧ (counterConf { c with dflt := (0, 0) }).2 = 0)
    ∧ (let x : Snapshot := { instant := 9, automatic := false, tags := [0x1005] }
       ({ on with cnt := { on.cnt with armed := [x] } } : State).cnt.armed = [x] ∧ isAutoInstant 9 on = false ∧ on.cnt.writing = none
         ∧ (let s := { on with cnt := { on.cnt with writing := some x } }
            s.cnt.writing = some x ∧ (snapBank s (writingBank s)).state ≠ 2 ∧ clusterServes s = true))
    ∧ (let s := { withImage [] with cnt := { on.cnt with autoPeriod := 10 } }
       s.cnt.autoPeriod ≠ 0 ∧ s.img.live.isSome = true ∧ s.cnt.lastAuto = none ∧ s.cnt.armed = [])
    ∧ (let s := { on with evr := { on.evr with queue := [(0x0101, [])] } }
       clusterServes s = true ∧ clearPending s = false ∧ s.evr.queue = (0x0101, []) :: [])
    ∧ ({ on with evr := { on.evr with clearing := some ([], 4, 3, some 0x1005) } } : State).evr.clearing = some ([], 4, 3, some 0x1005)
    ∧ ({ on with evr := { on.evr with nonce := some ([1], 5) } } : State).evr.nonce = some ([1], 5)
    ∧ (let s := { on with otp := { on.otp with rootAValid := true } }
       clusterServes s = true ∧ (rootSecret s).isSome = true ∧ s.otp.lcState ≠ .retired) := by decide +kernel
theorem witness_EventFrames : ∃ t : State, exec (.mlRoleRx .grant) on = .next t := ⟨_, rfl⟩
theorem witness_FusesOnlyBlow : ∃ t : State, step { on with pending := [.lcReset] } = .next t := ⟨_, rfl⟩
theorem witness_MemoriesStayCanonical : MemoriesCanonical on :=
  ⟨⟨rfl, rfl⟩, ⟨rfl, rfl⟩, fun _ => ⟨rfl, rfl⟩, ⟨rfl, rfl⟩, fun _ => ⟨rfl, rfl⟩, ⟨rfl, rfl⟩⟩
theorem witness_ValidActions : allZero (bytesOf 16 [(0, 4)]) = false ∧ bit 4 2 = true ∧ actionOk 1 (bytesOf 16 [(0, 4)]) = true := by decide
theorem witness_ValidAttributeRecords :
    attrValid (bytesOf 16 [(0, 4), (2, 128)]) = true ∧ attrValid (bytesOf 16 [(0, 4), (2, 128), (5, 12)]) = false := by decide

/-! Ill-formed terms, one for each check, which the check refuses. -/

/-- A well-formed command term of 8 payload bytes. -/
def arriving : CmdSource := .arriving .mailbox (packet (List.replicate 8 0))

theorem test_wf_accepts_a_command : Instr.wf (.imgBegin arriving) = true ∧ Instr.wf (.imgBegin (.accepted 0x1005)) = true := by decide
theorem test_wf_refuses_commands :
    Instr.wf (.imgBegin (.arriving .mailbox { packet [1] with auth := [] })) = false
      ∧ Instr.wf (.imgBegin (.arriving .mailbox { packet [1] with length := 2 })) = false
      ∧ Instr.wf (.imgBegin (.arriving (.ring 0 256 64 0) (packet []))) = false
      ∧ Instr.wf (.imgBegin (.arriving (.ring 0 0 31 0) (packet []))) = false
      ∧ Instr.wf (.imgBegin (.arriving (.ring 0 0 4097 0) (packet []))) = false
      ∧ Instr.wf (.imgBegin (.arriving (.ring 0 0 64 4) (packet []))) = false
      ∧ Instr.wf (.imgBegin (.arriving (.inBand 0 (2 ^ 48) none) (packet []))) = false
      ∧ Instr.wf (.badOpcodeCommand 0x0F00 .mailbox { packet [1] with auth := [] }) = false := by decide
theorem test_wf_refuses_register_rows :
    Instr.wf (.cmdSqTailWrite 0 1 [.read [] none]) = false
      ∧ Instr.wf (.cmdSqTailWrite 0 1 [.read (List.replicate 32 0) (some [])]) = false
      ∧ Instr.wf (.intStatClear .xspi 1 [2, 2]) = false ∧ Instr.wf (.xspiRead 0 0 false) = false ∧ Instr.wf (.xspiWrite 0 []) = false
      ∧ Instr.wf (.hstTxTailWrite 0 0 1 [[]]) = false ∧ Instr.wf (.hstRxTailWrite 0 0 1 [[]]) = false := by decide
theorem test_wf_refuses_frame_rows :
    Instr.wf (.frameStart 0 [] none) = false ∧ Instr.wf (.pfcRx 0 []) = false
      ∧ Instr.wf (.egressSelect 0 [{ cell := 0, frame := none, single := [3], double := [3], silent := [], links := 0 }]) = false
      ∧ Instr.wf (.learnAgeing 4096 0) = false ∧ Instr.wf (.learnAgeing 1 (2 ^ 48)) = false
      ∧ Instr.wf (.frerResetTimer 2048 0) = false ∧ Instr.wf (.frerLatentTimer 2048 0) = false := by decide
/-- Well-formed operands that the tests below spoil in one place. -/
def aTimeInfo : TimeInfo := { originSec := 0, originNs := 0, correction := 0, rateOffset := 0 }
def aSyncMessage : SyncMessage := { domainNumber := 0, sequenceId := 0, correction := 0, info := none }
def aFollowUp : FollowUpMessage := { domainNumber := 0, sequenceId := 0, info := aTimeInfo }
def aLegacyFrame : LegacyFrame :=
  { fmt := 0, ext := false, rtr := false, esi := false, id := 0, chA := false, chB := false, cycle := 0, sdt := 0, vcid := 0, data := [] }
def aControl : ControlFrame := { secondary := true, mode := 0, pairState := 0, standby := false, pairSetId := 0, health := true }
def aSync : SyncFrame :=
  { cycle := 0, cluster := none, ct := [], generators := [], recoveries := [], meters := [], counters := [], complete := true }
def aJournalRec : JournalRec := { tag := 0, opcode := 0, flags := 0, committed := false, payload := [] }
def aDelta : CtDelta := { key := [], state := 0, expiry := 0, removed := false }
def aDarn : DarnPart :=
  { ct := [], generators := [], recoveries := [], meters := [], servo := [], journal := [], counters := [], patches := [], last := true }
def anAccess : PbAccess := { addr := 0, size := 4, kind := .read, data := [], world := 0 }
def anInbound : PbInbound :=
  { id := 1, addr := 0, size := 4, kind := .read, posted := false, data := [], world := 0, rangeBase := 0, rangeSize := 4 }

/-- That frame heard now, without an error. -/
def heard (f : LegacyFrame) : CanRx := { frame := f, ago := 0, failed := false }

theorem test_wf_accepts_them :
    [Instr.gptpSyncRx 0 aSyncMessage, .gptpFollowUpRx 0 aFollowUp, .canFrameRx 0 (heard aLegacyFrame), .mlControlRx aControl, .mlSyncRx aSync,
      .mlDarnRx aDarn, .pbRequest anAccess, .pbInboundRequest anInbound].all Instr.wf = true := by decide
theorem test_wf_refuses_time_rows :
    Instr.wf (.gptpSyncRx 0 { aSyncMessage with correction := 2 ^ 63 }) = false
      ∧ Instr.wf (.gptpSyncRx 0 { aSyncMessage with info := some { aTimeInfo with originSec := 2 ^ 48 } }) = false
      ∧ Instr.wf (.gptpFollowUpRx 0 { aFollowUp with info := { aTimeInfo with originNs := 1000000000 } }) = false
      ∧ Instr.wf (.gptpFollowUpRx 0 { aFollowUp with info := { aTimeInfo with rateOffset := 2 ^ 63 } }) = false
      ∧ Instr.wf (.pdelayMessageRx 0 (.resp 0 (-1))) = false ∧ Instr.wf (.pdelayMessageRx 0 (.respFollowUp 0 (-1))) = false := by decide
theorem test_wf_refuses_gateway_rows :
    Instr.wf (.canFrameRx 0 (heard { aLegacyFrame with id := 2 ^ 29 })) = false ∧ Instr.wf (.canFrameRx 0 (heard { aLegacyFrame with cycle := 64 })) = false
      ∧ Instr.wf (.canFrameRx 0 (heard { aLegacyFrame with sdt := 256 })) = false ∧ Instr.wf (.canFrameRx 0 (heard { aLegacyFrame with vcid := 256 })) = false
      ∧ Instr.wf (.bundleTimeout 1024) = false ∧ Instr.wf (.bundleTimeout 1023) = true ∧ Instr.wf (.legErrorPassive 0 512 0) = false ∧ Instr.wf (.frFrameRx 0 0 0 { data := none, ago := 0 }) = false
      ∧ Instr.wf (.linResponseRx 0 0 (some ([], 0))) = false := by decide
theorem test_wf_refuses_sleep_and_reset_rows :
    [Instr.duskToken (List.replicate 1501 0), .duskNak (List.replicate 1501 0), .duskCommit (List.replicate 1501 0),
      .dawn (List.replicate 1501 0), .resetEpisodeWiden 3].any Instr.wf = false := by decide +kernel
theorem test_wf_refuses_pair_rows :
    Instr.wf (.mlControlRx { aControl with mode := 8 }) = false ∧ Instr.wf (.mlControlRx { aControl with pairState := 4 }) = false
      ∧ Instr.wf (.mlSyncRx { aSync with cycle := 2 ^ 32 }) = false ∧ Instr.wf (.mlSyncRx { aSync with ct := [aDelta] }) = false
      ∧ Instr.wf (.mlSyncRx { aSync with cluster := some ([{ aJournalRec with opcode := 65536 }], []) }) = false
      ∧ Instr.wf (.mlDigestRx { cycle := 2 ^ 32, records := [], disagreements := 0 }) = false
      ∧ Instr.wf (.mlDigestRx { cycle := 0, records := [{ handle := 0, seq := 0, byte4 := 256, byte5 := 0 }], disagreements := 0 }) = false
      ∧ Instr.wf (.mlDarnRx { aDarn with ct := [aDelta] }) = false
      ∧ Instr.wf (.mlDarnRx { aDarn with journal := [{ aJournalRec with opcode := 65536 }] }) = false := by decide
theorem test_wf_refuses_bridge_rows :
    Instr.wf (.pbRequest { anAccess with addr := 2 ^ 40 }) = false ∧ Instr.wf (.pbRequest { anAccess with kind := .write }) = false
      ∧ Instr.wf (.pbInboundRequest { anInbound with data := [1] }) = false ∧ Instr.wf (.pbInboundRequest { anInbound with kind := .write }) = false
      ∧ Instr.wf (.pbResponseRx 0 0 (List.replicate 65 0)) = false := by decide
theorem test_no_word_spells_a_command : decodeTableWord 32 0 = none := rfl


/-! Operations and single steps with results worked out from the spec's tables. -/

/-- The state a command leaves, from `on`. -/
def after (c : Instr) (s : State) : State :=
  match step { s with pending := [c] } with
  | .next t => t
  | _ => s

-- R85: the check value of the CRC-64 of ECMA-182 over the digits 1 to 9.
theorem test_crc64 : crc64 (ascii "123456789".toList) = 0x6C40DF5F0B497347 := by decide +kernel
-- Table 17.3 and Table 17.4: SYS_REV, SYS_MODE in CONFIGURED (code 5).
theorem test_sys_registers : peek .xspi 0 on = 0x0A01 ∧ peek .f2 4 on % 8 = modeCode .configured ∧ peek .xspi 0x18 on = 0 := by decide +kernel
-- Table 17.2: SYS_SCRATCH is written by W1 and W2; R298: F3 only reads the SYS block.
theorem test_scratch_is_written_from_f1 : (after (.registerWrite .f1 0x18 77) on).sys.scratch = 77 := by decide +kernel
theorem test_scratch_is_refused_to_f3 :
    (after (.registerWrite .f3 0x18 77) on).sys.scratch = 0 ∧ bit (peek .f3 0xE10 (after (.registerWrite .f3 0x18 77) on)) 3 = true := by
  decide +kernel
-- R445: a raise in the period of the clear prevails.
theorem test_raise_prevails :
    (after (.intStatClear .xspi 0x0003 [1]) { on with intr := { on.intr with stat := 0x0003 } }).intr.stat = 0x0002 := by decide +kernel
-- R446: a read reports the transitions and clears them.
theorem test_ovf_reads_once :
    (after (.cntOvfRead .xspi 3) { on with cnt := { on.cnt with ovf := [(3, 2)] } }).cnt.ovf.lookup 3 = some 0 := by decide +kernel
-- Table 13.1 with unblown fuses, Table 13.3's defaults.
theorem test_default_reaches :
    [4, 5, 6, 7, 8, 9, 10, 12, 13, 14, 15].map (fun n => sourceReach n State.reset)
      = [some 0, some 1, some 1, some 2, some 4, some 2, some 3, some 1, some 4, none, some 2] := by decide +kernel
-- R352: L3 and L4 together give L2.
theorem test_an_episode_widens :
    (after (.resetEpisodeWiden 13) { on with rst := { on.rst with episode := some { reach := 3, sources := 0x0400 }, asserted := 0x0400 } }).rst.episode
      = some { reach := 2, sources := 0x2400 } := by decide +kernel
-- R427: modes wrap, saturate and wrap with a flag.
theorem test_counter_modes :
    counterAdd { value := 2 ^ 48 - 1, dflt := (0, 0) } 2 = ({ value := 1, dflt := (0, 0) }, false)
      ∧ (counterAdd { value := 2 ^ 48 - 1, dflt := (0, 1) } 2).1.value = 2 ^ 48 - 1
      ∧ (counterAdd { value := 2 ^ 48 - 1, dflt := (0, 2) } 2).2 = true := by decide +kernel
-- R389: the two values of the watchdog, in turn.
theorem test_wdt_first_value : (after (.safWdtKick 0x5A3C) on).saf.wdtFirst = false ∧ (after (.safWdtKick 0x5A3C) on).rst.episode = none := by
  decide +kernel
theorem test_wdt_wrong_value : (after (.safWdtKick 0xC3A5) on).rst.episode = some { reach := 2, sources := 0x0200 } := by decide +kernel
-- R349: 1 us and more is not rejected; under 100 ns nothing happens.
theorem test_short_phase_is_filtered : after (.porstNLow 99) on = on := by decide +kernel
-- R323: an attention pulse raises PEER.
theorem test_attention_pulse :
    (after (.peerIntPulse 5000) on).intr.stat = 0x0020 ∧ (after (.peerIntPulse 50000) on).pair.glitches = 1 := by decide +kernel
-- R218: one REF clock period is 10 ns.
theorem test_idle_step_counts_the_clock : step on = .next { on with clk := 10 } := rfl


/-! Witnesses of the other clauses: what holds where a row does nothing or takes its other way. -/

theorem witness_TransportRegistersTakeEffect_otherwise :
    lockedDirect 0x114 4 on = false ∧ lockedDirect 0x11C 4 on = false ∧ lockedDirect 0x110 4 on = false ∧ pcieUp State.reset = false
      ∧ bit (0x80000000 : Word).toNat 31 = true ∧ bit (0x7FFFFFFF : Word).toNat 31 = false ∧ ringActive 1 on = false
      ∧ ringActive 1 (setCmdRing 1 { enable := true } on) = true
      ∧ reaches .xspi 0x140 4 on = true ∧ on.cmd.reqBusy = false ∧ ({ on.cmd with reqBusy := true } : Cmd).reqBusy = true
      ∧ reaches .xspi 0x140 4 State.reset = false ∧ bit (0 : Word).toNat 0 = false ∧ reaches .xspi 0x9000 64 on = true
      ∧ reaches .xspi 0x9000 64 State.reset = false := by decide +kernel
theorem witness_TransportAndTimedEvents_otherwise :
    (opWorlds (0x0001 : Word16).toNat).isSome = true ∧ tagTransport (packet []).tag = 0x10
      ∧ (let e : InFlight := { cmd 0x0001 [] with via := .inBand 0 1 none, packet := { packet [] with tag := 0x2F05 } }
         sessionBusy 15 { on with cmd := { on.cmd with inflight := [e] } } = true)
      ∧ on.cmd.sessions.lookup 15 = none ∧ lockedDirect 0x18 4 on = false ∧ on.hst.xspi.posted = []
      ∧ (let e : InFlight := { timed 0x0303 (bytesOf 12 []) with phase := .armed }
         e.phase = .armed ∧ clusterServes on = true ∧ e.phase ≠ .committed ∧ (cmd 0x0303 []).instant = none)
      ∧ findTag on 0x1005 = none ∧ clusterServes State.reset = false := by decide +kernel
theorem witness_RegisterAndIntStatWrites_otherwise :
    reaches .f3 0xFFFC 4 on = true ∧ reaches .f0 0 4 State.reset = false ∧ reaches .xspi 0x0002 4 on = true ∧ viewFn .xspi = none
      ∧ restricted .f3 = true ∧ viewFn .f3 = some 3
      ∧ (BitVec.ofNat 16 (0x440 + 4 * (10 : Fin 11).val)).toNat = 0x468 ∧ reaches .f0 0x468 4 on = true ∧ reaches .f1 0x468 4 on = true
      ∧ reaches .xspi 0x468 4 on = true ∧ (0x1000 : Word).toNat &&& 0xF3F = intRoute on 10 % 4096
      ∧ viewFn .f1 = some (1 : Fin 2).val ∧ reaches .f1 0x1808 4 on = true ∧ reaches .xspi 0x1400 4 on = true
      ∧ reaches .f0 0x1C00 4 on = true ∧ reaches .f2 (0x1040 + 4 * (11 : Fin 12).val) 4 on = true
      ∧ reaches .f0 (0x1C4C + 16 * (3 : Fin 4).val) 4 on = true ∧ reaches .f0 0x400 4 on = true ∧ restricted .f0 = false := by decide +kernel
theorem witness_XspiAccesses_otherwise :
    (let s0 := setXspi { on.hst.xspi with current := none } on
     reaches .xspi 0x9000 (4 * 1024) s0 = true ∧ xspiBadAccess 0xFFFF 1 = true)
      ∧ (1 : Nat) < 1024
      ∧ (setXspi { on.hst.xspi with burstThrough := true } on).hst.xspi.burstThrough = true
      ∧ reaches .xspi 0 4 (setXspi { State.reset.hst.xspi with current := none } State.reset) = false ∧ viewUp .xspi State.reset = false
      ∧ on.hst.xspi.current = none
      ∧ (let b : XspiBurst := { base := 0x9000, words := List.replicate 16 0, start := 0x9000 }
         (setXspi { on.hst.xspi with current := some b } on).hst.xspi.current = some b)
      ∧ (0xF9 : Byte) = ~~~ 6 := by decide +kernel
theorem witness_PcieRingsAndFrames_otherwise :
    pcieUp State.reset = false ∧ ({ reach := 3, sources := 0 } : Episode).reach ≥ 3 ∧ ({ reach := 2, sources := 0 } : Episode).reach ≤ 2
      ∧ (vector on 3 63).pending = false ∧ (vector on 3 63).again = false
      ∧ (vector (setVector 3 63 { pending := true, again := true } on) 3 63).pending = true
      ∧ (vector (setVector 3 63 { pending := true, again := true } on) 3 63).again = true
      ∧ lockedDirect (0xC00 + 16 * 15) 16 on = false ∧ lockedDirect (0xD00 + 16 * 15) 16 on = false
      ∧ (hstRing on false 15).owner = none ∧ (hstRing on false 15).owner ≠ some 3
      ∧ (let r : HstRing := { owner := some 3, enable := true, size := 0 }
         hstEntries r ≤ 4095 % 4096 ∧ ({ r with enable := false } : HstRing).enable = false)
      ∧ internalWaits 28 on = false ∧ forwarding State.reset.sys.mode = false
      ∧ writebackDue { index := 0, bytes := [] } on = false ∧ (hstRing on false 15).work = []
      ∧ ({ frame with oversize := true } : Frame).oversize = true
      ∧ destAt { frame with dests := [{ port := 28, seq := 0, spoil := true }] } 28 = some { port := 28, seq := 0, spoil := true }
      ∧ frame.ended = false ∧ (egress on 28).sending = none ∧ frameOf on 7 = none := by decide +kernel
theorem witness_FramesThroughTheLanes_otherwise :
    isPause frame.content = false ∧ isPause (bytesOf 60 [(12, 0x88), (13, 0x08), (15, 1)]) = true ∧ portUp on 27 = false
      ∧ bit (raisedMask on 29) (mpClass on frame.content) = false
      ∧ bit (raisedMask { on with bsn := { on.bsn with raised := [(29, 255)] } } 29) (mpClass on frame.content) = true
      ∧ (passReady on frame = false ∨ laneTurn on 0 = some 7) ∧ slotIsRps on 0 = false
      ∧ (let s := { withFrame { frame with ended := true } with frames := [(6, { frame with ended := true, inPort := 8 }), (7, { frame with ended := true })] }
         passReady s { frame with ended := true } = true ∧ laneTurn s 0 = some 7 ∧ laneTurn s 0 ≠ some 6 ∧ laneWaiting s 0 ≠ [])
      ∧ (let s := { withFrame { frame with phase := .rinse, ended := true } with lanes := { on.lanes with slot := [(7, 3)] } }
         laneOf s 31 = 7 ∧ Tab.get s.lanes.slot (laneOf s 31) 0 = 3 ∧ slotIsRps s 7 = true)
      ∧ laneWaiting on (laneOf on 31) = [] ∧ rpFirst on = none
      ∧ frameOf on 7 = none ∧ on.lanes.other ≠ 1 := by decide +kernel
/-- Section 0x000E whose port 0 has a SecY that validates all it receives, with replay protection and one receive channel. -/
def secySec : Bytes := bytesOf 2048 [(65, 64), (66, 0), (67, 6), (64 + 12, 1), (64 + 13, 48), (64 + 30, 1)]
/-- A frame with a SecTAG that names its SCI, of AN 0 and PN 0. -/
def tagged : Bytes := bytesOf 64 [(12, 0x88), (13, 0xE5), (14, 0x20)]
/-- A frame of the expected PN without user data, under the zero key of 128 bits: its SecTAG and the ICV of GCM. -/
def sealed : Bytes :=
  bytesOf 28 [(12, 0x88), (13, 0xE5), (14, 0x20), (19, 1)] ++ [40, 52, 29, 231, 157, 168, 16, 136, 1, 102, 119, 144, 89, 10, 19, 125]
/-- The block with that SecY and one receive SA that expects PN 1. -/
def withSecY : State := { withImage [(14, secySec)] with ports := [(0, { rxSas := [(0, { pn := 1, enabled := true })] })] }

theorem witness_FramesThroughTheLanes_without_secy : secyReceive on 0 frame.content = .asIs := by rfl
theorem witness_FramesThroughTheLanes_untagged :
    (match secyReceive withSecY 0 frame.content with
      | .unserved k drop => decide (k = 1) && drop
      | _ => false) = true
      ∧ frame.wireLen ≤ (portCfg withSecY 0).maxFrame := by decide +kernel
theorem witness_FramesThroughTheLanes_late :
    (match secyReceive withSecY 0 tagged with
      | .fails k late drop => decide (k = 0) && late && drop
      | _ => false) = true := by decide +kernel
theorem witness_FramesThroughTheLanes_valid :
    (match secyReceive withSecY 0 sealed with
      | .valid c k => decide (c = bytesOf 12 []) && decide (k = 0)
      | _ => false) = true := by decide +kernel

theorem witness_TablesAgeAndTimersRun_otherwise :
    on.bsn.learned.lookup (learnKey 4095 (2 ^ 48 - 1)) = none ∧ on.fwl.conns.lookup 65535 = none
      ∧ ({ on with bsn := { on.bsn with scrubRow := 65535 } } : State).bsn.scrubRow + 1 = 65536 ∧ on.bsn.scrubRow + 1 ≠ 65536
      ∧ on.fwl.suspended = false ∧ ((none : Option Word64).map BitVec.toNat).getD on.fwl.ref3 = on.fwl.ref3 ∧ on.fwl.ref4 = none
      ∧ ({ on.fwl with suspended := true } : Fwl).suspended = true ∧ forwarding State.reset.sys.mode = false
      ∧ (let s := withImage [(8, bytesOf 128 [(0, 1), (66, 10), (68, 1), (72, 1), (78, 1), (80, 1)])]
         (recoveryOf s 0 0).takeAny = true ∧ (recoveryOf s 0 0).resetAt + fieldLe ((liveSection s 8).getD []) 80 4 * 1000000 = 1000000
           ∧ bit (fieldLe ((liveSection s 8).getD []) 68 4) 1 = false
           ∧ (reachClock ((recoveryOf s 0 0).testedAt + fieldLe ((liveSection s 8).getD []) 78 2 * 1000000) { s with clk := 5 }).clk = 1000000
           ∧ ¬ ((0 : Int) - (-1) ≤ (fieldLe ((liveSection s 8).getD []) 76 2 : Int)))
      ∧ frerEntry on 2047 = none := by decide +kernel

theorem witness_FlowControl_otherwise :
    (let b := bytesOf 64 [(12, 0x88), (13, 0x08), (14, 1), (15, 1), (17, 0x80), (32, 0xFF), (33, 0xFF)]
     fieldBe b 12 2 = 0x8808 ∧ fieldBe b 14 2 = 0x0101 ∧ fieldBe b 16 2 = 2 ^ 7 ∧ fieldBe b (18 + 2 * 7) 2 = 0xFFFF)
    ∧ fieldBe (bytesOf 64 []) 12 2 ≠ 0x8808
    ∧ (egress on 27).pausedTill.lookup (pauseKey none) = none ∧ raisedMask on 27 = 0 ∧ fcMode on 27 ≠ 1 ∧ (egress on 0).pausedFrom.lookup (pauseKey (some 7)) = none
    ∧ (let s := withEgress 0 { pausedFrom := [(7, 1)], stuckAt := [(7, 100000001)] }
       (egress s 0).stuckAt.lookup (pauseKey (some 7)) = some 100000001)
    ∧ (let s := { withImage [(6, bytesOf 400 [(130 + 8 * 26, 1)])] with bsn := { on.bsn with raised := [(26, 1)] } }
       fcMode s 26 = 1 ∧ raisedMask s 26 ≠ 0)
    ∧ (egress (withEgress 24 { plcaHold := true }) 24).plcaHold = true ∧ (egress on 24).plcaHold = false := by decide +kernel
theorem witness_EgressEvents_otherwise :
    (let d : Dest := { port := 3, seq := 5, plane := some 1 }
     let f := { frame with phase := .forwarded, ended := true, dests := [d] }
     let s := { withFrame f with bsn := { on.bsn with planes := [(1, [.frame 3 7 1])] } }
     frameOf s 7 = some f ∧ destAt f 3 = some d ∧ d.phase = .crossing ∧ hasCrossed on 7 3 f d = false
       ∧ hasCrossed s 7 3 f d = true
       ∧ pinnedRule s {} (frameCls f) = false)
    ∧ isNextOn { on with bsn := { on.bsn with planes := [(3, [.notice 3 4 5 65535])] } } (.notice 3 4 5 65535) = true
    ∧ isNextOn on (.notice 3 4 5 65535) = false
    ∧ (pressOf on 3 4 5).waitFrom = none
    ∧ (plcaTurn 24 on).isSome = true
    ∧ (plcaTurn 24 { withPort 24 { st := .up, plca := 1 } with egr := { on.egr with ports := [(24, { plcaHold := true })] } }).isNone = true
    ∧ gptpLeaving on 3 = none
    ∧ (let x : Sending := { frame := 7, startClk := 0, left := 0, preemptible := false }
       let m : GptpTx := { kind := 0, number := 0, seq := 0, fields := [], next := .done }
       let s := { withFrame { frame with ended := true, gptp := some m } with egr := { on.egr with ports := [(3, { sending := some x })] } }
       (gptpLeaving s 3).isSome = true)
    ∧ clusterServes State.reset = false ∧ gateBlock on 3 = none
    ∧ (egress on 3).preempt ≠ 2 ∧ hasLaunch 27 = false ∧ (egress on 3).preempt ≠ 1 ∧ portUp on 27 = false := by decide +kernel
theorem witness_ImageSwitchesAndPace_otherwise :
    on.img.armed = none ∧ ({ on with fwl := { on.fwl with st := 1 } } : State).fwl.st ≠ 0 ∧ runMode State.reset.sys.mode = false
      ∧ on.img.pending = none ∧ swapDue none on = true ∧ on.lanes.refreshDue = false ∧ on.lanes.refreshAt = none
      ∧ awaitsSync 0x1005 { on with pair := { on.pair with relayed := [0x1005] } } = true ∧ on.sys.autonomousTag = none
      ∧ ({ on with sys := { on.sys with mode := .autonomous } } : State).sys.mode ≠ .configured
      ∧ (let s := { withImage [(3, [1])] with fwl := { on.fwl with st := 1 }, img := { (withImage [(3, [1])]).img with activeMark := some 0 } }
         (revertSections s).contains 3 = true)
      ∧ on.fwl.st ≠ 1 ∧ refRuns on = true ∧ refRuns { on with sys := { on.sys with mode := .standby } } = false
      ∧ ({ on with img := { on.img with paceCal := 0 } } : State).img.paceCal = 0
      ∧ Nat.min 65535 (Nat.min (Nat.min 4095 4096) (Nat.min 4096 4096) * 4096 / on.img.paceCal) < 4096
      ∧ Nat.min 65535 (Nat.min (Nat.min 4096 4096) (Nat.min 4096 4096) * 4096 / on.img.paceCal) = 4096 := by decide +kernel
theorem witness_GptpRows_otherwise :
    clusterServes State.reset = false ∧ domainsOf on 255 = []
      ∧ (let s := withImage [(15, timeSec 0)]
         measurePort (takeAutoSlave 3 0 s) 0 ≠ 3 ∧ measurePort (takeAutoSlave 27 0 s) 0 = 27 ∧ (dom s 0).pendingSync = none)
      ∧ (let s := { withImage [(15, timeSec 0)] with ports := [(27, { st := .up })] }
         (gptpPorts s).contains 27 = true ∧ (gptpPorts s).contains 26 = false
           ∧ (3 : Word16).toNat ≠ (delay { s with time := { s.time with delays := [(27, { seq := 4 })] } } 27).seq
           ∧ (delay s 27).t1 = none ∧ (delay s 27).resp = none ∧ (delay s 27).prev = none)
      ∧ (delay { on with time := { on.time with delays := [(27, { seq := 4, t1 := some 1, resp := some (9, 5) })] } } 27).resp = some (9, 5)
      ∧ (let s := withImage [(15, timeSec 1)]
         ¬(isGrandmaster on 0 = true ∧ (dom on 0).st = .locked) ∧ (domCfg s 0).source = 1 ∧ (dom s 0).fallback = false)
      ∧ (dom { on with time := { on.time with doms := [(0, { st := .holdover })] } } 0).st = .holdover
      ∧ (dom on 0).lastValid = none ∧ (dom on 0).st ≠ .disabled := by decide +kernel
theorem witness_TimePins_otherwise :
    ppsOutOn on = false ∧ on.time.ppsOut = false ∧ (99 : Nat) < 100
      ∧ (let s := { withImage [(15, bytesOf 512 [(112, 1), (113, 1)])] with time := { on.time with tsync := [(3, { last := some 0, fifo := List.replicate 16 [] })] } }
         timeField s (64 + 16 * 3) 1 0 = 1 ∧ bit (timeField s (64 + 16 * 3 + 1) 1 0) 0 = true ∧ bit (timeField s (64 + 16 * 3 + 1) 1 0) 1 = false
           ∧ (tsync s 3).last = some 0 ∧ s.clk < 0 + 100 ∧ ¬ ({ s with clk := 100 } : State).clk < 0 + 100 ∧ 16 ≤ (tsync s 3).fifo.length)
      ∧ timeField on 64 1 0 ≠ 2 ∧ (tsync on 0).high = false ∧ on.time.w.mode ≠ .slew
      ∧ ({ on.time.w with ignored := 2 } : WClock).ignored ≠ 0 ∧ on.rst.invalid.contains .vddCore = true := by decide +kernel

theorem witness_SeamInstructions_otherwise :
    (engineOf { on with leg := { on.leg with engines := [(3, { stopped := true })] } } 3).stopped = true ∧ (engineOf on 3).run = none
      ∧ seamWord { seamRunOf 0 with pc := 1 } = none ∧ seamOp (0x1C * 2 ^ 26) ≠ 0x1B ∧ seamImm (0x13 * 2 ^ 26 + 1) = 1 := by decide +kernel
theorem witness_CanChannels_otherwise :
    legRuns State.reset = false
      ∧ (chOf (withCh 63 { st := 1, onBus := some item, restart := true } on) 63).restart = true
      ∧ (chOf (withCh 63 { st := 1, onBus := some item } on) 63).onBus = some item ∧ (chOf on 63).onBus = none
      ∧ canLenOk 0 9 = false ∧ (chOf on 63).st ≠ 1 ∧ (chOf on 63).st ≠ 2 ∧ (chOf (withCh 63 { st := 2, tec := 127, recv := 128 } on) 63).tec < 128
      ∧ ¬ (chOf (withCh 63 { st := 2, tec := 127, recv := 128 } on) 63).recv < 128 ∧ (chOf (withCh 48 { st := 3 } on) 48).recovering = false
      ∧ (chOf (withCh 48 { st := 4, rateKept := true } on) 48).rateKept = true := by decide +kernel
theorem witness_LinAndFlexRay_otherwise :
    (let s := withCh 71 { st := 1, slotAt := 1, awaiting := some 5 } (withImage [(13, bytesOf 4096 [(2, 128), (576 + 32 * 7, 1)])])
     (chOf (busWorks 71 s) 71).slotAt ≠ 0 ∧ (chOf (busWorks 71 s) 71).awaiting.isSome = true)
    ∧ linMaster on 64 = false ∧ legRuns State.reset = false
    ∧ (let s := withCh 64 { st := 1, awaiting := some 63 } on
       linFits (setCh 64 { chOf s 64 with awaiting := none } s) 64 63 [9] (linChecksum true 63 [9]) = true
         ∧ linFits (setCh 64 { chOf s 64 with awaiting := none } s) 64 63 [] 0 = false)
    ∧ (chOf on 64).awaiting ≠ some 63 ∧ (chOf on 64).st ≠ 1 ∧ chReceives (chOf on 72) = false ∧ chConfigured on 72 = false
    ∧ (let s := withCh 72 { st := 2, recovering := true } (withImage [(13, bytesOf 4096 [(3, 1)])])
       legRuns s = true ∧ chConfigured s 72 = true ∧ (chOf (busWorks 72 s) 72).st = 2)
    ∧ (chOf on 72).st ≠ 1 ∧ (chOf on 72).st ≠ 2 ∧ (chOf on 72).st ≠ 3 := by decide +kernel
theorem witness_GatewayEvents_otherwise :
    (let c : LegCh := { store := [item], tx := [item] }
     (c.store ++ c.tx)[1]? = some item ∧ c.store.length ≤ 1 ∧ 0 < c.store.length ∧ (c.store ++ c.tx)[2]? = none)
    ∧ (let s := { on with leg := { on.leg with frRx := [(0, item)] } }
       s.leg.frRx[0]? = some (0, item) ∧ s.leg.frRx[1]? = none)
    ∧ (Tab.get on.leg.bundles 1023 {}).messages = []
    ∧ (frameChannels { frame with channels := 1 }).all (channelTakes on) = true
    ∧ (egress on 30).sending = none ∧ frame.ended = false
    ∧ (engineOf on 3).jobs.head? = none ∧ legRuns State.reset = false
    ∧ (let s := withCh 48 { st := 1, tx := List.replicate 128 item } on
       channelTakes s 48 = false ∧ jobReady s (.fromEth (bytesOf 48 [(2, 48)]) [] 0 0 0) = false) := by decide +kernel

theorem witness_WakeEvents_otherwise :
    bit (wakeEn (updWake (fun w => { w with wakeIn := true, idleFrom := 0 }) on)) 0 = true
      ∧ bit (lwakeKeep (withWake { settings := some (bytesOf 12 [(5, 8)]) } on)) 3 = true
      ∧ bit (wakeEn (withWake { settings := some (bytesOf 12 [(5, 8)]) } on)) (3 + 1) = false ∧ bit (lwakeKeep on) 3 = false
      ∧ on.wake.wakeOut = false ∧ on.wake.requestAt = none ∧ on.wake.hold = none
      ∧ (segOf (withWake { segs := [(31, { hold := some 4 })] } on) 31).hold = some 4 ∧ (segOf on 31).hold = none := by decide +kernel
theorem witness_DuskRing_otherwise :
    (let s := asleepIn { ring := .initiating, round := (3, 1) }
     duskPair (dusk 2) = s.wake.round ∧ s.wake.ring ≠ .consented ∧ duskPair (bytesOf 48 [(0, 1), (1, 2), (3, 1), (7, 4), (8, 1), (10, 2)]) ≠ s.wake.round
       ∧ duskAccepted s (bytesOf 48 [(0, 1), (1, 2), (3, 1), (7, 4), (8, 1), (10, 2)]) = true)
    ∧ (dusk 4).length = 48 ∧ (bytesOf 47 []).length ≠ 48 ∧ byteAt (dusk 1) 1 ≠ 2 ∧ ringMember on = false
    ∧ (let s := { asleepIn { ring := .quiet } with sys := { on.sys with mode := .autonomous } }
       s.sys.mode = .autonomous ∧ duskServed s = true ∧ byteAt (dusk 4) 0 = 1)
    ∧ on.wake.ring ≠ .consented ∧ on.wake.ring ≠ .initiating ∧ on.wake.ring ≠ .quiet ∧ duskServed State.reset = false := by decide +kernel
theorem witness_SegmentEvents_otherwise :
    (let sec := bytesOf 2048 [(0, 255), (3, 15), (64 + 64 * 27 + 1, 48)]
     let s := { withImage [(14, sec)] with ports := [(27, { st := .up })] }
     bit (portCfg s 27).flags 5 = true ∧ (egress s 27).queues.all (fun q => q.2.isEmpty) = true
       ∧ (egress { s with egr := { on.egr with ports := [(27, { queues := [(0, [7])] })] } } 27).queues.all (fun q => q.2.isEmpty) = false)
    ∧ (port on 27).tc10 ≠ 2
    ∧ (let s := { asleepIn { segs := [(0, { st := .asking })] } with ports := [(27, { st := .up, tc10 := 2 })] }
       segOfPort s 27 = some 0 ∧ (segOf s 0).st = .asking ∧ s.wake.down = false)
    ∧ (let s := withWake { down := true, tc10Ports := 2 ^ 27 } (withPort 27 { st := .asleep })
       bit s.wake.tc10Ports 27 = true ∧ bit (wakeEn (withWake { down := true, settings := some (bytesOf 12 []) } on)) 6 = false)
    ∧ (let s := { asleepIn { segs := [(0, { st := .asleep })] } with ports := [(27, { st := .asleep })] }
       segOfPort s 27 = some 0 ∧ (port s 27).st = .asleep ∧ bit (segField s 0 8 1) 1 = false)
    ∧ (port on 27).st ≠ .asleep
    ∧ (let s := withWake { down := true } on
       bit (canWakeMask s) 15 = true ∧ bit (wakeEn s) 5 = true ∧ bit (wakeEn (withWake { down := true, settings := some (bytesOf 12 []) } on)) 5 = false)
    ∧ segOfChannel on 63 = none ∧ segCount on = 0 := by decide +kernel
theorem witness_PortEvents_otherwise :
    (let s := { withImage [(14, bytesOf 2048 [(1, 8), (64 + 64 * 11, 0x13), (64 + 64 * 11 + 9, 4)])] with ports := [(11, { st := .training, mode := 0x13, pcsLock := true, phyLink := true })] }
     hasPhy s 11 = true ∧ (port s 11).phyLink = true ∧ (port s 11).st = .training ∧ (port s 11).pcsLock = true)
    ∧ reportedRate 0x13 255 = none ∧ (port on 27).st ≠ .training
    ∧ portType 7 = 0 ∧ (port on 7).coeff ≠ 1 ∧ (port (withPort 11 { searchDone := true }) 11).searchDone = true
    ∧ hasPhy on 11 = false
    ∧ (let s := withPort 24 { st := .up, plca := 1 }
       (port s 24).plca = 1 ∧ portType 24 = 3) ∧ (port on 24).plca = 0
    ∧ (let s := withPort 24 { st := .up, plca := 3 }
       (port s 24).plca ≠ 0 ∧ (port s 24).plca ≠ 1 ∧ (port s 24).plca ≠ 2) := by decide +kernel
theorem witness_ReachesNest_at_the_ends :
    reachCovers (2 : Fin 5).val (3 : Fin 5).val = true ∧ reachCovers (2 : Fin 5).val (4 : Fin 5).val = true ∧ reachCovers 3 4 = false := by decide
theorem witness_ResetSources_otherwise :
    sourceReach 13 on = some 4 ∧ sourceReach 14 { on with otp := { on.otp with rstReach := 0 } } = none
      ∧ ({ on with rst := { on.rst with exit := some 4 } } : State).rst.exit.map (fun x => coverReach x 3) = some 2
      ∧ (99 : Nat) < 100 ∧ State.reset.sys.clusterUp = false
      ∧ (let s := { on with rst := { on.rst with asserted := 0x0040, episode := some { reach := 2, sources := 0x0040 } } }
         let u := if mayRelease 6 s = true then dropSource 6 s else s
         u.rst.episode = some { reach := 2, sources := 0x0040 } ∧ u.rst.asserted = 0 ∧ u.sys.mode ≠ .standby)
      ∧ (let s := { on with sys := { on.sys with mode := .standby }, wake := { on.wake with inh := false } }
         s.sys.mode = .standby ∧ s.wake.inh = false ∧ { on.wake with inh := true }.inh = true)
      ∧ ({ reach := 4, sources := 0 } : Episode).reach < 5 := by decide +kernel
theorem witness_StartAndActivation_otherwise :
    on.sys.clusterUp = true ∧ on.rst.exit = none ∧ on.rst.updReset = false ∧ on.rst.lcReset = false
      ∧ State.reset.rst.episode.isSome = true ∧ on.sys.mode ≠ .boot
      ∧ ({ on with rst := { on.rst with exit := some 3 } } : State).rst.exit = some 3 := by decide +kernel
theorem witness_CoreEvents_otherwise :
    votes State.reset = false ∧ ¬ 2 ≤ (votingCores { on with saf := { on.saf with cores := [(1, { masked := true }), (2, { masked := true })] } }).length
      ∧ (votingCores { on with saf := { on.saf with cores := [(2, { masked := true })] } }).contains 2 = false
      ∧ ({ on with rst := { on.rst with episode := some { reach := 2, sources := 1 } } } : State).rst.episode.isSome = true
      ∧ (let c : Core := { masked := true, testing := true, faults := [0, 1] }
         2 ≤ (c.faults.filter (fun t => decide ((0 : Nat) < t + 3600000000000))).length
           ∧ (c.faults.filter (fun t => decide ((3600000000001 : Nat) < t + 3600000000000))).length < 2)
      ∧ on.sys.split = false ∧ (coreUnit on 0).testing = false := by decide +kernel
theorem witness_SafetyMonitors_otherwise :
    mayKick State.reset = false ∧ (200000001 : Nat) - on.saf.wdtAt > 200000000 ∧ (0x5A3C : Word16) ≠ 0xC3A5 ∧ on.saf.esmAck = false
      ∧ (1999 : Nat) < 2000 ∧ (10000 : Nat) < 10001 ∧ (79999 : Nat) < 80000 ∧ ({ on.saf with wdtRuns := false } : Saf).wdtRuns = false
      ∧ forwarding State.reset.sys.mode = false := by decide +kernel
theorem witness_SupplyEvents_otherwise :
    (let s := { on with rst := { on.rst with invalid := [.vddCore] } }
     s.rst.invalid.contains .vddCore = true ∧ s.rst.invalid.contains .vbkp = false) ∧ (.vddMram : Supply) ≠ .vbkp
      ∧ on.wake.down = false ∧ ({ on with rst := { on.rst with episode := some { reach := 1, sources := 1 } } } : State).rst.episode ≠ none := by
  decide +kernel
theorem witness_MirrorLinkAndTakeover_otherwise :
    mlOpen State.reset = false ∧ on.pair.mlUp = false ∧ on.pair.hlthIn = false ∧ on.pair.peerKnown = false
      ∧ (let s := { paired true with pair := { (paired true).pair with mlUp := false, hlthIn := false, mlLostAt := some 3, hlthLostAt := some 4 } }
         conclude s = .partitioned ∧ s.pair.st ≠ .frozen ∧ s.pair.standby = true ∧ s.sys.straps.secondary = false)
      ∧ conclude (paired true) = .healthy ∧ (paired true).pair.partsAbsentSince = none
      ∧ ({ (paired true).pair with partsAbsentSince := some 2, peerBadSince := some 3 } : Pair).partsAbsentSince = some 2
      ∧ (paired false).pair.standby = false := by decide +kernel
/-- A SYNC of cycle 1 that is complete and carries nothing. -/
def aFullSync : SyncFrame := { cycle := 1, cluster := none, ct := [], generators := [], recoveries := [], meters := [], counters := [], complete := true }
theorem witness_CycleProtocol_otherwise :
    mlOpen State.reset = false ∧ darnLoaded (paired true) = false
      ∧ darnLoaded { paired true with pair := { (paired true).pair with st := .joining, darnCopied := true } } = true
      ∧ (paired true).pair.st ≠ .alone ∧ on.pair.st = .alone ∧ (paired true).pair.st = .paired ∧ on.pair.st ≠ .paired
      ∧ (paired false).pair.standby = false ∧ (paired false).pair.switchTag = none
      ∧ aFullSync.complete = true ∧ aFullSync.cluster = none ∧ aFullSync.ct = [] ∧ (paired true).pair.syncPoint < aFullSync.cycle := by decide +kernel
theorem witness_BridgeEvents_otherwise :
    clusterServes State.reset = false ∧ on.pair.mlUp = false ∧ on.pb.lock = none ∧ on.pb.open_ = []
      ∧ (let r : PbInbound := { id := 1, addr := 0, size := 4, kind := .lockingRead, posted := false, data := [], world := 0, rangeBase := 64, rangeSize := 64 }
         let o : PbOpen := { id := 9, window := 0, access := { addr := 0, size := 4, kind := .read, data := [], world := 0 }, far := 0, posted := false, tag := none }
         let s := { paired false with pb := { on.pb with open_ := List.replicate 64 o, waiting := List.replicate 64 r } }
         collides r s = true ∧ r.kind = .lockingRead ∧ s.sys.straps.secondary = false
           ∧ ({ r with kind := .read } : PbInbound).kind ≠ .lockingRead
           ∧ ({ s.sys.straps with secondary := true } : Straps).secondary = true)
      ∧ (let l : PbLock := { base := 0, size := 64, since := 0 }
         ({ on with pb := { on.pb with lock := some l } } : State).pb.lock = some l)
      ∧ on.otp.lcState = .test ∧ State.reset.sys.clusterUp = false := by decide +kernel
theorem witness_CounterAndRecorderEvents_otherwise :
    (let c : Counter := { value := 2 ^ 48 - 1, dflt := (0, 1), sat := true }
     (counterConf c).2 = 1 ∧ c.sat = true)
    ∧ (let x : Snapshot := { instant := 9, automatic := false, tags := [] }
       let y : Snapshot := { instant := 10, automatic := false, tags := [] }
       ({ on with cnt := { on.cnt with armed := [y, x, y] } } : State).cnt.armed = [y] ++ x :: [y] ∧ x.instant < y.instant ∧ x.instant ≤ y.instant)
    ∧ (let s := { withImage [] with cnt := { on.cnt with autoPeriod := 10 } }
       isAutoInstant (boundaryFrom (wNow s) (baseNs s) (s.cnt.autoPeriod * cycleNs s)) s = true
         ∧ wNow s ≤ boundaryFrom (wNow s) (baseNs s) (s.cnt.autoPeriod * cycleNs s))
    ∧ on.cnt.armed = [] ∧ on.cnt.writing = none ∧ on.cnt.autoPeriod = 0 ∧ clusterServes State.reset = false
    ∧ clearPending { on with evr := { on.evr with clearing := some ([], 4, 3, none) } } = true
    ∧ ({ on with evr := { on.evr with clearing := some ([], 4, 3, none) } } : State).evr.clearing = some ([], 4, 3, none)
    ∧ on.evr.clearing = none ∧ on.evr.nonce = none ∧ on.evr.queue = [] ∧ (rootSecret on).isSome = false := by decide +kernel

end Sys2Proof.Tests
end

/-!
PROOFS. Sequence marks (R46): which shared operations leave them alone, what check 4 of R57 reads of them, and where a reply
carries the SEQUENCE of its command.
-/
namespace Sys2Proof.Machine

/-! Interrupts and records leave the command protocol alone. -/

@[simp] theorem sendVector_cmd (f v : Nat) (s : State) : (sendVector f v s).cmd = s.cmd := by
  unfold sendVector
  dsimp only
  split
  · rfl
  · split <;> rfl

@[simp] theorem signalSource_cmd (src : Nat) (s : State) : (signalSource src s).cmd = s.cmd := by
  unfold signalSource
  refine List.foldlRecOn (motive := fun u : State => u.cmd = s.cmd) _ _ rfl fun u hu f _ => ?_
  split
  · rw [sendVector_cmd, hu]
  · exact hu

@[simp] theorem raiseInt_cmd (src : Nat) (s : State) : (raiseInt src s).cmd = s.cmd := by
  unfold raiseInt
  dsimp only
  split
  · rfl
  · rw [signalSource_cmd]

@[simp] theorem settleClear_cmd (s : State) : (settleClear s).cmd = s.cmd := by
  unfold settleClear
  split
  · split <;> rfl
  · rfl

@[simp] theorem writeRecord_cmd (ty : Nat) (body : Bytes) (s : State) : (writeRecord ty body s).cmd = s.cmd := by
  unfold writeRecord
  dsimp only
  split
  · rw [settleClear_cmd]
  · split <;> exact settleClear_cmd s

/-! Replies leave the marks alone: they touch the rings, the mailbox, the tags in flight and the in-band sessions. -/

@[simp] theorem setCmdRing_marks (f : Nat) (r : CmdRing) (s : State) : (setCmdRing f r s).cmd.marks = s.cmd.marks := rfl

@[simp] theorem freeTag_marks (t : Word16) (s : State) : (freeTag t s).cmd.marks = s.cmd.marks := by
  unfold freeTag
  dsimp only
  split <;> rfl

@[simp] theorem writeCompletion_marks (f : Nat) (s : State) : (writeCompletion f s).cmd.marks = s.cmd.marks := by
  unfold writeCompletion
  dsimp only
  split
  · rfl
  · split
    · rfl
    · split <;> simp

@[simp] theorem drainCompletions_marks (n f : Nat) (s : State) : (drainCompletions n f s).cmd.marks = s.cmd.marks := by
  induction n generalizing s with
  | zero => rfl
  | succ n ih => rw [drainCompletions, ih, writeCompletion_marks]

@[simp] theorem deliver_marks (via : Via) (op : Nat) (p : Packet) (key : Bytes) (extra status detail : Nat) (result : Bytes)
    (frees : Bool) (s : State) : (deliver via op p key extra status detail result frees s).cmd.marks = s.cmd.marks := by
  cases via with
  | ring f idx max addr => exact drainCompletions_marks _ _ _
  | mailbox =>
    unfold deliver
    dsimp only
    split
    · rw [raiseInt_cmd]
    · rfl
  | inBand inPort src vlan => cases frees <;> simp [deliver]

@[simp] theorem interimReply_marks (e : InFlight) (s : State) : (interimReply e s).cmd.marks = s.cmd.marks := by
  unfold interimReply
  split
  · exact deliver_marks ..
  · rfl

/-! Acceptance raises one mark. -/

/-- Of the opcode rows only IMG_ACTIVATE does anything more at acceptance, and that is a journal record (R145). -/
theorem onAccept_cmd : ∀ x ∈ opcodeRows, ∀ (r : Req) (s : State), (x.1.onAccept r s).cmd = s.cmd := by
  simp only [opcodeRows, List.forall_mem_append, List.forall_mem_cons, List.not_mem_nil, false_implies, implies_true, and_true]
  and_intros
  -- The ninth row is IMG_ACTIVATE.
  on_goal 9 => exact fun r s => writeRecord_cmd 0x0001 (activateRecord r s) s
  all_goals exact fun _ _ => rfl

/-- The marks after acceptance, for an opcode whose own part of the acceptance leaves them alone (R46, R59). -/
theorem acceptCommand_marks (d : OpDef) (via : Via) (p : Packet) (r : Req) (s : State)
    (hd : ∀ u : State, (d.onAccept r u).cmd.marks = u.cmd.marks) :
    (acceptCommand d via p r s).cmd.marks
      = if credAuth p ∧ ¬r.dryrun then Tab.set s.cmd.marks (r.transport * 64 + r.slot) p.sequence.toNat else s.cmd.marks := by
  have own : ∀ u : State, (if r.dryrun then u else d.onAccept r u).cmd.marks = u.cmd.marks := by
    intro u
    split
    · rfl
    · exact hd u
  have interim : ∀ (b : Bool) (e : InFlight) (u : State), (if b then u else interimReply e u).cmd.marks = u.cmd.marks := by
    intro b e u
    cases b
    · exact interimReply_marks e u
    · rfl
  unfold acceptCommand
  dsimp only
  rw [interim, own]
  cases via <;> (dsimp only; split <;> rfl)

/-! Check 4 of R57 and the marks. -/

theorem tagInFlight_of_findTag_none {s : State} {t : Word16} (h : findTag s t = none) : tagInFlight s t = false := by
  have absent : ∀ e ∈ s.cmd.inflight, (e.packet.tag == t) = false := by simpa [findTag] using h
  exact List.any_eq_false.2 fun e he => by simp [absent e he]

theorem authFails_of_sequence_le_mark {d : OpDef} {p : Packet} {r : Req} {s : State} (ha : credAuth p = true)
    (hq : p.sequence.toNat ≤ Tab.get s.cmd.marks (r.transport * 64 + r.slot) 0) : authFails d p r s = true := by
  rw [authFails, if_pos ha, decide_eq_true hq, Bool.or_true]

/-- The first status among checks 1 to 5 is the verdict (R57). -/
theorem judge_of_earlyChecks {d : OpDef} {via : Via} {p : Packet} {s : State} {x : Nat × Nat × Bool}
    (h : earlyChecks d via p (reqOf via p s.clk) s = some x) : judge d via p s = some x := by
  unfold judge
  dsimp only
  rw [h]

/-- Where checks 1 to 3 of R57 pass an authenticated command and check 4 fails, the status is AUTH_FAIL. -/
theorem earlyChecks_authFail {d : OpDef} {via : Via} {p : Packet} {r : Req} {s : State} (hlen : p.length.toNat ≤ 4064)
    (hdis : lengthDisagrees via p = false) (htr : tagTransport p.tag = viaTransport via p.tag) (hfree : tagInFlight s p.tag = false)
    (hop : opWorlds d.code ≠ none) (hflags : p.flags.toNat / 16 = 0) (hcred : bits p.cred.toNat 0 21 = 0)
    (ha : credAuth p = true) (hf : authFails d p r s = true) : earlyChecks d via p r s = some (stAuthFail, 0, false) := by
  have lengthOk : ¬(4064 < p.length.toNat ∨ lengthDisagrees via p = true) := by simp [hdis, hlen]
  have tagOk : ¬(tagTransport p.tag ≠ viaTransport via p.tag ∨ tagInFlight s p.tag = true) := by simp [htr, hfree]
  have opcodeOk : ¬(opWorlds d.code).isNone = true := by simpa using hop
  have reservedOk : ¬(p.flags.toNat / 16 ≠ 0 ∨ bits p.cred.toNat 0 21 ≠ 0
      ∨ (¬credAuth p = true ∧ (credSlot p ≠ 0 ∨ (!allZero p.auth) = true))) := by simp [hflags, hcred, ha]
  rw [earlyChecks, if_neg lengthOk, if_neg tagOk, if_neg opcodeOk, if_neg reservedOk, if_pos hf]

/-- Check 4 reads the SEQUENCE of authenticated commands alone. -/
theorem authFails_sequence_of_not_auth (d : OpDef) (p : Packet) (q : Word) (r : Req) (s : State) (ha : credAuth p = false) :
    authFails d { p with sequence := q } r s = authFails d p r s := by
  have ha' : credAuth { p with sequence := q } = false := ha
  simp only [authFails, ha, ha', Bool.false_eq_true, if_false]

theorem judge_sequence_of_not_auth (d : OpDef) (via : Via) (p : Packet) (q : Word) (s : State) (ha : credAuth p = false) :
    judge d via { p with sequence := q } s = judge d via p s := by
  have early : ∀ r : Req, earlyChecks d via { p with sequence := q } r s = earlyChecks d via p r s := by
    intro r
    unfold earlyChecks
    rw [authFails_sequence_of_not_auth d p q r s ha]
    rfl
  unfold judge
  dsimp only
  rw [early]
  rfl

/-! SEQUENCE in a reply. -/

@[simp] theorem length_leBytes (n v : Nat) : (leBytes n v).length = n := by
  induction n generalizing v with
  | zero => rfl
  | succ n ih => rw [leBytes, List.length_cons, ih]

theorem slice_append_middle {a b c : Bytes} {off n : Nat} (ha : a.length = off) (hb : b.length = n) :
    slice (a ++ (b ++ c)) off n = b := by
  rw [slice, List.drop_left' ha, List.take_left' hb]

/-- Table 2.5: SEQUENCE takes bytes 12 to 15 of a reply. -/
theorem slice_replyBytes_sequence (s : State) (op : Nat) (p : Packet) (key : Bytes) (extra status detail : Nat) (result : Bytes)
    (max : Nat) : slice (replyBytes s op p key extra status detail result max) 12 4 = leBytes 4 p.sequence.toNat := by
  unfold replyBytes
  dsimp only
  rw [List.append_assoc, List.append_assoc]
  exact slice_append_middle (by simp only [List.length_append, length_leBytes]) (length_leBytes ..)

/-- Settles O12: check 4 reads the marks only for an authenticated command, acceptance sets the one mark of its transport and
slot, the start of the cluster empties them, and SEQUENCE stands at byte 12 of every reply. -/
theorem sequenceMarks : Obligations.SequenceMarks := by
  unfold Obligations.SequenceMarks
  refine ⟨?_, ?_, ?_, fun _ _ _ => rfl, slice_replyBytes_sequence⟩
  · intro d via p s hlen hdis htr hfree hop hflags hcred ha hq
    exact judge_of_earlyChecks (earlyChecks_authFail hlen hdis htr (tagInFlight_of_findTag_none hfree) hop hflags hcred ha
      (authFails_of_sequence_le_mark ha hq))
  · intro d via p q s ha
    exact judge_sequence_of_not_auth d via p q s ha
  · intro x hx via p s k hdry
    rw [acceptCommand_marks x.1 via p _ s fun u => by rw [onAccept_cmd x hx]]
    cases ha : credAuth p with
    | false => simp
    | true => simp [reqOf, hdry, Tab.get_set]

end Sys2Proof.Machine

/-!
PROOFS. Validity of actions (R110): what the tests on byte strings and bit masks, with which the model judges an action, say
of its bytes and bits.
-/
namespace Sys2Proof.Machine

/-! Byte strings: the range of a field, and runs of zero bytes. -/

theorem ofLe_lt (b : Bytes) : ofLe b < 256 ^ b.length := by
  induction b with
  | nil => exact Nat.one_pos
  | cons x xs ih =>
    have hx : x.toNat < 256 := x.isLt
    rw [ofLe, List.length_cons, Nat.pow_succ]
    omega

theorem fieldLe_lt (b : Bytes) (off n : Nat) : fieldLe b off n < 256 ^ n :=
  calc fieldLe b off n < 256 ^ (slice b off n).length := ofLe_lt _
    _ ≤ 256 ^ n := Nat.pow_le_pow_right (by decide) (List.length_take_le ..)

theorem byteAt_slice (b : Bytes) (off n k : Nat) : byteAt (slice b off n) k = if k < n then byteAt b (off + k) else 0 := by
  simp only [byteAt, slice, List.getD_eq_getElem?_getD, List.getElem?_take, List.getElem?_drop]
  split <;> rfl

theorem allZero_iff (b : Bytes) : allZero b = true ↔ ∀ k, byteAt b k = 0 := by
  induction b with
  | nil => simp [allZero, byteAt]
  | cons x xs ih =>
    have head : (x == 0) = true ↔ byteAt (x :: xs) 0 = 0 := by simp [byteAt, ← BitVec.toNat_inj]
    calc allZero (x :: xs) = true ↔ (x == 0) = true ∧ allZero xs = true := by rw [allZero, List.all_cons, Bool.and_eq_true]; rfl
      _ ↔ byteAt (x :: xs) 0 = 0 ∧ ∀ k, byteAt (x :: xs) (k + 1) = 0 := and_congr head ih
      _ ↔ ∀ k, byteAt (x :: xs) k = 0 :=
        @Nat.and_forall_add_one fun k => byteAt (x :: xs) k = 0

theorem zeroAt_iff (b : Bytes) (off n : Nat) : zeroAt b off n = true ↔ ∀ k, k < n → byteAt b (off + k) = 0 := by
  simp [zeroAt, allZero_iff, byteAt_slice]

/-! Table 4.11: the reserved bits of bytes 0 and 1 are bit 0 and bits 7 to 15, the ones of the mask 0xFF81. -/

theorem bit_zero_eq_false_iff (w : Nat) : bit w 0 = false ↔ w % 2 = 0 := by
  simp [bit]

theorem and_actionMask_eq_zero_iff {w : Nat} (hw : w < 65536) : w &&& 0xFF81 = 0 ↔ bit w 0 = false ∧ w < 128 := by
  have high : (w &&& 0xFF81) / 2 ^ 7 = w / 128 := by
    calc (w &&& 0xFF81) / 2 ^ 7 = w / 128 &&& (2 ^ 9 - 1) := Nat.and_div_two_pow
      _ = w / 128 % 2 ^ 9 := Nat.and_two_pow_sub_one_eq_mod ..
      _ = w / 128 := Nat.mod_eq_of_lt (by omega)
  have low : (w &&& 0xFF81) % 2 ^ 7 = w % 2 := by
    calc (w &&& 0xFF81) % 2 ^ 7 = w % 128 &&& 1 := Nat.and_mod_two_pow
      _ = w % 128 % 2 := Nat.and_one_is_mod _
      _ = w % 2 := Nat.mod_mod_of_dvd w (by decide)
  rw [bit_zero_eq_false_iff]
  omega

/-! The two tests of R110. -/

theorem actionOk_iff (nodes : Nat) (a : Bytes) :
    actionOk nodes a = true ↔
      bit (fieldLe a 0 2) 0 = false ∧ fieldLe a 0 2 < 128 ∧ byteAt a 2 < 32 ∧ byteAt a 3 < 8 ∧ byteAt a 4 < 16
        ∧ (∀ k : Nat, k < 8 → byteAt a (8 + k) = 0) ∧ bits (byteAt a 2) 3 2 ≠ 3
        ∧ (bit (fieldLe a 0 2) 3 = true → 1 ≤ byteAt a 4 ∧ byteAt a 4 ≤ 11 ∧ byteAt a 5 < nodes) := by
  have mask := and_actionMask_eq_zero_iff (fieldLe_lt a 0 2)
  have rinse (h4 : byteAt a 4 < 16) :
      (!bit (fieldLe a 0 2) 3 || (within 1 11 (byteAt a 4 % 16) && decide (byteAt a 5 < nodes))) = true ↔
        (bit (fieldLe a 0 2) 3 = true → 1 ≤ byteAt a 4 ∧ byteAt a 4 ≤ 11 ∧ byteAt a 5 < nodes) := by
    rw [Nat.mod_eq_of_lt h4]
    cases bit (fieldLe a 0 2) 3 <;> simp [within, and_assoc]
  simp only [actionOk, Bool.and_eq_true, beq_iff_eq, bne_iff_ne, mask, zeroAt_iff,
    Nat.div_eq_zero_iff_lt (by decide : 0 < 32), Nat.div_eq_zero_iff_lt (by decide : 0 < 8),
    Nat.div_eq_zero_iff_lt (by decide : 0 < 16)]
  constructor
  · rintro ⟨⟨⟨⟨⟨⟨⟨h0, h128⟩, h2⟩, hcolour⟩, h3⟩, h4⟩, h8⟩, hrinse⟩
    exact ⟨h0, h128, h2, h3, h4, h8, hcolour, (rinse h4).1 hrinse⟩
  · rintro ⟨h0, h128, h2, h3, h4, h8, hcolour, hrinse⟩
    exact ⟨⟨⟨⟨⟨⟨⟨h0, h128⟩, h2⟩, hcolour⟩, h3⟩, h4⟩, h8⟩, (rinse h4).2 hrinse⟩

theorem defaultActionOk_iff (nodes : Nat) (mal : Bool) {a : Bytes} (ha : allZero a = false) :
    defaultActionOk nodes mal a = true ↔
      actionOk nodes a = true ∧ bit (fieldLe a 0 2) 3 = false
        ∧ (mal = true → bit (fieldLe a 0 2) 2 = true ∨ bit (fieldLe a 0 2) 1 = true) := by
  simp only [defaultActionOk, ha, Bool.false_or, Bool.and_eq_true, Bool.or_eq_true, Bool.not_eq_true', and_assoc]
  cases mal <;> simp

/-- Settles O59: the mask of bytes 0 and 1, the quotients of bytes 2 to 4 and the zero run of bytes 8 to 15 are the reserved
bits of Table 4.11, and an action that is not all zero passes as a default action by the second alternative alone. -/
theorem validActions : Obligations.ValidActions := by
  unfold Obligations.ValidActions
  exact fun nodes a => ⟨actionOk_iff nodes a, fun mal ha => defaultActionOk_iff nodes mal ha⟩

end Sys2Proof.Machine

/-!
PROOFS. Reset episodes (R352, R354): the order of the reaches, and that what a reach resets leaves the episode's own record alone.
-/
namespace Sys2Proof.Machine

/-! The order of the reaches (R352). -/

theorem coverReach_eq (a b : Nat) : coverReach a b = if a = b then a else if min a b = 3 then 2 else min a b := rfl

/-- A level covers itself and the higher numbers, but for L3, which covers itself alone. -/
theorem reachCovers_iff (a b : Nat) : reachCovers a b = true ↔ a = b ∨ (a < b ∧ a ≠ 3) := by
  rw [reachCovers, beq_iff_eq, coverReach_eq]
  split_ifs <;> omega

theorem reachCovers_coverReach_left (a b : Nat) : reachCovers (coverReach a b) a = true := by
  rw [reachCovers_iff, coverReach_eq]
  split_ifs <;> omega

/-- The level found for two reaches is the narrowest: what covers both covers it. -/
theorem reachCovers_coverReach {a b c : Nat} (ha : reachCovers c a = true) (hb : reachCovers c b = true) :
    reachCovers c (coverReach a b) = true := by
  rw [reachCovers_iff] at ha hb ⊢
  rw [coverReach_eq]
  split_ifs <;> omega

/-! Interrupts, replies and records leave the reset block alone. -/

@[simp] theorem sendVector_rst (f v : Nat) (s : State) : (sendVector f v s).rst = s.rst := by
  unfold sendVector
  dsimp only
  split
  · rfl
  · split <;> rfl

@[simp] theorem signalSource_rst (src : Nat) (s : State) : (signalSource src s).rst = s.rst := by
  unfold signalSource
  refine List.foldlRecOn (motive := fun u : State => u.rst = s.rst) _ _ rfl fun u hu f _ => ?_
  split
  · rw [sendVector_rst, hu]
  · exact hu

@[simp] theorem raiseInt_rst (src : Nat) (s : State) : (raiseInt src s).rst = s.rst := by
  unfold raiseInt
  dsimp only
  split
  · rfl
  · rw [signalSource_rst]

@[simp] theorem freeTag_rst (t : Word16) (s : State) : (freeTag t s).rst = s.rst := by
  unfold freeTag
  dsimp only
  split <;> rfl

@[simp] theorem writeCompletion_rst (f : Nat) (s : State) : (writeCompletion f s).rst = s.rst := by
  unfold writeCompletion
  dsimp only
  split
  · rfl
  · split
    · rfl
    · split <;> simp

@[simp] theorem drainCompletions_rst (n f : Nat) (s : State) : (drainCompletions n f s).rst = s.rst := by
  induction n generalizing s with
  | zero => rfl
  | succ n ih => rw [drainCompletions, ih, writeCompletion_rst]

@[simp] theorem deliver_rst (via : Via) (op : Nat) (p : Packet) (key : Bytes) (extra status detail : Nat) (result : Bytes)
    (frees : Bool) (s : State) : (deliver via op p key extra status detail result frees s).rst = s.rst := by
  cases via with
  | ring f idx max addr => exact drainCompletions_rst _ _ _
  | mailbox =>
    unfold deliver
    dsimp only
    split
    · rw [raiseInt_rst]
    · rfl
  | inBand inPort src vlan => cases frees <;> simp [deliver]

@[simp] theorem finalReply_rst (t : Word16) (status detail : Nat) (result : Bytes) (s : State) :
    (finalReply t status detail result s).rst = s.rst := by
  unfold finalReply
  split
  · rfl
  · split_ifs <;> simp

@[simp] theorem record_rst (ty : Nat) (body : Bytes) (s : State) : (record ty body s).rst = s.rst := by
  unfold record
  split <;> rfl

@[simp] theorem noteBusy_rst (s : State) : (noteBusy s).rst = s.rst := rfl

@[simp] theorem withdrawalRecord_rst (t : Word16) (s : State) : (withdrawalRecord t s).rst = s.rst := by
  unfold withdrawalRecord
  split
  · rw [record_rst]
  · rfl

/-! The pins of Table 13.6. -/

@[simp] theorem setFault_rst (low : Bool) (s : State) : (setFault low s).rst = s.rst := by
  unfold setFault
  split <;> rfl

@[simp] theorem setStb_rst (ep : Nat) (high : Bool) (s : State) : (setStb ep high s).rst = s.rst := by
  unfold setStb
  split <;> rfl

@[simp] theorem hlthLow_rst (s : State) : (hlthLow s).rst = s.rst := by
  unfold hlthLow
  split <;> rfl

@[simp] theorem sendGoingDown_rst (r : Nat) (m : Word16) (s : State) : (sendGoingDown r m s).rst = s.rst := by
  unfold sendGoingDown
  split <;> rfl

/-- A pin that is driven only where it must change keeps the episode when driving it does. -/
theorem episode_ite {c : Prop} [Decidable c] {t u : State} {o : Option Episode} (ht : t.rst.episode = o)
    (hu : u.rst.episode = o) : (if c then t else u).rst.episode = o := by
  split
  · exact ht
  · exact hu

/-- RSTOUT_N and XSPIF_RST_N are kept in the reset block, beside the episode. -/
theorem episodePins_episode (r : Nat) (s : State) : (episodePins r s).rst.episode = s.rst.episode := by
  unfold episodePins
  extract_lets s1 _ s2 _ s3 s4 s5 _ s6 _ s7 _ s8
  have h1 : s1.rst.episode = s.rst.episode := by rw [setFault_rst]
  have h2 : s2.rst.episode = s.rst.episode := episode_ite h1 h1
  have h3 : s3.rst.episode = s.rst.episode := episode_ite h2 h2
  have h4 : s4.rst.episode = s.rst.episode := episode_ite (by rw [hlthLow_rst, h3]) h3
  have h5 : s5.rst.episode = s.rst.episode := by
    refine episode_ite (List.foldlRecOn (motive := fun u : State => u.rst.episode = s.rst.episode) _ _ h4 fun u hu i _ => ?_) h4
    exact episode_ite (by rw [setStb_rst, hu]) hu
  refine episode_ite h5 ?_
  have h6 : s6.rst.episode = s.rst.episode := episode_ite h5 h5
  have h7 : s7.rst.episode = s.rst.episode := episode_ite h6 h6
  have h8 : s8.rst.episode = s.rst.episode := episode_ite h7 h7
  exact List.foldlRecOn (motive := fun u : State => u.rst.episode = s.rst.episode) _ _ h8 fun u hu n _ => episode_ite hu hu

/-! What a reach resets (Table 13.2) leaves the episode alone. -/

theorem leaveRound_rst (s : State) : (leaveRound s).rst = s.rst := by
  unfold leaveRound
  split
  · split <;> rfl
  · split <;> rfl
  · rfl

theorem discardActivation_rst (s : State) : (discardActivation s).rst = s.rst := by
  unfold discardActivation
  split
  · dsimp only
    split <;> simp
  · rfl

theorem discardArmed_rst (s : State) : (discardArmed s).rst = s.rst := by
  unfold discardArmed
  dsimp only
  split
  · rw [finalReply_rst]
    exact discardActivation_rst s
  · exact discardActivation_rst s

theorem loseActivation_rst (s : State) : (loseActivation s).rst = s.rst := by
  unfold loseActivation
  split
  · rfl
  · dsimp only
    split <;> simp

theorem resetL3_rst (s : State) : (resetL3 s).rst = s.rst := by
  calc (resetL3 s).rst = (leaveRound (discardArmed (loseActivation s))).rst := rfl
    _ = s.rst := by rw [leaveRound_rst, discardArmed_rst, loseActivation_rst]

theorem resetL2_episode (s : State) : (resetL2 s).rst.episode = s.rst.episode := rfl

theorem resetL1_episode (s : State) : (resetL1 s).rst.episode = s.rst.episode := resetL2_episode s

theorem resetL0_episode (s : State) : (resetL0 s).rst.episode = s.rst.episode := resetL1_episode s

theorem applyReach_episode (r : Nat) (s : State) : (applyReach r s).rst.episode = s.rst.episode := by
  unfold applyReach
  rw [episodePins_episode]
  split
  · exact resetL0_episode s
  · exact resetL1_episode s
  · exact resetL2_episode s
  · rw [resetL3_rst]
  · exact congrArg Rst.episode (leaveRound_rst s)

/-! A source joins the episode in progress (R354). -/

theorem assertSource_episode_of_some {src r : Nat} {e : Episode} {s : State} (hr : sourceReach src s = some r)
    (he : s.rst.episode = some e) :
    (assertSource src s).rst.episode
      = some { reach := coverReach e.reach r, sources := e.sources ||| BitVec.ofNat 16 (2 ^ src) } := by
  simp only [assertSource, hr, he]
  -- The record of the episode is written before the wider reach is applied.
  refine episode_ite rfl ?_
  rw [applyReach_episode]
  exact episode_ite (by rw [sendGoingDown_rst]) rfl

/-- Settles O48: on the five levels `a` covers `b` when they are equal or `a` is the smaller and not L3, the level of two reaches
is the least one in that order, and what the wider reach resets leaves the record of the widened episode standing. -/
theorem reachesNest : Obligations.ReachesNest := by
  unfold Obligations.ReachesNest
  refine ⟨fun a b => ?_, fun a b c ha hb => ⟨reachCovers_coverReach_left a b, reachCovers_coverReach ha hb⟩, rfl, rfl,
    fun src r e s hr he => ⟨assertSource src s, rfl, assertSource_episode_of_some hr he⟩⟩
  rw [reachCovers_iff, Fin.ext_iff]
  omega

end Sys2Proof.Machine

/-!
PROOFS. Validity of attribute records (R416): what the mask of the admitted usages says of a record's usage bits, and the rows
of Table 15.4.
-/
namespace Sys2Proof.Machine

/-! The usages of a public-key digest are IMAGE_VERIFY, FW_VERIFY and EVR_CLEAR: the mask holds the other 13 of 16 bits. -/

theorem bit_eq_testBit (v i : Nat) : bit v i = v.testBit i := by
  rw [Nat.testBit_eq_decide_div_mod_eq]
  rfl

theorem and_eq_zero_iff_bit (v m : Nat) : v &&& m = 0 ↔ ∀ n : Nat, bit v n = true → bit m n = false := by
  simp only [bit_eq_testBit]
  constructor
  · intro h n hv
    simpa [hv] using congrArg (Nat.testBit · n) h
  · intro h
    refine Nat.eq_of_testBit_eq fun n => ?_
    cases hv : v.testBit n with
    | false => simp [hv]
    | true => simp [hv, h n hv]

theorem lt_of_bit {v w n : Nat} (hv : v < 2 ^ w) (hn : bit v n = true) : n < w := by
  rw [bit_eq_testBit] at hn
  exact (Nat.pow_lt_pow_iff_right (by decide)).1 ((Nat.ge_two_pow_of_testBit hn).trans_lt hv)

theorem bit_usageMask_eq_false_iff {n : Nat} (hn : n < 16) : bit (0xFFFF - 0x106) n = false ↔ n = 1 ∨ n = 2 ∨ n = 8 := by
  revert n
  decide

theorem and_usageMask_eq_zero_iff {use : Nat} (hu : use < 2 ^ 16) :
    use &&& (0xFFFF - 0x106) = 0 ↔ ∀ n : Nat, bit use n = true → n = 1 ∨ n = 2 ∨ n = 8 := by
  rw [and_eq_zero_iff_bit]
  exact forall₂_congr fun n hn => bit_usageMask_eq_false_iff (lt_of_bit hu hn)

/-! The rows of Table 15.4. -/

theorem kindAdmits_iff {k : KeySlot} (hu : k.usage < 2 ^ 16) :
    kindAdmits k = true ↔
      ((k.kind = 1 ∨ k.kind = 2) ∧
          (((k.usage = 0x001 ∨ k.usage = 0x201) ∧ k.keyLen = 64) ∨ (k.usage = 0x008 ∧ (k.keyLen = 16 ∨ k.keyLen = 32))
            ∨ (k.usage = 0x010 ∧ k.keyLen = 64) ∨ (k.usage = 0x020 ∧ k.keyLen = 32) ∨ (k.usage = 0x040 ∧ k.keyLen = 64)))
        ∨ (k.kind = 3 ∧ k.keyLen = 64 ∧ k.usage ≠ 0 ∧ ∀ n : Nat, bit k.usage n = true → n = 1 ∨ n = 2 ∨ n = 8)
        ∨ (k.kind = 4 ∧ k.usage = 0x080 ∧ k.keyLen = 0) := by
  unfold kindAdmits
  split_ifs with hsecret hdigest hidentity
  · have hdigest : k.kind ≠ 3 := by omega
    have hidentity : k.kind ≠ 4 := by omega
    simp [hsecret, hdigest, hidentity, or_and_right, or_assoc]
  · simp [hdigest, and_usageMask_eq_zero_iff hu, and_assoc]
  · simp [hidentity]
  · simp [hsecret, hdigest, hidentity]

/-! The test of R416. -/

theorem attrValid_iff (b : Bytes) :
    attrValid b = true ↔
      kindAdmits (slotOfRecord b) = true ∧ byteAt b 4 < 16 ∧ byteAt b 5 < 16 ∧ fieldLe b 6 2 = 0 ∧ fieldLe b 8 4 < 2048
        ∧ fieldLe b 12 4 = 0 ∧ ¬(bit (byteAt b 5) 2 = true ∧ bit (byteAt b 5) 3 = true) := by
  simp only [attrValid, Bool.and_eq_true, decide_eq_true_eq, beq_iff_eq, Bool.not_eq_true', ← Bool.not_eq_true, and_assoc]
  rfl

/-- Settles O60: the usages take two bytes, so the mask of a public-key digest speaks of every usage bit, and the other rows of
Table 15.4 and the reserved fields are tests of the record one by one. -/
theorem validAttributeRecords : Obligations.ValidAttributeRecords := by
  unfold Obligations.ValidAttributeRecords
  intro b
  have rows := kindAdmits_iff (k := slotOfRecord b) (fieldLe_lt b 2 2)
  exact (attrValid_iff b).trans (and_congr_left' rows)

end Sys2Proof.Machine

/-!
PROOFS. One step (R218, log 14), and what holds of every command: it completes, leaves the queue alone, only blows fuses and keeps
memories canonical.
-/
namespace Sys2Proof.Machine

/-- Settles O1 in the negative: the tick sets the local clock to the next multiple of 10 ns, so from 5 ns it counts 5. -/
theorem not_stepRunsTheFrontCommand : ¬ Obligations.StepRunsTheFrontCommand := by
  unfold Obligations.StepRunsTheFrontCommand
  rintro ⟨-, idle⟩
  have ticked : step { State.reset with clk := 5 } = .next { State.reset with clk := 10 } := rfl
  have same := Host.Outcome.next.inj (ticked.symm.trans (idle { State.reset with clk := 5 } rfl))
  exact absurd (congrArg State.clk same) (by decide)

/-! Every row keeps the queue, the fuses and the canonical form of the memories: its own law says so. -/

theorem exec_ev (i : Instr) {s t : State} : exec i s = .next t → Ev s t :=
  match i with
  | .sysGetInfo c => execSysGetInfo_ev c
  | .sysAbort c => execSysAbort_ev c
  | .sysSetMode c => execSysSetMode_ev c
  | .sysSetAuthPolicy c => execSysSetAuthPolicy_ev c
  | .imgBegin c => execImgBegin_ev c
  | .imgChunk c => execImgChunk_ev c
  | .imgVerify c => execImgVerify_ev c
  | .imgStage c => execImgStage_ev c
  | .imgActivate c => execImgActivate_ev c
  | .imgStatus c => execImgStatus_ev c
  | .imgPatch c => execImgPatch_ev c
  | .prsBankSwap c => execPrsBankSwap_ev c
  | .prsLaneStatus c => execPrsLaneStatus_ev c
  | .fwlStatus c => execFwlStatus_ev c
  | .fwlConnList c => execFwlConnList_ev c
  | .fwlConnFlush c => execFwlConnFlush_ev c
  | .bsnStatus c => execBsnStatus_ev c
  | .egrStatus c => execEgrStatus_ev c
  | .egrFrerStatus c => execEgrFrerStatus_ev c
  | .timeStatus c => execTimeStatus_ev c
  | .timeRestep c => execTimeRestep_ev c
  | .legStatus c => execLegStatus_ev c
  | .legChannelCtl c => execLegChannelCtl_ev c
  | .portStatus c => execPortStatus_ev c
  | .portLinkCtl c => execPortLinkCtl_ev c
  | .msecSaInstall c => execMsecSaInstall_ev c
  | .msecSaStatus c => execMsecSaStatus_ev c
  | .hstRingCtl c => execHstRingCtl_ev c
  | .pbWindowSet c => execPbWindowSet_ev c
  | .wakeSleepRequest c => execWakeSleepRequest_ev c
  | .wakeStatus c => execWakeStatus_ev c
  | .wakeSegment c => execWakeSegment_ev c
  | .updBegin c => execUpdBegin_ev c
  | .updChunk c => execUpdChunk_ev c
  | .updVerify c => execUpdVerify_ev c
  | .updStage c => execUpdStage_ev c
  | .updActivate c => execUpdActivate_ev c
  | .updConfirm c => execUpdConfirm_ev c
  | .updStatus c => execUpdStatus_ev c
  | .rstBlock c => execRstBlock_ev c
  | .rstGlobal c => execRstGlobal_ev c
  | .pairStatus c => execPairStatus_ev c
  | .pairSwitchover c => execPairSwitchover_ev c
  | .keyDerive c => execKeyDerive_ev c
  | .keySlotInfo c => execKeySlotInfo_ev c
  | .attestQuote c => execAttestQuote_ev c
  | .lcTransition c => execLcTransition_ev c
  | .cntSnapshotAt c => execCntSnapshotAt_ev c
  | .cntSelect c => execCntSelect_ev c
  | .evrRead c => execEvrRead_ev c
  | .evrClear c => execEvrClear_ev c
  | .dbgAccess c => execDbgAccess_ev c
  | .cmdSqTailWrite f tail fetched => execCmdSqTailWrite_ev f tail fetched
  | .cmdCqHeadWrite f head => execCmdCqHeadWrite_ev f head
  | .cmdRingCfgWrite f v => execCmdRingCfgWrite_ev f v
  | .cmdMbDbSubmit v => execCmdMbDbSubmit_ev v
  | .mailboxPop => execMailboxPop_ev
  | .registerWrite view off v => execRegisterWrite_ev view off v
  | .intStatClear view v raised => execIntStatClear_ev view v raised
  | .cntOvfRead view w => execCntOvfRead_ev view w
  | .timLatch view v => execTimLatch_ev view v
  | .timTsPop view n => execTimTsPop_ev view n
  | .safWdtKick v => execSafWdtKick_ev v
  | .msixUnmask f vec => execMsixUnmask_ev f vec
  | .msixHoldoffEnd f vec => execMsixHoldoffEnd_ev f vec
  | .xspiRead addr words late => execXspiRead_ev addr words late
  | .xspiWrite addr words => execXspiWrite_ev addr words
  | .xspiBadCommand first second => execXspiBadCommand_ev first second
  | .xspihCsRise taken => execXspihCsRise_ev taken
  | .lbWriteApply => execLbWriteApply_ev
  | .pcieFlr f => execPcieFlr_ev f
  | .pcieBmeClear f => execPcieBmeClear_ev f
  | .pcieHotReset => execPcieHotReset_ev
  | .pcieReady => execPcieReady_ev
  | .hstTxTailWrite f ring v fetched => execHstTxTailWrite_ev f ring v fetched
  | .hstRxTailWrite f ring v fetched => execHstRxTailWrite_ev f ring v fetched
  | .hstTxCfgWrite f ring v => execHstTxCfgWrite_ev f ring v
  | .hstRxCfgWrite f ring v => execHstRxCfgWrite_ev f ring v
  | .hpTxFrameRead ring x => execHpTxFrameRead_ev ring x
  | .dmaFetchError receive ring => execDmaFetchError_ev receive ring
  | .txWriteback ring => execTxWriteback_ev ring
  | .hpRxDelivery frame => execHpRxDelivery_ev frame
  | .frameStart port content gen => execFrameStart_ev port content gen
  | .frameEnd frame fcsOk => execFrameEnd_ev frame fcsOk
  | .lanePassBegin frame => execLanePassBegin_ev frame
  | .laneResult frame faults => execLaneResult_ev frame faults
  | .rinseDispatch => execRinseDispatch_ev
  | .pressArrival port frame => execPressArrival_ev port frame
  | .holeNotice port input cls number => execHoleNotice_ev port input cls number
  | .pressSkip port input cls => execPressSkip_ev port input cls
  | .egressSelect port reads => execEgressSelect_ev port reads
  | .egressTxEnd port => execEgressTxEnd_ev port
  | .gateEntryChange port => execGateEntryChange_ev port
  | .launchMissed port frame => execLaunchMissed_ev port frame
  | .pfcRx port frame => execPfcRx_ev port frame
  | .pauseExpiry port cls => execPauseExpiry_ev port cls
  | .pfcRefresh port cls => execPfcRefresh_ev port cls
  | .pfcStuck port cls => execPfcStuck_ev port cls
  | .plcaHoldExpiry port => execPlcaHoldExpiry_ev port
  | .linkUp port rate => execLinkUp_ev port rate
  | .linkDown port => execLinkDown_ev port
  | .phyCoeffStale port => execPhyCoeffStale_ev port
  | .xsModeSearch port => execXsModeSearch_ev port
  | .mdioPoll port linkUp => execMdioPoll_ev port linkUp
  | .plcaBeaconRx port => execPlcaBeaconRx_ev port
  | .plcaLost port => execPlcaLost_ev port
  | .preemptVerify port => execPreemptVerify_ev port
  | .preemptResponseRx port => execPreemptResponseRx_ev port
  | .tc10SleepRequestRx port => execTc10SleepRequestRx_ev port
  | .tc10SleepResponseRx port accepted => execTc10SleepResponseRx_ev port accepted
  | .tc10Wake port => execTc10Wake_ev port
  | .paceReading m0 m1 m2 m3 => execPaceReading_ev m0 m1 m2 m3
  | .basinScrub row => execBasinScrub_ev row
  | .fwlScrubPass read3 read4 => execFwlScrubPass_ev read3 read4
  | .fwlRevertComplete => execFwlRevertComplete_ev
  | .ctExpiry entry => execCtExpiry_ev entry
  | .learnAgeing vid mac => execLearnAgeing_ev vid mac
  | .ruleBankRelease => execRuleBankRelease_ev
  | .ruleBankRefresh => execRuleBankRefresh_ev
  | .timedHandover tag => execTimedHandover_ev tag
  | .atTimeExecute tag => execAtTimeExecute_ev tag
  | .imageSwitch => execImageSwitch_ev
  | .patchSwap => execPatchSwap_ev
  | .ruleBankSwap => execRuleBankSwap_ev
  | .autonomousSwitch => execAutonomousSwitch_ev
  | .snapshotLatch => execSnapshotLatch_ev
  | .autoSnapshot => execAutoSnapshot_ev
  | .snapshotComplete => execSnapshotComplete_ev
  | .evrRecordWrite => execEvrRecordWrite_ev
  | .evrClearComplete => execEvrClearComplete_ev
  | .clearNonceExpiry => execClearNonceExpiry_ev
  | .sessionIdleExpiry session => execSessionIdleExpiry_ev session
  | .gptpSyncRx port m => execGptpSyncRx_ev port m
  | .gptpFollowUpRx port m => execGptpFollowUpRx_ev port m
  | .announceRx port domainNumber gmIdentity => execAnnounceRx_ev port domainNumber gmIdentity
  | .announceTimer => execAnnounceTimer_ev
  | .pdelayTimer => execPdelayTimer_ev
  | .syncOriginate d => execSyncOriginate_ev d
  | .sourceLost d => execSourceLost_ev d
  | .ppsInEdge highNs => execPpsInEdge_ev highNs
  | .ppsOutEdge rising => execPpsOutEdge_ev rising
  | .tsyncCapture n rising => execTsyncCapture_ev n rising
  | .tsyncOutputEdge n rising => execTsyncOutputEdge_ev n rising
  | .slewComplete => execSlewComplete_ev
  | .timeWMismatch thirdAgreesWithA => execTimeWMismatch_ev thirdAgreesWithA
  | .operatingSecondsTick => execOperatingSecondsTick_ev
  | .canFrameRx ch x => execCanFrameRx_ev ch x
  | .seamEventServe engine => execSeamEventServe_ev engine
  | .seamEnd engine => execSeamEnd_ev engine
  | .seamDrop engine => execSeamDrop_ev engine
  | .seamLdi engine => execSeamLdi_ev engine
  | .seamLui engine => execSeamLui_ev engine
  | .seamMov engine => execSeamMov_ev engine
  | .seamAdd engine => execSeamAdd_ev engine
  | .seamAddi engine => execSeamAddi_ev engine
  | .seamSub engine => execSeamSub_ev engine
  | .seamAnd engine => execSeamAnd_ev engine
  | .seamOr engine => execSeamOr_ev engine
  | .seamXor engine => execSeamXor_ev engine
  | .seamShl engine => execSeamShl_ev engine
  | .seamShr engine => execSeamShr_ev engine
  | .seamSar engine => execSeamSar_ev engine
  | .seamMulq engine => execSeamMulq_ev engine
  | .seamBswap engine => execSeamBswap_ev engine
  | .seamGetf engine => execSeamGetf_ev engine
  | .seamPutf engine => execSeamPutf_ev engine
  | .seamLdc engine => execSeamLdc_ev engine
  | .seamTime engine => execSeamTime_ev engine
  | .seamBeq engine => execSeamBeq_ev engine
  | .seamBne engine => execSeamBne_ev engine
  | .seamBltu engine => execSeamBltu_ev engine
  | .seamBlt engine => execSeamBlt_ev engine
  | .seamJmp engine => execSeamJmp_ev engine
  | .bundleTimeout mapping => execBundleTimeout_ev mapping
  | .gwFrameToSeam frame => execGwFrameToSeam_ev frame
  | .canTxDone ch => execCanTxDone_ev ch
  | .legBusOff ch => execLegBusOff_ev ch
  | .legRecover ch => execLegRecover_ev ch
  | .legacyAgeExpiry ch index => execLegacyAgeExpiry_ev ch index
  | .canRateSearch ch => execCanRateSearch_ev ch
  | .linSlotStart ch => execLinSlotStart_ev ch
  | .linHeaderRx ch x => execLinHeaderRx_ev ch x
  | .linBusStuck ch => execLinBusStuck_ev ch
  | .frCycleStart cycle => execFrCycleStart_ev cycle
  | .frPocHalt => execFrPocHalt_ev
  | .frHaltRestart => execFrHaltRestart_ev
  | .legEngineFault engine => execLegEngineFault_ev engine
  | .frerResetTimer entry port => execFrerResetTimer_ev entry port
  | .frerLatentTimer entry port => execFrerLatentTimer_ev entry port
  | .wakeInDetect high => execWakeInDetect_ev high
  | .lwakeDetect n high => execLwakeDetect_ev n high
  | .canWakePattern ch => execCanWakePattern_ev ch
  | .wakeOutEnd => execWakeOutEnd_ev
  | .holdExpiry segment => execHoldExpiry_ev segment
  | .wakeRequestExpiry => execWakeRequestExpiry_ev
  | .duskToken frame => execDuskToken_ev frame
  | .duskNak frame => execDuskNak_ev frame
  | .duskCommit frame => execDuskCommit_ev frame
  | .dawn frame => execDawn_ev frame
  | .ringTimeout => execRingTimeout_ev
  | .idleInitiate => execIdleInitiate_ev
  | .quietWindowEnd => execQuietWindowEnd_ev
  | .standbyTimeout => execStandbyTimeout_ev
  | .segmentIdle segment => execSegmentIdle_ev segment
  | .segmentDrainTimeout segment => execSegmentDrainTimeout_ev segment
  | .safeReqNLow lowNs => execSafeReqNLow_ev lowNs
  | .faultIn lowNs => execFaultIn_ev lowNs
  | .esmReqRise => execEsmReqRise_ev
  | .esmReqFall => execEsmReqFall_ev
  | .supplyInvalid supply => execSupplyInvalid_ev supply
  | .supplyValid supply => execSupplyValid_ev supply
  | .porstNLow lowNs => execPorstNLow_ev lowNs
  | .sysrstNLow lowNs => execSysrstNLow_ev lowNs
  | .trstNLow lowNs => execTrstNLow_ev lowNs
  | .mgmtWdt => execMgmtWdt_ev
  | .safetyWdt => execSafetyWdt_ev
  | .resetEpisodeWiden source => execResetEpisodeWiden_ev source
  | .resetSourceRelease source straps badLanes => execResetSourceRelease_ev source straps badLanes
  | .bootActivation => execBootActivation_ev
  | .firmwareStart => execFirmwareStart_ev
  | .identityKeygenComplete => execIdentityKeygenComplete_ev
  | .rstBlockRelease => execRstBlockRelease_ev
  | .updResetNow => execUpdResetNow_ev
  | .lcReset => execLcReset_ev
  | .voterDisagreement core => execVoterDisagreement_ev core
  | .signatureWindowEnd s0 s1 s2 => execSignatureWindowEnd_ev s0 s1 s2
  | .coreSelfTestDone core pass => execCoreSelfTestDone_ev core pass
  | .voterFault => execVoterFault_ev
  | .heartbeatMissed core => execHeartbeatMissed_ev core
  | .splitSelfTest pass => execSplitSelfTest_ev pass
  | .jtagHaltRequest => execJtagHaltRequest_ev
  | .peerHlthToggle => execPeerHlthToggle_ev
  | .peerHlthChange active => execPeerHlthChange_ev active
  | .peerIntPulse highNs => execPeerIntPulse_ev highNs
  | .controlTx => execControlTx_ev
  | .mlControlRx m => execMlControlRx_ev m
  | .mlGoingDownRx => execMlGoingDownRx_ev
  | .mlLinkLost => execMlLinkLost_ev
  | .partition => execPartition_ev
  | .cycleBoundarySync => execCycleBoundarySync_ev
  | .mlSyncRx m => execMlSyncRx_ev m
  | .mlSyncAckRx cycle => execMlSyncAckRx_ev cycle
  | .mlDigestRx m => execMlDigestRx_ev m
  | .mlDarnRx m => execMlDarnRx_ev m
  | .mlRoleRx m => execMlRoleRx_ev m
  | .takeoverTimeout => execTakeoverTimeout_ev
  | .pbRequest r => execPbRequest_ev r
  | .pbInboundRequest r => execPbInboundRequest_ev r
  | .pbResponseRx id code data => execPbResponseRx_ev id code data
  | .pbPostedErr id code => execPbPostedErr_ev id code
  | .pbTimeout id => execPbTimeout_ev id
  | .pbLockBroken => execPbLockBroken_ev
  | .pbBackoffResend => execPbBackoffResend_ev
  | .badOpcodeCommand opcode via p => execBadOpcodeCommand_ev opcode via p
  | .setAndHoldMac port => execSetAndHoldMac_ev port
  | .pdelayMessageRx port m => execPdelayMessageRx_ev port m
  | .vmonOk high => execVmonOk_ev high
  | .legErrorPassive ch tec recv => execLegErrorPassive_ev ch tec recv
  | .frFrameRx slot cycle channel x => execFrFrameRx_ev slot cycle channel x
  | .linResponseRx ch id data => execLinResponseRx_ev ch id data

theorem exec_completes (i : Instr) (s : State) : ∃ t : State, exec i s = .next t := by
  cases i <;> exact ⟨_, rfl⟩

/-- Settles O2: each arm of the dispatch answers a next state, and what it does evolves the state without touching the queue. -/
theorem everyCommandCompletes : Obligations.EveryCommandCompletes := by
  unfold Obligations.EveryCommandCompletes
  intro i s
  obtain ⟨t, ht⟩ := exec_completes i s
  exact ⟨t, ht, (exec_ev i ht).queue⟩

/-- A step is a tick, which moves the clock alone, or the front command on a state whose queue alone is shorter. -/
theorem step_cases {s t : State} (h : step s = .next t) :
    t = tick s ∨ ∃ rest : List Instr, Ev { s with pending := rest } t := by
  unfold step at h
  split at h
  · exact .inl (Host.Outcome.next.inj h).symm
  next c rest _ => exact .inr ⟨rest, exec_ev c h⟩

/-- Settles O3: neither a tick nor a shorter queue touches the fuses, and the commands keep them. -/
theorem fusesOnlyBlow : Obligations.FusesOnlyBlow := by
  unfold Obligations.FusesOnlyBlow
  intro s t h
  obtain rfl | ⟨rest, hv⟩ := step_cases h
  · exact FusesKept.refl _
  · exact hv.fuses

/-- Canonical memories stay so where neither a memory nor a bank changes. -/
theorem MemoriesCanonical.of_clk {s : State} (h : MemoriesCanonical s) (n : Nat) : MemoriesCanonical { s with clk := n } :=
  ⟨h.recorder, h.request, h.banks, h.peerBank, h.nor, h.peerNor⟩

theorem MemoriesCanonical.of_pending {s : State} (h : MemoriesCanonical s) (l : List Instr) :
    MemoriesCanonical { s with pending := l } :=
  ⟨h.recorder, h.request, h.banks, h.peerBank, h.nor, h.peerNor⟩

/-- Settles O4: a tick and a shorter queue leave every memory alone, and the commands keep them canonical. -/
theorem memoriesStayCanonical : Obligations.MemoriesStayCanonical := by
  unfold Obligations.MemoriesStayCanonical
  intro s t hm h
  obtain rfl | ⟨rest, hv⟩ := step_cases h
  · exact hm.of_clk _
  · exact hv.mems (hm.of_pending rest)

/-! The reset state. -/

theorem memoriesCanonical_reset : MemoriesCanonical State.reset where
  recorder := Mem.blank_is _
  request := Mem.blank_is _
  banks _ := Mem.blank_is _
  peerBank := Mem.blank_is _
  nor _ := Mem.blank_is _
  peerNor := Mem.blank_is _

/-- TD0 alone is listed, and it is free; the other domains read as disabled. -/
theorem dom_reset_of_ne_zero {d : Nat} (h : d ≠ 0) : (dom State.reset d).st = .disabled := by
  rw [dom, State.reset, Tab.get, if_neg h.symm]
  simp only [Tab.get]
  split_ifs <;> rfl

/-- Settles O5: what the reset state lists, and the defaults of the tables it leaves empty. -/
theorem resetState : Obligations.ResetState := by
  unfold Obligations.ResetState
  exact ⟨memoriesCanonical_reset, rfl, rfl, rfl, rfl, rfl, fun _ => rfl, fun _ => rfl, rfl, rfl, rfl, rfl, rfl, rfl, rfl,
    fun _ => dom_reset_of_ne_zero, fun _ _ => rfl, rfl, rfl, rfl⟩

end Sys2Proof.Machine

/-!
PROOFS. The command envelope (R41-R43, Table 2.2): the fields of a string laid out field after field are read back.
-/
namespace Sys2Proof.Machine

theorem ofLe_leBytes {n v : Nat} (h : v < 256 ^ n) : ofLe (leBytes n v) = v := by
  induction n generalizing v with
  | zero => simpa [leBytes, ofLe, eq_comm] using h
  | succ n ih =>
    have quotient : v / 256 < 256 ^ n := Nat.div_lt_of_lt_mul (by rwa [Nat.pow_succ, Nat.mul_comm] at h)
    rw [leBytes, ofLe, ih quotient, BitVec.toNat_ofNat]
    exact Nat.mod_add_div v 256

/-- The first field of a string. -/
theorem slice_append_left {a : Bytes} {n : Nat} (h : a.length = n) (b : Bytes) : slice (a ++ b) 0 n = a := by
  rw [slice, List.drop_zero, List.take_left' h]

/-- A field behind the first. -/
theorem slice_append_right {a : Bytes} {off : Nat} (h : a.length ≤ off) (b : Bytes) (n : Nat) :
    slice (a ++ b) off n = slice b (off - a.length) n := by
  rw [slice, List.drop_append, List.drop_eq_nil_of_le h, List.nil_append, slice]

theorem fieldLe_append_left {n v : Nat} (h : v < 256 ^ n) (b : Bytes) : fieldLe (leBytes n v ++ b) 0 n = v := by
  rw [fieldLe, slice_append_left (length_leBytes n v), ofLe_leBytes h]

theorem fieldLe_append_right {k v off : Nat} (h : k ≤ off) (b : Bytes) (n : Nat) :
    fieldLe (leBytes k v ++ b) off n = fieldLe b (off - k) n := by
  rw [fieldLe, slice_append_right (by rwa [length_leBytes]), length_leBytes, fieldLe]

theorem fit_of_length {n : Nat} {b : Bytes} (h : b.length = n) : fit n b = b := by
  rw [fit, List.take_of_length_le h.le, h, Nat.sub_self, List.replicate_zero, List.append_nil]

/-- Settles O6: the header's six fields stand one behind the other in 16 bytes, AUTH takes the next 16, and the payload the LENGTH
bytes behind them. -/
theorem envelopeRoundTrip : Obligations.EnvelopeRoundTrip := by
  unfold Obligations.EnvelopeRoundTrip
  intro op n p hop hwf
  obtain ⟨hauth, hpayload⟩ : p.auth.length = 16 ∧ p.payload.length = p.length.toNat := by simpa [Packet.wf] using hwf
  have header : (headerBytes op p).length = 16 := by simp [headerBytes]
  have rest : ∀ off k : Nat, 16 ≤ off →
      slice (headerBytes op p ++ p.auth ++ p.payload) off k = slice (p.auth ++ p.payload) (off - 16) k := by
    intro off k h
    rw [List.append_assoc, slice_append_right (header.trans_le h), header]
  have auth : slice (headerBytes op p ++ p.auth ++ p.payload) 16 16 = p.auth := by
    rw [rest 16 16 le_rfl, slice_append_left hauth]
  have payload : slice (headerBytes op p ++ p.auth ++ p.payload) 32 p.length.toNat = p.payload := by
    rw [rest 32 _ (by decide), slice_append_right hauth.le, hauth, slice, List.drop_zero, List.take_of_length_le hpayload.le]
  have fields : ∀ off k : Nat, fieldLe (headerBytes op p ++ p.auth ++ p.payload) off k
      = fieldLe (leBytes 2 op ++ (leBytes 2 p.tag.toNat ++ (leBytes 2 p.flags.toNat ++ (leBytes 2 p.length.toNat
          ++ (leBytes 4 p.cred.toNat ++ (leBytes 4 p.sequence.toNat ++ (p.auth ++ p.payload))))))) off k := by
    intro off k
    simp only [headerBytes, List.append_assoc]
  have word16 : ∀ (w : Word16) (b : Bytes), fieldLe (leBytes 2 w.toNat ++ b) 0 2 = w.toNat := fun w => fieldLe_append_left w.isLt
  have word : ∀ (w : Word) (b : Bytes), fieldLe (leBytes 4 w.toNat ++ b) 0 4 = w.toNat := fun w => fieldLe_append_left w.isLt
  have length : fieldLe (headerBytes op p ++ p.auth ++ p.payload) 6 2 = p.length.toNat := by
    rw [fields, fieldLe_append_right (by decide), fieldLe_append_right (by decide), fieldLe_append_right (by decide), word16]
  unfold parseCommand
  rw [auth, length, payload, fit_of_length hauth, fit_of_length hpayload]
  simp only [fields]
  simp [fieldLe_append_right, fieldLe_append_left, hop, word16, word]

end Sys2Proof.Machine

/-!
PROOFS. The parts of the state that the shared operations touch (R40): what each leaves alone, as a relation that composes.
-/
namespace Sys2Proof.Machine

/-! Interrupts: the vectors of the functions, the interrupt block and what leaves. -/

/-- From `s` to `t` only the MSI-X state, the interrupt block and what leaves the block differ. -/
def OnlySignals (s t : State) : Prop := t = { s with hst := { s.hst with fns := t.hst.fns }, intr := t.intr, wire := t.wire }

theorem OnlySignals.refl (s : State) : OnlySignals s s := rfl

theorem OnlySignals.trans {s t u : State} (h : OnlySignals s t) (k : OnlySignals t u) : OnlySignals s u := by
  unfold OnlySignals
  rw [k, h]

theorem OnlyTransports.refl (s : State) : OnlyTransports s s := rfl

theorem OnlyTransports.trans {s t u : State} (h : OnlyTransports s t) (k : OnlyTransports t u) : OnlyTransports s u := by
  unfold OnlyTransports
  rw [k, h]

theorem OnlyTransports.of_signals {s t : State} (h : OnlySignals s t) : OnlyTransports s t := by
  unfold OnlyTransports
  rw [h]

theorem OnlyTransports.of_cmd (s : State) (c : Cmd) : OnlyTransports s { s with cmd := c } := rfl

theorem OnlyRecorder.refl (s : State) : OnlyRecorder s s := rfl

theorem OnlyRecorder.trans {s t u : State} (h : OnlyRecorder s t) (k : OnlyRecorder t u) : OnlyRecorder s u := by
  unfold OnlyRecorder
  rw [k, h]

theorem OnlyRecorder.of_transports {s t : State} (h : OnlyTransports s t) : OnlyRecorder s t := by
  unfold OnlyRecorder
  rw [h]

theorem OnlyRecorder.of_evr (s : State) (e : Rec) : OnlyRecorder s { s with evr := e } := rfl

theorem OnlyCounters.refl (s : State) : OnlyCounters s s := rfl

theorem OnlyCounters.trans {s t u : State} (h : OnlyCounters s t) (k : OnlyCounters t u) : OnlyCounters s u := by
  unfold OnlyCounters
  rw [k, h]

theorem OnlyCounters.of_signals {s t : State} (h : OnlySignals s t) : OnlyCounters s t := by
  unfold OnlyCounters
  rw [h]

theorem OnlyCounters.of_cnt (s : State) (c : Cnt) : OnlyCounters s { s with cnt := c } := rfl

theorem sendVector_signals (f v : Nat) (s : State) : OnlySignals s (sendVector f v s) := by
  unfold sendVector
  dsimp only
  split_ifs <;> rfl

theorem signalSource_signals (src : Nat) (s : State) : OnlySignals s (signalSource src s) := by
  unfold signalSource
  refine List.foldlRecOn (motive := fun u : State => OnlySignals s u) _ _ (.refl s) fun u hu f _ => ?_
  split_ifs
  · exact hu.trans (sendVector_signals ..)
  · exact hu

theorem raiseInt_signals (src : Nat) (s : State) : OnlySignals s (raiseInt src s) := by
  unfold raiseInt
  dsimp only
  split_ifs
  · rfl
  · exact .trans (t := { s with intr := _ }) rfl (signalSource_signals ..)

/-! Replies: the transports. -/

theorem freeTag_transports (t : Word16) (s : State) : OnlyTransports s (freeTag t s) := by
  unfold freeTag
  dsimp only
  split <;> rfl

theorem updTag_transports (t : Word16) (f : InFlight → InFlight) (s : State) : OnlyTransports s (updTag t f s) := rfl

theorem writeCompletion_transports (f : Nat) (s : State) : OnlyTransports s (writeCompletion f s) := by
  have written : ∀ (r : CmdRing) (o o' : Out) (v : Nat), OnlyTransports s (sendVector f v (setCmdRing f r (emit o' (emit o s)))) :=
    fun r o o' v => .trans (t := setCmdRing f r (emit o' (emit o s))) rfl (.of_signals (sendVector_signals ..))
  unfold writeCompletion
  dsimp only
  split
  · rfl
  · split
    · rfl
    · split
      · exact (written ..).trans (freeTag_transports ..)
      · exact written ..

theorem drainCompletions_transports (n f : Nat) (s : State) : OnlyTransports s (drainCompletions n f s) := by
  induction n generalizing s with
  | zero => rfl
  | succ n ih => exact (writeCompletion_transports f s).trans (ih _)

theorem deliver_transports (via : Via) (op : Nat) (p : Packet) (key : Bytes) (extra status detail : Nat) (result : Bytes)
    (frees : Bool) (s : State) : OnlyTransports s (deliver via op p key extra status detail result frees s) := by
  cases via with
  | ring f idx max addr => exact .trans (t := setCmdRing f.val _ s) rfl (drainCompletions_transports ..)
  | mailbox =>
    unfold deliver
    dsimp only
    split_ifs
    · exact .trans (.of_cmd s _) (.of_signals (raiseInt_signals ..))
    · rfl
  | inBand inPort src vlan =>
    cases frees with
    | false => rfl
    | true => exact .trans (t := { s with cmd := _, wire := _ }) rfl (freeTag_transports ..)

theorem finalReply_transports (t : Word16) (status detail : Nat) (result : Bytes) (s : State) :
    OnlyTransports s (finalReply t status detail result s) := by
  unfold finalReply
  split
  · rfl
  · split_ifs
    · rfl
    · exact freeTag_transports ..
    · rfl
    · exact (updTag_transports ..).trans (deliver_transports ..)

theorem refuseReply_transports (via : Via) (op : Nat) (p : Packet) (key : Bytes) (reject : Bool) (status detail : Nat) (s : State) :
    OnlyTransports s (refuseReply via op p key reject status detail s) := deliver_transports ..

theorem interimReply_transports (e : InFlight) (s : State) : OnlyTransports s (interimReply e s) := by
  unfold interimReply
  split_ifs
  · exact deliver_transports ..
  · rfl

/-! Records: the event recorder. -/

theorem settleClear_recorder (s : State) : OnlyRecorder s (settleClear s) := by
  unfold settleClear
  split
  · split_ifs <;> rfl
  · rfl

theorem writeRecord_recorder (ty : Nat) (body : Bytes) (s : State) : OnlyRecorder s (writeRecord ty body s) := by
  unfold writeRecord
  dsimp only
  split_ifs
  · exact settleClear_recorder s
  all_goals exact (settleClear_recorder s).trans (.of_evr ..)

theorem record_recorder (ty : Nat) (body : Bytes) (s : State) : OnlyRecorder s (record ty body s) := by
  unfold record
  split_ifs <;> rfl

/-! Statistics and unit counters: the counter block. -/

theorem overflowed_counters (n : Nat) (s : State) : OnlyCounters s (overflowed n s) :=
  .trans (.of_cnt s _) (.of_signals (raiseInt_signals ..))

theorem countSource_counters (kind object event inc : Nat) (s : State) : OnlyCounters s (countSource kind object event inc s) := by
  unfold countSource
  dsimp only
  exact List.foldlRecOn (motive := fun u : State => OnlyCounters s u) _ _ (.of_cnt s _)
    fun u hu e _ => hu.trans (overflowed_counters ..)

theorem stat_counters (p i inc : Nat) (s : State) : OnlyCounters s (stat p i inc s) := by
  unfold stat
  split_ifs
  · exact .trans (.of_cnt s _) (countSource_counters ..)
  · rfl

/-! A command is answered once (R40). -/

theorem finalReply_of_replied {t : Word16} {e : InFlight} {s : State} (he : findTag s t = some e) (hp : e.phase = .replied)
    (status detail : Nat) (result : Bytes) : finalReply t status detail result s = s := by
  rw [finalReply, he]
  exact if_pos hp

/-- Settles O14: a reply drives the transports and an interrupt, a record the recorder, a statistic the counters and an interrupt,
and a final reply looks first whether one was given. -/
theorem partsAndFinalReplies : Obligations.PartsAndFinalReplies := by
  unfold Obligations.PartsAndFinalReplies
  exact ⟨⟨finalReply_transports, fun src s => .of_signals (raiseInt_signals src s), record_recorder, writeRecord_recorder,
    stat_counters, countSource_counters⟩, fun _ st dt r _ _ he hp => finalReply_of_replied he hp st dt r⟩

end Sys2Proof.Machine

/-!
PROOFS. The shared path of a command (R57-R61): which row takes it, what a reply leaves of the journal, and what becomes of a command
that is ready, refused, held back or a dry run.
-/
namespace Sys2Proof.Machine

/-! Rows. -/

theorem exec_of_mem_opcodeRows : ∀ x ∈ opcodeRows, ∀ (c : CmdSource) (s : State), exec (x.2 c) s = .next (runCommand x.1 c s) := by
  simp only [opcodeRows, List.forall_mem_append, List.forall_mem_cons, List.not_mem_nil, false_implies, implies_true, and_true]
  and_intros
  all_goals exact fun _ _ => rfl

theorem runUnlessHeld_of_free {held : Packet → Bool} (h : ∀ p : Packet, held p = false) (d : OpDef) (c : CmdSource) (s : State) :
    runUnlessHeld held d c s = runCommand d c s := by
  cases c with
  | arriving via p => simp only [runUnlessHeld, runCommand, arrive, h, Bool.not_false]
  | accepted t =>
    unfold runUnlessHeld
    cases hf : findTag s t with
    | none => simp only [runCommand, hf]
    | some e => simp only [hf, h, Bool.false_eq_true, if_false]

theorem runUnlessHeld_accepted {held : Packet → Bool} {t : Word16} {e : InFlight} {s : State} (he : findTag s t = some e)
    (d : OpDef) :
    runUnlessHeld held d (.accepted t) s = if held e.packet = true then s else runCommand d (.accepted t) s := by
  simp only [runUnlessHeld, he]

theorem runUnlessHeld_of_findTag_none {held : Packet → Bool} {t : Word16} {s : State} (h : findTag s t = none) (d : OpDef) :
    runUnlessHeld held d (.accepted t) s = s := by
  simp only [runUnlessHeld, h]

/-- Settles O7: the rows are the shared path by definition, and the two rows of held blocks ask first whether theirs is free. -/
theorem opcodeRowsShareOnePath : Obligations.OpcodeRowsShareOnePath := by
  unfold Obligations.OpcodeRowsShareOnePath
  refine ⟨exec_of_mem_opcodeRows, fun _ _ => rfl, fun c s h => congrArg _ (runUnlessHeld_of_free h _ c s),
    fun c s h => congrArg _ (runUnlessHeld_of_free h _ c s), fun t e s he hh => ?_, fun t e s he hh => ?_, fun _ _ _ => ⟨rfl, rfl⟩,
    fun t e s he => ⟨fun hh => ?_, fun hh => ?_⟩, fun t s h => ⟨?_, ?_⟩⟩
  · exact congrArg _ ((runUnlessHeld_accepted he _).trans (if_pos hh))
  · exact congrArg _ ((runUnlessHeld_accepted he _).trans (if_pos hh))
  · exact congrArg _ ((runUnlessHeld_accepted he _).trans (if_neg (by simp [hh])))
  · exact congrArg _ ((runUnlessHeld_accepted he _).trans (if_neg (by simp [hh])))
  · exact congrArg _ (runUnlessHeld_of_findTag_none h _)
  · exact congrArg _ (runUnlessHeld_of_findTag_none h _)

/-! The journal's entry of a tag. -/

theorem tag_of_findTag {s : State} {t : Word16} {e : InFlight} (h : findTag s t = some e) : e.packet.tag = t := by
  simpa using List.find?_some h

theorem mem_of_findTag {s : State} {t : Word16} {e : InFlight} (h : findTag s t = some e) : e ∈ s.cmd.inflight :=
  List.mem_of_find?_eq_some h

theorem findTag_eq_none_iff {s : State} {t : Word16} : findTag s t = none ↔ ∀ e ∈ s.cmd.inflight, e.packet.tag ≠ t := by
  simp [findTag]

/-! What a reply does to the journal. -/

/-- From `s` to `t` the authentication policy is the same, and no command has come into the journal or changed in it. -/
structure JournalShrinks (s t : State) : Prop where
  policy : t.cmd.policy = s.cmd.policy
  inflight : t.cmd.inflight ⊆ s.cmd.inflight

theorem JournalShrinks.of_cmd {s t : State} (h : t.cmd = s.cmd) : JournalShrinks s t := ⟨by rw [h], by rw [h]; exact List.Subset.refl _⟩

theorem JournalShrinks.refl (s : State) : JournalShrinks s s := .of_cmd rfl

theorem JournalShrinks.trans {s t u : State} (h : JournalShrinks s t) (k : JournalShrinks t u) : JournalShrinks s u :=
  ⟨k.policy.trans h.policy, List.Subset.trans k.inflight h.inflight⟩

theorem freeTag_journal (t : Word16) (s : State) : JournalShrinks s (freeTag t s) := by
  unfold freeTag
  dsimp only
  split <;> exact ⟨rfl, List.filter_subset_self _⟩

theorem writeCompletion_journal (f : Nat) (s : State) : JournalShrinks s (writeCompletion f s) := by
  have written : ∀ (r : CmdRing) (o o' : Out) (v : Nat), JournalShrinks s (sendVector f v (setCmdRing f r (emit o' (emit o s)))) := by
    intro r o o' v
    exact .trans (t := setCmdRing f r (emit o' (emit o s))) ⟨rfl, List.Subset.refl _⟩ (.of_cmd (sendVector_cmd ..))
  unfold writeCompletion
  dsimp only
  split
  · exact .refl s
  · split
    · exact .refl s
    · split
      · exact (written ..).trans (freeTag_journal ..)
      · exact written ..

theorem drainCompletions_journal (n f : Nat) (s : State) : JournalShrinks s (drainCompletions n f s) := by
  induction n generalizing s with
  | zero => exact .refl s
  | succ n ih => exact (writeCompletion_journal f s).trans (ih _)

theorem deliver_journal (via : Via) (op : Nat) (p : Packet) (key : Bytes) (extra status detail : Nat) (result : Bytes)
    (frees : Bool) (s : State) : JournalShrinks s (deliver via op p key extra status detail result frees s) := by
  unfold deliver
  cases via with
  | ring f idx max addr =>
    refine .trans ?_ (drainCompletions_journal ..)
    exact ⟨rfl, List.Subset.refl _⟩
  | mailbox =>
    dsimp only
    split
    · refine .trans ?_ (.of_cmd (raiseInt_cmd ..))
      exact ⟨rfl, List.Subset.refl _⟩
    · exact ⟨rfl, List.Subset.refl _⟩
  | inBand inPort src vlan =>
    cases frees with
    | false => exact ⟨rfl, List.Subset.refl _⟩
    | true =>
      refine .trans ?_ (freeTag_journal ..)
      exact ⟨rfl, List.Subset.refl _⟩

theorem interimReply_journal (e : InFlight) (s : State) : JournalShrinks s (interimReply e s) := by
  unfold interimReply
  split
  · exact deliver_journal ..
  · exact .refl s

@[simp] theorem finalReply_policy (t : Word16) (status detail : Nat) (result : Bytes) (s : State) :
    (finalReply t status detail result s).cmd.policy = s.cmd.policy := by
  unfold finalReply
  split
  · rfl
  · split_ifs
    · rfl
    · exact (freeTag_journal ..).policy
    · rfl
    · exact (deliver_journal ..).policy

@[simp] theorem finalReply_marks (t : Word16) (status detail : Nat) (result : Bytes) (s : State) :
    (finalReply t status detail result s).cmd.marks = s.cmd.marks := by
  unfold finalReply
  split
  · rfl
  · split_ifs
    · rfl
    · exact freeTag_marks ..
    · rfl
    · exact deliver_marks ..

/-! Acceptance (R39, R57). -/

theorem onAccept_recorder : ∀ x ∈ opcodeRows, ∀ (r : Req) (s : State), OnlyRecorder s (x.1.onAccept r s) := by
  simp only [opcodeRows, List.forall_mem_append, List.forall_mem_cons, List.not_mem_nil, false_implies, implies_true, and_true]
  and_intros
  -- The ninth row is IMG_ACTIVATE, which journals the acceptance (R145).
  on_goal 9 => exact fun r s => writeRecord_recorder 0x0001 (activateRecord r s) s
  all_goals exact fun _ _ => rfl

/-- Beside the transports, acceptance touches the recorder alone. -/
theorem acceptCommand_recorder {x : OpDef × (CmdSource → Instr)} (hx : x ∈ opcodeRows) (via : Via) (p : Packet) (r : Req)
    (s : State) : OnlyRecorder s (acceptCommand x.1 via p r s) := by
  have own : ∀ u : State, OnlyRecorder u (if r.dryrun then u else x.1.onAccept r u) := by
    intro u
    split
    · exact .refl u
    · exact onAccept_recorder x hx r u
  have interim : ∀ (b : Bool) (e : InFlight) (u : State), OnlyRecorder u (if b then u else interimReply e u) := by
    intro b e u
    cases b
    · exact .of_transports (interimReply_transports e u)
    · exact .refl u
  unfold acceptCommand
  dsimp only
  refine .trans (.trans ?_ (own _)) (interim ..)
  cases via <;> (dsimp only; split_ifs <;> rfl)

/-- The journal after acceptance: what stood there and the accepted command, waiting. -/
theorem inflight_acceptCommand {x : OpDef × (CmdSource → Instr)} (hx : x ∈ opcodeRows) (via : Via) (p : Packet) (r : Req)
    (s : State) : ∃ y : InFlight, y.opcode = x.1.code ∧ y.phase = .waiting
      ∧ (acceptCommand x.1 via p r s).cmd.inflight ⊆ s.cmd.inflight ++ [y] := by
  unfold acceptCommand
  extract_lets y _ s1 _ s2 _ _ s3 s4
  have marked : s2.cmd.inflight = s.cmd.inflight ++ [y] := by
    unfold s2
    split <;> rfl
  have bound : s3.cmd.inflight = s2.cmd.inflight := by
    unfold s3
    split <;> rfl
  have own : s4.cmd = s3.cmd := by
    unfold s4
    split
    · rfl
    · exact onAccept_cmd x hx r s3
  have journal : s4.cmd.inflight = s.cmd.inflight ++ [y] := by rw [own, bound, marked]
  refine ⟨y, rfl, rfl, ?_⟩
  rw [← journal]
  split
  · exact List.Subset.refl _
  · exact (interimReply_journal y s4).inflight

/-- An accepted command's tag was free, so what the journal holds of it after acceptance is the accepted command, waiting. -/
theorem findTag_acceptCommand {x : OpDef × (CmdSource → Instr)} (hx : x ∈ opcodeRows) {via : Via} {p : Packet} {r : Req}
    {s : State} {e : InFlight} (free : findTag s p.tag = none) (he : findTag (acceptCommand x.1 via p r s) p.tag = some e) :
    e.opcode = x.1.code ∧ e.phase = .waiting := by
  obtain ⟨y, hop, hphase, hsub⟩ := inflight_acceptCommand hx via p r s
  obtain old | new := List.mem_append.1 (hsub (mem_of_findTag he))
  · exact absurd (tag_of_findTag he) (findTag_eq_none_iff.1 free e old)
  · rw [List.mem_singleton.1 new]
    exact ⟨hop, hphase⟩

theorem clusterServes_of_recorder {s t : State} (h : OnlyRecorder s t) : clusterServes t = clusterServes s := by
  rw [h]
  rfl

/-! The verdict (R57). -/

theorem tagInFlight_eq_false_of_earlyChecks {d : OpDef} {via : Via} {p : Packet} {r : Req} {s : State}
    (h : earlyChecks d via p r s = none) : tagInFlight s p.tag = false := by
  unfold earlyChecks at h
  split_ifs at h with _ taken
  exact Bool.eq_false_iff.2 fun busy => taken (.inr busy)

theorem tagUndelivered_eq_false_of_lateChecks {d : OpDef} {p : Packet} {r : Req} {s : State} (h : lateChecks d p r s = none) :
    tagUndelivered s p.tag = false := by
  unfold lateChecks at h
  repeat' split at h
  all_goals simp_all

/-- A command that passes every check has a tag that the journal does not hold. -/
theorem findTag_of_judge_none {d : OpDef} {via : Via} {p : Packet} {s : State} (h : judge d via p s = none) :
    findTag s p.tag = none := by
  unfold judge at h
  dsimp only at h
  split at h
  · simp at h
  next early =>
    split at h
    · simp at h
    next late =>
      have free := tagInFlight_eq_false_of_earlyChecks early
      have delivered := tagUndelivered_eq_false_of_lateChecks late
      simp only [tagInFlight, tagUndelivered, List.any_eq_false, Bool.and_eq_true, bne_iff_ne, beq_iff_eq, ne_eq, not_and, not_not] at free delivered
      exact findTag_eq_none_iff.2 fun e he ht => delivered e he ht (free e he ht)

/-! An arriving command. -/

theorem acceptOrRefuse_of_judge_none {d : OpDef} {via : Via} {p : Packet} {s : State} (h : judge d via p s = none) :
    acceptOrRefuse d via p s = acceptCommand d via p (reqOf via p s.clk) s := by
  simp only [acceptOrRefuse, h]

/-- An arriving command that passes every check is accepted, and begins where it may. -/
theorem runCommand_arriving_of_judge_none {d : OpDef} {via : Via} {p : Packet} {s u : State} (serves : clusterServes s = true)
    (served : transportServed via s = true) (whole : inBandDropped d via p s = false) (fresh : isDuplicate via p s = false)
    (passed : judge d via p s = none) (hu : acceptCommand d via p (reqOf via p s.clk) s = u) :
    runCommand d (.arriving via p) s
      = (findTag u p.tag).elim u fun e => if mayBegin e u = true then beginCommand d e u else u := by
  subst hu
  simp only [runCommand, arrive, arriveWith, serves, served, whole, fresh, passed, acceptOrRefuse_of_judge_none passed,
    Bool.not_true, Bool.or_false, Bool.false_eq_true, if_false, Bool.true_and]
  cases findTag (acceptCommand d via p (reqOf via p s.clk) s) p.tag <;> rfl

/-- An arriving command that fails a check is refused, and nothing more. -/
theorem runCommand_arriving_of_judge_some {d : OpDef} {via : Via} {p : Packet} {s : State} {x : Nat × Nat × Bool}
    (serves : clusterServes s = true) (served : transportServed via s = true) (whole : inBandDropped d via p s = false)
    (fresh : isDuplicate via p s = false) (failed : judge d via p s = some x) :
    runCommand d (.arriving via p) s = acceptOrRefuse d via p s := by
  simp only [runCommand, arrive, arriveWith, serves, served, whole, fresh, failed, Bool.not_true, Bool.or_false,
    Bool.false_eq_true, if_false]

/-- Settles O8: acceptance leaves the cluster serving and the journal's entry waiting, so the row of the accepted command begins it
under the same order rules. -/
theorem arrivalIsAcceptanceThenTheRow : Obligations.ArrivalIsAcceptanceThenTheRow := by
  unfold Obligations.ArrivalIsAcceptanceThenTheRow
  intro x hx via p s serves served whole fresh passed
  generalize hu : acceptCommand x.1 via p (reqOf via p s.clk) s = u
  rw [exec_of_mem_opcodeRows x hx, exec_of_mem_opcodeRows x hx,
    runCommand_arriving_of_judge_none serves served whole fresh passed hu]
  have serves' : clusterServes u = true := by rw [← hu, clusterServes_of_recorder (acceptCommand_recorder hx ..), serves]
  cases he : findTag u p.tag with
  | none => simp only [runCommand, he, Option.elim_none]
  | some e =>
    obtain ⟨hop, hphase⟩ := findTag_acceptCommand hx (findTag_of_judge_none passed) (hu ▸ he)
    simp only [runCommand, he, hop, hphase, serves', true_and, Option.elim_some]

/-- Settles O9: a refusal is one reply, which frees no tag of its own. -/
theorem refusedCommandHasNoEffect : Obligations.RefusedCommandHasNoEffect := by
  unfold Obligations.RefusedCommandHasNoEffect
  intro x hx via p s st dt rej serves served whole fresh failed resources
  have refused : ∃ key : Bytes, runCommand x.1 (.arriving via p) s = refuseReply via x.1.code p key rej st dt s := by
    rw [runCommand_arriving_of_judge_some serves served whole fresh failed]
    simp only [acceptOrRefuse, failed, resources, false_and, if_false]
    exact ⟨_, rfl⟩
  obtain ⟨key, hrefused⟩ := refused
  refine ⟨_, exec_of_mem_opcodeRows x hx _ s, ?_⟩
  rw [hrefused]
  have journal := deliver_journal via x.1.code p key (if rej then 0x2000 else 0) st dt [] false s
  exact ⟨refuseReply_transports .., deliver_marks .., journal.policy, fun e he => journal.inflight he⟩

/-! A command whose turn has come. -/

theorem runCommand_of_waiting {d : OpDef} {t : Word16} {e : InFlight} {s : State} (he : findTag s t = some e)
    (hop : e.opcode = d.code) (hw : e.phase = .waiting) (hs : clusterServes s = true) (hm : mayBegin e s = true) :
    runCommand d (.accepted t) s = beginCommand d e s := by
  simp [runCommand, he, hop, hw, hs, hm]

theorem beginCommand_of_dryrun {d : OpDef} {e : InFlight} (h : isDryrun e.packet = true) (s : State) :
    ∃ (st dt : Nat), beginCommand d e s
      = finalReply e.packet.tag st dt [] (if e.instant.isSome then interimReply e s else s) := by
  unfold beginCommand
  extract_lets r u
  rw [if_pos (show r.dryrun = true from h)]
  split
  next st dt _ => exact ⟨st, dt, rfl⟩
  · exact ⟨stOk, 0, rfl⟩

/-- Settles O10: a dry run is an interim reply where it is timed, and a final reply. -/
theorem dryRunOnlyAnswers : Obligations.DryRunOnlyAnswers := by
  unfold Obligations.DryRunOnlyAnswers
  intro x hx t e s he hop hw hs hm hd
  obtain ⟨st, dt, hb⟩ := beginCommand_of_dryrun (d := x.1) hd s
  refine ⟨_, exec_of_mem_opcodeRows x hx _ s, ?_⟩
  rw [runCommand_of_waiting he hop hw hs hm, hb]
  split
  · exact ⟨(interimReply_transports e s).trans (finalReply_transports ..), by simp,
      by rw [finalReply_policy, (interimReply_journal e s).policy]⟩
  · exact ⟨finalReply_transports .., by simp, by simp⟩

/-- A command is held back by an earlier one of its transport where either is ORDERED (R58). -/
theorem mayBegin_eq_false {e y : InFlight} {s : State} (habort : e.opcode ≠ 0x0002) (hy : y ∈ earlier s e.packet.tag)
    (htr : tagTransport y.packet.tag = tagTransport e.packet.tag) (hp : y.phase ≠ .replied)
    (ho : isOrdered e.packet = true ∨ isOrdered y.packet = true) : mayBegin e s = false := by
  have held : y ∈ (earlier s e.packet.tag).filter fun x =>
      tagTransport x.packet.tag == tagTransport e.packet.tag && x.phase != .replied :=
    List.mem_filter.2 ⟨hy, by simp [htr, hp]⟩
  unfold mayBegin
  dsimp only
  rw [if_neg habort]
  obtain ho | ho := ho
  · have some : List.isEmpty _ = false := List.isEmpty_eq_false_iff_exists_mem.2 ⟨y, held⟩
    rw [some, ho]
    rfl
  · have all : List.all _ (fun x : InFlight => !isOrdered x.packet) = false :=
      List.all_eq_false.2 ⟨y, held, by simp [ho]⟩
    rw [all, Bool.and_false, Bool.false_and]

/-- Settles O11: the order rule fails on the earlier command, and a row begins nothing that may not begin. -/
theorem orderHoldsACommandBack : Obligations.OrderHoldsACommandBack := by
  unfold Obligations.OrderHoldsACommandBack
  intro x hx t e y s he habort hy htr hp ho
  obtain rfl := tag_of_findTag he
  rw [exec_of_mem_opcodeRows x hx]
  simp [runCommand, he, mayBegin_eq_false habort hy htr hp ho]

/-- Settles O13: the first five tests of the early checks, in their order. -/
theorem earlyChecksInOrder : Obligations.EarlyChecksInOrder := by
  unfold Obligations.EarlyChecksInOrder
  intro d via p s long taken unknown reserved
  refine ⟨fun h => judge_of_earlyChecks ?_, fun hl h => judge_of_earlyChecks ?_, fun hl ht h => judge_of_earlyChecks ?_,
    fun hl ht hu h => judge_of_earlyChecks ?_, fun e he ht => ?_⟩
  · rw [earlyChecks, if_pos h]
  · rw [earlyChecks, if_neg hl, if_pos h]
  · rw [earlyChecks, if_neg hl, if_neg ht, if_pos (Option.isNone_iff_eq_none.2 h)]
  · rw [earlyChecks, if_neg hl, if_neg ht, if_neg (mt Option.isNone_iff_eq_none.1 hu), if_pos]
    simpa [reserved] using h
  · simp [tagInFlight, he, ht]

/-! A command that is ready. -/

theorem ready_iff {op : Nat} {t : Word16} {e : InFlight} {s : State} : ready op t e s = true ↔
    findTag s t = some e ∧ e.opcode = op ∧ e.phase = .waiting ∧ clusterServes s = true ∧ mayBegin e s = true
      ∧ isDryrun e.packet = false ∧ e.instant = none := by
  simp [ready, and_assoc]

/-- A ready command is neither a dry run nor timed: beginning it executes it. -/
theorem runCommand_of_ready {d : OpDef} {t : Word16} {e : InFlight} {s : State} (h : ready d.code t e s = true) :
    runCommand d (.accepted t) s = executeNow d (reqAt e) s := by
  obtain ⟨he, hop, hw, hs, hm, hd, hi⟩ := ready_iff.1 h
  rw [runCommand_of_waiting he hop hw hs hm, beginCommand]
  simp [hi, reqOf, reqAt, hd]

theorem executeNow_of_checks_none {d : OpDef} {t : Word16} {e : InFlight} {s : State} (ht : e.packet.tag = t)
    (h : d.checks (reqAt e) s = none) : executeNow d (reqAt e) s = d.commit (reqAt e) (committed t s) := by
  subst ht
  simp only [executeNow, h]
  rfl

theorem executeNow_of_checks_some {d : OpDef} {t : Word16} {e : InFlight} {s : State} {st dt : Nat} (ht : e.packet.tag = t)
    (h : d.checks (reqAt e) s = some (st, dt)) : executeNow d (reqAt e) s = finalReply t st dt [] (d.onFail (reqAt e) s) := by
  subst ht
  simp only [executeNow, h]
  rfl

theorem tag_of_ready {op : Nat} {t : Word16} {e : InFlight} {s : State} (h : ready op t e s = true) : e.packet.tag = t :=
  tag_of_findTag (ready_iff.1 h).1

/-- A ready command that passes its execution checks commits (R57, R63). -/
theorem runCommand_commit {d : OpDef} {t : Word16} {e : InFlight} {s : State} (h : ready d.code t e s = true)
    (hc : d.checks (reqAt e) s = none) : runCommand d (.accepted t) s = d.commit (reqAt e) (committed t s) :=
  (runCommand_of_ready h).trans (executeNow_of_checks_none (tag_of_ready h) hc)

/-- A ready command that fails an execution check is answered with it (R57). -/
theorem runCommand_fail {d : OpDef} {t : Word16} {e : InFlight} {s : State} {st dt : Nat} (h : ready d.code t e s = true)
    (hc : d.checks (reqAt e) s = some (st, dt)) :
    runCommand d (.accepted t) s = finalReply t st dt [] (d.onFail (reqAt e) s) :=
  (runCommand_of_ready h).trans (executeNow_of_checks_some (tag_of_ready h) hc)

/-- What a command of a transport answers is the final reply of its tag. -/
theorem answer_reqAt {t : Word16} {e : InFlight} (ht : e.packet.tag = t) (st dt : Nat) (result : Bytes) (s : State) :
    answer (reqAt e) st dt result s = finalReply t st dt result s := by
  subst ht
  rfl

/-- Settles O15: the shared path executes what is ready, and SYS_ABORT's commit asks whether the target can still be withdrawn. -/
theorem commitAndAbort : Obligations.CommitAndAbort := by
  unfold Obligations.CommitAndAbort
  constructor
  · intro x hx t e s h
    exact ⟨fun hc => (exec_of_mem_opcodeRows x hx _ s).trans (congrArg _ (runCommand_commit h hc)),
      fun st dt hc => (exec_of_mem_opcodeRows x hx _ s).trans (congrArg _ (runCommand_fail h hc))⟩
  · intro t e s h c target
    have commits : exec (.sysAbort (.accepted t)) s = .next (sysAbortOp.commit (reqAt e) c) :=
      congrArg _ (runCommand_commit (d := sysAbortOp) h rfl)
    have own : (reqAt e).tag = t := tag_of_ready h
    rw [commits]
    simp only [sysAbortOp, own, answer_reqAt (tag_of_ready h)]
    refine ⟨fun other open' => congrArg _ (if_pos ⟨other, open'⟩), fun late => congrArg _ (if_neg ?_)⟩
    rintro ⟨other, open'⟩
    obtain same | closed := late
    · exact other same
    · exact Bool.eq_false_iff.1 closed open'

end Sys2Proof.Machine

/-!
PROOFS. The status commands (R57, R63): a ready command commits in its row, and these commit with their reply alone.
-/
namespace Sys2Proof.Machine

/-! The row of a ready command. -/

theorem exec_commits {d : OpDef} {i : Instr} {t : Word16} {e : InFlight} {s : State}
    (row : exec i s = .next (runCommand d (.accepted t) s)) (h : ready d.code t e s = true) (hc : d.checks (reqAt e) s = none) :
    exec i s = .next (d.commit (reqAt e) (committed t s)) :=
  row.trans (congrArg _ (runCommand_commit h hc))

theorem exec_answers {d : OpDef} {i : Instr} {t : Word16} {e : InFlight} {s u : State} {st dt : Nat} {result : Bytes}
    (row : exec i s = .next (runCommand d (.accepted t) s)) (h : ready d.code t e s = true) (hc : d.checks (reqAt e) s = none)
    (ha : d.commit (reqAt e) (committed t s) = answer (reqAt e) st dt result u) :
    exec i s = .next (finalReply t st dt result u) :=
  (exec_commits row h hc).trans (congrArg _ (ha.trans (answer_reqAt (tag_of_ready h) ..)))

theorem exec_fails {d : OpDef} {i : Instr} {t : Word16} {e : InFlight} {s : State} {st dt : Nat}
    (row : exec i s = .next (runCommand d (.accepted t) s)) (h : ready d.code t e s = true)
    (hc : d.checks (reqAt e) s = some (st, dt)) : exec i s = .next (finalReply t st dt [] (d.onFail (reqAt e) s)) :=
  row.trans (congrArg _ (runCommand_fail h hc))

/-- Settles O16: the status commands have no execution check, and each commits with one reply, read from the state after the commit
point. -/
theorem statusCommandsReplied : Obligations.StatusCommandsReplied := by
  unfold Obligations.StatusCommandsReplied
  refine ⟨fun t e s => ?_, fun t e s => ?_⟩
  · refine ⟨fun h => exec_answers (d := sysGetInfoOp) rfl h rfl rfl, fun h => exec_answers (d := imgStatusOp) rfl h rfl rfl,
      fun h => exec_answers (d := prsLaneStatusOp) rfl h rfl rfl, fun h => exec_answers (d := fwlStatusOp) rfl h rfl rfl,
      fun h => exec_answers (d := fwlConnListOp) rfl h rfl rfl, fun h => exec_answers (d := bsnStatusOp) rfl h rfl rfl,
      fun h => exec_answers (d := egrStatusOp) rfl h rfl rfl, fun h => exec_answers (d := egrFrerStatusOp) rfl h rfl rfl,
      fun h => exec_answers (d := timeStatusOp) rfl h rfl rfl, fun h => exec_answers (d := msecSaStatusOp) rfl h rfl rfl,
      fun h => exec_answers (d := wakeStatusOp) rfl h rfl rfl, fun h => exec_answers (d := updStatusOp) rfl h rfl rfl,
      fun h => exec_answers (d := pairStatusOp) rfl h rfl rfl, fun h => exec_answers (d := keySlotInfoOp) rfl h rfl rfl,
      fun h => exec_answers (d := evrReadOp) rfl h rfl rfl⟩
  · -- LEG_STATUS tells of the engines, of a channel, or of a LIN channel in AUTONOMOUS with a free rate.
    refine ⟨fun h engines => exec_answers (d := legStatusOp) rfl h rfl (if_pos engines),
      fun h channel known => exec_answers (d := legStatusOp) rfl h rfl ((if_neg channel).trans (if_neg known)),
      fun h channel lin auto => exec_answers (d := legStatusOp) rfl h rfl ((if_neg channel).trans (if_pos ⟨lin, auto⟩)),
      fun h => exec_answers (d := portStatusOp) rfl h rfl rfl⟩

end Sys2Proof.Machine

/-!
PROOFS. SYS_SET_MODE, SYS_SET_AUTH_POLICY and PAIR_SWITCHOVER (R33-R35, R47, R392), and commands that the pair relays (R391).
-/
namespace Sys2Proof.Machine

/-! A relayed command without an instant of its own. -/

theorem relayOrRun_of_relays {effect : Req → State → State} {r : Req} {s : State} (hi : r.instant = none) (h : relays s = true) :
    relayOrRun effect r s = awaitSync r.tag s := by
  simp [relayOrRun, hi, h]

theorem relayOrRun_of_not_relays {effect : Req → State → State} {r : Req} {s : State} (hi : r.instant = none)
    (h : relays s = false) : relayOrRun effect r s = effect r s := by
  simp [relayOrRun, hi, h]

/-! SYS_SET_MODE (Table 1.8). -/

theorem setMode_checks_of_runs {r : Req} {s : State} (h : setModeRuns (modeTarget r) s = true) : sysSetModeOp.checks r s = none :=
  if_pos h

theorem setMode_checks_of_not_runs {r : Req} {s : State} (h : setModeRuns (modeTarget r) s = false) :
    sysSetModeOp.checks r s = some (stWrongMode, 0) :=
  if_neg (by simp [h])

/-- RECOVERY is not relayed: its source asserts here (R34). -/
theorem setMode_commit_recovery {r : Req} (h : modeTarget r = 3) (s : State) : sysSetModeOp.commit r s
    = assertSource 12 (answer r stOk 0 [] { s with sys := { s.sys with recoveryRequest := true } }) := by
  simp [sysSetModeOp, setModeEffect, h]

theorem setMode_commit_other {r : Req} (h : modeTarget r ≠ 3) (s : State) :
    sysSetModeOp.commit r s = relayOrRun setModeEffect r s := by
  simp [sysSetModeOp, h]

theorem setModeEffect_safe {r : Req} {s : State} (h : modeTarget r = 7) (hr : setModeRuns 7 s = true) :
    setModeEffect r s = answer r stOk 0 [] (enterSafe s) := by
  simp [setModeEffect, h, hr]

theorem setModeEffect_autonomous {r : Req} {s : State} (h : modeTarget r = 4) (hr : setModeRuns 4 s = true) :
    setModeEffect r s = { s with sys := { s.sys with
      autonomousTag := some (if r.fromPeer then peerTag else r.tag), autonomousAt := nextBoundary 0 s } } := by
  simp [setModeEffect, h, hr]

/-- The commit point leaves what the mode controller looks at alone. -/
theorem setModeRuns_committed (target : Nat) (t : Word16) (s : State) :
    setModeRuns target (committed t s) = setModeRuns target s := rfl

theorem sysSetMode_row {t : Word16} {e : InFlight} {s : State} (h : ready 0x0010 t e s = true) :
    let c := committed t s
    let r := reqAt e
    (setModeRuns (modeTarget r) s = false → exec (.sysSetMode (.accepted t)) s = .next (finalReply t stWrongMode 0 [] s))
    ∧ (setModeRuns (modeTarget r) s = true → modeTarget r = 3 → exec (.sysSetMode (.accepted t)) s
        = .next (assertSource 12 (finalReply t stOk 0 [] { c with sys := { c.sys with recoveryRequest := true } })))
    ∧ (setModeRuns (modeTarget r) s = true → modeTarget r ≠ 3 → relays c = true → r.instant = none →
        exec (.sysSetMode (.accepted t)) s = .next (awaitSync t c))
    ∧ (setModeRuns (modeTarget r) s = true → modeTarget r = 7 → relays c = false → r.instant = none →
        exec (.sysSetMode (.accepted t)) s = .next (finalReply t stOk 0 [] (enterSafe c)))
    ∧ (setModeRuns (modeTarget r) s = true → modeTarget r = 4 → relays c = false → r.instant = none →
        exec (.sysSetMode (.accepted t)) s
          = .next { c with sys := { c.sys with autonomousTag := some t, autonomousAt := nextBoundary 0 c } }) := by
  intro c r
  have own : r.tag = t := tag_of_ready h
  have commits (runs : setModeRuns (modeTarget r) s = true) : exec (.sysSetMode (.accepted t)) s = .next (sysSetModeOp.commit r c) :=
    exec_commits (d := sysSetModeOp) rfl h (setMode_checks_of_runs runs)
  refine ⟨fun fails => exec_fails (d := sysSetModeOp) rfl h (setMode_checks_of_not_runs fails), fun runs recovery => ?_,
    fun runs other relay untimed => ?_, fun runs safe alone untimed => ?_, fun runs auto alone untimed => ?_⟩
  · rw [commits runs, setMode_commit_recovery recovery, answer_reqAt (tag_of_ready h)]
  · rw [commits runs, setMode_commit_other other, relayOrRun_of_relays untimed relay, own]
  · rw [commits runs, setMode_commit_other (by omega), relayOrRun_of_not_relays untimed alone,
      setModeEffect_safe safe (safe ▸ runs), answer_reqAt (tag_of_ready h)]
  · rw [commits runs, setMode_commit_other (by omega), relayOrRun_of_not_relays untimed alone,
      setModeEffect_autonomous auto (auto ▸ runs), own]
    rfl

/-- Settles O17: the three commands' commits, the first by its target and by whether the pair relays it. -/
theorem modeAndRoleCommands : Obligations.ModeAndRoleCommands := by
  unfold Obligations.ModeAndRoleCommands
  refine ⟨fun t e s => ⟨fun h => sysSetMode_row h, fun h => ⟨fun w2 relax policy => ?_, fun policy => ?_⟩⟩,
    fun t e s h => ⟨fun free => ?_, fun taken => ?_⟩⟩
  · refine exec_answers (d := sysSetAuthPolicyOp) rfl h rfl ?_
    simp only [sysSetAuthPolicyOp, policy]
  · rw [exec_commits (d := sysSetAuthPolicyOp) rfl h rfl]
    simp only [sysSetAuthPolicyOp, policy]
  · rw [exec_commits (d := pairSwitchoverOp) rfl h (by simp [pairSwitchoverOp, free])]
    obtain rfl := tag_of_ready h
    rfl
  · exact exec_fails (d := pairSwitchoverOp) rfl h (by simp [pairSwitchoverOp, taken])

end Sys2Proof.Machine

/-!
PROOFS. The staging commands of the run image (R72-R75): what each writes, on this device and for the peer.
-/
namespace Sys2Proof.Machine

theorem record_img (ty : Nat) (body : Bytes) (s : State) : (record ty body s).img = s.img := by rw [record_recorder ty body s]

theorem noteCert_img (i : RunImage) (s : State) : (noteCert i s).img = s.img := by
  unfold noteCert
  dsimp only
  split
  · exact record_img ..
  · rfl

/-! IMG_BEGIN (R72, R77). -/

theorem imgBegin_own {r : Req} (h : imgTarget 4 r = 0) (s : State) :
    imgBegin r s = { s with img := (imgBegin r s).img, lanes := (imgBegin r s).lanes }
      ∧ (imgBegin r s).img.session = some
          { owner := r.transport, bank := inactiveBank s, len := fieldLe r.payload 0 4, verified := false, staged := false
            written := if Tab.get s.img.lens (inactiveBank s) 0 = fieldLe r.payload 0 4
              then Tab.get s.img.ranges (inactiveBank s) [] else [] }
      ∧ (imgBegin r s).img.banks = s.img.banks ∧ (imgBegin r s).img.shadow = none
      ∧ (imgBegin r s).img.peerSession = s.img.peerSession
      ∧ (imgBegin r s).lanes = (if s.img.shadow.isSome = true then (releaseOther s).lanes else s.lanes) := by
  unfold imgBegin releaseOther
  dsimp only
  rw [if_pos h]
  split_ifs <;> exact ⟨rfl, rfl, rfl, rfl, rfl, rfl⟩

theorem imgBegin_peer {r : Req} (h : imgTarget 4 r ≠ 0) (s : State) :
    ∃ w : List (Nat × Nat), imgBegin r s = { s with img := { s.img with
      peerSession := some { owner := r.transport, bank := 0, len := fieldLe r.payload 0 4, written := w
                            verified := false, staged := false } } } := by
  unfold imgBegin
  dsimp only
  rw [if_neg h]
  exact ⟨_, rfl⟩

/-! IMG_CHUNK (R73). -/

/-- What a memory reads after the data of a chunk, the payload behind its eight bytes of header, is written whole at `off`. -/
theorem read_writeChunk (m : Mem) (payload : Bytes) (off a : Nat) (hfit : off + (payload.length - 8) ≤ 2097152) :
    Mem.read (Mem.writeAll m off ((payload.drop 8).take (2097152 - off))) a
      = if off ≤ a ∧ a < off + (payload.length - 8) then payload.getD (8 + (a - off)) 0 else Mem.read m a := by
  have whole : (payload.drop 8).take (2097152 - off) = payload.drop 8 :=
    List.take_of_length_le (by rw [List.length_drop]; omega)
  rw [whole, Mem.read_writeAll, List.length_drop, List.getD_eq_getElem?_getD, List.getElem?_drop, List.getD_eq_getElem?_getD]

theorem imgChunk_own {r : Req} {s : State} {x : ImgSession} (h : imgTarget 4 r = 0) (hx : s.img.session = some x)
    (hfit : fieldLe r.payload 0 4 + (r.payload.length - 8) ≤ 2097152) :
    imgChunk r s = { s with img := (imgChunk r s).img }
      ∧ ∀ a : Nat, Mem.read (imgBank (imgChunk r s) x.bank) a
          = if fieldLe r.payload 0 4 ≤ a ∧ a < fieldLe r.payload 0 4 + (r.payload.length - 8)
            then r.payload.getD (8 + (a - fieldLe r.payload 0 4)) 0 else Mem.read (imgBank s x.bank) a := by
  have session : imgSession (imgTarget 4 r) s = some x := by rw [imgSession, if_pos h, hx]
  unfold imgChunk
  simp only [session, if_pos h, setImgSession]
  refine ⟨trivial, fun a => ?_⟩
  rw [imgBank, Tab.get_set, if_pos rfl]
  exact read_writeChunk _ _ _ a hfit

theorem imgChunk_peer {r : Req} {s : State} {x : ImgSession} (h : imgTarget 4 r ≠ 0) (hx : s.img.peerSession = some x)
    (hfit : fieldLe r.payload 0 4 + (r.payload.length - 8) ≤ 2097152) :
    imgChunk r s = { s with img := (imgChunk r s).img } ∧ (imgChunk r s).img.banks = s.img.banks
      ∧ (imgChunk r s).img.session = s.img.session
      ∧ ∀ a : Nat, Mem.read (imgChunk r s).img.peerBank a
          = if fieldLe r.payload 0 4 ≤ a ∧ a < fieldLe r.payload 0 4 + (r.payload.length - 8)
            then r.payload.getD (8 + (a - fieldLe r.payload 0 4)) 0 else Mem.read s.img.peerBank a := by
  have session : imgSession (imgTarget 4 r) s = some x := by rw [imgSession, if_neg h, hx]
  unfold imgChunk
  simp only [session, if_neg h, setImgSession]
  exact ⟨trivial, trivial, trivial, fun a => read_writeChunk _ _ _ a hfit⟩

/-! IMG_VERIFY (R74). -/

theorem imgVerify_commit_own {r : Req} {s : State} {x : ImgSession} (h : imgTarget 0 r = 0) (hx : s.img.session = some x) :
    imgVerifyOp.commit r s = imgVerifyOwn r x s := by
  simp [imgVerifyOp, imgSession, h, hx]

theorem imgVerify_commit_peer {r : Req} {s : State} {x : ImgSession} (h : imgTarget 0 r ≠ 0) (hx : s.img.peerSession = some x) :
    imgVerifyOp.commit r s = imgVerifyPeer r x s := by
  simp [imgVerifyOp, imgSession, h, hx]

theorem imgVerifyOwn_ok {r : Req} {s : State} {x : ImgSession} {i : RunImage} (h : verifyOwn x s = .ok i) :
    imgVerifyOwn r x s = answer r stOk 0 (verifyResult i.digest 0 s.img.pace (paceThreshold i))
      (noteCert i { s with img := { s.img with session := some { x with verified := true } } }) := by
  simp only [imgVerifyOwn, h, noteCert_img]

theorem imgVerifyOwn_error {r : Req} {s : State} {x : ImgSession} {f : VerifyFailure} (h : verifyOwn x s = .error f) :
    imgVerifyOwn r x s = answer r f.status f.detail (failedResult (sessionBytes x s) f s.img.pace s).1
      (failedResult (sessionBytes x s) f s.img.pace s).2 := by
  simp only [imgVerifyOwn, h]

/-! IMG_STAGE (R75). -/

theorem imgStage_own {r : Req} {s : State} {x : ImgSession} (h : imgTarget 0 r = 0) (hx : s.img.session = some x) :
    imgStage r s = loadOther (bankOf (some (imageOf (sessionBytes x s)))) { s with img := { s.img with
      session := some { x with staged := true }, shadow := some (imageOf (sessionBytes x s)) } } := by
  simp [imgStage, imgSession, h, hx]

theorem imgStage_peer {r : Req} {s : State} {x : ImgSession} (h : imgTarget 0 r ≠ 0) (hx : s.img.peerSession = some x) :
    imgStage r s = { s with img := { s.img with peerSession := some { x with staged := true } }, freeCtr := s.freeCtr + 1 } := by
  simp [imgStage, imgSession, h, hx, drawNat]

/-- Settles O18: the four commits on the state after the commit point, by the target's session. -/
theorem stagingCommands : Obligations.StagingCommands := by
  unfold Obligations.StagingCommands
  intro t e s c r b len
  refine ⟨fun h hc own => ?_, fun h hc peer => ?_, fun x h hc own hx hfit => ?_, fun x h hc peer hx hfit => ?_,
    fun x h hc own hx => ⟨fun i ok => ?_, fun f failed => ?_⟩, fun x h hc peer hx => ?_, fun x h hc own hx => ?_,
    fun x h hc peer hx => ?_⟩
  · exact ⟨imgBegin r c, exec_answers (d := imgBeginOp) rfl h hc rfl, imgBegin_own own c⟩
  · obtain ⟨w, hw⟩ := imgBegin_peer peer c
    exact ⟨w, exec_answers (d := imgBeginOp) rfl h hc (congrArg (answer r stOk 0 []) hw)⟩
  · exact ⟨imgChunk r c, exec_answers (d := imgChunkOp) rfl h hc rfl, imgChunk_own own hx hfit⟩
  · exact ⟨imgChunk r c, exec_answers (d := imgChunkOp) rfl h hc rfl, imgChunk_peer peer hx hfit⟩
  · exact exec_answers (d := imgVerifyOp) rfl h hc ((imgVerify_commit_own own hx).trans (imgVerifyOwn_ok ok))
  · exact exec_answers (d := imgVerifyOp) rfl h hc ((imgVerify_commit_own own hx).trans (imgVerifyOwn_error failed))
  · exact (exec_commits (d := imgVerifyOp) rfl h hc).trans (congrArg _ (imgVerify_commit_peer peer hx))
  · exact exec_answers (d := imgStageOp) rfl h hc (congrArg (answer r stOk 0 []) (imgStage_own own hx))
  · exact exec_answers (d := imgStageOp) rfl h hc (congrArg (answer r stOk 0 []) (imgStage_peer peer hx))

end Sys2Proof.Machine

/-!
PROOFS. The commands that arm a switch (R78, R84, R118), and FWL_CONN_FLUSH and TIME_RESTEP, whose record goes first (R138, R226).
-/
namespace Sys2Proof.Machine

/-! IMG_ACTIVATE: a timed command by its own payload (R61, R78). -/

theorem imageBusy_interimReply (e : InFlight) (s : State) : imageBusy (interimReply e s) = imageBusy s := by
  rw [imageBusy, interimReply_transports e s]
  rfl

/-- A command that waits for an instant of its own payload is armed after its interim reply, unless an execution check fails. -/
theorem beginCommand_of_ownInstant {d : OpDef} {e : InFlight} {i : Int} (hd : isDryrun e.packet = false)
    (ha : isAtTime e.packet = false) (hi : e.instant = some i) (hc : d.commitsAtOnce = false) (s : State) :
    (d.checks (reqAt e) (interimReply e s) = none → beginCommand d e s
        = d.arm (reqAt e) (updTag e.packet.tag (fun x => { x with phase := .armed }) (interimReply e s)))
      ∧ ∀ st dt : Nat, d.checks (reqAt e) (interimReply e s) = some (st, dt) →
          beginCommand d e s = finalReply e.packet.tag st dt [] (interimReply e s) := by
  have untimed : (reqAt e).instant = none := by simp [reqAt, reqOf, ha]
  have live : (reqAt e).dryrun = false := hd
  have begins : beginCommand d e s = match d.checks (reqAt e) (interimReply e s) with
      | some (st, dt) => finalReply e.packet.tag st dt [] (interimReply e s)
      | none => d.arm (reqAt e) (updTag e.packet.tag (fun x => { x with phase := .armed }) (interimReply e s)) := by
    unfold reqAt at untimed live ⊢
    simp only [beginCommand, hi, live, hc, untimed, Option.isSome_some, if_true, Bool.false_eq_true, if_false, Bool.not_false,
      Bool.and_true, Option.isSome_none]
    rfl
  refine ⟨fun h => ?_, fun st dt h => ?_⟩
  · rw [begins, h]
  · rw [begins, h]

theorem imgActivate_row {t : Word16} {e : InFlight} {s : State} {i : Int} (he : findTag s t = some e) (hop : e.opcode = 0x0105)
    (hw : e.phase = .waiting) (hs : clusterServes s = true) (hm : mayBegin e s = true) (hd : isDryrun e.packet = false)
    (ha : isAtTime e.packet = false) (hi : e.instant = some i) :
    (imageBusy s = false →
      let x := updTag t (fun x => { x with phase := .armed }) (interimReply e s)
      exec (.imgActivate (.accepted t)) s = .next (wakeRequest 0 { x with img := { x.img with
        armed := some (t, timeOf (fit 12 ((reqAt e).payload.take 10))) } }))
    ∧ (imageBusy s = true → exec (.imgActivate (.accepted t)) s = .next (finalReply t stBusy 0 [] (interimReply e s))) := by
  obtain rfl := tag_of_findTag he
  have begins : exec (.imgActivate (.accepted e.packet.tag)) s = .next (beginCommand imgActivateOp e s) :=
    congrArg _ (runCommand_of_waiting (d := imgActivateOp) he hop hw hs hm)
  obtain ⟨arms, fails⟩ := beginCommand_of_ownInstant (d := imgActivateOp) hd ha hi rfl s
  rw [← imageBusy_interimReply e s, begins]
  refine ⟨fun free => congrArg _ (arms ?_), fun busy => congrArg _ (fails stBusy 0 ?_)⟩
  · simp [imgActivateOp, free]
  · simp [imgActivateOp, busy]

/-! PRS_BANK_SWAP (R118). -/

theorem prsBankSwap_checks_of_imageBusy {r : Req} {s : State} (h : imageBusy s = true) :
    prsBankSwapOp.checks r s = some (stBusy, 0) := by
  simp [prsBankSwapOp, h]

theorem prsBankSwap_checks_of_draining {r : Req} {s : State} (h : imageBusy s = false) (ho : s.lanes.other ≠ 0) :
    prsBankSwapOp.checks r s = some (stBusyDraining, 0) := by
  simp [prsBankSwapOp, h, ho]

theorem prsBankSwap_checks_of_free {r : Req} {s : State} (h : imageBusy s = false) (ho : s.lanes.other = 0) :
    prsBankSwapOp.checks r s = none := by
  simp [prsBankSwapOp, h, ho]

/-- The rebuilt bank is loaded, so the swap's effect sets its boundary and nothing else. -/
theorem bankSwapEffect_of_loaded {r : Req} {s : State} (hp : r.fromPeer = false) (ho : s.lanes.other = 2) :
    bankSwapEffect r s
      = { s with lanes := { s.lanes with swap := some (r.tag, r.instant.getD (nextBoundary 50000 s)) } } := by
  simp [bankSwapEffect, hp, ho]

/-- The rebuilt bank waits for its swap at `i`. -/
def swapArmed (t : Word16) (i : Int) (s : State) : State :=
  { rebuildBank s with lanes := { (rebuildBank s).lanes with swap := some (t, i) } }

@[simp] theorem relays_swapArmed (t : Word16) (i : Int) (s : State) : relays (swapArmed t i s) = relays s := rfl

theorem prsBankSwap_commit {r : Req} (hp : r.fromPeer = false) (s : State) :
    ∃ i : Int, prsBankSwapOp.commit r s
      = if relays (swapArmed r.tag i s) then awaitSync r.tag (swapArmed r.tag i s) else swapArmed r.tag i s := by
  let commanded : State := swapArmed r.tag (r.instant.getD 0) s
  have commit : prsBankSwapOp.commit r s = if relays s then awaitSync r.tag commanded else bankSwapEffect r commanded := rfl
  cases relay : relays s with
  | true => exact ⟨r.instant.getD 0, by rw [commit, relays_swapArmed, relay]; rfl⟩
  | false =>
    refine ⟨r.instant.getD (nextBoundary 50000 commanded), ?_⟩
    rw [commit, relays_swapArmed, relay, bankSwapEffect_of_loaded hp rfl]
    rfl

/-- Settles O19: the activation is armed by its own instant, and the patch and the bank swap commit at once, for the pair to relay. -/
theorem armingCommands : Obligations.ArmingCommands := by
  unfold Obligations.ArmingCommands
  refine fun t e s => ⟨fun i he hop hw hs hm hd ha hi => imgActivate_row he hop hw hs hm hd ha hi,
    fun h => ⟨fun hc => ?_, fun st dt hc => exec_fails (d := imgPatchOp) rfl h hc⟩,
    fun h => ⟨fun busy => exec_fails (d := prsBankSwapOp) rfl h (prsBankSwap_checks_of_imageBusy busy),
      fun free draining => exec_fails (d := prsBankSwapOp) rfl h (prsBankSwap_checks_of_draining free draining),
      fun free released => ?_⟩⟩
  · obtain rfl := tag_of_ready h
    exact exec_commits (d := imgPatchOp) rfl h hc
  · obtain rfl := tag_of_ready h
    obtain ⟨i, hcommit⟩ := prsBankSwap_commit (r := reqAt e) rfl (committed e.packet.tag s)
    exact ⟨_, i, rfl, rfl, (exec_commits (d := prsBankSwapOp) rfl h (prsBankSwap_checks_of_free free released)).trans
      (congrArg _ hcommit)⟩

/-! FWL_CONN_FLUSH (R138). -/

theorem noteCt_fwl (k : ConnKey) (c : Option Conn) (s : State) : (noteCt k c s).fwl = s.fwl := rfl

theorem finalReply_fwl (t : Word16) (st dt : Nat) (result : Bytes) (s : State) : (finalReply t st dt result s).fwl = s.fwl := by
  rw [finalReply_transports t st dt result s]

theorem writeRecord_fwl (ty : Nat) (body : Bytes) (s : State) : (writeRecord ty body s).fwl = s.fwl := by
  rw [writeRecord_recorder ty body s]

theorem connFlush_conns {r : Req} (hp : r.fromPeer = false) (s : State) :
    (connFlush r s).fwl.conns = s.fwl.conns.filter fun x => !inFlushScope r x.1 x.2 := by
  have noted : ∀ (l : List (Nat × Conn)) (u : State), (l.foldl (fun u x => noteCt x.2.key none u) u).fwl = u.fwl :=
    fun l u => List.foldlRecOn (motive := fun v : State => v.fwl = u.fwl) l _ rfl fun v hv x _ => (noteCt_fwl ..).trans hv
  simp only [connFlush, answer, hp, Bool.false_eq_true, false_and, if_false, finalReply_fwl, noted]

theorem fwlConnFlush_checks_of_open {r : Req} {s : State} (h : recorderClosed 8 s = false) :
    fwlConnFlushOp.checks r s = none :=
  if_neg (by simp [h])

theorem fwlConnFlush_checks_of_closed {r : Req} {s : State} (h : recorderClosed 8 s = true) :
    fwlConnFlushOp.checks r s = some (stNoResources, 0) :=
  if_pos h

theorem fwlConnFlush_commit {r : Req} (hi : r.instant = none) (s : State) :
    fwlConnFlushOp.commit r s = relayOrRun connFlush r (journalFlush r s) := by
  simp [fwlConnFlushOp, hi]

/-! TIME_RESTEP (R226). -/

theorem findTag_committed {s : State} {t : Word16} {e : InFlight} (h : findTag s t = some e) :
    findTag (committed t s) t = some { e with phase := .committed } := by
  have tags : ((fun x : InFlight => x.packet.tag == t) ∘ fun x => if x.packet.tag == t then { x with phase := .committed } else x)
      = fun x => x.packet.tag == t := by
    funext x
    simp only [Function.comp_apply]
    split <;> rfl
  simp only [findTag] at h
  simp only [findTag, committed, updTag, List.find?_map, tags, h, Option.map_some, tag_of_findTag h, beq_self_eq_true, if_true]

theorem timeRestep_commit {r : Req} {s : State} {e : InFlight} (hi : r.instant = none) (he : findTag s r.tag = some e)
    (ha : e.aux = []) :
    let x := overtakeLock (byteAt r.payload 0) s
    let d := restepDelta { r with instant := none } x
    timeRestepOp.commit r s
      = answer r stOk 0 (stepBytes d) (stepDomain (byteAt r.payload 0) d (writeRecord 0x0603 (restepBody r d) x)) := by
  simp [timeRestepOp, he, ha, hi]

/-- Settles O20: both commands refuse a closed recorder, write their record before what it tells, and only the flush is relayed. -/
theorem flushAndRestepCommands : Obligations.FlushAndRestepCommands := by
  unfold Obligations.FlushAndRestepCommands
  constructor
  · intro t e s c r h hi
    refine ⟨fun open' alone => ⟨?_, ?_⟩, fun open' relay => ?_,
      fun closed => exec_fails (d := fwlConnFlushOp) rfl h (fwlConnFlush_checks_of_closed closed)⟩
    · rw [exec_commits (d := fwlConnFlushOp) rfl h (fwlConnFlush_checks_of_open open'), fwlConnFlush_commit hi,
        relayOrRun_of_not_relays hi alone]
    · rw [connFlush_conns rfl, journalFlush, writeRecord_fwl]
      rfl
    · rw [exec_commits (d := fwlConnFlushOp) rfl h (fwlConnFlush_checks_of_open open'), fwlConnFlush_commit hi,
        relayOrRun_of_relays hi relay, show (reqAt e).tag = t from tag_of_ready h]
  · intro t e s c r x d h hi
    refine ⟨fun open' fresh => ?_, fun closed => exec_fails (d := timeRestepOp) rfl h (if_pos closed)⟩
    obtain rfl := tag_of_ready h
    have entry := findTag_committed (ready_iff.1 h).1
    exact exec_answers (d := timeRestepOp) rfl h (if_neg (by simp [open'])) (timeRestep_commit hi entry fresh)

end Sys2Proof.Machine

/-!
PROOFS. LEG_CHANNEL_CTL, PORT_LINK_CTL and MSEC_SA_INSTALL (R276, R289, R295), WAKE_SLEEP_REQUEST and WAKE_SEGMENT (R345, R346).
-/
namespace Sys2Proof.Machine

/-! LEG_CHANNEL_CTL (R276). -/

theorem channelCtl_recover {r : Req} {s : State} (h : byteAt r.payload 1 = 0) (hs : (chOf s (byteAt r.payload 0)).st = 3) :
    channelCtl r s = setCh (byteAt r.payload 0) { chOf s (byteAt r.payload 0) with recovering := true } s := by
  simp [channelCtl, h, hs]

theorem channelCtl_stop {r : Req} {s : State} (h : byteAt r.payload 1 = 1) (h0 : (chOf s (byteAt r.payload 0)).st ≠ 0)
    (h6 : (chOf s (byteAt r.payload 0)).st ≠ 6) :
    channelCtl r s = if (chOf s (byteAt r.payload 0)).onBus = none
      then setStb (byteAt r.payload 0) true (channelDown (byteAt r.payload 0) 6 s) else channelDown (byteAt r.payload 0) 6 s := by
  simp [channelCtl, h, h0, h6]

theorem channelCtl_of_two_le {r : Req} (h : 2 ≤ byteAt r.payload 1) (s : State) :
    channelCtl r s = if (chOf s (byteAt r.payload 0)).st = 6 then startChannel (byteAt r.payload 0) s else s := by
  unfold channelCtl
  split
  · omega
  · omega
  · rfl

theorem channelCtl_idle {r : Req} {s : State}
    (h : (byteAt r.payload 1 = 0 ∧ (chOf s (byteAt r.payload 0)).st ≠ 3)
      ∨ (byteAt r.payload 1 = 1 ∧ ((chOf s (byteAt r.payload 0)).st = 0 ∨ (chOf s (byteAt r.payload 0)).st = 6))
      ∨ (2 ≤ byteAt r.payload 1 ∧ (chOf s (byteAt r.payload 0)).st ≠ 6)) : channelCtl r s = s := by
  obtain ⟨h, hs⟩ | ⟨h, hs⟩ | ⟨h, hs⟩ := h
  · simp [channelCtl, h, hs]
  · simp [channelCtl, h, hs]
  · rw [channelCtl_of_two_le h, if_neg hs]

/-! PORT_LINK_CTL (R295). -/

theorem linkCtl_down {r : Req} (h : byteAt r.payload 1 = 0) (s : State) :
    linkCtl r s = answer r stOk 0 [] (takeDown (byteAt r.payload 0) .heldDown s) := by
  simp [linkCtl, h]

theorem linkCtl_up {r : Req} (h : byteAt r.payload 1 = 1) (s : State) :
    linkCtl r s = answer r stOk 0 [] (bringUp (byteAt r.payload 0) s) := by
  simp [linkCtl, h]

theorem linkCtl_retrain {r : Req} (h : byteAt r.payload 1 = 2) (s : State) :
    linkCtl r s = answer r stOk 0 []
      (bringUp (byteAt r.payload 0) (setPort (byteAt r.payload 0) (dropCoeffs (port s (byteAt r.payload 0))) s)) := by
  simp [linkCtl, h]

theorem linkCtl_read {r : Req} (h : byteAt r.payload 1 = 3) (s : State) :
    let p := byteAt r.payload 0
    let x := emit (.mdio p (portCfg s p).mdioAddr (fieldLe r.payload 4 2 * 65536 + fieldLe r.payload 6 2) none) s
    linkCtl r s = if (drawNat x).1 % 65537 = 65536 then answer r stOk 0 [0xFF, 0xFF] (noTurnaround p (drawNat x).2)
      else answer r stOk 0 (leBytes 2 ((drawNat x).1 % 65537)) (drawNat x).2 := by
  simp [linkCtl, h]

theorem linkCtl_write {r : Req} (h : 4 ≤ byteAt r.payload 1) (s : State) :
    linkCtl r s = answer r stOk 0 [] (emit (.mdio (byteAt r.payload 0) (portCfg s (byteAt r.payload 0)).mdioAddr
      (fieldLe r.payload 4 2 * 65536 + fieldLe r.payload 6 2) (some (fieldLe r.payload 8 2))) s) := by
  unfold linkCtl
  split
  · omega
  · omega
  · omega
  · omega
  · rfl

/-! The rows that wait while their block is held (R357). -/

theorem legChannelCtl_row {t : Word16} {e : InFlight} {s : State} (h : ready 0x0702 t e s = true)
    (hh : channelCtlHeld s e.packet = false) :
    exec (.legChannelCtl (.accepted t)) s = .next (runCommand legChannelCtlOp (.accepted t) s) :=
  congrArg _ ((runUnlessHeld_accepted (ready_iff.1 h).1 _).trans (if_neg (by simp [hh])))

theorem portLinkCtl_row {t : Word16} {e : InFlight} {s : State} (h : ready 0x0802 t e s = true)
    (hh : linkCtlHeld s e.packet = false) :
    exec (.portLinkCtl (.accepted t)) s = .next (runCommand portLinkCtlOp (.accepted t) s) :=
  congrArg _ ((runUnlessHeld_accepted (ready_iff.1 h).1 _).trans (if_neg (by simp [hh])))

theorem legChannelCtl_answers {t : Word16} {e : InFlight} {s u : State} (h : ready 0x0702 t e s = true)
    (hh : channelCtlHeld s e.packet = false) (hu : channelCtl (reqAt e) (committed t s) = u) :
    exec (.legChannelCtl (.accepted t)) s = .next (finalReply t stOk 0 [] u) :=
  exec_answers (d := legChannelCtlOp) (legChannelCtl_row h hh) h rfl (congrArg (answer (reqAt e) stOk 0 []) hu)

theorem portLinkCtl_answers {t : Word16} {e : InFlight} {s u : State} {result : Bytes} (h : ready 0x0802 t e s = true)
    (hh : linkCtlHeld s e.packet = false) (hu : linkCtl (reqAt e) (committed t s) = answer (reqAt e) stOk 0 result u) :
    exec (.portLinkCtl (.accepted t)) s = .next (finalReply t stOk 0 result u) :=
  exec_answers (d := portLinkCtlOp) (portLinkCtl_row h hh) h rfl hu

/-! MSEC_SA_INSTALL (R289). -/

theorem saInstall_tx {r : Req} (h : byteAt r.payload 1 = 0) (s : State) :
    let p := byteAt r.payload 0
    let an := byteAt r.payload 2
    let x := port s p
    (bit (byteAt r.payload 3) 1 = false → saInstall r s = answer r stOk 0 [] (setPort p { x with
        txSas := Tab.set x.txSas an (saOf r.payload s), txAn := if bit (byteAt r.payload 3) 0 then some an else x.txAn } s))
    ∧ (bit (byteAt r.payload 3) 1 = true → saInstall r s = answer r stOk 0 [] (setPort p { x with
        txSas := Tab.del x.txSas an, txAn := if x.txAn = some an then none else x.txAn } s)) := by
  intro p an x
  exact ⟨fun add => by simp [saInstall, h, add, p, an, x], fun remove => by simp [saInstall, h, remove, p, an, x]⟩

theorem saInstall_rx {r : Req} (h : byteAt r.payload 1 ≠ 0) (s : State) :
    let p := byteAt r.payload 0
    let x := port s p
    (bit (byteAt r.payload 3) 1 = false → saInstall r s = answer r stOk 0 [] (setPort p { x with
        rxSas := Tab.set x.rxSas (rxKey r.payload) (saOf r.payload s) } s))
    ∧ (bit (byteAt r.payload 3) 1 = true → saInstall r s = answer r stOk 0 [] (setPort p { x with
        rxSas := Tab.del x.rxSas (rxKey r.payload) } s)) := by
  intro p x
  exact ⟨fun add => by simp [saInstall, h, add, p, x], fun remove => by simp [saInstall, h, remove, p, x]⟩

/-- Settles O21: the rows of a block that is not held are the shared path, and each action has its case in the commit. -/
theorem channelAndPortCommands : Obligations.ChannelAndPortCommands := by
  unfold Obligations.ChannelAndPortCommands
  intro t e s c r p op ch
  refine ⟨fun h hh => ⟨fun h0 h3 => ?_, fun h1 hn0 hn6 => ?_, fun h2 h6 => ?_, fun idle => ?_⟩,
    fun h hh => ⟨fun h0 => ?_, fun h1 => ?_, fun h2 => ?_, fun h3 => ?_, fun h4 => ?_⟩,
    fun h => ⟨fun tx add => ?_, fun tx remove => ?_, fun rx add => ?_, fun rx remove => ?_⟩⟩
  · exact legChannelCtl_answers h hh (channelCtl_recover h0 h3)
  · exact legChannelCtl_answers h hh (channelCtl_stop h1 hn0 hn6)
  · exact legChannelCtl_answers h hh ((channelCtl_of_two_le h2 _).trans (if_pos h6))
  · exact legChannelCtl_answers h hh (channelCtl_idle idle)
  · exact portLinkCtl_answers h hh (linkCtl_down h0 _)
  · exact portLinkCtl_answers h hh (linkCtl_up h1 _)
  · exact portLinkCtl_answers h hh (linkCtl_retrain h2 _)
  · -- The PHY's answer to a read is the next free number, and one value stands for no turnaround.
    have read := linkCtl_read h3 c
    split
    next silent => exact portLinkCtl_answers h hh (read.trans (if_pos silent))
    next turned => exact portLinkCtl_answers h hh (read.trans (if_neg turned))
  · exact portLinkCtl_answers h hh (linkCtl_write h4 _)
  · exact exec_answers (d := msecSaInstallOp) rfl h rfl ((saInstall_tx tx c).1 add)
  · exact exec_answers (d := msecSaInstallOp) rfl h rfl ((saInstall_tx tx c).2 remove)
  · exact exec_answers (d := msecSaInstallOp) rfl h rfl ((saInstall_rx rx c).1 add)
  · exact exec_answers (d := msecSaInstallOp) rfl h rfl ((saInstall_rx rx c).2 remove)

/-! WAKE_SLEEP_REQUEST (R345). -/

theorem wakeSleep_checks_of_ring {r : Req} {s : State} (h : s.wake.ring ≠ .awake) :
    wakeSleepRequestOp.checks r s = some (stBusy, 0) :=
  if_pos h

theorem wakeSleep_checks_of_stayAwake {r : Req} {s : State} (h : s.wake.ring = .awake) (hs : (stayAwake s).isSome = true) :
    wakeSleepRequestOp.checks r s = some (stBusy, 0x0A01) := by
  simp [wakeSleepRequestOp, h, hs]

theorem wakeSleep_checks_of_idle {r : Req} {s : State} (h : s.wake.ring = .awake) (hs : stayAwake s = none) :
    wakeSleepRequestOp.checks r s = none := by
  simp [wakeSleepRequestOp, h, hs]

/-! WAKE_SEGMENT (R346). -/

theorem wakeSegment_checks_of_held {r : Req} {s : State} (h : wsAction r = 1) (hh : segHeld s (wsSegment r) = true) :
    wakeSegmentOp.checks r s = some (stBusy, 0) :=
  if_pos ⟨h, hh⟩

theorem wakeSegment_checks_of_free {r : Req} {s : State} (h : ¬(wsAction r = 1 ∧ segHeld s (wsSegment r) = true)) :
    wakeSegmentOp.checks r s = none :=
  if_neg h

theorem wakeSegmentEffect_wake {r : Req} (h : wsAction r = 0) (s : State) :
    wakeSegmentEffect r s = if (segOf s (wsSegment r)).st = .awake then answer r stOk 0 (wsResult 2) s
      else answer r stOk 0 (wsResult 0) (wakeSegment (wsSegment r) s) := by
  simp [wakeSegmentEffect, h]

theorem wakeSegmentEffect_sleep {r : Req} (h : wsAction r = 1) (hp : r.fromPeer = false) (s : State) :
    wakeSegmentEffect r s = if (segOf s (wsSegment r)).st = .awake then segBegin (wsSegment r) (some r.tag) s
      else answer r stOk 0 (wsResult 2) s := by
  simp [wakeSegmentEffect, h, hp]

theorem wakeSegmentEffect_hold {r : Req} (h : 2 ≤ wsAction r) (s : State) :
    let hold := if wsAction r = 2 then some (s.clk + wsHold r * 1000000000) else none
    let x := updWake (fun w => { w with hold := hold, idleFrom := s.clk }) s
    wakeSegmentEffect r s = answer r stOk 0 (wsResult 0)
      (if wsSegment r = 0xFF then if wsAction r = 2 then wakeRequest 0 x else x
        else setSeg (wsSegment r) { segOf s (wsSegment r) with hold := hold } s) := by
  unfold wakeSegmentEffect
  dsimp only
  split
  · omega
  · omega
  · by_cases device : wsSegment r = 0xFF <;> simp [device]

/-- Settles O23: the round begins where the ring and the stay-awake conditions let it, and WAKE_SEGMENT's effect goes by its action,
at once or at the sync point. -/
theorem wakeCommands : Obligations.WakeCommands := by
  unfold Obligations.WakeCommands
  intro t e s c r
  refine ⟨fun h => ⟨fun awake idle => ?_, fun ring => exec_fails (d := wakeSleepRequestOp) rfl h (wakeSleep_checks_of_ring ring),
      fun awake held => exec_fails (d := wakeSleepRequestOp) rfl h (wakeSleep_checks_of_stayAwake awake held)⟩,
    fun h hi relay free => ?_, fun h hi alone => ?_⟩
  · obtain rfl := tag_of_ready h
    exact exec_commits (d := wakeSleepRequestOp) rfl h (wakeSleep_checks_of_idle awake idle)
  · obtain rfl := tag_of_ready h
    exact (exec_commits (d := wakeSegmentOp) rfl h (wakeSegment_checks_of_free free)).trans
      (congrArg _ (relayOrRun_of_relays hi relay))
  · intro i g hold
    have acts (free : ¬(wsAction r = 1 ∧ segHeld s i = true)) :
        exec (.wakeSegment (.accepted t)) s = .next (wakeSegmentEffect r c) :=
      (exec_commits (d := wakeSegmentOp) rfl h (wakeSegment_checks_of_free free)).trans
        (congrArg _ (relayOrRun_of_not_relays hi alone))
    have answered := fun result u => answer_reqAt (tag_of_ready h) stOk 0 result u
    refine ⟨fun wakes up => ?_, fun wakes down => ?_,
      fun sleeps held => exec_fails (d := wakeSegmentOp) rfl h (wakeSegment_checks_of_held sleeps held),
      fun sleeps free up => ?_, fun sleeps free down => ?_, fun holds segment => ?_, fun holds device => ?_⟩
    · rw [acts (by omega), wakeSegmentEffect_wake wakes, if_pos up, answered]
    · rw [acts (by omega), wakeSegmentEffect_wake wakes, if_neg down, answered]
    · obtain rfl := tag_of_ready h
      rw [acts (by simp [free]), wakeSegmentEffect_sleep sleeps rfl, if_pos up]
      rfl
    · rw [acts (by simp [free]), wakeSegmentEffect_sleep sleeps rfl, if_neg down, answered]
    · rw [acts (by omega), wakeSegmentEffect_hold holds, if_neg segment, answered]
    · rw [acts (by omega), wakeSegmentEffect_hold holds, if_pos device, answered]

end Sys2Proof.Machine

/-!
PROOFS. The update commands (R366, R369-R373): the bank pointer after a change, and what each command writes.
-/
namespace Sys2Proof.Machine

/-! The bank pointer changes by a new slot that is valid while the old one no longer is (R366). -/

theorem Tab.get_map_of_ne {α : Type} (t : Tab α) (f : α → α) {j k : Nat} (h : j ≠ k) (d : α) :
    Tab.get (t.map fun e => if e.1 = k then (e.1, f e.2) else e) j d = Tab.get t j d := by
  induction t with
  | nil => rfl
  | cons e t ih =>
    obtain ⟨a, v⟩ := e
    by_cases ha : a = k
    · simp only [List.map_cons, ha, if_true, Tab.get, if_neg h.symm, ih]
    · simp only [List.map_cons, ha, if_false, Tab.get, ih]

theorem Tab.get_map_self {α : Type} (t : Tab α) (f : α → α) (k : Nat) (d : α) :
    Tab.get (t.map fun e => if e.1 = k then (e.1, f e.2) else e) k d = d
      ∨ ∃ v : α, Tab.get (t.map fun e => if e.1 = k then (e.1, f e.2) else e) k d = f v := by
  induction t with
  | nil => exact .inl rfl
  | cons e t ih =>
    obtain ⟨a, v⟩ := e
    by_cases ha : a = k
    · exact .inr ⟨v, by simp only [List.map_cons, ha, if_true, Tab.get]⟩
    · simpa only [List.map_cons, ha, if_false, Tab.get] using ih

theorem governingSlot_lt (s : State) : governingSlot s < 2 := by
  unfold governingSlot
  split
  · split_ifs <;> decide
  · split <;> decide
  · decide

/-- One slot is valid and the other is not: the pointer is the valid one. -/
theorem bankPointer_of_valid {s : State} {k : Nat} {new : BankSlot} (hk : k < 2) (hv : new.valid = true)
    (hnew : ∀ d : BankSlot, Tab.get s.upd.slots (1 - k) d = new)
    (hold : ∀ d : BankSlot, d.valid = false → (Tab.get s.upd.slots k d).valid = false) : bankPointer s = new := by
  unfold bankPointer
  obtain rfl | rfl : k = 0 ∨ k = 1 := by omega
  · simp [hnew, hold, hv]
  · simp [hnew, hold, hv]

theorem bankPointer_writeSlot (g : BankSlot → BankSlot) (s : State) :
    bankPointer (writeSlot g s) = { g (bankPointer s) with seq := (bankPointer s).seq + 1, valid := true } := by
  have hk := governingSlot_lt s
  refine bankPointer_of_valid hk rfl (fun d => ?_) (fun d hd => ?_)
  · unfold writeSlot
    dsimp only
    rw [Tab.get_map_of_ne _ (fun b : BankSlot => { b with valid := false }) (by omega), Tab.get_set, if_pos rfl]
  · unfold writeSlot
    dsimp only
    obtain h | ⟨v, h⟩ := Tab.get_map_self (Tab.set s.upd.slots (1 - governingSlot s)
      { g (bankPointer s) with seq := (bankPointer s).seq + 1, valid := true }) (fun b : BankSlot => { b with valid := false })
      (governingSlot s) d
    · rw [h, hd]
    · rw [h]

theorem bankPointer_of_slots {s t : State} (h : t.upd.slots = s.upd.slots) : bankPointer t = bankPointer s := by
  simp only [bankPointer, h]

/-! UPD_BEGIN and UPD_CHUNK (R371, R372). -/

theorem updBegin_own {r : Req} {s : State} (h : byteAt r.payload 4 = 0) (hm : s.sys.mode ≠ .recovery) :
    updBegin r s = wakeRequest 0 { s with upd := { s.upd with
      session := some { owner := r.transport, bank := 1 - (bankPointer s).active, len := fieldLe r.payload 0 4, written := [], state := 1 }
      nor := Tab.set s.upd.nor (1 - (bankPointer s).active)
        (eraseBank (norBank s (1 - (bankPointer s).active)) (fieldLe r.payload 0 4)) } } := by
  simp [updBegin, h, hm, updateBank]

theorem read_writePayload (m : Mem) (payload : Bytes) (off a : Nat) :
    Mem.read (Mem.writeAll m off (payload.drop 8)) a
      = if off ≤ a ∧ a < off + (payload.length - 8) then payload.getD (8 + (a - off)) 0 else Mem.read m a := by
  rw [Mem.read_writeAll, List.length_drop, List.getD_eq_getElem?_getD, List.getElem?_drop, List.getD_eq_getElem?_getD]

theorem updChunk_own {r : Req} {s : State} {x : UpdSession} (h : byteAt r.payload 4 = 0) (hx : s.upd.session = some x) :
    updChunk r s = { s with upd := (updChunk r s).upd }
      ∧ ∀ a : Nat, Mem.read (norBank (updChunk r s) x.bank) a
          = if fieldLe r.payload 0 4 ≤ a ∧ a < fieldLe r.payload 0 4 + (r.payload.length - 8)
            then r.payload.getD (8 + (a - fieldLe r.payload 0 4)) 0 else Mem.read (norBank s x.bank) a := by
  have session : updSession (byteAt r.payload 4) s = some x := by rw [updSession, if_pos h, hx]
  unfold updChunk
  simp only [session, if_pos h, setUpdSession]
  refine ⟨trivial, fun a => ?_⟩
  rw [norBank, Tab.get_set, if_pos rfl]
  exact read_writePayload _ _ _ a

theorem updChunk_peer {r : Req} {s : State} {x : UpdSession} (h : byteAt r.payload 4 ≠ 0) (hx : s.upd.peerSession = some x) :
    updChunk r s = { s with upd := (updChunk r s).upd } ∧ (updChunk r s).upd.nor = s.upd.nor
      ∧ (updChunk r s).upd.session = s.upd.session
      ∧ ∀ a : Nat, Mem.read (updChunk r s).upd.peerNor a
          = if fieldLe r.payload 0 4 ≤ a ∧ a < fieldLe r.payload 0 4 + (r.payload.length - 8)
            then r.payload.getD (8 + (a - fieldLe r.payload 0 4)) 0 else Mem.read s.upd.peerNor a := by
  have session : updSession (byteAt r.payload 4) s = some x := by rw [updSession, if_neg h, hx]
  unfold updChunk
  simp only [session, if_neg h, setUpdSession]
  exact ⟨trivial, trivial, trivial, fun a => read_writePayload _ _ _ a⟩

/-! UPD_VERIFY and UPD_STAGE (R373). -/

theorem updVerify_commit_own {r : Req} {s : State} {x : UpdSession} (h : byteAt r.payload 0 = 0) (hx : s.upd.session = some x) :
    updVerifyOp.commit r s = updVerifyOwn r x s := by
  have session : updSession (byteAt r.payload 0) s = some x := by rw [updSession, if_pos h, hx]
  unfold updVerifyOp
  dsimp only
  rw [session]
  exact if_pos h

theorem updVerify_commit_peer {r : Req} {s : State} {x : UpdSession} (h : byteAt r.payload 0 ≠ 0)
    (hx : s.upd.peerSession = some x) : updVerifyOp.commit r s = updVerifyPeer r x s := by
  have session : updSession (byteAt r.payload 0) s = some x := by rw [updSession, if_neg h, hx]
  unfold updVerifyOp
  dsimp only
  rw [session]
  exact if_neg h

theorem updVerifyOwn_ok {r : Req} {s : State} {x : UpdSession} {m : Manifest}
    (h : judgeManifest (norBank s x.bank) x.len s = .ok m) :
    updVerifyOwn r x s = answer r stOk 0 (updResult m.digest 0xFFFF)
      { s with upd := { s.upd with session := some { x with state := Nat.max 2 x.state } } } := by
  unfold updVerifyOwn
  rw [h]

theorem updVerifyOwn_error {r : Req} {s : State} {x : UpdSession} {f : ManifestFailure}
    (h : judgeManifest (norBank s x.bank) x.len s = .error f) :
    updVerifyOwn r x s = answer r f.status f.detail (failedUpdResult (norBank s x.bank) f s).1
      (failedUpdResult (norBank s x.bank) f s).2 := by
  unfold updVerifyOwn
  rw [h]

theorem updStage_commit (r : Req) (s : State) :
    let y : State := { s with wake := { s.wake with idleFrom := s.clk } }
    updStageOp.commit r s = answer r stOk 0 [] (if byteAt r.payload 0 = 0
      then { y with upd := { y.upd with session := s.upd.session.map (fun x => { x with state := 3 }) } }
      else { y with upd := { y.upd with peerSession := s.upd.peerSession.map (fun x => { x with state := 3 }) } }) := by
  by_cases h : byteAt r.payload 0 = 0 <;> simp [updStageOp, setUpdSession, updSession, noteBusy, h]

/-! UPD_ACTIVATE (R369). -/

theorem updActivate_commit_own {r : Req} {s : State} {x : UpdSession} (h : byteAt r.payload 0 = 0) (hx : s.upd.session = some x) :
    let a := updActivate x.bank s
    let y := answer r stOk 0 [] { a with upd := { a.upd with session := some { x with state := 4 } } }
    updActivateOp.commit r s = if byteAt r.payload 1 = 1 ∨ y.sys.mode = .recovery
      then { y with rst := { y.rst with updReset := true, resetFrom := y.clk } } else y := by
  simp [updActivateOp, updSession, setUpdSession, h, hx]

theorem updActivate_commit_peer {r : Req} {s : State} {x : UpdSession} (h : byteAt r.payload 0 ≠ 0)
    (hx : s.upd.peerSession = some x) :
    updActivateOp.commit r s = answer r stOk 0 [] { s with upd := { s.upd with peerSession := some { x with state := 4 } } } := by
  simp [updActivateOp, updSession, setUpdSession, h, hx]

/-- The slot that UPD_ACTIVATE writes while the device is not recovering: the bank on trial. -/
def trialSlot (bank : Nat) (s : State) (b : BankSlot) : BankSlot :=
  { b with
    active := if b.active = bank then 1 - bank else b.active, trial := some bank, trialCount := 0
    trialLimit := trialLimitOf (norBank s bank), preTrialImage := s.img.activeMark }

theorem updActivate_slots {s : State} (h : s.sys.mode ≠ .recovery) (bank : Nat) :
    (updActivate bank s).upd.slots = (writeSlot (trialSlot bank s) s).upd.slots := by
  unfold updActivate
  rw [if_neg (fun both => h both.1)]
  rfl

theorem bankPointer_updActivate {s : State} (h : s.sys.mode ≠ .recovery) (bank : Nat) :
    (bankPointer (updActivate bank s)).trial = some bank ∧ (bankPointer (updActivate bank s)).trialCount = 0 := by
  rw [bankPointer_of_slots (updActivate_slots h bank), bankPointer_writeSlot]
  exact ⟨rfl, rfl⟩

/-! UPD_CONFIRM (R370). -/

theorem raiseRollbacks_keeps (parts : List (Nat × Nat × Nat × Bytes)) (s : State) :
    (raiseRollbacks parts s).upd.slots = s.upd.slots ∧ (raiseRollbacks parts s).upd.bootedTrial = s.upd.bootedTrial := by
  unfold raiseRollbacks
  refine List.foldlRecOn (motive := fun u : State => u.upd.slots = s.upd.slots ∧ u.upd.bootedTrial = s.upd.bootedTrial)
    _ _ ⟨rfl, rfl⟩ fun u hu p _ => ?_
  split_ifs <;> exact hu

/-- The slot that UPD_CONFIRM writes: the booted bank is the active one, none is on trial. -/
def confirmedSlot (s : State) (b : BankSlot) : BankSlot := { b with active := s.upd.booted, trial := none }

def confirmBank (s : State) : State :=
  raiseRollbacks (writeSlot (confirmedSlot s) s).upd.parts
    { writeSlot (confirmedSlot s) s with upd := { (writeSlot (confirmedSlot s) s).upd with bootedTrial := false } }

theorem confirmBank_keeps (s : State) :
    (confirmBank s).upd.slots = (writeSlot (confirmedSlot s) s).upd.slots ∧ (confirmBank s).upd.bootedTrial = false :=
  raiseRollbacks_keeps _ _

theorem bankPointer_confirmBank (s : State) :
    (bankPointer (confirmBank s)).active = s.upd.booted ∧ (bankPointer (confirmBank s)).trial = none := by
  rw [bankPointer_of_slots (confirmBank_keeps s).1, bankPointer_writeSlot]
  exact ⟨rfl, rfl⟩

/-- Settles O24: each commit by its target's session; a change of the bank pointer is read back as it was written. -/
theorem updateCommands : Obligations.UpdateCommands := by
  unfold Obligations.UpdateCommands
  intro t e s c r len stop
  refine ⟨fun h hc => exec_answers (d := updBeginOp) rfl h hc rfl, fun h hc own mode => ?_, fun x h hc own hx => ?_,
    fun x h hc peer hx => ?_, fun x h hc own hx => ⟨fun m ok => ?_, fun f failed => ?_⟩, fun x h hc peer hx => ?_,
    fun h hc => exec_answers (d := updStageOp) rfl h hc (updStage_commit r c), fun x h hc own hx => ?_,
    fun x h hc peer hx => ?_, fun h => ?_⟩
  · exact exec_answers (d := updBeginOp) rfl h hc (congrArg (answer r stOk 0 []) (updBegin_own own mode))
  · exact ⟨updChunk r c, exec_answers (d := updChunkOp) rfl h hc rfl, updChunk_own own hx⟩
  · exact ⟨updChunk r c, exec_answers (d := updChunkOp) rfl h hc rfl, updChunk_peer peer hx⟩
  · exact exec_answers (d := updVerifyOp) rfl h hc ((updVerify_commit_own own hx).trans (updVerifyOwn_ok ok))
  · exact exec_answers (d := updVerifyOp) rfl h hc ((updVerify_commit_own own hx).trans (updVerifyOwn_error failed))
  · exact (exec_commits (d := updVerifyOp) rfl h hc).trans (congrArg _ (updVerify_commit_peer peer hx))
  · obtain rfl := tag_of_ready h
    exact ⟨(exec_commits (d := updActivateOp) rfl h hc).trans (congrArg _ (updActivate_commit_own own hx)),
      fun mode => bankPointer_updActivate mode x.bank⟩
  · exact exec_answers (d := updActivateOp) rfl h hc (updActivate_commit_peer peer hx)
  · obtain ⟨active, trial⟩ := bankPointer_confirmBank c
    exact ⟨confirmBank c, exec_answers (d := updConfirmOp) rfl h rfl rfl, active, trial, (confirmBank_keeps c).2⟩

end Sys2Proof.Machine

/-!
PROOFS. The commands of resets, keys, counters and the recorder (R357, R358, R412, R419, R422, R423, R430, R434, R441).
-/
namespace Sys2Proof.Machine

/-! RST_BLOCK, its release, and RST_GLOBAL. -/

theorem rstBlock_checks_of_idle {r : Req} {s : State} (h : blockIdle (rbKind r) (rbIndex r) s = true) :
    rstBlockOp.checks r s = none := if_pos h

theorem rstBlock_checks_of_active {r : Req} {s : State} (h : blockIdle (rbKind r) (rbIndex r) s = false) :
    rstBlockOp.checks r s = some (stNotIdle, 0) := if_neg (by simp [h])

/-- Settles O25: the idle block is what the execution check asks for; the release answers the oldest reset. -/
theorem resetCommands : Obligations.ResetCommands := by
  unfold Obligations.ResetCommands
  refine ⟨?_, fun k i t rest s h => ?_, fun s h => ?_⟩
  · intro t e s c r
    refine ⟨fun h idle => ?_, fun h active => ?_, fun h => ?_⟩
    · obtain rfl := tag_of_ready h
      exact exec_commits (d := rstBlockOp) rfl h (rstBlock_checks_of_idle idle)
    · exact exec_fails (d := rstBlockOp) rfl h (rstBlock_checks_of_active active)
    · obtain rfl := tag_of_ready h
      exact exec_commits (d := rstGlobalOp) rfl h rfl
  · show execRstBlockRelease s = _
    rw [execRstBlockRelease, h]
  · show execRstBlockRelease s = _
    rw [execRstBlockRelease, h]

/-! KEY_DERIVE (R412). -/

theorem keyDerive_commit_revoke {r : Req} {s : State} (h : kdOp r = 4) :
    keyDeriveOp.commit r s
      = answer r stOk 0 [] (dropMarks (kdSlot r) (setSlot (kdSlot r) { generation := (keySlot s (kdSlot r)).generation + 1 } s)) := by
  show kdCommit r s = _
  simp only [kdCommit, h]

theorem keyDerive_commit_chain {r : Req} {s : State} (h : kdOp r = 5) :
    keyDeriveOp.commit r s = answer r stOk 0 [] { s with
      keys := if fieldLe (kdData r) 0 4 = 0 then { s.keys with chainLen := fieldLe (kdData r) 4 4, chain := (kdData r).drop 8 }
        else { s.keys with chain := patchAt s.keys.chain (fieldLe (kdData r) 0 4) ((kdData r).drop 8) } } := by
  show kdCommit r s = _
  simp only [kdCommit, h]
  split <;> rfl

theorem keyDerive_commit_write {r : Req} {s : State} (h4 : kdOp r ≠ 4) (h5 : kdOp r ≠ 5) :
    keyDeriveOp.commit r s = answer r stOk 0 [] (dropMarks (kdSlot r) (setSlot (kdSlot r) { slotOfRecord (kdAttr r) with
      material := (kdKey r s).getD [], generation := (keySlot s (kdSlot r)).generation + 1 } s)) := by
  show kdCommit r s = _
  unfold kdCommit
  dsimp only
  split
  · exact absurd ‹_› h4
  · exact absurd ‹_› h5
  · rfl

/-! ATTEST_QUOTE (R419, R422). -/

/-- The signature of a quote, by the next free number. -/
def quoteSignature (r : Req) (s : State) : Bytes :=
  fit 512 (Config.rsaSign (rsaSeed ((rootSecret s).getD [])) (quoteBody (slice r.payload 4 32) s) (drawNat s).1)

/-- The post-quantum signature of a quote, where the device is bound to sign one. -/
def quotePqSignature (r : Req) (s : State) : Bytes :=
  if s.otp.pqRequired then
    fit 4627 (mldsaSign (mldsaSeed ((rootSecret s).getD [])) (quoteBody (slice r.payload 4 32) s)
      (drawBytes 32 (drawNat s).2).1)
  else []

/-- What a transport keeps of a quote. -/
def keptQuote (r : Req) (s : State) : Quote :=
  { body := quoteBody (slice r.payload 4 32) s, mldsaSig := quotePqSignature r s, chain := fit s.keys.chainLen s.keys.chain }

/-- The state after a quote: its transport keeps the body with the chain of that instant. -/
def quoteKept (r : Req) (s : State) : State :=
  { s with
    keys := { s.keys with quotes := Tab.set s.keys.quotes r.transport (keptQuote r s) }
    freeCtr := s.freeCtr + 1 + 32 }

theorem length_quoteSignature (r : Req) (s : State) : (quoteSignature r s).length = 512 := by
  simp only [quoteSignature, fit, List.length_append, List.length_take, List.length_replicate]
  omega

theorem quoteKept_kept (r : Req) (s : State) :
    Tab.get (quoteKept r s).keys.quotes r.transport {} = keptQuote r s := by
  rw [quoteKept, Tab.get_set, if_pos rfl]

theorem quoteKept_body (r : Req) (s : State) :
    (Tab.get (quoteKept r s).keys.quotes r.transport {}).body = quoteBody (slice r.payload 4 32) s := by
  rw [quoteKept_kept, keptQuote]

theorem quoteKept_chain (r : Req) (s : State) :
    (Tab.get (quoteKept r s).keys.quotes r.transport {}).chain = fit s.keys.chainLen s.keys.chain := by
  rw [quoteKept_kept, keptQuote]

theorem quoteKept_eq (r : Req) (s : State) :
    quoteKept r s
      = { s with keys := { s.keys with quotes := (quoteKept r s).keys.quotes }, freeCtr := (quoteKept r s).freeCtr } :=
  rfl

theorem attestQuote_commit_new {r : Req} {s : State} (h : byteAt r.payload 0 = 0) :
    attestQuoteOp.commit r s
      = answer r stOk 0 (quoteBody (slice r.payload 4 32) s ++ quoteSignature r s) (quoteKept r s) := by
  unfold attestQuoteOp
  dsimp only
  rw [if_pos h]
  rfl

theorem attestQuote_commit_part {r : Req} {s : State} (h : byteAt r.payload 0 ≠ 0) :
    attestQuoteOp.commit r s = answer r stOk 0 ((quotePart (byteAt r.payload 0) r.transport s).getD []) s :=
  if_neg h

theorem attestQuote_checks_eq_none {r : Req} {s : State} (h : byteAt r.payload 0 = 0 → s.keys.identityReady = true) :
    attestQuoteOp.checks r s = none :=
  if_neg fun ⟨new, unready⟩ => by simp [h new] at unready

theorem attestQuote_checks_of_unready {r : Req} {s : State} (h : byteAt r.payload 0 = 0) (hk : s.keys.identityReady = false) :
    attestQuoteOp.checks r s = some (stBusy, 0) :=
  if_pos ⟨h, by simp [hk]⟩

/-! LC_TRANSITION (R412). -/

theorem lcTransition_commit (r : Req) (s : State) :
    lcTransitionOp.commit r s = answer r stOk 0 [] { s with
      otp := if lcTarget r = 4 then { s.otp with retiredCell := 7 }
        else { s.otp with lcCells := s.otp.lcCells.set s.otp.lcCount 7 }
      rst := { s.rst with lcReset := true, resetFrom := s.clk } } := by
  unfold lcTransitionOp
  dsimp only
  split <;> rfl

/-- Settles O26: each commit by the operation, the part or the target that its payload names. -/
theorem keyCommands : Obligations.KeyCommands := by
  unfold Obligations.KeyCommands
  intro t e s c r n data
  refine ⟨fun h => ⟨fun st dt failed => exec_fails (d := keyDeriveOp) rfl h failed,
      fun hc op => exec_answers (d := keyDeriveOp) rfl h hc (keyDerive_commit_revoke op),
      fun hc op => exec_answers (d := keyDeriveOp) rfl h hc (keyDerive_commit_chain op),
      fun hc h4 h5 => exec_answers (d := keyDeriveOp) rfl h hc (keyDerive_commit_write h4 h5)⟩,
    fun h new identity => ?_, fun h new identity => exec_fails (d := attestQuoteOp) rfl h (attestQuote_checks_of_unready new identity),
    fun h old => ?_, fun h hc => exec_answers (d := lcTransitionOp) rfl h hc (lcTransition_commit r c)⟩
  · have hc : attestQuoteOp.checks r s = none := attestQuote_checks_eq_none fun _ => identity
    exact ⟨quoteKept r c, quoteSignature r c, exec_answers (d := attestQuoteOp) rfl h hc (attestQuote_commit_new new),
      length_quoteSignature r c, quoteKept_body r c, quoteKept_chain r c, quoteKept_eq r c⟩
  · exact exec_answers (d := attestQuoteOp) rfl h (attestQuote_checks_eq_none fun new => absurd new old) (attestQuote_commit_part old)

/-! CNT_SELECT, CNT_SNAPSHOT_AT and EVR_CLEAR (R430, R434, R441). -/

theorem cntSelect_commit_run {r : Req} {s : State} (h : relays s = false) (hi : r.instant = none) :
    cntSelectOp.commit r s = answer r stOk 0 [] (selectCounters r s) :=
  relayOrRun_of_not_relays (effect := fun r s => answer r stOk 0 [] (selectCounters r s)) hi h

theorem cntSelect_commit_relay {r : Req} {s : State} (h : relays s = true) (hi : r.instant = none) :
    cntSelectOp.commit r s = awaitSync r.tag s :=
  relayOrRun_of_relays (effect := fun r s => answer r stOk 0 [] (selectCounters r s)) hi h

theorem cntSnapshotAt_row {t : Word16} {e : InFlight} {s : State} {i : Int} (he : findTag s t = some e) (hop : e.opcode = 0x0E01)
    (hw : e.phase = .waiting) (hs : clusterServes s = true) (hm : mayBegin e s = true) (hd : isDryrun e.packet = false)
    (ha : isAtTime e.packet = false) (hi : e.instant = some i) :
    exec (.cntSnapshotAt (.accepted t)) s = .next (updTag t (fun x => { x with phase := .armed }) (interimReply e s)) := by
  obtain rfl := tag_of_findTag he
  have begins : exec (.cntSnapshotAt (.accepted e.packet.tag)) s = .next (beginCommand cntSnapshotAtOp e s) :=
    congrArg _ (runCommand_of_waiting (d := cntSnapshotAtOp) he hop hw hs hm)
  exact begins.trans (congrArg _ ((beginCommand_of_ownInstant (d := cntSnapshotAtOp) hd ha hi rfl s).1 rfl))

theorem clearChecks_of_draw {r : Req} {s : State} (h : clearOp r = 0) : evrClearOp.checks r s = none := if_pos h

theorem evrClear_commit_draw {r : Req} {s : State} (h : clearOp r = 0) :
    evrClearOp.commit r s = answer r stOk 0 (drawBytes 32 s).1
      { s with freeCtr := s.freeCtr + 32, evr := { s.evr with nonce := some ((drawBytes 32 s).1, s.clk) } } :=
  if_pos h

theorem evrClear_commit_clear {r : Req} {s : State} (h : clearOp r ≠ 0) :
    evrClearOp.commit r s = { completeClear s with
      evr := { (completeClear s).evr with
        nonce := none
        clearing := some (clearedBody r (completeClear s), ((completeClear s).evr.lastSeq + 1) % 2 ^ 32,
          (completeClear s).bkp.unrecorded, some r.tag) }
      bkp := { (completeClear s).bkp with unrecorded := 0 } } :=
  if_neg h

/-- Settles O27: a counter selection by its relay, a snapshot by its own instant, a clear by its operation. -/
theorem counterAndRecorderCommands : Obligations.CounterAndRecorderCommands := by
  unfold Obligations.CounterAndRecorderCommands
  intro t e s c r
  refine ⟨fun h alone hi => exec_answers (d := cntSelectOp) rfl h rfl (cntSelect_commit_run alone hi), fun h relayed hi => ?_,
    fun i => cntSnapshotAt_row, fun h draw => ?_, fun h clear => ⟨fun st dt failed => ?_, fun hc => ?_⟩⟩
  · obtain rfl := tag_of_ready h
    exact (exec_commits (d := cntSelectOp) rfl h rfl).trans (congrArg _ (cntSelect_commit_relay relayed hi))
  · exact exec_answers (d := evrClearOp) rfl h (clearChecks_of_draw draw) (evrClear_commit_draw draw)
  · exact exec_fails (d := evrClearOp) rfl h failed
  · obtain rfl := tag_of_ready h
    exact (exec_commits (d := evrClearOp) rfl h hc).trans (congrArg _ (evrClear_commit_clear clear))

end Sys2Proof.Machine

/-!
PROOFS. The rows of the transports: their registers (R48–R52), the XSPI-H port (R309–R314), and the commands that no opcode
names, sessions, posted writes and timed commands (R55, R57, R61, R63, R79).
-/
namespace Sys2Proof.Machine

/-! The command rings and the mailbox. -/

/-- Where the PCIe core is down or its register locked, a guarded row of the core changes nothing. -/
theorem if_up_and_unlocked_of_not {α : Type} {up locked : Bool} (h : up = false ∨ locked = true) (a b : α) :
    (if up = true ∧ (!locked) = true then a else b) = b :=
  if_neg (by cases h <;> simp_all)

theorem cmdSqTailWrite_rows (f : Fin 2) (tail : Word) (l : List SqFetch) (s : State) :
    (pcieUp s = true → lockedDirect 0x114 4 s = false → tail.toNat % 256 < sqEntries (cmdRing s f.val) →
      exec (.cmdSqTailWrite f tail l) s
        = .next (fetchDescriptors f l (setCmdRing f.val { cmdRing s f.val with sqTail := tail.toNat % 256, offered := [] } s)))
    ∧ (pcieUp s = true → lockedDirect 0x114 4 s = false → sqEntries (cmdRing s f.val) ≤ tail.toNat % 256 →
      exec (.cmdSqTailWrite f tail l) s = .next (setCmdRing f.val { cmdRing s f.val with dbErr := true } s))
    ∧ ((pcieUp s = false ∨ lockedDirect 0x114 4 s = true) → exec (.cmdSqTailWrite f tail l) s = .next s) := by
  refine ⟨fun up unlocked inside => ?_, fun up unlocked outside => ?_, fun barred => ?_⟩ <;> show execCmdSqTailWrite f tail l s = _
  · simp [execCmdSqTailWrite, up, unlocked, Nat.not_le.mpr inside]
  · simp [execCmdSqTailWrite, up, unlocked, outside]
  · simp [execCmdSqTailWrite, barred]

theorem cmdCqHeadWrite_rows (f : Fin 2) (h : Word) (s : State) :
    (pcieUp s = true → lockedDirect 0x11C 4 s = false → h.toNat % 512 < cqSize (cmdRing s f.val) →
      exec (.cmdCqHeadWrite f h) s = .next (drainCompletions (cmdRing s f.val).held.length f.val
        (setCmdRing f.val { cmdRing s f.val with cqHead := h.toNat % 512 } s)))
    ∧ (pcieUp s = true → lockedDirect 0x11C 4 s = false → cqSize (cmdRing s f.val) ≤ h.toNat % 512 →
      exec (.cmdCqHeadWrite f h) s = .next (setCmdRing f.val { cmdRing s f.val with dbErr := true } s))
    ∧ ((pcieUp s = false ∨ lockedDirect 0x11C 4 s = true) → exec (.cmdCqHeadWrite f h) s = .next s) := by
  refine ⟨fun up unlocked inside => ?_, fun up unlocked outside => ?_, fun barred => ?_⟩ <;> show execCmdCqHeadWrite f h s = _
  · simp [execCmdCqHeadWrite, writeCqHead, up, unlocked, Nat.not_le.mpr inside]
  · simp [execCmdCqHeadWrite, writeCqHead, up, unlocked, outside]
  · exact congrArg _ (if_up_and_unlocked_of_not barred _ _)

theorem cmdRingCfgWrite_rows (f : Fin 2) (v : Word) (s : State) :
    let r := cmdRing s f.val
    let set := { r with msixVec := bits v.toNat 8 6
                        sqSize := if ringActive f.val s = true ∨ 4 < bits v.toNat 0 3 then r.sqSize else bits v.toNat 0 3 }
    (pcieUp s = true → lockedDirect 0x110 4 s = false → bit v.toNat 31 = true → ringActive f.val s = false →
      exec (.cmdRingCfgWrite f v) s = .next (setCmdRing f.val
        { set with enable := true, sqHead := 0, sqTail := 0, cqHead := 0, cqTail := 0, phase := true, offered := [] } s))
    ∧ (pcieUp s = true → lockedDirect 0x110 4 s = false → bit v.toNat 31 = true → ringActive f.val s = true →
      exec (.cmdRingCfgWrite f v) s = .next (setCmdRing f.val set s))
    ∧ (pcieUp s = true → lockedDirect 0x110 4 s = false → bit v.toNat 31 = false →
      exec (.cmdRingCfgWrite f v) s = .next (setCmdRing f.val { set with enable := false, offered := [] } s))
    ∧ ((pcieUp s = false ∨ lockedDirect 0x110 4 s = true) → exec (.cmdRingCfgWrite f v) s = .next s) := by
  refine ⟨fun up unlocked on idle => ?_, fun up unlocked on active => ?_, fun up unlocked off => ?_, fun barred => ?_⟩ <;>
    show execCmdRingCfgWrite f v s = _
  · simp [execCmdRingCfgWrite, writeRingCfg, up, unlocked, on, idle]
  · simp [execCmdRingCfgWrite, writeRingCfg, up, unlocked, on, active]
  · simp [execCmdRingCfgWrite, writeRingCfg, up, unlocked, off]
  · exact congrArg _ (if_up_and_unlocked_of_not barred _ _)

theorem cmdMbDbSubmit_rows (v : Word) (s : State) :
    (reaches .xspi 0x140 4 s = true → bit v.toNat 0 = true → s.cmd.reqBusy = false →
      exec (.cmdMbDbSubmit v) s = .next (takeRequest { s with cmd := { s.cmd with reqBusy := true } }))
    ∧ (reaches .xspi 0x140 4 s = true → bit v.toNat 0 = true → s.cmd.reqBusy = true →
      exec (.cmdMbDbSubmit v) s = .next (takeRequest { s with cmd := { s.cmd with mbDbErr := true } }))
    ∧ ((reaches .xspi 0x140 4 s = false ∨ bit v.toNat 0 = false) → exec (.cmdMbDbSubmit v) s = .next s) := by
  refine ⟨fun reach rung free => ?_, fun reach rung busy => ?_, fun idle => ?_⟩ <;> show execCmdMbDbSubmit v s = _
  · simp [execCmdMbDbSubmit, ringMailbox, reach, rung, free]
  · simp [execCmdMbDbSubmit, ringMailbox, reach, rung, busy]
  · rcases idle with barred | still
    · simp [execCmdMbDbSubmit, barred]
    · simp [execCmdMbDbSubmit, ringMailbox, still]

/-- Settles O28: one row at a time, by the core, the lock and the index written. -/
theorem transportRegistersTakeEffect : Obligations.TransportRegistersTakeEffect := by
  unfold Obligations.TransportRegistersTakeEffect
  refine ⟨cmdSqTailWrite_rows, cmdCqHeadWrite_rows, cmdRingCfgWrite_rows, cmdMbDbSubmit_rows,
    fun s => ⟨fun reach => ?_, fun barred => ?_⟩⟩ <;> show execMailboxPop s = _
  · simp [execMailboxPop, reach]
  · simp [execMailboxPop, barred]

/-! The XSPI-H port. -/

/-- What a READ answers, once the burst before it is forgotten. -/
def xspiAnswer (a : Word) (n : Nat) (late : Bool) (s : State) : State :=
  if !reaches .xspi a.toNat (4 * n) s then s
  else if xspiBadAccess a n then
    emit (.readData .xspi a.toNat (driven 0 n)) (setXspi { s.hst.xspi with alignErr := true } s)
  else if late then
    emit (.readData .xspi a.toNat (driven 0xFFFFFFFF n)) (setXspi { s.hst.xspi with late := true } s)
  else if !inWindow a.toNat then
    emit (.readData .xspi a.toNat (wordBytes ((List.range n).map (fun i => BitVec.ofNat 32 (peek .xspi (a.toNat + 4 * i) s))))) s
  else
    match s.hst.xspi.replay with
    | some b =>
      if b.base ≤ a.toNat ∧ a.toNat < b.base + 4 * b.words.length then readReplay b a.toNat n s else readFirst a.toNat n s
    | none => if s.hst.xspi.burstThrough then readThrough a.toNat n s else readFirst a.toNat n s

theorem xspiRead_eq (a : Word) (n : Nat) (late : Bool) (s : State) :
    exec (.xspiRead a n late) s = .next (xspiAnswer a n late (setXspi { s.hst.xspi with current := none } s)) := rfl

theorem xspiAnswer_of_not_reaches {a : Word} {n : Nat} {s : State} (h : reaches .xspi a.toNat (4 * n) s = false) (late : Bool) :
    xspiAnswer a n late s = s := by
  simp [xspiAnswer, h]

section
variable {a : Word} {n : Nat} {s : State} (reach : reaches .xspi a.toNat (4 * n) s = true)
include reach

theorem xspiAnswer_of_bad (bad : xspiBadAccess a n = true) (late : Bool) :
    xspiAnswer a n late s = emit (.readData .xspi a.toNat (driven 0 n)) (setXspi { s.hst.xspi with alignErr := true } s) := by
  simp [xspiAnswer, reach, bad]

variable (fine : xspiBadAccess a n = false)
include fine

theorem xspiAnswer_of_late :
    xspiAnswer a n true s
      = emit (.readData .xspi a.toNat (driven 0xFFFFFFFF n)) (setXspi { s.hst.xspi with late := true } s) := by
  simp [xspiAnswer, reach, fine]

theorem xspiAnswer_of_registers (outside : inWindow a.toNat = false) :
    xspiAnswer a n false s = emit (.readData .xspi a.toNat
      (wordBytes ((List.range n).map (fun i => BitVec.ofNat 32 (peek .xspi (a.toNat + 4 * i) s))))) s := by
  simp [xspiAnswer, reach, fine, outside]

variable (inside : inWindow a.toNat = true) (fresh : s.hst.xspi.replay = none)
include inside fresh

theorem xspiAnswer_of_first (single : s.hst.xspi.burstThrough = false) : xspiAnswer a n false s = readFirst a.toNat n s := by
  simp [xspiAnswer, reach, fine, inside, fresh, single]

theorem xspiAnswer_of_through (through : s.hst.xspi.burstThrough = true) : xspiAnswer a n false s = readThrough a.toNat n s := by
  simp [xspiAnswer, reach, fine, inside, fresh, through]

end

theorem readFirst_one (off : Nat) (s : State) :
    readFirst off 1 s = emit (.readData .xspi off (wordBytes [BitVec.ofNat 32 (peek .xspi off s)])) (readEffect .xspi off s) := by
  simp [readFirst, readWords, driven]

theorem readFirst_more {n : Nat} (h : 1 < n) (off : Nat) (s : State) :
    readFirst off n s = emit (.readData .xspi off (wordBytes [BitVec.ofNat 32 (peek .xspi off s)] ++ driven 0 (n - 1)))
      (setXspi { (readEffect .xspi off s).hst.xspi with seClip := true } (readEffect .xspi off s)) := by
  simp [readFirst, readWords, h]

@[simp] theorem viewUp_setXspi (x : Xspi) (s : State) : viewUp .xspi (setXspi x s) = viewUp .xspi s := rfl

@[simp] theorem xspi_setXspi (x : Xspi) (s : State) : (setXspi x s).hst.xspi = x := rfl

@[simp] theorem setXspi_setXspi (x y : Xspi) (s : State) : setXspi x (setXspi y s) = setXspi x s := rfl

theorem xspiWrite_rows (a : Word) (ws : List Word) (s : State) :
    let x := s.hst.xspi
    (viewUp .xspi s = true → xspiBadAccess a ws.length = false → x.posted.length < 64 →
      exec (.xspiWrite a ws) s = .next (setXspi { x with current := none, posted := x.posted ++ [(a.toNat, ws)] } s))
    ∧ (viewUp .xspi s = true → xspiBadAccess a ws.length = false → 64 ≤ x.posted.length →
        exec (.xspiWrite a ws) s = .next (setXspi { x with current := none, wrOvf := true } s))
    ∧ (viewUp .xspi s = true → xspiBadAccess a ws.length = true →
        exec (.xspiWrite a ws) s = .next (setXspi { x with current := none, alignErr := true } s))
    ∧ (viewUp .xspi s = false → exec (.xspiWrite a ws) s = .next (setXspi { x with current := none } s)) := by
  refine ⟨fun up fine room => ?_, fun up fine full => ?_, fun up bad => ?_, fun down => ?_⟩ <;> show execXspiWrite a ws s = _
  · simp [execXspiWrite, up, fine, Nat.not_le.mpr room]
  · simp [execXspiWrite, up, fine, full]
  · simp [execXspiWrite, up, bad]
  · simp [execXspiWrite, down]

theorem xspihCsRise_of_burst {b : XspiBurst} {s : State} (h : s.hst.xspi.current = some b) (taken : Nat) :
    (taken < b.words.length - (b.start - b.base) / 4 → exec (.xspihCsRise taken) s
      = .next (setXspi { s.hst.xspi with current := none, replay := some { b with start := b.base } } s))
    ∧ (b.words.length - (b.start - b.base) / 4 ≤ taken → exec (.xspihCsRise taken) s
      = .next (setXspi { s.hst.xspi with current := none } s)) := by
  refine ⟨fun cut => ?_, fun whole => ?_⟩ <;> show execXspihCsRise taken s = _
  · simp [execXspihCsRise, h, cut]
  · simp [execXspihCsRise, h, Nat.not_lt.mpr whole]

/-- Settles O31: a READ by where it falls, a WRITE by the room for it, a chip-select rise by the burst it cuts. -/
theorem xspiAccesses : Obligations.XspiAccesses := by
  unfold Obligations.XspiAccesses
  refine ⟨?_, xspiWrite_rows, fun taken b s h => xspihCsRise_of_burst h taken, fun taken s h => ?_, fun a b s => ⟨fun up bad => ?_, fun idle => ?_⟩⟩
  · intro a n s s0
    simp only [xspiRead_eq]
    refine ⟨fun reach => ⟨fun fine outside => ?_, fun fine inside fresh single one => ?_, fun fine inside fresh single more => ?_,
      fun fine inside fresh through => ?_, fun fine => ?_, fun late bad => ?_⟩, fun barred late => ?_⟩
    · exact congrArg _ (xspiAnswer_of_registers reach fine outside)
    · subst one
      exact congrArg _ ((xspiAnswer_of_first reach fine inside fresh single).trans (readFirst_one _ _))
    · exact congrArg _ ((xspiAnswer_of_first reach fine inside fresh single).trans (readFirst_more more _ _))
    · exact congrArg _ (xspiAnswer_of_through reach fine inside fresh through)
    · exact congrArg _ (xspiAnswer_of_late reach fine)
    · exact congrArg _ (xspiAnswer_of_bad reach bad late)
    · exact congrArg _ (xspiAnswer_of_not_reaches barred late)
  · show execXspihCsRise taken s = _
    simp [execXspihCsRise, h]
  · show execXspiBadCommand a b s = _
    simp [execXspiBadCommand, up, bad]
  · show execXspiBadCommand a b s = _
    rcases idle with down | good
    · simp [execXspiBadCommand, down]
    · simp [execXspiBadCommand, good]

/-! Commands that no opcode of Table 2.12 names. -/

theorem badOpcodeCommand_of_unnamed {op : Word16} (h : opWorlds op.toNat = none) (via : Via) (p : Packet) (s : State) :
    exec (.badOpcodeCommand op via p) s = .next (arrive { code := op.toNat, commit := fun _ s => s } via p s) :=
  congrArg _ (if_neg (by simp [h]))

theorem badOpcodeCommand_of_named {op : Word16} (h : (opWorlds op.toNat).isSome = true) (via : Via) (p : Packet) (s : State) :
    exec (.badOpcodeCommand op via p) s = .next s :=
  congrArg _ (if_pos h)

/-- A command that arrives through memory and that no opcode names fails the fourth check, which does not need its key. -/
theorem arrive_of_unnamed {op : Nat} {via : Via} {p : Packet} {s : State} (unnamed : opWorlds op = none)
    (serves : clusterServes s = true) (served : transportServed via s = true) (memory : ∀ i src vlan, via ≠ .inBand i src vlan)
    (fits : p.length.toNat ≤ 4064) (whole : p.transported = 32 + p.length.toNat)
    (transport : tagTransport p.tag = viaTransport via p.tag) (fresh : findTag s p.tag = none) :
    ∃ k : Bytes, arrive { code := op, commit := fun _ s => s } via p s = refuseReply via op p k false stBadOpcode 0 s := by
  have free : tagInFlight s p.tag = false := by
    rw [tagInFlight, List.any_eq_false]
    intro e he
    simp [findTag_eq_none_iff.1 fresh e he]
  have agrees : lengthDisagrees via p = false := by
    cases via with
    | ring f i mx a => simp [lengthDisagrees, whole]
    | mailbox => simp [lengthDisagrees, whole]
    | inBand i src vlan => exact absurd rfl (memory i src vlan)
  have failed : judge { code := op, commit := fun _ s => s } via p s = some (stBadOpcode, 0, false) := by
    refine judge_of_earlyChecks ?_
    rw [earlyChecks, if_neg (by simp [agrees, Nat.not_lt.mpr fits]), if_neg (by simp [transport, free]), if_pos (by simp [unnamed])]
  have refused : arrive { code := op, commit := fun _ s => s } via p s
      = acceptOrRefuse { code := op, commit := fun _ s => s } via p s := by
    refine runCommand_arriving_of_judge_some serves served ?_ ?_ failed
    · cases via with
      | ring f i mx a => rfl
      | mailbox => rfl
      | inBand i src vlan => exact absurd rfl (memory i src vlan)
    · cases via with
      | ring f i mx a => rfl
      | mailbox => rfl
      | inBand i src vlan => exact absurd rfl (memory i src vlan)
  have resources : stBadOpcode ≠ stNoResources := by decide
  rw [refused, acceptOrRefuse, failed]
  exact ⟨_, congrArg (refuseReply via op p _ false stBadOpcode 0) (if_neg fun both => resources both.1)⟩

/-! Sessions, posted writes and timed commands. -/

theorem sessionIdleExpiry_of_session {n : Fin 16} {s : State} {b : Session} (h : s.cmd.sessions.lookup n.val = some b) :
    exec (.sessionIdleExpiry n) s
      = .next (if sessionBusy n.val s then s else endSession n.val (reachClock (b.lastActive + 60000000000) s)) := by
  show execSessionIdleExpiry n s = _
  rw [execSessionIdleExpiry, h]

theorem lbWriteApply_of_posted {a : Nat} {ws : List Word} {rest : List (Nat × List Word)} {s : State}
    (h : s.hst.xspi.posted = (a, ws) :: rest) :
    exec .lbWriteApply s = .next (if lockedDirect a (4 * ws.length) s then s
      else applyWords a ws (setXspi { s.hst.xspi with posted := rest } s)) := by
  show execLbWriteApply s = _
  simp only [execLbWriteApply, h]

theorem timedHandover_of_inFlight {t : Word16} {e : InFlight} {s : State} (h : findTag s t = some e) :
    (∀ i : Int, e.instant = some i → e.phase = .armed → clusterServes s = true →
      exec (.timedHandover t) s = .next (handOver (meaningOf e.opcode) e (reachW (i - nsVal 50000) s)))
    ∧ ((e.instant = none ∨ e.phase ≠ .armed ∨ clusterServes s = false) → exec (.timedHandover t) s = .next s) := by
  refine ⟨fun i hi armed serves => ?_, fun idle => ?_⟩ <;> show execTimedHandover t s = _ <;> simp only [execTimedHandover, h]
  · simp only [hi, armed, serves, true_and, if_true]
  · cases hi : e.instant with
    | none => rfl
    | some i => exact congrArg _ (if_neg fun both => by simp [hi, both] at idle)

theorem atTimeExecute_of_inFlight {t : Word16} {e : InFlight} {s : State} (h : findTag s t = some e) :
    (∀ i : Int, e.instant = some i → e.phase = .committed → ownRow e.opcode = false →
      (meaningOf e.opcode).commitsAtOnce = false → exec (.atTimeExecute t) s
        = .next ((meaningOf e.opcode).commit (reqAt e) (updTag t (fun x => { x with instant := none }) (reachW i s))))
    ∧ ((e.phase ≠ .committed ∨ e.instant = none ∨ ownRow e.opcode = true ∨ (meaningOf e.opcode).commitsAtOnce = true) →
      exec (.atTimeExecute t) s = .next s) := by
  refine ⟨fun i hi committed shared late => ?_, fun idle => ?_⟩ <;> show execAtTimeExecute t s = _ <;>
    simp only [execAtTimeExecute, h]
  · simp only [hi, committed, shared, late, Bool.not_false, and_self, if_true]
    rfl
  · cases hi : e.instant with
    | none => rfl
    | some i => exact congrArg _ (if_neg fun both => by simp_all)

/-- Settles O29: the fourth acceptance check, a session by its commands, and a timed command by its phase and instant. -/
theorem transportAndTimedEvents : Obligations.TransportAndTimedEvents := by
  unfold Obligations.TransportAndTimedEvents
  refine ⟨⟨fun op f i mx a p s unnamed serves served fits whole transport fresh => ?_,
      fun op p s unnamed serves fits whole transport fresh => ?_, fun op via p s => ⟨fun unnamed => ?_, fun named => ?_⟩,
      fun n s => ⟨fun b h idle => ?_, fun b h busy => ?_, fun none => ?_⟩,
      fun a ws rest s h => ⟨fun free => ?_, fun barred => ?_⟩, fun s h => ?_⟩,
    fun t e s h => timedHandover_of_inFlight h, fun t s h => ⟨?_, ?_⟩,
    fun t e i s h hi committed shared late => (atTimeExecute_of_inFlight h).1 i hi committed shared late,
    fun t e s h => (atTimeExecute_of_inFlight h).2⟩
  · obtain ⟨k, refused⟩ := arrive_of_unnamed unnamed serves served (fun _ _ _ => nofun) fits whole transport fresh
    exact ⟨k, (badOpcodeCommand_of_unnamed unnamed _ p s).trans (congrArg _ refused)⟩
  · obtain ⟨k, refused⟩ := arrive_of_unnamed (via := .mailbox) unnamed serves rfl (fun _ _ _ => nofun) fits whole transport fresh
    exact ⟨k, (badOpcodeCommand_of_unnamed unnamed _ p s).trans (congrArg _ refused)⟩
  · exact badOpcodeCommand_of_unnamed unnamed via p s
  · exact badOpcodeCommand_of_named named via p s
  · rw [sessionIdleExpiry_of_session h, idle]
    rfl
  · rw [sessionIdleExpiry_of_session h, busy]
    rfl
  · show execSessionIdleExpiry n s = _
    rw [execSessionIdleExpiry, none]
  · rw [lbWriteApply_of_posted h, free]
    rfl
  · rw [lbWriteApply_of_posted h, barred]
    rfl
  · show execLbWriteApply s = _
    simp only [execLbWriteApply, h]
  · show execTimedHandover t s = _
    rw [execTimedHandover, h]
  · show execAtTimeExecute t s = _
    rw [execAtTimeExecute, h]

end Sys2Proof.Machine

/-!
PROOFS. A frame's way through MAC, lanes and rinse path (R90–R94, R159, R164), and the tables and timers that age (R134,
R147, R148, R154, R173, R213, R214).
-/
namespace Sys2Proof.Machine

/-! A frame begins (R25, R281). -/

theorem frameStart_rows {s : State} (fwd : forwarding s.sys.mode = true) (up : dataPathDown s = false) (p : Port) (c : Bytes)
    (g : Option (Fin 2048)) :
    (p.val < 28 → portUp s p.val = true → isPause c = false → exec (.frameStart p c g) s
      = .next (enterFrame p.val p.val (c.length + 4) c false (secyValidates s p.val c) none none s))
    ∧ (p.val < 28 → (portUp s p.val = false ∨ isPause c = true) → exec (.frameStart p c g) s = .next s)
    ∧ (p.val = 29 → clusterServes s = true → internalWaits 29 s = false → bit (raisedMask s 29) (mpClass s c) = false →
        exec (.frameStart p c g) s = .next (enterInternal 29 32 (g.map Fin.val) c none none s))
    ∧ (p.val = 29 → (clusterServes s = false ∨ internalWaits 29 s = true ∨ bit (raisedMask s 29) (mpClass s c) = true) →
        exec (.frameStart p c g) s = .next s)
    ∧ (28 ≤ p.val → p.val ≠ 29 → exec (.frameStart p c g) s = .next s) := by
  refine ⟨fun mac link data => ?_, fun mac idle => ?_, fun mp serves room low => ?_, fun mp barred => ?_, fun inner other => ?_⟩ <;>
    show execFrameStart p c g s = _ <;>
    simp only [execFrameStart, fwd, up, Bool.not_true, Bool.false_eq_true, or_self, if_false]
  · rw [if_pos mac, if_pos ⟨link, by simp [data]⟩]
  · rw [if_pos mac, if_neg fun ⟨link, data⟩ => by simp_all]
  · rw [if_neg (by omega), if_pos ⟨mp, serves, by simp [mpFree, room, low]⟩]
  · rw [if_neg (by omega), if_neg fun ⟨_, serves, free⟩ => by simp_all [mpFree]]
  · rw [if_neg (by omega), if_neg fun ⟨mp, _⟩ => other mp]

theorem frameStart_of_barred {s : State} (h : forwarding s.sys.mode = false ∨ dataPathDown s = true) (p : Port) (c : Bytes)
    (g : Option (Fin 2048)) : exec (.frameStart p c g) s = .next s :=
  congrArg _ (if_pos (by simpa using h))

/-! The passes of a frame (R90–R94, R116, R159). -/

theorem lanePassBegin_of_frame {n : Nat} {f : Frame} {s : State} (h : frameOf s n = some f) :
    exec (.lanePassBegin n) s = .next (
      if f.phase ≠ .waiting ∨ (f.throughSecY ∧ !f.ended) ∨ slotIsRps s f.lane ∨ (passReady s f ∧ laneTurn s f.lane ≠ some n) then s
      else setFrame n
        { f with phase := .firstPass, bank := if s.lanes.rom = true then 2 else s.lanes.live, epoch := s.lanes.epoch }
        { s with lanes := { s.lanes with
            first := Tab.upd s.lanes.first f.lane 0 (· + 1), slot := Tab.upd s.lanes.slot f.lane 0 firstSlot
            served := Tab.set s.lanes.served f.lane f.inPort } }) := by
  show execLanePassBegin n s = _
  rw [execLanePassBegin, h]

theorem lanePassBegin_rows {n : Nat} {f : Frame} {s : State} (h : frameOf s n = some f) :
    let mine := passReady s f = false ∨ laneTurn s f.lane = some n
    (f.phase = .waiting → (f.throughSecY = false ∨ f.ended = true) → slotIsRps s f.lane = false → mine →
      exec (.lanePassBegin n) s = .next (setFrame n
        { f with phase := .firstPass, bank := if s.lanes.rom = true then 2 else s.lanes.live, epoch := s.lanes.epoch }
        { s with lanes := { s.lanes with
            first := Tab.upd s.lanes.first f.lane 0 (· + 1), slot := Tab.upd s.lanes.slot f.lane 0 firstSlot
            served := Tab.set s.lanes.served f.lane f.inPort } }))
    ∧ ((f.phase ≠ .waiting ∨ (f.throughSecY = true ∧ f.ended = false) ∨ slotIsRps s f.lane = true ∨ ¬mine) →
      exec (.lanePassBegin n) s = .next s) := by
  intro mine
  have yours : (passReady s f = true ∧ laneTurn s f.lane ≠ some n) ↔ ¬mine := by simp [mine]
  rw [lanePassBegin_of_frame h]
  refine ⟨fun waiting whole free turn => congrArg _ (if_neg ?_), fun barred => congrArg _ (if_pos ?_)⟩
  · rintro (other | ⟨secy, still⟩ | rps | theirs)
    · exact other waiting
    · simp_all
    · simp_all
    · exact yours.1 theirs turn
  · rcases barred with other | secy | rps | theirs
    · exact .inl other
    · exact .inr (.inl (by simpa using secy))
    · exact .inr (.inr (.inl rps))
    · exact .inr (.inr (.inr (yours.2 theirs)))

theorem laneResult_rows {n : Nat} {f : Frame} {s : State} (h : frameOf s n = some f) (x : LaneFaults) :
    (f.phase = .firstPass → exec (.laneResult n x) s = .next (settleEnd n (firstResult n f x s)))
    ∧ (f.phase = .secondPass → exec (.laneResult n x) s = .next (settleEnd n (secondResult n f x s)))
    ∧ (f.phase ≠ .firstPass → f.phase ≠ .secondPass → exec (.laneResult n x) s = .next s) := by
  have row : exec (.laneResult n x) s = .next (match f.phase with
      | .firstPass => settleEnd n (firstResult n f x s)
      | .secondPass => settleEnd n (secondResult n f x s)
      | _ => s) := by
    show execLaneResult n x s = _
    rw [execLaneResult, h] <;> rfl
  rw [row]
  refine ⟨fun first => by rw [first], fun second => by rw [second], fun notFirst notSecond => ?_⟩
  cases hp : f.phase with
  | firstPass => exact absurd hp notFirst
  | secondPass => exact absurd hp notSecond
  | _ => rfl

theorem rinseDispatch_rows {n : Nat} {f : Frame} {s : State} (h : rpFirst s = some (n, f)) :
    let lane := laneOf s 31
    ((Tab.get s.lanes.slot lane 0 = 3 ∨ laneWaiting s lane = []) →
      exec .rinseDispatch s = .next (advanceLane 31 (setFrame n { f with phase := .secondPass, lane := lane }
        { s with lanes := { s.lanes with second := Tab.upd s.lanes.second lane 0 (· + 1)
                                         slot := Tab.upd s.lanes.slot lane 0 (fun k => (k + 1) % 4) } })))
    ∧ (Tab.get s.lanes.slot lane 0 ≠ 3 → laneWaiting s lane ≠ [] → exec .rinseDispatch s = .next s) := by
  intro lane
  refine ⟨fun due => ?_, fun early busy => ?_⟩ <;> show execRinseDispatch s = _ <;> simp only [execRinseDispatch, h]
  · exact congrArg _ (if_neg fun ⟨early, busy⟩ => by simp_all [lane])
  · exact congrArg _ (if_pos ⟨early, by simpa [lane] using busy⟩)

/-! A frame ends (R103, R164, R288). -/

section
variable {n : Nat} {f : Frame} {s : State} (h : frameOf s n = some f) (still : f.ended = false)
include h still

theorem frameEnd_of_short (short : f.wireLen < 64) (ok : Bool) :
    exec (.frameEnd n ok) s = .next (failFrame n (stat f.inPort 5 1 s)) := by
  show execFrameEnd n ok s = _
  simp [execFrameEnd, h, still, short]

theorem frameEnd_of_long (full : 64 ≤ f.wireLen) (long : 10240 < f.wireLen ∨ (portCfg s f.inPort).maxFrame < f.wireLen) (ok : Bool) :
    exec (.frameEnd n ok) s = .next (failFrame n (stat f.inPort 6 1 s)) := by
  show execFrameEnd n ok s = _
  simp [execFrameEnd, h, still, Nat.not_lt.mpr full, long]

variable (good : 64 ≤ f.wireLen ∧ f.wireLen ≤ 10240 ∧ f.wireLen ≤ (portCfg s f.inPort).maxFrame)
include good

theorem frameEnd_of_damaged : exec (.frameEnd n false) s = .next (failFrame n (stat f.inPort 4 1 s)) := by
  obtain ⟨full, fits, admitted⟩ := good
  show execFrameEnd n false s = _
  simp [execFrameEnd, h, still, Nat.not_lt.mpr full, Nat.not_lt.mpr fits, Nat.not_lt.mpr admitted]

variable {u : State} (hu : noteTraffic f.inPort (countReceived f.inPort f.wireLen f.content s) = u)
include hu

theorem frameEnd_of_asIs (secy : secyReceive u f.inPort f.content = .asIs) : exec (.frameEnd n true) s = .next (goodEnd n u) := by
  obtain ⟨full, fits, admitted⟩ := good
  subst hu
  show execFrameEnd n true s = _
  simp [execFrameEnd, h, still, Nat.not_lt.mpr full, Nat.not_lt.mpr fits, Nat.not_lt.mpr admitted, secy]

variable (through : f.throughSecY = true)
include through

theorem frameEnd_of_unserved {k : Nat} {drop : Bool} (secy : secyReceive u f.inPort f.content = .unserved k drop) :
    exec (.frameEnd n true) s
      = .next (if drop = true then failFrame n (countSecy f.inPort k u) else goodEnd n (countSecy f.inPort k u)) := by
  obtain ⟨full, fits, admitted⟩ := good
  subst hu
  show execFrameEnd n true s = _
  simp [execFrameEnd, h, still, Nat.not_lt.mpr full, Nat.not_lt.mpr fits, Nat.not_lt.mpr admitted, secy, through]

theorem frameEnd_of_fails {k : Nat} {late drop : Bool} (secy : secyReceive u f.inPort f.content = .fails k late drop) :
    let v := countSecy f.inPort (if late = true then 10 else if drop = true then 9 else 8)
      (updRxSa f.inPort k (fun a => if late = true then { a with late := a.late + 1 } else { a with bad := a.bad + 1 }) u)
    exec (.frameEnd n true) s = .next (if drop = true then failFrame n v else goodEnd n v) := by
  obtain ⟨full, fits, admitted⟩ := good
  subst hu
  show execFrameEnd n true s = _
  simp [execFrameEnd, h, still, Nat.not_lt.mpr full, Nat.not_lt.mpr fits, Nat.not_lt.mpr admitted, secy, through]

theorem frameEnd_of_valid {c : Bytes} {k : Nat} (secy : secyReceive u f.inPort f.content = .valid c k) :
    let next := fun (a : Sa) => fullPn (isXpn (portCfg u f.inPort).cipher) (fieldBe f.content 16 4) a.pn + 1
      - (portCfg u f.inPort).replayWindow
    exec (.frameEnd n true) s = .next (goodEnd n (setFrame n { f with content := c, validated := true } (countSecy f.inPort 11
      (updRxSa f.inPort k (fun a => { a with good := a.good + 1, pn := Nat.max a.pn (next a) }) u)))) := by
  obtain ⟨full, fits, admitted⟩ := good
  subst hu
  show execFrameEnd n true s = _
  simp [execFrameEnd, h, still, Nat.not_lt.mpr full, Nat.not_lt.mpr fits, Nat.not_lt.mpr admitted, secy, through]

end

theorem frameEnd_of_over {n : Nat} {s : State} (h : frameOf s n = none ∨ ∃ f : Frame, frameOf s n = some f ∧ f.ended = true) (ok : Bool) :
    exec (.frameEnd n ok) s = .next s := by
  show execFrameEnd n ok s = _
  obtain none | ⟨f, hf, ended⟩ := h
  · rw [execFrameEnd, none]
  · simp [execFrameEnd, hf, ended]

/-- Settles O33: each row by its frame's phase, and a frame's end by its length, its FCS and what the SecY says of it. -/
theorem framesThroughTheLanes : Obligations.FramesThroughTheLanes := by
  unfold Obligations.FramesThroughTheLanes
  refine ⟨fun p c g s fwd up => frameStart_rows fwd up p c g, fun p c g s barred => frameStart_of_barred barred p c g,
    fun n f s h => lanePassBegin_rows h, fun n x f s h => laneResult_rows h x, fun n f s h => rinseDispatch_rows h,
    fun s h => ?_, ?_, fun n ok s h => frameEnd_of_over h ok, fun s => ⟨fun old drained => ?_, fun kept => ?_⟩⟩
  · show execRinseDispatch s = _
    rw [execRinseDispatch, h]
  · intro n f s h still good u
    exact ⟨frameEnd_of_short h still, frameEnd_of_long h still, frameEnd_of_damaged h still,
      fun fine => frameEnd_of_asIs h still fine rfl, fun k drop fine secy through => frameEnd_of_unserved h still fine rfl through secy,
      fun k late drop fine secy through => frameEnd_of_fails h still fine rfl through secy,
      fun c k fine secy through => frameEnd_of_valid h still fine rfl through secy⟩
  · exact congrArg _ (if_pos ⟨old, drained⟩)
  · exact congrArg _ (if_neg fun ⟨old, drained⟩ => kept.elim (· old) (· drained))

/-! Tables that age or are scrubbed. -/

theorem fwlScrubPass_of_running {s : State} (runs : s.fwl.suspended = false) (fwd : forwarding s.sys.mode = true)
    (x y : Option Word64) :
    exec (.fwlScrubPass x y) s = .next (
      if (x.map BitVec.toNat).getD (liveCrc3 s) = s.fwl.ref3
          ∧ (s.fwl.ref4.isNone ∨ s.fwl.ref4 = some ((y.map BitVec.toNat).getD ((liveCrc4 s).getD 0))) then
        { s with fwl := { s.fwl with scrubs := s.fwl.scrubs + 1 } }
      else integrityFault ((x.map BitVec.toNat).getD (liveCrc3 s)) ((y.map BitVec.toNat).getD ((liveCrc4 s).getD 0))
        { s with fwl := { s.fwl with scrubs := s.fwl.scrubs + 1 } }) :=
  congrArg _ (if_neg (by simp [runs, fwd]))

/-! The timers of a FRER recovery function (R213, R214). -/

theorem frerResetTimer_of_entry {k o : Nat} {sec : Bytes} {s : State} (h : frerEntry s k = some (sec, o)) (p : Port) :
    exec (.frerResetTimer k p) s = .next (
      if bit (byteAt sec (o + 2)) 1 ∧ bit (fieldLe sec (o + 4) 4) p.val ∧ !(recoveryOf s k p.val).takeAny then
        countFrer k p.val 6 1 (setRecovery k p.val
          { recoveryOf s k p.val with
            takeAny := true
            passedAt := (reachClock ((recoveryOf s k p.val).passedAt + fieldLe sec (o + 8) 2 * 1000000) s).clk }
          (reachClock ((recoveryOf s k p.val).passedAt + fieldLe sec (o + 8) 2 * 1000000) s))
      else s) := by
  show execFrerResetTimer k p s = _
  rw [execFrerResetTimer, h]

/-- The difference of the latent error test: what the paths passed beyond what was eliminated. -/
def latentDiff (sec : Bytes) (o : Nat) (r : Recovery) : Int :=
  ((Tab.get r.counts 0 0).toNat : Int) * ((byteAt sec (o + 10) : Int) - 1) - ((Tab.get r.counts 1 0).toNat : Int)

section
variable {k o : Nat} {sec : Bytes} {p : Port} {s v : State} {r : Recovery} (h : frerEntry s k = some (sec, o))
  (hr : recoveryOf s k p.val = r) (hv : reachClock (r.testedAt + fieldLe sec (o + 14) 2 * 1000000) s = v)
  (on : bit (byteAt sec (o + 2)) 1 = true ∧ bit (fieldLe sec (o + 4) 4) p.val = true)
  (test : bit (byteAt sec (o + 2)) 3 = true)
include h

theorem frerLatentTimer_of_unused
    (off : ¬(bit (byteAt sec (o + 2)) 1 = true ∧ bit (fieldLe sec (o + 4) 4) p.val = true) ∨ bit (byteAt sec (o + 2)) 3 = false) :
    exec (.frerLatentTimer k p) s = .next s := by
  show execFrerLatentTimer k p s = _
  rw [execFrerLatentTimer, h]
  exact congrArg _ (if_neg fun ⟨used, test, covered⟩ => by simp_all)

include hr hv on test

theorem frerLatentTimer_of_renewal (due : r.resetAt + fieldLe sec (o + 16) 4 * 1000000 ≤ v.clk) :
    exec (.frerLatentTimer k p) s
      = .next (setRecovery k p.val { r with base := latentDiff sec o r, testedAt := v.clk, resetAt := v.clk } v) := by
  obtain ⟨used, covered⟩ := on
  subst hv hr
  show execFrerLatentTimer k p s = _
  rw [execFrerLatentTimer, h]
  exact congrArg _ ((if_pos ⟨used, test, covered⟩).trans (if_pos due))

theorem frerLatentTimer_of_test (early : v.clk < r.resetAt + fieldLe sec (o + 16) 4 * 1000000) :
    exec (.frerLatentTimer k p) s = .next (
      if (fieldLe sec (o + 12) 2 : Int) < latentDiff sec o r - r.base ∨ latentDiff sec o r - r.base < -(fieldLe sec (o + 12) 2 : Int) then
        record 0x0503 (leBytes 2 k ++ [BitVec.ofNat 8 p.val])
          (countFrer k p.val 7 1 (setRecovery k p.val { r with testedAt := v.clk } v))
      else setRecovery k p.val { r with testedAt := v.clk } v) := by
  obtain ⟨used, covered⟩ := on
  subst hv hr
  show execFrerLatentTimer k p s = _
  rw [execFrerLatentTimer, h]
  exact congrArg _ ((if_pos ⟨used, test, covered⟩).trans (if_neg (Nat.not_le.mpr early)))

end

theorem frerTimers_of_entry {k o : Nat} {sec : Bytes} {s : State} (h : frerEntry s k = some (sec, o)) (p : Port) :
    let on := bit (byteAt sec (o + 2)) 1 = true ∧ bit (fieldLe sec (o + 4) 4) p.val = true
    let r := recoveryOf s k p.val
    let u := reachClock (r.passedAt + fieldLe sec (o + 8) 2 * 1000000) s
    let v := reachClock (r.testedAt + fieldLe sec (o + 14) 2 * 1000000) s
    let diff := latentDiff sec o r
    let within := diff - r.base ≤ (fieldLe sec (o + 12) 2 : Int) ∧ -(fieldLe sec (o + 12) 2 : Int) ≤ diff - r.base
    (on → r.takeAny = false → exec (.frerResetTimer k p) s
        = .next (countFrer k p.val 6 1 (setRecovery k p.val { r with takeAny := true, passedAt := u.clk } u)))
    ∧ ((¬on ∨ r.takeAny = true) → exec (.frerResetTimer k p) s = .next s)
    ∧ (on → bit (byteAt sec (o + 2)) 3 = true → r.resetAt + fieldLe sec (o + 16) 4 * 1000000 ≤ v.clk →
        exec (.frerLatentTimer k p) s
          = .next (setRecovery k p.val { r with base := diff, testedAt := v.clk, resetAt := v.clk } v))
    ∧ (on → bit (byteAt sec (o + 2)) 3 = true → v.clk < r.resetAt + fieldLe sec (o + 16) 4 * 1000000 → within →
        exec (.frerLatentTimer k p) s = .next (setRecovery k p.val { r with testedAt := v.clk } v))
    ∧ (on → bit (byteAt sec (o + 2)) 3 = true → v.clk < r.resetAt + fieldLe sec (o + 16) 4 * 1000000 → ¬within →
        exec (.frerLatentTimer k p) s = .next (record 0x0503 (leBytes 2 k ++ [BitVec.ofNat 8 p.val])
          (countFrer k p.val 7 1 (setRecovery k p.val { r with testedAt := v.clk } v))))
    ∧ ((¬on ∨ bit (byteAt sec (o + 2)) 3 = false) → exec (.frerLatentTimer k p) s = .next s) := by
  intro on r u v diff within
  have beyond : ((fieldLe sec (o + 12) 2 : Int) < diff - r.base ∨ diff - r.base < -(fieldLe sec (o + 12) 2 : Int)) ↔ ¬within := by
    simp only [within]
    omega
  refine ⟨fun used fresh => ?_, fun idle => ?_, fun used test due => frerLatentTimer_of_renewal h rfl rfl used test due,
    fun used test early inside => ?_, fun used test early outside => ?_, frerLatentTimer_of_unused h⟩
  · rw [frerResetTimer_of_entry h]
    exact congrArg _ (if_pos ⟨used.1, used.2, by simpa [r] using fresh⟩)
  · rw [frerResetTimer_of_entry h]
    exact congrArg _ (if_neg fun ⟨used, covered, fresh⟩ => idle.elim (· ⟨used, covered⟩) fun set => by simp_all [r])
  · exact (frerLatentTimer_of_test h rfl rfl used test early).trans (congrArg _ (if_neg fun out => beyond.1 out inside))
  · exact (frerLatentTimer_of_test h rfl rfl used test early).trans (congrArg _ (if_pos (beyond.2 outside)))

/-- Settles O34: a table by the entry it holds, the firewall's scrub by its references, a FRER timer by its function. -/
theorem tablesAgeAndTimersRun : Obligations.TablesAgeAndTimersRun := by
  unfold Obligations.TablesAgeAndTimersRun
  refine ⟨⟨fun vid mac s => ⟨fun l h => ?_, fun h => ?_⟩, ?_, fun k s => ⟨fun c h => ?_, fun h => ?_⟩, ?_⟩,
    fun k p sec o s h => frerTimers_of_entry h p, fun k p s h => ⟨?_, ?_⟩⟩
  · show execLearnAgeing vid mac s = _
    rw [execLearnAgeing, h]
    rfl
  · show execLearnAgeing vid mac s = _
    rw [execLearnAgeing, h]
  · intro r s u
    exact ⟨fun last => congrArg _ (if_pos last), fun inner => congrArg _ (if_neg inner)⟩
  · show execCtExpiry k s = _
    rw [execCtExpiry, h]
    rfl
  · show execCtExpiry k s = _
    rw [execCtExpiry, h]
  · intro x y s c3 c4 agree u
    refine ⟨fun runs fwd same => ?_, fun runs fwd differs => ?_, fun barred => congrArg _ (if_pos (by simpa using barred))⟩
    · exact (fwlScrubPass_of_running runs fwd x y).trans
        (congrArg _ (if_pos (by simpa only [Option.isNone_iff_eq_none] using same)))
    · exact (fwlScrubPass_of_running runs fwd x y).trans
        (congrArg _ (if_neg (by simpa only [Option.isNone_iff_eq_none] using differs)))
  · show execFrerResetTimer k p s = _
    rw [execFrerResetTimer, h]
  · show execFrerLatentTimer k p s = _
    rw [execFrerLatentTimer, h]

end Sys2Proof.Machine

/-!
PROOFS. The press, the MAC and the gates of a port (R158, R175–R177, R190, R191, R197, R201, R203, R204).
-/
namespace Sys2Proof.Machine

/-! Arrivals at the press (R175–R177). -/

theorem updDest_clk (n p : Nat) (g : Dest → Dest) (s : State) : (updDest n p g s).clk = s.clk := by
  unfold updDest
  split <;> rfl

section
variable {p : Port} {n : Nat} {f : Frame} {d : Dest} {s : State} (hf : frameOf s n = some f) (hd : destAt f p.val = some d)
include hf hd

theorem pressArrival_of_absent (h : d.phase ≠ .crossing ∨ hasCrossed s n p.val f d = false) :
    exec (.pressArrival p n) s = .next s := by
  show execPressArrival p n s = _
  simp only [execPressArrival, pressArrival, hf, hd]
  exact congrArg _ (if_pos (by simpa using h))

theorem pressArrival_of_crossed (crossing : d.phase = .crossing) (crossed : hasCrossed s n p.val f d = true) :
    let c := frameCls f
    let u := takeItems (isFrameItem n p.val) s
    let t := pressOf u p.val f.inPort c
    exec (.pressArrival p n) s = .next (
      if isBehind d.seq t.e then dropDest n p.val (stat p.val 27 1 u)
      else if d.seq = t.e ∨ pinnedRule u t c then
        dispatch p.val (releaseAll p.val f.inPort c (releaseTo n p.val
          (setPress p.val f.inPort c (t.expect ((d.seq + 1) % 65536)) u)))
      else setPress p.val f.inPort c { t with held := t.held ++ [(d.seq, n)], waitFrom := some (t.waitFrom.getD s.clk) }
        (updDest n p.val (fun d => { d with phase := .press }) u)) := by
  intro c u t
  have clock : (updDest n p.val (fun d => { d with phase := .press }) u).clk = s.clk := updDest_clk ..
  show execPressArrival p n s = _
  simp only [execPressArrival, pressArrival, hf, hd, crossing, crossed, ne_eq, not_true_eq_false, Bool.not_true,
    Bool.false_eq_true, or_self, if_false]
  rw [clock]

theorem pressArrival_rows :
    let c := frameCls f
    let u := takeItems (isFrameItem n p.val) s
    let t := pressOf u p.val f.inPort c
    (d.phase = .crossing → hasCrossed s n p.val f d = true →
      (isBehind d.seq t.e = true → exec (.pressArrival p n) s = .next (dropDest n p.val (stat p.val 27 1 u)))
      ∧ (isBehind d.seq t.e = false → (d.seq = t.e ∨ pinnedRule u t c = true) →
          exec (.pressArrival p n) s = .next (dispatch p.val (releaseAll p.val f.inPort c (releaseTo n p.val
            (setPress p.val f.inPort c (t.expect ((d.seq + 1) % 65536)) u)))))
      ∧ (isBehind d.seq t.e = false → d.seq ≠ t.e → pinnedRule u t c = false →
          exec (.pressArrival p n) s = .next (setPress p.val f.inPort c
            { t with held := t.held ++ [(d.seq, n)], waitFrom := some (t.waitFrom.getD s.clk) }
            (updDest n p.val (fun d => { d with phase := .press }) u))))
    ∧ ((d.phase ≠ .crossing ∨ hasCrossed s n p.val f d = false) → exec (.pressArrival p n) s = .next s) := by
  intro c u t
  refine ⟨fun crossing crossed => ?_, pressArrival_of_absent hf hd⟩
  rw [pressArrival_of_crossed hf hd crossing crossed]
  refine ⟨fun behind => congrArg _ (if_pos behind), fun ahead expected => congrArg _ ((if_neg (by simpa using ahead)).trans (if_pos expected)),
    fun ahead beyond free => congrArg _ ((if_neg (by simpa using ahead)).trans (if_neg ?_))⟩
  rintro (expected | pinned)
  · exact beyond expected
  · exact absurd free (by simpa using pinned)

end

/-! The wait of 2 us (R177). -/

/-- The first number of a list, from `m` on, that lies least ahead. -/
def leastAhead (ahead : Nat → Nat) (l : List Nat) (m : Nat) : Nat := l.foldl (fun m n => if ahead n < ahead m then n else m) m

theorem leastAhead_spec (ahead : Nat → Nat) (l : List Nat) (m : Nat) :
    (leastAhead ahead l m = m ∨ leastAhead ahead l m ∈ l) ∧ ahead (leastAhead ahead l m) ≤ ahead m
      ∧ ∀ n ∈ l, ahead (leastAhead ahead l m) ≤ ahead n := by
  induction l generalizing m with
  | nil => exact ⟨.inl rfl, Nat.le_refl _, by simp⟩
  | cons a l ih =>
    have step : leastAhead ahead (a :: l) m = leastAhead ahead l (if ahead a < ahead m then a else m) := rfl
    obtain ⟨member, least, leastOf⟩ := ih (if ahead a < ahead m then a else m)
    rw [step]
    by_cases h : ahead a < ahead m
    · simp only [h, if_true] at member least leastOf ⊢
      refine ⟨.inr ?_, by omega, by simpa using ⟨least, leastOf⟩⟩
      rcases member with first | later
      · rw [first]
        exact List.mem_cons_self
      · exact List.mem_cons_of_mem _ later
    · simp only [h, if_false] at member least leastOf ⊢
      refine ⟨member.imp_right (List.mem_cons_of_mem _), least, ?_⟩
      simp only [List.mem_cons, forall_eq_or_imp]
      exact ⟨by omega, leastOf⟩

theorem leastAhead_mem (ahead : Nat → Nat) {l : List Nat} (h : l ≠ []) (d : Nat) : leastAhead ahead l (l.headD d) ∈ l := by
  cases l with
  | nil => exact absurd rfl h
  | cons a l =>
    rcases (leastAhead_spec ahead (a :: l) a).1 with first | later
    · simp [first]
    · exact later

theorem pressSkip_of_wait {p i : Port} {c : Fin 8} {s : State} {w : Nat} (hw : (pressOf s p.val i.val c.val).waitFrom = some w)
    (hh : (pressOf s p.val i.val c.val).held ≠ []) :
    let t := pressOf s p.val i.val c.val
    let nums := t.held.map (fun h => h.1) ++ t.holes
    let u := reachClock (w + 2000) s
    exec (.pressSkip p i c) s = .next (dispatch p.val (releaseAll p.val i.val c.val (stat p.val 28 1 (setPress p.val i.val c.val
      { t.expect (leastAhead (fun n => (n + 65536 - t.e) % 65536) nums (nums.headD t.e)) with waitFrom := some u.clk } u)))) := by
  intro t nums u
  show execPressSkip p i c s = _
  simp only [execPressSkip, hw]
  exact congrArg _ (if_neg (by simpa using hh))

theorem pressSkip_of_idle {p i : Port} {c : Fin 8} {s : State}
    (h : (pressOf s p.val i.val c.val).waitFrom = none ∨ (pressOf s p.val i.val c.val).held = []) :
    exec (.pressSkip p i c) s = .next s := by
  show execPressSkip p i c s = _
  unfold execPressSkip
  dsimp only
  split
  · rfl
  · rcases h with none | empty
    · simp_all
    · simp [empty]

/-! Selection and the end of a transmission (R190, R191). -/

theorem plcaTurn_of_no_bus {p : Nat} (h : p < 24 ∨ 28 ≤ p) (s : State) : plcaTurn p s = some s :=
  if_pos (by omega)

theorem egressSelect_of_turn {p : Port} {s u : State} (hp : p.val ≠ 31) (h : plcaTurn p.val s = some u) (l : List CellError) :
    exec (.egressSelect p l) s = .next (selectNow p.val (l.foldl (fun s e => readRow e s) (settle p.val u))) := by
  show execEgressSelect p l s = _
  rw [execEgressSelect, if_neg hp, h]

theorem egressSelect_of_no_turn {p : Port} {s : State} (h : p.val = 31 ∨ plcaTurn p.val s = none) (l : List CellError) :
    exec (.egressSelect p l) s = .next s := by
  show execEgressSelect p l s = _
  unfold execEgressSelect
  rcases h with rp | none
  · rw [if_pos rp]
  · rw [none]
    split <;> rfl

theorem egressTxEnd_of_mac {p : Port} {s : State} (hp : p.val < 28 ∨ (p.val = 29 ∧ clusterServes s = true)) :
    (gptpLeaving s p.val = none → exec (.egressTxEnd p) s = .next (finishSending p.val s))
    ∧ ∀ (m : GptpTx) (t : Int), gptpLeaving s p.val = some (m, t) →
      exec (.egressTxEnd p) s = .next (gptpSent p.val m t (finishSending p.val s)) := by
  have served : ¬(p.val = 29 ∧ (!clusterServes s) = true) := by
    rcases hp with low | ⟨_, serves⟩
    · omega
    · simp [serves]
  refine ⟨fun none => ?_, fun m t some => ?_⟩ <;> show execEgressTxEnd p s = _ <;> unfold execEgressTxEnd <;>
    rw [if_neg (by omega), if_neg served]
  · rw [none]
  · rw [some]

/-! Gates (R197, R201). -/

theorem settle_clk (p : Nat) (s : State) : (settle p s).clk = s.clk := by
  unfold settle
  dsimp only
  split <;> rfl

theorem settle_mac (p : Nat) (s : State) :
    (egress (settle p s) p).macHeld = (egress s p).macHeld ∧ (egress (settle p s) p).preempt = (egress s p).preempt := by
  unfold settle
  dsimp only
  split <;> rw [egress_setEgress, if_pos rfl] <;> exact ⟨rfl, rfl⟩

/-- What a gate operation does to the preemptible MAC of a settled port. -/
def gateMac (p op : Nat) (s : State) : State :=
  if op = 2 then setEgress p { egress s p with macHeld := false } s
  else if op = 1 ∧ (egress s p).preempt = 2 then setEgress p { egress s p with macHeld := true } s
  else s

theorem gateMac_clk (p op : Nat) (s : State) : (gateMac p op s).clk = s.clk := by
  unfold gateMac
  split_ifs <;> rfl

theorem gateMac_macHeld (p op : Nat) (s : State) :
    (egress (gateMac p op s) p).macHeld
      = if op = 2 then false else if op = 1 ∧ (egress s p).preempt = 2 then true else (egress s p).macHeld := by
  unfold gateMac
  split_ifs
  · rw [egress_setEgress, if_pos rfl]
  · rw [egress_setEgress, if_pos rfl]
  · rfl

theorem gateEntryChange_of_block {p : Port} {sec : Bytes} {o : Nat} {s : State} (h : gateBlock s p.val = some (sec, o)) :
    let g := gateEntry s sec o (wNow s)
    exec (.gateEntryChange p) s = .next (gateMac p.val (gateOp sec o ((g.1 + 1) % fieldLe sec (o + 8) 2))
      (settle p.val (reachW (wNow s + (g.2 : Int)) s))) := by
  intro g
  show execGateEntryChange p s = _
  rw [execGateEntryChange, h]
  rfl

theorem setAndHoldMac_of_block {p : Port} {sec : Bytes} {o : Nat} {s : State} (h : gateBlock s p.val = some (sec, o)) :
    let hold := untilHold sec o (fieldLe sec (o + 8) 2) (gateEntry s sec o (wNow s)).1 (gateEntry s sec o (wNow s)).2
    (∀ w : Nat, (egress s p.val).preempt = 2 → hold = some w →
      let u := preemptNow p.val (reachW (wNow s + (w : Int) - nsVal (fieldLe sec (o + 28) 4)) s)
      exec (.setAndHoldMac p) s = .next (setEgress p.val { egress u p.val with macHeld := true } u))
    ∧ (((egress s p.val).preempt ≠ 2 ∨ hold = none) → exec (.setAndHoldMac p) s = .next s) := by
  intro hold
  refine ⟨fun w active due => ?_, fun idle => ?_⟩
  · show execSetAndHoldMac p s = _
    rw [execSetAndHoldMac, h]
    dsimp only
    rw [if_neg (by simp [active]), show untilHold sec o (fieldLe sec (o + 8) 2) _ _ = some w from due]
  · show execSetAndHoldMac p s = _
    rw [execSetAndHoldMac, h]
    dsimp only
    rcases idle with inactive | never
    · rw [if_pos inactive]
    · rw [show untilHold sec o (fieldLe sec (o + 8) 2) _ _ = none from never]
      split <;> rfl

/-! Launch times and verification (R203, R204). -/

theorem launchMissed_of_launch {p : Port} {n : Nat} {s : State} {f : Frame} {t : Int} (hp : hasLaunch p.val = true)
    (hq : (egress s p.val).queues.any (fun q => q.2.contains n) = true) (hf : frameOf s n = some f) (ht : f.launch = some t) :
    exec (.launchMissed p n) s
      = .next (discardQueued n p.val (launchOutcome n p.val 2 (reachW (t + nsVal (8 + ltLate s p.val)) s))) := by
  show execLaunchMissed p n s = _
  rw [execLaunchMissed, if_pos ⟨hp, hq⟩, hf, Option.bind_some, ht]

theorem launchMissed_of_absent {p : Port} {n : Nat} {s : State}
    (h : hasLaunch p.val = false ∨ (egress s p.val).queues.any (fun q => q.2.contains n) = false) :
    exec (.launchMissed p n) s = .next s := by
  show execLaunchMissed p n s = _
  rw [execLaunchMissed, if_neg fun ⟨launch, queued⟩ => h.elim (Bool.eq_false_iff.1 · launch) (Bool.eq_false_iff.1 · queued)]

theorem preemptVerify_of_verifying {p : Port} {s : State} (h : (egress s p.val).preempt = 1) (up : portUp s p.val = true) :
    let u := reachClock (verifyDue s p.val) s
    exec (.preemptVerify p) s = .next (if (egress s p.val).verifyTries < 3 then
      emit (.preempt p.val false) (setEgress p.val
        { egress s p.val with verifyTries := (egress s p.val).verifyTries + 1, verifyAt := u.clk } u)
    else record 0x0502 [BitVec.ofNat 8 p.val] (setEgress p.val { egress s p.val with preempt := 3 } u)) :=
  congrArg _ (if_neg (by simp [h, up]))

/-- Settles O36: the press by its numbers, a port by what it sends, its gates and its verification. -/
theorem egressEvents : Obligations.EgressEvents := by
  unfold Obligations.EgressEvents
  refine ⟨fun p n f d s hf hd => pressArrival_rows hf hd, ?_, ?_, fun p l s => ⟨fun place => ?_, fun low high u turn => ?_, fun idle => ?_⟩,
    fun p s => ⟨egressTxEnd_of_mac, fun mp down => ?_, fun inner => ?_⟩, fun p sec o s h => ?_, fun p s h => ⟨?_, ?_⟩,
    fun p sec o s h => setAndHoldMac_of_block h, fun p n s => ⟨fun f t hp hq hf ht => launchMissed_of_launch hp hq hf ht, launchMissed_of_absent⟩,
    ?_⟩
  · intro p i c k s n x
    exact ⟨fun next => congrArg _ (if_pos next), fun later => congrArg _ (if_neg (by simpa using later))⟩
  · intro p i c s t
    refine ⟨fun w hw hh => ⟨reachClock (w + 2000) s, _, pressSkip_of_wait hw hh, rfl, leastAhead_mem _ (by simp [hh]) _,
      (leastAhead_spec (fun n => (n + 65536 - t.e) % 65536) _ _).2.2⟩, pressSkip_of_idle⟩
  · exact egressSelect_of_turn (by omega) (plcaTurn_of_no_bus (by omega) s) l
  · exact egressSelect_of_turn (by omega) turn l
  · exact egressSelect_of_no_turn idle l
  · show execEgressTxEnd p s = _
    rw [execEgressTxEnd, if_neg (by omega), if_pos ⟨mp, by simp [down]⟩]
  · have place := p.isLt
    show execEgressTxEnd p s = _
    rw [execEgressTxEnd, if_pos (by omega)]
  · refine ⟨_, gateEntryChange_of_block h, ?_, ?_⟩
    · rw [gateMac_clk, settle_clk]
    · obtain ⟨held, preempt⟩ := settle_mac p.val (reachW (wNow s + ((gateEntry s sec o (wNow s)).2 : Int)) s)
      rw [gateMac_macHeld, held, preempt]
      rfl
  · show execGateEntryChange p s = _
    rw [execGateEntryChange, h]
  · show execSetAndHoldMac p s = _
    rw [execSetAndHoldMac, h]
  · intro p s u
    refine ⟨fun verifying up tries => ?_, fun verifying up tries => ?_, fun idle => congrArg _ (if_pos (by simpa using idle)),
      fun verifying => congrArg _ (if_pos verifying), fun idle => congrArg _ (if_neg idle)⟩
    · exact (preemptVerify_of_verifying verifying up).trans (congrArg _ (if_pos tries))
    · exact (preemptVerify_of_verifying verifying up).trans (congrArg _ (if_neg (Nat.not_lt.mpr tries)))

end Sys2Proof.Machine

/-!
PROOFS. The switches of the run image, of a section and of the rule bank, and the pace monitors (R35, R80, R85–R89, R117, R118,
R120, R148, R149).
-/
namespace Sys2Proof.Machine

/-! The activation and the pending patch (R80, R85). -/

theorem imageSwitch_of_armed {t : Word16} {i : Int} {m : Nat × Int} {x : RunImage} {s : State} (ha : s.img.armed = some (t, i))
    (hm : s.img.pendingMark = some m) (hx : s.img.shadow = some x) :
    let u := takeImage x (reachW i s)
    exec .imageSwitch s = .next (if s.fwl.st ≠ 0 then discardActivation s
      else if runMode s.sys.mode ∧ !s.wake.down then (if clusterServes u then finishActivation u else u) else s) := by
  intro u
  show execImageSwitch s = _
  simp only [execImageSwitch, ha, hm, hx]
  rfl

theorem imageSwitch_of_none {s : State} (h : s.img.armed = none ∨ s.img.pendingMark = none ∨ s.img.shadow = none) :
    exec .imageSwitch s = .next s := by
  show execImageSwitch s = _
  unfold execImageSwitch
  split
  · simp_all
  · rfl

theorem discardActivation_of_handedOver {t : Word16} {i : Int} {m : Nat × Int} {s : State} (h : s.img.armed = some (t, i))
    (hm : s.img.pendingMark = some m) :
    discardActivation s = finalReply t stWrongMode 0 [] (noteBusy { s with img := { s.img with armed := none, pendingMark := none } }) := by
  simp only [discardActivation, h, hm, Option.isNone_some, Bool.false_eq_true, if_false]

theorem patchSwap_of_patch {x : PendingSwap} {p : Patch} {s : State} (hx : s.img.pending = some x) (hp : x.patch = some p) :
    let u := swapPatch p (reachW x.instant s)
    exec .patchSwap s = .next (if swapDue x.tag s ∧ forwarding s.sys.mode ∧ !inL34 s ∧ s.fwl.st ≠ 1 then
      replySwap x.tag 0 [] (noteBusy { u with img := { u.img with pending := none } }) else s) := by
  intro u
  show execPatchSwap s = _
  simp only [execPatchSwap, hx, hp]
  rfl

theorem patchSwap_of_none {s : State} (h : ∀ x : PendingSwap, s.img.pending = some x → x.patch = none) :
    exec .patchSwap s = .next s := by
  show execPatchSwap s = _
  unfold execPatchSwap
  split
  · rw [h _ ‹_›]
  · rfl

/-! The rule bank (R117, R118, R120). -/

theorem ruleBankSwap_of_refresh {s : State} (hs : s.lanes.swap = none) {i : Int} (hr : s.lanes.refreshAt = some i) :
    exec .ruleBankSwap s = .next (if s.lanes.other = 2 then
      { swapBanks (reachW i s) with lanes := { (swapBanks (reachW i s)).lanes with refreshAt := none } } else s) := by
  show execRuleBankSwap s = _
  simp only [execRuleBankSwap, hs, hr]

theorem ruleBankSwap_of_none {s : State} (hs : s.lanes.swap = none) (h : s.lanes.refreshAt = none ∨ s.lanes.other ≠ 2) :
    exec .ruleBankSwap s = .next s := by
  cases hr : s.lanes.refreshAt with
  | none =>
    show execRuleBankSwap s = _
    simp only [execRuleBankSwap, hs, hr]
  | some i =>
    rw [ruleBankSwap_of_refresh hs hr, if_neg (by simpa [hr] using h)]

theorem ruleBankSwap_of_swap {s : State} {t : Word16} {i : Int} (hs : s.lanes.swap = some (t, i)) :
    let u := swapBanks (reachW i (if s.lanes.other = 2 then s else rebuildBank s))
    exec .ruleBankSwap s = .next (if awaitsSync t s then s
      else if s.sys.mode = .autonomous then
        finalReply t stWrongMode 0 [] (releaseOther { s with lanes := { s.lanes with swap := none } })
      else finalReply t stOk 0 (swapResult u) { u with lanes := { u.lanes with swap := none } }) := by
  intro u
  show execRuleBankSwap s = _
  simp only [execRuleBankSwap, hs]
  rfl

theorem ruleBankRefresh_of_due {s : State} (h : s.lanes.refreshDue = true ∧ s.lanes.other = 0 ∧ forwarding s.sys.mode = true) :
    exec .ruleBankRefresh s = .next { rebuildBank s with
      lanes := { (rebuildBank s).lanes with refreshDue := false, refreshAt := some (nextBoundary 50000 (rebuildBank s)) } } :=
  congrArg _ (if_pos h)

/-! AUTONOMOUS (R35) and the revert of a section (R148, R149). -/

theorem autonomousSwitch_of_tag {t : Word16} {s : State} (h : s.sys.autonomousTag = some t) :
    let v := reachW s.sys.autonomousAt s
    let u := { v with sys := { v.sys with
      autonomousTag := none, straps := { v.sys.straps with profile := v.sys.sampled.profile } } }
    exec .autonomousSwitch s = .next (if s.sys.mode = .configured then
      finalReply t stOk 0 [] (noteProfile (enterMode .autonomous (switchTables none (runRom u))))
    else finalReply t stWrongMode 0 [] { s with sys := { s.sys with autonomousTag := none } }) := by
  intro v u
  show execAutonomousSwitch s = _
  simp only [execAutonomousSwitch, h]
  rfl

theorem fwlRevertComplete_of_image {b : Nat} {x : RunImage} {s : State} (hs : s.fwl.st = 1) (hx : s.img.live = some x)
    (hb : s.img.activeMark = some b) :
    exec .fwlRevertComplete s = .next (if (revertSections s).all (digestHolds (bankContainer s b)) then
      revertTo (imageOf (bankContainer s b)) (revertSections s) (discardPending s)
    else escalate 5 (record 0x0306 [] (discardPending
      { s with fwl := { s.fwl with st := 2 }, saf := { s.saf with revertFailed := true } }))) := by
  show execFwlRevertComplete s = _
  rw [execFwlRevertComplete, if_neg (by simp [hs]), hx, hb]

theorem fwlRevertComplete_of_no_image {s : State} (hs : s.fwl.st = 1) (h : s.img.live = none ∨ s.img.activeMark = none) :
    exec .fwlRevertComplete s
      = .next (refreshFirewall { s with fwl := { s.fwl with st := 0, suspended := false, reverts := s.fwl.reverts + 1 } }) := by
  show execFwlRevertComplete s = _
  rw [execFwlRevertComplete, if_neg (by simp [hs])]
  split
  · simp_all
  · rfl

/-! The pace monitors (R21, R87, R89). -/

/-- What a reading of the pace monitors keeps, before its certificate is asked. -/
def paceKept (v : Nat) (u : State) : State :=
  { u with img := { u.img with pace := v, paceLow := some (Nat.min (u.img.paceLow.getD v) v), paceAt := u.clk } }

/-- What is done after a reading: the certificate's threshold, or the nominal pace where no image runs. -/
def paceJudged (v : Nat) (r : State) : State :=
  match r.img.live with
  | some i =>
    if r.img.margin then followPace v (paceThreshold i) r
    else if v < paceThreshold i then raisePace v (fieldLe ((imgSection i 0x00F0).getD []) 2 2) r
    else r
  | none => if r.sys.mode = .autonomous ∧ v < 4096 then record 0x0105 (leBytes 2 v) r else r

theorem paceReading_of_ref {s : State} (h : refRuns s = true) (a b c d : Nat) :
    let p := paceOf (Nat.min (Nat.min a b) (Nat.min c d)) (reachClock (s.img.paceAt + 10000) s)
    exec (.paceReading a b c d) s = .next (paceJudged p.1 (paceKept p.1 p.2)) :=
  congrArg _ (if_neg (by simp [h]))

theorem paceOf_of_calibrated {s : State} (h : s.img.paceCal ≠ 0) (m : Nat) :
    paceOf m s = (Nat.min 65535 (m * 4096 / s.img.paceCal), s) := by
  simp only [paceOf, h, if_false]

/-- A calibrated reading is the slowest of the four monitors in pace units. -/
theorem paceReading_of_calibrated {s : State} (h : refRuns s = true) (hc : s.img.paceCal ≠ 0) (a b c d : Nat) :
    let v := Nat.min 65535 (Nat.min (Nat.min a b) (Nat.min c d) * 4096 / s.img.paceCal)
    exec (.paceReading a b c d) s = .next (paceJudged v (paceKept v (reachClock (s.img.paceAt + 10000) s))) := by
  have calibrated : (reachClock (s.img.paceAt + 10000) s).img.paceCal ≠ 0 := hc
  rw [paceReading_of_ref h, paceOf_of_calibrated calibrated]
  rfl

theorem paceJudged_of_image {r : State} {x : RunImage} (h : r.img.live = some x) (v : Nat) :
    paceJudged v r = if r.img.margin then followPace v (paceThreshold x) r
      else if v < paceThreshold x then raisePace v (fieldLe ((imgSection x 0x00F0).getD []) 2 2) r else r := by
  rw [paceJudged, h]

theorem paceJudged_of_no_image {r : State} (h : r.img.live = none) (v : Nat) :
    paceJudged v r = if r.sys.mode = .autonomous ∧ v < 4096 then record 0x0105 (leBytes 2 v) r else r := by
  rw [paceJudged, h]

theorem paceReading_rows (a b c d : Nat) (s : State) :
    (refRuns s = true → s.img.paceCal ≠ 0 →
      let v := Nat.min 65535 (Nat.min (Nat.min a b) (Nat.min c d) * 4096 / s.img.paceCal)
      let r := paceKept v (reachClock (s.img.paceAt + 10000) s)
      (∀ x : RunImage, s.img.live = some x →
        (s.img.margin = true → exec (.paceReading a b c d) s = .next (followPace v (paceThreshold x) r))
        ∧ (s.img.margin = false → v < paceThreshold x → exec (.paceReading a b c d) s
            = .next (raisePace v (fieldLe ((imgSection x 0x00F0).getD []) 2 2) r))
        ∧ (s.img.margin = false → paceThreshold x ≤ v → exec (.paceReading a b c d) s = .next r))
      ∧ (s.img.live = none → s.sys.mode = .autonomous → v < 4096 →
          exec (.paceReading a b c d) s = .next (record 0x0105 (leBytes 2 v) r))
      ∧ (s.img.live = none → (s.sys.mode ≠ .autonomous ∨ 4096 ≤ v) → exec (.paceReading a b c d) s = .next r))
    ∧ (refRuns s = true → s.img.paceCal = 0 → ∃ u : State, exec (.paceReading a b c d) s = .next u)
    ∧ (refRuns s = false → exec (.paceReading a b c d) s = .next s) := by
  refine ⟨fun runs calibrated => ?_, fun runs _ => ⟨_, paceReading_of_ref runs a b c d⟩, fun stopped => congrArg _ (if_pos (by simp [stopped]))⟩
  intro v r
  rw [paceReading_of_calibrated runs calibrated]
  refine ⟨fun x live => ?_, fun none autonomous low => ?_, fun none fine => ?_⟩
  · have judged : paceJudged v r = _ := paceJudged_of_image (show r.img.live = some x from live) v
    refine ⟨fun margin => congrArg _ (judged.trans (if_pos margin)),
      fun good low => congrArg _ (judged.trans ((if_neg (Bool.eq_false_iff.1 good)).trans (if_pos low))),
      fun good enough => congrArg _ (judged.trans ((if_neg (Bool.eq_false_iff.1 good)).trans (if_neg (Nat.not_lt.mpr enough))))⟩
  · exact congrArg _ ((paceJudged_of_no_image (show r.img.live = Option.none from none) v).trans (if_pos ⟨autonomous, low⟩))
  · refine congrArg _ ((paceJudged_of_no_image (show r.img.live = Option.none from none) v).trans (if_neg ?_))
    rintro ⟨autonomous, low⟩
    exact fine.elim (· autonomous) fun high => by omega

/-- Settles O37: each switch by what waits for it and its condition, a reading by the certificate's threshold. -/
theorem imageSwitchesAndPace : Obligations.ImageSwitchesAndPace := by
  unfold Obligations.ImageSwitchesAndPace
  refine ⟨⟨?_, fun s => imageSwitch_of_none, ?_, fun s => patchSwap_of_none, ?_,
    fun s hs => ⟨fun i hr other => ?_, ruleBankSwap_of_none hs⟩, ?_, ?_, fun s h => ?_, ?_,
    fun s hs h => fwlRevertComplete_of_no_image hs h, fun s hs => congrArg _ (if_pos hs)⟩, paceReading_rows⟩
  · intro t i m x s ha hm hx u
    have row := imageSwitch_of_armed ha hm hx
    refine ⟨fun clear mode awake => ?_, fun clear idle => ?_, fun reverting => ?_⟩
    · exact row.trans (congrArg _ ((if_neg (by simp [clear])).trans (if_pos ⟨mode, by simp [awake]⟩)))
    · exact row.trans (congrArg _ ((if_neg (by simp [clear])).trans (if_neg fun ⟨mode, awake⟩ => by simp_all)))
    · exact row.trans (congrArg _ ((if_pos reverting).trans (discardActivation_of_handedOver ha hm)))
  · intro x p s hx hp due u
    have row := patchSwap_of_patch hx hp
    have both : (swapDue x.tag s = true ∧ forwarding s.sys.mode = true ∧ (!inL34 s) = true ∧ s.fwl.st ≠ 1) ↔ due := by
      simp [due]
    exact ⟨fun now => row.trans (congrArg _ (if_pos (both.2 now))), fun early => row.trans (congrArg _ (if_neg (mt both.1 early)))⟩
  · intro s due
    refine ⟨fun now => ⟨_, ruleBankRefresh_of_due now, rfl, rfl, rfl, rfl⟩, fun early => congrArg _ (if_neg early)⟩
  · exact ⟨_, (ruleBankSwap_of_refresh hs hr).trans (congrArg _ (if_pos other)), rfl, rfl, rfl, rfl⟩
  · intro t i s hs u
    have row := ruleBankSwap_of_swap hs
    refine ⟨fun alone mode => ?_, fun alone mode => ?_, fun awaits => ?_⟩
    · exact row.trans (congrArg _ ((if_neg (Bool.eq_false_iff.1 alone)).trans (if_neg mode)))
    · exact row.trans (congrArg _ ((if_neg (Bool.eq_false_iff.1 alone)).trans (if_pos mode)))
    · exact row.trans (congrArg _ (if_pos awaits))
  · intro t s h v u
    have row := autonomousSwitch_of_tag h
    exact ⟨fun mode => row.trans (congrArg _ (if_pos mode)), fun mode => row.trans (congrArg _ (if_neg mode))⟩
  · show execAutonomousSwitch s = _
    rw [execAutonomousSwitch, h]
  · intro b x s hs hx hb held
    have row := fwlRevertComplete_of_image hs hx hb
    exact ⟨fun good => row.trans (congrArg _ (if_pos good)), fun bad => row.trans (congrArg _ (if_neg bad))⟩

end Sys2Proof.Machine

/-!
PROOFS. The time pins, the working clock and the operating seconds (R31, R235, R240–R243).
-/
namespace Sys2Proof.Machine

/-! PPS_IN and PPS_OUT (R240, R241). -/

theorem acceptPps_of_not_serving {s : State} (h : clusterServes s = false) :
    acceptPps s = { s with time := { s.time with
      ppsEdges := (s.clk :: s.time.ppsEdges).take 2, ppsIn := localBytes s, ppsCnt := s.time.ppsCnt + 1 } } :=
  if_pos (by rw [Bool.not_eq_true']; exact h)

theorem ppsInEdge_of_edge {hi : Nat} {s : State} (long : 100 ≤ hi) (runs : clockStopped s = false) :
    exec (.ppsInEdge hi) s = .next (match s.time.ppsEdges with
      | l :: _ =>
        if s.clk < l + 500000000 then
          recordLimited 0x0607 0 (fun n => leBytes 8 n) { s with time := { s.time with ppsGlitches := s.time.ppsGlitches + 1 } }
        else acceptPps s
      | [] => acceptPps s) := by
  show execPpsInEdge hi s = _
  rw [execPpsInEdge, if_neg (by simp [Nat.not_lt.mpr long, runs])] <;> rfl

theorem reachTimeline_wire (n : Nat) (t : Int) (s : State) : (reachTimeline n t s).wire = s.wire := by
  unfold reachTimeline
  split
  · rfl
  · rfl

theorem ppsOutEdge_rises {s : State} (on : ppsOutOn s = true) (low : s.time.ppsOut = false) :
    let d := timeField s 1 1 0xFF
    let v := reachTimeline d ((timeline s d + nsVal 1000000000 - 1) / nsVal 1000000000 * nsVal 1000000000) s
    exec (.ppsOutEdge true) s
      = .next (emit (.pin "PPS_OUT" true) { v with time := { v.time with ppsOut := true, ppsRose := timeline v d } }) :=
  congrArg _ (if_pos (c := ppsOutOn s = true ∧ ¬s.time.ppsOut = true) ⟨on, Bool.eq_false_iff.1 low⟩)

theorem ppsOutEdge_falls {s : State} (high : s.time.ppsOut = true) :
    let v := reachTimeline (timeField s 1 1 0xFF) (s.time.ppsRose + nsVal (timeField s 4 4 0 * 1000)) s
    exec (.ppsOutEdge false) s = .next (emit (.pin "PPS_OUT" false) { v with time := { v.time with ppsOut := false } }) :=
  congrArg _ (if_pos high)

/-! The TSYNC channels (R242, R243). -/

/-- An edge within 100 ns of the last one is not captured. -/
def captureNear (v : Tsync) (s : State) : Bool :=
  match v.last with
  | some l => decide (s.clk < l + 100)
  | none => false

theorem captureNear_iff (v : Tsync) (s : State) : captureNear v s = true ↔ ∃ l : Nat, v.last = some l ∧ s.clk < l + 100 := by
  unfold captureNear
  cases v.last with
  | none => simp
  | some l => simp

theorem tsyncCapture_eq (n : Fin 4) (up : Bool) (s : State) :
    let v := tsync s n.val
    exec (.tsyncCapture n up) s = .next (
      if timeField s (64 + 16 * n.val) 1 0 != 1 || !bit (timeField s (64 + 16 * n.val + 1) 1 0) (if up then 0 else 1)
          || captureNear v s then s
      else if 16 ≤ v.fifo.length then
        recordLimited 0x0608 n.val (fun c => [BitVec.ofNat 8 n.val] ++ leBytes 8 c)
          (setTsync n.val { v with overruns := v.overruns + 1, last := some s.clk } s)
      else raiseInt 6 (setTsync n.val
        { v with fifo := v.fifo ++ [timeBytes (timeline s (timeField s (64 + 16 * n.val + 2) 1 0))], last := some s.clk } s)) :=
  rfl

theorem tsyncCapture_rows (n : Fin 4) (up : Bool) (s : State) :
    let v := tsync s n.val
    let on := timeField s (64 + 16 * n.val) 1 0 = 1 ∧ bit (timeField s (64 + 16 * n.val + 1) 1 0) (if up = true then 0 else 1) = true
    let near := ∃ l : Nat, v.last = some l ∧ s.clk < l + 100
    (on → ¬near → v.fifo.length < 16 →
      exec (.tsyncCapture n up) s = .next (raiseInt 6 (setTsync n.val { v with
        fifo := v.fifo ++ [timeBytes (timeline s (timeField s (64 + 16 * n.val + 2) 1 0))], last := some s.clk } s)))
    ∧ (on → ¬near → 16 ≤ v.fifo.length → exec (.tsyncCapture n up) s
        = .next (recordLimited 0x0608 n.val (fun c => [BitVec.ofNat 8 n.val] ++ leBytes 8 c)
            (setTsync n.val { v with overruns := v.overruns + 1, last := some s.clk } s)))
    ∧ ((¬on ∨ near) → exec (.tsyncCapture n up) s = .next s) := by
  intro v on near
  have idle : ((timeField s (64 + 16 * n.val) 1 0 != 1 || !bit (timeField s (64 + 16 * n.val + 1) 1 0) (if up then 0 else 1)
      || captureNear v s) = true) ↔ ¬on ∨ near := by
    rw [Bool.or_eq_true, captureNear_iff]
    simp only [Bool.or_eq_true, bne_iff_ne, Bool.not_eq_true', on, not_and_or, Bool.not_eq_true, near, ne_eq]
  rw [tsyncCapture_eq]
  refine ⟨fun used far room => congrArg _ ((if_neg fun h => ?_).trans (if_neg (Nat.not_le.mpr room))),
    fun used far full => congrArg _ ((if_neg fun h => ?_).trans (if_pos full)), fun h => congrArg _ (if_pos (idle.2 h))⟩
  · exact (idle.1 h).elim (· used) far
  · exact (idle.1 h).elim (· used) far

section
variable {n : Fin 4} {s : State} (out : timeField s (64 + 16 * n.val) 1 0 = 2)
include out

theorem tsyncOutputEdge_rises (low : (tsync s n.val).high = false) :
    let o := 64 + 16 * n.val
    let d := timeField s (o + 2) 1 0
    let t := reachTimeline d (boundaryFrom (timeline s d) (baseNs s + timeField s (o + 8) 4 0) (timeField s (o + 4) 4 0)) s
    exec (.tsyncOutputEdge n true) s
      = .next (emit (.pin (tsyncName n.val) true) (setTsync n.val { tsync s n.val with high := true, rose := timeline t d } t)) :=
  congrArg _ ((if_neg (by simp [out])).trans (if_neg (Bool.eq_false_iff.1 low)))

theorem tsyncOutputEdge_falls (high : (tsync s n.val).high = true) :
    let o := 64 + 16 * n.val
    let t := reachTimeline (timeField s (o + 2) 1 0) ((tsync s n.val).rose + nsVal (timeField s (o + 12) 4 0)) s
    exec (.tsyncOutputEdge n false) s
      = .next (emit (.pin (tsyncName n.val) false) (setTsync n.val { tsync s n.val with high := false } t)) :=
  congrArg _ ((if_neg (by simp [out])).trans (if_pos high))

end

theorem tsyncOutputEdge_idle (n : Fin 4) (s : State) :
    ((timeField s (64 + 16 * n.val) 1 0 ≠ 2 ∨ (tsync s n.val).high = true) → exec (.tsyncOutputEdge n true) s = .next s)
    ∧ ((timeField s (64 + 16 * n.val) 1 0 ≠ 2 ∨ (tsync s n.val).high = false) → exec (.tsyncOutputEdge n false) s = .next s) := by
  refine ⟨fun h => ?_, fun h => ?_⟩ <;> show execTsyncOutputEdge n _ s = _ <;> unfold execTsyncOutputEdge
  · rcases h with other | high
    · rw [if_pos other]
    · simp [high]
  · rcases h with other | low
    · rw [if_pos other]
    · simp [low]

/-- Settles O39: each pin by its configuration and its level, W by its mode and its copies. -/
theorem timePins : Obligations.TimePins := by
  unfold Obligations.TimePins
  refine ⟨fun h s => ⟨fun l r long runs he early => ?_, fun l r long runs he late => ?_, fun long runs he => ?_,
      fun idle => congrArg _ (if_pos idle), acceptPps_of_not_serving⟩, ?_, tsyncCapture_rows, ?_, ?_,
    fun a s => ⟨fun fresh => congrArg _ (if_neg (by simp [fresh])), fun known => congrArg _ (if_pos known)⟩,
    fun s => ⟨fun power => congrArg _ (if_neg (Bool.eq_false_iff.1 power)), fun lost => congrArg _ (if_pos lost)⟩⟩
  · rw [ppsInEdge_of_edge long runs, he]
    exact congrArg _ (if_pos early)
  · rw [ppsInEdge_of_edge long runs, he]
    exact congrArg _ (if_neg (Nat.not_lt.mpr late))
  · rw [ppsInEdge_of_edge long runs, he]
  · intro s d
    refine ⟨fun on low => ⟨_, _, rfl, ppsOutEdge_rises on low, rfl, rfl, rfl, congrArg (· ++ _) (reachTimeline_wire ..)⟩, fun idle => ?_,
      fun high => ⟨_, _, rfl, ppsOutEdge_falls high, rfl, rfl, congrArg (· ++ _) (reachTimeline_wire ..)⟩, fun low => ?_⟩
    · exact congrArg _ (if_neg (c := ppsOutOn s = true ∧ ¬s.time.ppsOut = true) fun ⟨on, low⟩ => by simp_all)
    · exact congrArg _ (if_neg (Bool.eq_false_iff.1 low))
  · intro n s v o d
    refine ⟨fun out low => ⟨_, _, rfl, tsyncOutputEdge_rises out low, ?_, ?_, rfl, congrArg (· ++ _) (reachTimeline_wire ..)⟩,
      fun out high => ⟨_, _, rfl, tsyncOutputEdge_falls out high, ?_, rfl, congrArg (· ++ _) (reachTimeline_wire ..)⟩,
      tsyncOutputEdge_idle n s⟩
    · exact congrArg Tsync.high ((tsync_setTsync ..).trans (if_pos rfl))
    · exact congrArg Tsync.rose ((tsync_setTsync ..).trans (if_pos rfl))
    · exact congrArg Tsync.high ((tsync_setTsync ..).trans (if_pos rfl))
  · intro s g
    refine ⟨fun slew => ?_, fun other => ?_⟩ <;> show execSlewComplete s = _ <;> unfold execSlewComplete
    · rw [slew]
    · cases hm : s.time.w.mode with
      | slew => exact absurd hm other
      | _ => rfl

end Sys2Proof.Machine

/-!
PROOFS. The instructions of a Seam engine (R255, R256, Table 9.10).
-/
namespace Sys2Proof.Machine

/-! One instruction of a handler: the shared operations `seamRun`, `seamAlu` and `seamBranch`. -/

section
variable {op n w : Nat} {r : SeamRun} {s : State}

theorem seamRun_of_at (h : seamAt op n r w s) (g : SeamRun → Nat → State → State) :
    seamRun n op g s = g { r with executed := r.executed + 1 } w s := by
  obtain ⟨runs, handler, word, isOp⟩ := h
  simp only [seamRun, runs, handler, word, isOp, Bool.false_eq_true, if_false, if_true]

/-- The count of instructions and the write of a register do not meet. -/
theorem seamNext_seamSet (v : Nat) :
    seamNext n 0 (seamSet { r with executed := r.executed + 1 } (seamDst w) v) s = seamWrites n r w v s := by
  unfold seamNext seamWrites seamGoesOn seamSet
  split <;> rfl

theorem seamAlu_of_at (h : seamAt op n r w s) (f : SeamRun → Nat → Nat) :
    seamAlu n op f s = seamWrites n r w (f { r with executed := r.executed + 1 } w) s :=
  (seamRun_of_at h _).trans (seamNext_seamSet _)

theorem seamBranch_of_at (h : seamAt op n r w s) (c : Nat → Nat → Bool) :
    seamBranch n op c s
      = seamGoesOn n (if c (seamReg r (seamDst w)) (seamReg r (seamSrc w)) then bits (seamImm w) 0 8 else 0) r s :=
  seamRun_of_at h _

theorem seamRun_of_idle (g : SeamRun → Nat → State → State) (h : (engineOf s n).stopped = true ∨ (engineOf s n).run = none) :
    seamRun n op g s = s := by
  unfold seamRun
  dsimp only
  rcases h with stopped | none
  · rw [if_pos stopped]
  · rw [none]
    exact ite_self s

theorem seamRun_of_past (g : SeamRun → Nat → State → State) (runs : (engineOf s n).stopped = false)
    (handler : (engineOf s n).run = some r) (past : seamWord r = none) : seamRun n op g s = seamAbort n s := by
  simp only [seamRun, runs, handler, past, Bool.false_eq_true, if_false]

theorem seamRun_of_other (g : SeamRun → Nat → State → State) (runs : (engineOf s n).stopped = false)
    (handler : (engineOf s n).run = some r) (word : seamWord r = some w) (other : seamOp w ≠ op) : seamRun n op g s = s := by
  simp only [seamRun, runs, handler, word, other, Bool.false_eq_true, if_false]

end

theorem seamReg_seamSet (r : SeamRun) (d x k : Nat) :
    seamReg (seamSet r d x) k = if k = 0 then 0 else if k = d then x % 2 ^ 32 else seamReg r k := by
  by_cases hk : k = 0
  · simp [seamReg, hk]
  · by_cases hd : d = 0
    · simp [seamReg, seamSet, hk, hd]
    · simp only [seamReg, seamSet, hk, hd, if_false, Tab.get_set]

/-! The instructions that touch the buffers, the constants and the clock. -/

section
variable {n : Fin 4} {w : Nat} {r : SeamRun} {s : State}

theorem seamGetf_rows (h : seamAt 0x10 n.val r w s) :
    exec (.seamGetf n) s = .next (
      if 8 * bufferSize < seamReg r (seamSrc w) + bits (seamImm w) 0 12 + (bits (seamImm w) 12 6 + 1) then seamAbort n.val s
      else seamWrites n.val r w (getBits r.input (seamReg r (seamSrc w) + bits (seamImm w) 0 12) (bits (seamImm w) 12 6 + 1)) s) := by
  rw [← seamNext_seamSet]
  exact congrArg _ (seamRun_of_at h _)

theorem seamPutf_rows (h : seamAt 0x11 n.val r w s) :
    exec (.seamPutf n) s = .next (
      if 8 * bufferSize < seamReg r (seamSrc w) + bits (seamImm w) 0 12 + (bits (seamImm w) 12 6 + 1) then seamAbort n.val s
      else seamGoesOn n.val 0
        { r with output :=
            putBits r.output (seamReg r (seamSrc w) + bits (seamImm w) 0 12) (bits (seamImm w) 12 6 + 1) (seamReg r (seamDst w)) }
        s) :=
  congrArg _ (seamRun_of_at h _)

theorem seamLdc_rows (h : seamAt 0x12 n.val r w s) :
    exec (.seamLdc n) s = .next (
      if r.consts.length < 4 * (seamReg r (seamSrc w) + bits (seamImm w) 0 10) + 4 then seamAbort n.val s
      else seamWrites n.val r w (fieldLe r.consts (4 * (seamReg r (seamSrc w) + bits (seamImm w) 0 10)) 4) s) := by
  rw [← seamNext_seamSet]
  exact congrArg _ (seamRun_of_at h _)

theorem seamTime_of_nanos (h : seamAt 0x13 n.val r w s) (hi : seamImm w = 0) :
    exec (.seamTime n) s = .next (seamWrites n.val r w (stampNanos (wNow s)) s) := by
  refine congrArg Host.Outcome.next ((seamRun_of_at h _).trans ?_)
  dsimp only
  rw [hi]
  exact seamNext_seamSet _

theorem seamTime_of_seconds (h : seamAt 0x13 n.val r w s) (hi : seamImm w = 1) :
    exec (.seamTime n) s = .next (seamWrites n.val r w (u32 (wNow s / 2 ^ 60 / 1000000000)) s) := by
  refine congrArg Host.Outcome.next ((seamRun_of_at h _).trans ?_)
  dsimp only
  rw [hi]
  exact seamNext_seamSet _

theorem seamTime_of_free (h : seamAt 0x13 n.val r w s) (hi : 2 ≤ seamImm w) :
    exec (.seamTime n) s = .next (seamWrites n.val r w (drawNat s).1 (drawNat s).2) := by
  obtain ⟨m, hm⟩ : ∃ m, seamImm w = m + 2 := ⟨seamImm w - 2, by omega⟩
  refine congrArg Host.Outcome.next ((seamRun_of_at h _).trans ?_)
  dsimp only
  rw [hm]
  exact seamNext_seamSet _

end

/-! Every instruction's row runs the instruction that is next. -/

theorem exec_seam : ∀ x ∈ [(0x00, Instr.seamEnd), (0x01, .seamDrop), (0x02, .seamLdi), (0x03, .seamLui), (0x04, .seamMov), (0x05, .seamAdd),
      (0x06, .seamAddi), (0x07, .seamSub), (0x08, .seamAnd), (0x09, .seamOr), (0x0A, .seamXor), (0x0B, .seamShl), (0x0C, .seamShr),
      (0x0D, .seamSar), (0x0E, .seamMulq), (0x0F, .seamBswap), (0x10, .seamGetf), (0x11, .seamPutf), (0x12, .seamLdc),
      (0x13, .seamTime), (0x18, .seamBeq), (0x19, .seamBne), (0x1A, .seamBltu), (0x1B, .seamBlt), (0x1C, .seamJmp)],
    ∃ g : Fin 4 → SeamRun → Nat → State → State, ∀ (n : Fin 4) (s : State), exec (x.2 n) s = .next (seamRun n.val x.1 (g n) s) := by
  simp only [List.forall_mem_cons, List.not_mem_nil, false_implies, implies_true, and_true]
  repeat' constructor
  all_goals exact fun n s => rfl

/-- Settles O40: the instruction that is next acts by its operation; any other row finds nothing to run. -/
theorem seamInstructions : Obligations.SeamInstructions := by
  unfold Obligations.SeamInstructions
  refine ⟨?_, ?_, ?_⟩
  · intro n r w s d v imm
    refine ⟨fun h => ?_, fun h => ?_, fun h => ?_, fun h => ?_, fun h low => ?_, fun h high => ?_, fun h => ?_, fun h => ?_, fun h => ?_,
      fun h => ?_, fun h => ?_, fun h => ?_, fun h => ?_, fun h => ?_, fun h => ?_, seamReg_seamSet r (seamDst w)⟩
    case refine_5 =>
      exact congrArg Host.Outcome.next ((seamAlu_of_at h _).trans
        (congrArg (fun x : Int => seamWrites n.val r w (u32 ((d : Int) + x)) s) (if_pos low)))
    case refine_6 =>
      exact congrArg Host.Outcome.next ((seamAlu_of_at h _).trans
        ((congrArg (fun x : Int => seamWrites n.val r w (u32 ((d : Int) + x)) s) (if_neg (Nat.not_lt.mpr high))).trans
          (by rw [Int.add_sub_assoc])))
    all_goals exact congrArg Host.Outcome.next (seamAlu_of_at h _)
  · intro n r w s d v imm a k i
    refine ⟨fun h => congrArg _ (seamRun_of_at h _), fun h => congrArg _ (seamRun_of_at h _),
      fun h inside => (seamGetf_rows h).trans (congrArg _ (if_neg (Nat.not_lt.mpr inside))),
      fun h outside => (seamGetf_rows h).trans (congrArg _ (if_pos outside)),
      fun h inside => (seamPutf_rows h).trans (congrArg _ (if_neg (Nat.not_lt.mpr inside))),
      fun h outside => (seamPutf_rows h).trans (congrArg _ (if_pos outside)),
      fun h inside => (seamLdc_rows h).trans (congrArg _ (if_neg (Nat.not_lt.mpr inside))),
      fun h outside => (seamLdc_rows h).trans (congrArg _ (if_pos outside)),
      fun h => seamTime_of_nanos h, fun h => seamTime_of_seconds h, fun h => seamTime_of_free h, fun h => ?_, fun h => ?_, fun h => ?_, fun h => ?_, fun h => ?_⟩
    · exact congrArg Host.Outcome.next ((seamBranch_of_at h _).trans (by simp only [beq_iff_eq, d, v, imm]))
    · exact congrArg Host.Outcome.next ((seamBranch_of_at h _).trans (by simp only [bne_iff_ne, d, v, imm]))
    · exact congrArg Host.Outcome.next ((seamBranch_of_at h _).trans (by simp only [decide_eq_true_eq, d, v, imm]))
    · exact congrArg Host.Outcome.next ((seamBranch_of_at h _).trans (by simp only [decide_eq_true_eq, d, v, imm]))
    · exact congrArg Host.Outcome.next (seamBranch_of_at h _)
  · intro x hx n s
    obtain ⟨g, row⟩ := exec_seam x hx
    rw [row]
    exact ⟨fun idle => congrArg _ (seamRun_of_idle _ idle), fun r runs handler => ⟨fun past => congrArg _ (seamRun_of_past _ runs handler past),
      fun w word other => congrArg _ (seamRun_of_other _ runs handler word other)⟩⟩

end Sys2Proof.Machine

/-!
PROOFS. CAN channels: reception, errors, bus-off and rate search (R247, R250, R270, R274, R275).
-/
namespace Sys2Proof.Machine

theorem canFrameRx_rows (c : Fin 16) (f : LegacyFrame) (ago : Nat) (failed : Bool) (s : State) :
    let ep := 48 + c.val
    let on := legRuns s = true ∧ chReceives (chOf s ep) = true
    let good := failed = false ∧ fmtMode f.fmt ≤ canMode s ep ∧ canLenOk f.fmt f.data.length = true
    let u := canGood ep (releaseBus ep s)
    (on → good → exec (.canFrameRx c { frame := f, ago := ago, failed := failed }) s
      = .next (arbitrate ep (received ep f (u.clk - ago) (setCh ep { chOf u ep with rateKept := true } u))))
    ∧ (on → ¬good → exec (.canFrameRx c { frame := f, ago := ago, failed := failed }) s
      = .next (arbitrate ep (releaseBus ep (canError ep s))))
    ∧ (¬on → exec (.canFrameRx c { frame := f, ago := ago, failed := failed }) s = .next s) := by
  intro ep on good u
  have idle : ((!legRuns s) = true ∨ (!chReceives (chOf s ep)) = true) ↔ ¬on := by
    simp only [on, Bool.not_eq_true', not_and_or, Bool.not_eq_true]
  have bad : (failed = true ∨ canMode s ep < fmtMode f.fmt ∨ (!canLenOk f.fmt f.data.length) = true) ↔ ¬good := by
    simp only [good, Bool.not_eq_true', not_and_or, Bool.not_eq_true, Bool.not_eq_false, Nat.not_le]
  refine ⟨fun runs fine => ?_, fun runs broken => ?_, fun barred => congrArg _ (if_pos (idle.2 barred))⟩
  · exact congrArg _ ((if_neg fun h => idle.1 h runs).trans (if_neg fun h => bad.1 h fine))
  · exact congrArg _ ((if_neg fun h => idle.1 h runs).trans (if_pos (bad.2 broken)))

theorem canTxDone_of_frame {c : Fin 16} {x : LegItem} {s : State} (h : (chOf s (48 + c.val)).onBus = some x) :
    let ep := 48 + c.val
    let ch := chOf s ep
    let u := driveFrame ep x.frame (setCh ep { ch with onBus := none, tec := ch.tec - 1 } s)
    exec (.canTxDone c) s = .next (if ch.restart then segProgress ep (restartChannel ep u)
      else segProgress ep (arbitrate ep (if ch.st = 6 then setStb ep true u else u))) := by
  intro ep ch u
  show execCanTxDone c s = _
  unfold execCanTxDone
  dsimp only
  rw [h]

theorem canTxDone_rows (c : Fin 16) (s : State) :
    let ep := 48 + c.val
    let ch := chOf s ep
    (∀ x : LegItem, ch.onBus = some x →
      let u := driveFrame ep x.frame (setCh ep { ch with onBus := none, tec := ch.tec - 1 } s)
      (ch.restart = true → exec (.canTxDone c) s = .next (segProgress ep (restartChannel ep u)))
      ∧ (ch.restart = false → ch.st ≠ 6 → exec (.canTxDone c) s = .next (segProgress ep (arbitrate ep u)))
      ∧ (ch.restart = false → ch.st = 6 → exec (.canTxDone c) s = .next (segProgress ep (arbitrate ep (setStb ep true u)))))
    ∧ (ch.onBus = none → exec (.canTxDone c) s = .next s) := by
  intro ep ch
  refine ⟨fun x h => ?_, fun h => ?_⟩
  · intro u
    rw [canTxDone_of_frame h]
    refine ⟨fun restart => congrArg _ (if_pos restart), fun goes other => congrArg _ ((if_neg (Bool.eq_false_iff.1 goes)).trans ?_),
      fun goes stopped => congrArg _ ((if_neg (Bool.eq_false_iff.1 goes)).trans ?_)⟩
    · exact congrArg (segProgress ep ∘ arbitrate ep) (if_neg other)
    · exact congrArg (segProgress ep ∘ arbitrate ep) (if_pos stopped)
  · show execCanTxDone c s = _
    unfold execCanTxDone
    dsimp only
    rw [show (chOf s (48 + c.val)).onBus = none from h]

theorem chTransmits_iff (c : LegCh) : chTransmits c = true ↔ c.st = 1 ∨ c.st = 2 := by
  simp [chTransmits]

theorem legRecover_of_busOff {c : Fin 16} {s : State} (h : (chOf s (48 + c.val)).st = 3 ∧ (chOf s (48 + c.val)).recovering = true) :
    exec (.legRecover c) s
      = .next (recoverCh (48 + c.val) (setCh (48 + c.val) { chOf s (48 + c.val) with tec := 0, recv := 0 } s)) :=
  congrArg _ (if_pos h)

theorem legRecover_of_passive {c : Fin 16} {s : State} (h : (chOf s (48 + c.val)).st = 2) :
    let ch := chOf s (48 + c.val)
    ∃ (u : State) (t r : Nat), t < 128 ∧ r < 128 ∧ (ch.tec < 128 → t = ch.tec) ∧ (ch.recv < 128 → r = ch.recv)
      ∧ exec (.legRecover c) s = .next (recoverCh (48 + c.val) (setCh (48 + c.val) { ch with tec := t, recv := r } u))
      ∧ u = { s with freeCtr := u.freeCtr } := by
  intro ch
  refine ⟨(drawNat (drawNat s).2).2, if ch.tec < 128 then ch.tec else (drawNat s).1 % 128,
    if ch.recv < 128 then ch.recv else (drawNat (drawNat s).2).1 % 128, ?_, ?_, fun low => if_pos low, fun low => if_pos low, ?_, rfl⟩
  · split
    · assumption
    · omega
  · split
    · assumption
    · omega
  · exact congrArg _ ((if_neg fun both => by simp [h] at both).trans (if_pos h))

theorem legRecover_of_other {c : Fin 16} {s : State} (h2 : (chOf s (48 + c.val)).st ≠ 2)
    (h3 : (chOf s (48 + c.val)).st ≠ 3 ∨ (chOf s (48 + c.val)).recovering = false) : exec (.legRecover c) s = .next s :=
  congrArg _ ((if_neg fun ⟨off, recovering⟩ => h3.elim (· off) (Bool.eq_false_iff.1 · recovering)).trans (if_neg h2))

theorem canRateSearch_of_due {c : Fin 16} {s : State} (auto : legAuto s = true) (search : (chOf s (48 + c.val)).st = 4)
    (free : (chOf s (48 + c.val)).rateKept = false) :
    let ch := chOf s (48 + c.val)
    let u := reachClock (ch.trialAt + 100000000) s
    exec (.canRateSearch c) s = .next (setCh (48 + c.val) { ch with trials := ch.trials + 1, trialAt := u.clk } u) :=
  congrArg _ (if_pos ⟨auto, search, by rw [free]; rfl⟩)

theorem canRateSearch_of_idle {c : Fin 16} {s : State}
    (h : ¬(legAuto s = true ∧ (chOf s (48 + c.val)).st = 4 ∧ (chOf s (48 + c.val)).rateKept = false)) :
    exec (.canRateSearch c) s = .next s :=
  congrArg _ (if_neg fun ⟨auto, search, free⟩ => h ⟨auto, search, by simpa using free⟩)

/-- Settles O41: reception by what its frame is, and each other row by the state of its channel. -/
theorem canChannels : Obligations.CanChannels := by
  unfold Obligations.CanChannels
  refine ⟨canFrameRx_rows, canTxDone_rows, ?_, ?_, fun c s => ⟨fun ⟨auto, search, free⟩ =>
    ⟨_, canRateSearch_of_due auto search free, rfl, (chOf_setCh ..).trans (if_pos rfl)⟩, canRateSearch_of_idle⟩⟩
  · intro c tec recv s ep ch
    exact ⟨fun active => congrArg _ (if_pos active), fun other => congrArg _ (if_neg other)⟩
  · intro c s ch
    exact ⟨fun transmits => congrArg _ (if_pos ((chTransmits_iff _).2 transmits)),
      fun h1 h2 => congrArg _ (if_neg fun transmits => ((chTransmits_iff _).1 transmits).elim h1 h2),
      fun off recovering => legRecover_of_busOff ⟨off, recovering⟩, legRecover_of_passive, legRecover_of_other⟩

end Sys2Proof.Machine

/-!
PROOFS. A FlexRay frame that a receive buffer takes (R268): its stamp on W is the one of the local clock at its reception, which
is 0 where the frame is older than the clock.
-/
namespace Sys2Proof.Machine

/-- The first receive buffer that takes a slot of a cycle on a channel. -/
def frTaker (s : State) (k y a : Nat) : Option Nat :=
  (frBufs s).find? (fun i => !bit (frField s i 2 1) 2 && bit (frField s i 2 1) a && frField s i 0 2 == k && frSelects s i y)

/-- A frame that mapping `m` takes replaces the one in receive buffer `i`. -/
def frKept (m : Nat) (c : Bytes) (f : LegacyFrame) (at_ : Nat) (v : State) : LegItem :=
  { frame := f, stamp := wValue v at_, since := at_, maxAge := mapAge c, owner := m
    order := v.leg.frRx.foldl (fun n e => Nat.max n e.2.order) 0 + 1 }

/-- What a frame that buffer `i` takes does once it is counted. -/
def frTaken (i : Nat) (f : LegacyFrame) (ago : Nat) (w : State) : State :=
  if (chOf w 72).engine.isNone then countCh 72 11 1 w
  else
    match mappingFor w 72 f with
    | none => w
    | some (m, c) =>
      let v := if Tab.has w.leg.frRx i then countCh 72 5 1 w else w
      { v with leg := { v.leg with frRx := Tab.set v.leg.frRx i (frKept m c f (v.clk - ago) v) } }

theorem frFrameRx_of_buffer {k i : Nat} {y : Fin 64} {a : Fin 2} {s : State} (runs : legRuns s = true)
    (receives : chReceives (chOf s 72) = true) (h : frTaker s k y.val a.val = some i) (d : Bytes) (ago : Nat) :
    exec (.frFrameRx k y a { data := some d, ago := ago }) s
      = .next (frTaken i { frFrame s i y.val d with chA := a.val == 0, chB := a.val == 1 } ago (noteTraffic 72 (countCh 72 0 1 s))) := by
  show execFrFrameRx k y a { data := some d, ago := ago } s = _
  unfold frTaker at h
  rw [execFrFrameRx, if_neg (by simp [runs, receives])]
  dsimp only
  rw [h]
  rfl

theorem frTaken_of_mapped {w : State} {f : LegacyFrame} {i m : Nat} {c : Bytes} (h : (chOf w 72).engine.isSome = true)
    (hm : mappingFor w 72 f = some (m, c)) (fresh : Tab.has w.leg.frRx i = false) (ago : Nat) :
    frTaken i f ago w = { w with leg := { w.leg with frRx := Tab.set w.leg.frRx i (frKept m c f (w.clk - ago) w) } } := by
  rw [frTaken, if_neg (by simpa [← Option.isNone_iff_eq_none] using h), hm]
  dsimp only
  rw [if_neg (Bool.eq_false_iff.1 fresh)]

/-- The entry of a receive buffer that took a frame is the one the model keeps, stamped at a local clock of 0 or later. -/
theorem stamp_of_frFrameRx {k i m : Nat} {y : Fin 64} {a : Fin 2} {s w : State} {f : LegacyFrame} {d c : Bytes} {ago : Nat} {x : LegItem}
    (hw : noteTraffic 72 (countCh 72 0 1 s) = w) (runs : legRuns s = true) (receives : chReceives (chOf s 72) = true)
    (taker : frTaker s k y.val a.val = some i) (hf : { frFrame s i y.val d with chA := a.val == 0, chB := a.val == 1 } = f)
    (engine : (chOf w 72).engine.isSome = true) (mapped : mappingFor w 72 f = some (m, c)) (fresh : Tab.has w.leg.frRx i = false)
    (row : exec (.frFrameRx k y a { data := some d, ago := ago }) s
      = .next { w with leg := { w.leg with frRx := Tab.set w.leg.frRx i x } }) :
    x.stamp = wValue w ((w.clk - ago : Nat) : Int) := by
  subst hw hf
  have reached := row.symm.trans ((frFrameRx_of_buffer runs receives taker d ago).trans
    (congrArg _ (frTaken_of_mapped engine mapped fresh ago)))
  have entries := congrArg (fun u : State => Tab.get u.leg.frRx i x) (Host.Outcome.next.inj reached)
  simp only [Tab.get_set, if_true] at entries
  exact congrArg LegItem.stamp entries

/-- The stamp that the statement asks for and the one the model keeps. -/
theorem stamps_of_linAndFlexRay (h : Obligations.LinAndFlexRay) {k i m : Nat} {y : Fin 64} {a : Fin 2} {s w : State} {f : LegacyFrame}
    {d c : Bytes} {ago : Nat} (hw : noteTraffic 72 (countCh 72 0 1 s) = w) (runs : legRuns s = true)
    (receives : chReceives (chOf s 72) = true) (taker : frTaker s k y.val a.val = some i)
    (hf : { frFrame s i y.val d with chA := a.val == 0, chB := a.val == 1 } = f)
    (engine : (chOf w 72).engine.isSome = true) (mapped : mappingFor w 72 f = some (m, c)) (fresh : Tab.has w.leg.frRx i = false) :
    wValue w ((w.clk - ago : Nat) : Int) = wValue w ((w.clk : Int) - ago) := by
  unfold Obligations.LinAndFlexRay at h
  obtain ⟨-, -, -, -, -, frame, -⟩ := h
  obtain ⟨-, -, taken, -⟩ := frame k y a ago s
  obtain ⟨-, -, kept⟩ := taken d i ⟨runs, receives⟩ taker
  subst hw hf
  obtain ⟨x, row, hx, -⟩ := kept m c engine mapped
  rw [if_neg (Bool.eq_false_iff.1 fresh)] at row hx
  have model := stamp_of_frFrameRx rfl runs receives taker rfl engine mapped fresh row
  exact model.symm.trans (congrArg LegItem.stamp hx)

/-- `n` bytes, all zero but those listed. -/
def listedBytes (n : Nat) (l : List (Nat × Nat)) : Bytes := (List.range n).map (fun i => BitVec.ofNat 8 ((l.lookup i).getD 0))

/-- Its image: section 13 enables the channel and its buffer 0, section 11 maps every message of channel 72. -/
def frImage : RunImage :=
  { header := listedBytes 128 [(46, 8)]
    sections := [(13, listedBytes 4096 [(3, 1), (835, 1), (896, 5), (898, 1), (900, 1)]),
      (11, listedBytes 112 [(0, 1), (66, 72), (72, 255), (73, 255)])]
    patchable := [], digest := [] }

/-- A FlexRay channel at local clock 0 whose buffer 0 takes slot 5 on channel A, its messages mapped by engine 0. -/
def frReceiving : State :=
  { State.reset with
    sys := { State.reset.sys with mode := .configured, clusterUp := true }
    rst := { State.reset.rst with asserted := 0, episode := none }
    img := { State.reset.img with live := some frImage }
    leg := { State.reset.leg with chs := [(72, { st := 1, engine := some 0 })] } }

def frHeard : LegacyFrame := { frFrame frReceiving 0 3 [1] with chA := true, chB := false }

/-- That state once the frame is counted. -/
def frCounted : State := noteTraffic 72 (countCh 72 0 1 frReceiving)

theorem frReceiving_takes :
    legRuns frReceiving = true ∧ chReceives (chOf frReceiving 72) = true ∧ frTaker frReceiving 5 3 0 = some 0
      ∧ (chOf frCounted 72).engine.isSome = true ∧ (mappingFor frCounted 72 frHeard).isSome = true
      ∧ Tab.has frCounted.leg.frRx 0 = false := by
  decide +kernel

/-- Truncated and integer subtraction differ on W: 1 ns before local clock 0 is not local clock 0. -/
theorem wValue_frCounted_ne : wValue frCounted ((frCounted.clk - 1 : Nat) : Int) ≠ wValue frCounted ((frCounted.clk : Int) - 1) := by
  decide +kernel

/-- Refutes O42: a frame 1 ns older than local clock 0 is stamped with W at local clock 0, where the statement asks for W at
local clock -1. -/
theorem not_linAndFlexRay : ¬ Obligations.LinAndFlexRay := by
  intro h
  obtain ⟨runs, receives, taker, engine, mapped, fresh⟩ := frReceiving_takes
  obtain ⟨⟨m, c⟩, hm⟩ := Option.isSome_iff_exists.1 mapped
  exact wValue_frCounted_ne (stamps_of_linAndFlexRay h (y := 3) (a := 0) (d := [1]) (ago := 1) (w := frCounted) (f := frHeard)
    rfl runs receives taker rfl engine hm fresh)

end Sys2Proof.Machine

/-!
PROOFS. The gateway: ages, bundles, frames for the engines, and an engine's fault (R254, R259, R260, R268, R269, R272).
-/
namespace Sys2Proof.Machine

/-! Ages and bundles (R259, R269). -/

theorem legacyAgeExpiry_of_item {c : Fin 25} {i : Nat} {x : LegItem} {s : State} (hc : c.val < 24)
    (hx : ((chOf s (48 + c.val)).store ++ (chOf s (48 + c.val)).tx)[i]? = some x) :
    let ep := 48 + c.val
    let ch := chOf s ep
    exec (.legacyAgeExpiry c i) s = .next (segProgress ep (countCh ep 4 1 (setCh ep
      (if i < ch.store.length then { ch with store := ch.store.eraseIdx i } else { ch with tx := ch.tx.eraseIdx (i - ch.store.length) })
      (reachClock (x.since + x.maxAge) s)))) := by
  intro ep ch
  have bus : isFr (48 + c.val) = false := by
    simp only [isFr, beq_eq_false_iff_ne]
    omega
  show execLegacyAgeExpiry c i s = _
  simp only [execLegacyAgeExpiry, bus, hx, Bool.false_eq_true, if_false]
  rfl

theorem legacyAgeExpiry_of_none {c : Fin 25} {i : Nat} {s : State} (hc : c.val < 24)
    (hx : ((chOf s (48 + c.val)).store ++ (chOf s (48 + c.val)).tx)[i]? = none) : exec (.legacyAgeExpiry c i) s = .next s := by
  have bus : isFr (48 + c.val) = false := by
    simp only [isFr, beq_eq_false_iff_ne]
    omega
  show execLegacyAgeExpiry c i s = _
  simp only [execLegacyAgeExpiry, bus, hx, Bool.false_eq_true, if_false]

theorem legacyAgeExpiry_of_buffer (i : Nat) (s : State) :
    exec (.legacyAgeExpiry 24 i) s = .next (match s.leg.frRx[i]? with
      | some (b, x) =>
        let u := reachClock (x.since + x.maxAge) s
        countCh 72 4 1 { u with leg := { u.leg with frRx := Tab.del u.leg.frRx b } }
      | none => s) := rfl

/-! A frame for the engines of its channels (R260). -/

/-- From `s` to `t` only the engines differ. -/
def OnlyEngines (s t : State) : Prop := t = { s with leg := { s.leg with engines := t.leg.engines } }

theorem OnlyEngines.refl (s : State) : OnlyEngines s s := rfl

theorem OnlyEngines.trans {s t u : State} (h : OnlyEngines s t) (k : OnlyEngines t u) : OnlyEngines s u := by
  unfold OnlyEngines at h k ⊢
  rw [k, h]

theorem engineOf_updEngine (n k : Nat) (g : Engine → Engine) (s : State) :
    engineOf (updEngine n g s) k = if k = n then g (engineOf s n) else engineOf s k :=
  Tab.get_set ..

theorem engineOf_of_engines {s t : State} (h : t.leg.engines = s.leg.engines) (n : Nat) : engineOf t n = engineOf s n := by
  unfold engineOf
  rw [h]

/-- The channels of `eps` that engine `n` serves, as a mask. -/
def servedMask (eps : List Nat) (n : Nat) (s : State) : Nat :=
  sumBy (fun ep => if (chOf s ep).engine = some n then 2 ^ (ep - 48) else 0) eps

/-- What engine `n` gets of a frame: the frame with the channels it serves, or nothing. -/
def gwItems (c : Bytes) (src : Nat) (eps : List Nat) (n : Nat) (s : State) : List GwItem :=
  if servedMask eps n s = 0 then [] else [{ content := c, mask := servedMask eps n s, stamp := wNow s, since := s.clk, src := src }]

/-- Engine `n` gets its part of a frame. -/
def gwGive (c : Bytes) (src : Nat) (eps : List Nat) (s : State) (n : Nat) : State :=
  if servedMask eps n s = 0 then s
  else updEngine n (fun e => { e with
    gwIn := e.gwIn ++ [{ content := c, mask := servedMask eps n s, stamp := wNow s, since := s.clk, src := src }] }) s

section
variable (c : Bytes) (src : Nat) (eps : List Nat)

theorem gwItems_of_onlyEngines {s t : State} (h : OnlyEngines s t) (n : Nat) : gwItems c src eps n t = gwItems c src eps n s := by
  rw [h]
  rfl

theorem gwGive_onlyEngines (s : State) (n : Nat) : OnlyEngines s (gwGive c src eps s n) := by
  unfold gwGive
  split <;> rfl

theorem gwIn_gwGive (s : State) (n k : Nat) :
    (engineOf (gwGive c src eps s n) k).gwIn = (engineOf s k).gwIn ++ if k = n then gwItems c src eps n s else [] := by
  unfold gwGive gwItems
  split
  · simp
  · rw [engineOf_updEngine]
    by_cases hk : k = n
    · simp [hk]
    · simp [hk]

theorem gwGive_all (l : List Nat) (hl : l.Nodup) (s : State) :
    OnlyEngines s (l.foldl (gwGive c src eps) s)
      ∧ ∀ k : Nat, (engineOf (l.foldl (gwGive c src eps) s) k).gwIn
          = (engineOf s k).gwIn ++ if k ∈ l then gwItems c src eps k s else [] := by
  induction l generalizing s with
  | nil => exact ⟨rfl, fun k => by simp⟩
  | cons n l ih =>
    obtain ⟨fresh, rest⟩ := List.nodup_cons.1 hl
    have first := gwGive_onlyEngines c src eps s n
    obtain ⟨only, given⟩ := ih rest (gwGive c src eps s n)
    refine ⟨first.trans only, fun k => ?_⟩
    rw [List.foldl_cons, given k, gwIn_gwGive, gwItems_of_onlyEngines c src eps first]
    by_cases hk : k = n
    · subst hk
      simp [fresh]
    · simp [hk]

end

/-- A frame is not handed on where it is spoiled at GW or oversize. -/
def gwBad (f : Frame) : Bool := f.oversize || (match destAt f 30 with
  | some d => d.spoil
  | none => false)

theorem gwBad_iff (f : Frame) : gwBad f = true ↔ f.oversize = true ∨ ∃ d : Dest, destAt f 30 = some d ∧ d.spoil = true := by
  unfold gwBad
  cases destAt f 30 with
  | none => simp
  | some d => simp

theorem gwFrameToSeam_of_sending {k : Nat} {x : Sending} {f : Frame} {s : State} (hx : (egress s 30).sending = some x)
    (hf : frameOf s k = some f) :
    let u := finishSending 30 s
    exec (.gwFrameToSeam k) s = .next (
      if x.frame ≠ k ∨ !f.ended ∨ !(frameChannels f).all (channelTakes s) then s
      else if gwBad f then u
      else (List.range 4).foldl (gwGive (editedBytes s 30 f) f.srcEp (frameChannels f))
        (((frameChannels f).filter (fun ep => (chOf u ep).engine.isNone)).foldl (fun s ep => countCh ep 7 1 s) u)) := by
  intro u
  show execGwFrameToSeam k s = _
  simp only [execGwFrameToSeam, hx, hf]
  rfl

theorem gwFrameToSeam_rows {k : Nat} {x : Sending} {f : Frame} {s : State} (hx : (egress s 30).sending = some x)
    (hf : frameOf s k = some f) :
    let goes := x.frame = k ∧ f.ended = true ∧ (frameChannels f).all (channelTakes s) = true
    let bad := f.oversize = true ∨ ∃ d : Dest, destAt f 30 = some d ∧ d.spoil = true
    let u := finishSending 30 s
    (¬goes → exec (.gwFrameToSeam k) s = .next s)
    ∧ (goes → bad → exec (.gwFrameToSeam k) s = .next u)
    ∧ (goes → ¬bad → (frameChannels f).all (fun ep => (chOf u ep).engine.isSome) = true →
      ∃ v : State, exec (.gwFrameToSeam k) s = .next v ∧ v = { u with leg := { u.leg with engines := v.leg.engines } }
        ∧ ∀ n : Fin 4,
          let m := sumBy (fun ep => if (chOf u ep).engine = some n.val then 2 ^ (ep - 48) else 0) (frameChannels f)
          (engineOf v n.val).gwIn = (engineOf u n.val).gwIn ++ (if m = 0 then [] else
            [{ content := editedBytes s 30 f, mask := m, stamp := wNow u, since := u.clk, src := f.srcEp }])) := by
  intro goes bad u
  have waits : (x.frame ≠ k ∨ (!f.ended) = true ∨ (!(frameChannels f).all (channelTakes s)) = true) ↔ ¬goes := by
    simp only [goes, Bool.not_eq_true', not_and_or, Bool.not_eq_true, ne_eq]
  rw [gwFrameToSeam_of_sending hx hf]
  refine ⟨fun stays => congrArg _ (if_pos (waits.2 stays)), fun now spoiled => ?_, fun now fine served => ?_⟩
  · rw [if_neg (fun h => waits.1 h now), if_pos ((gwBad_iff f).2 spoiled)]
  · have none : (frameChannels f).filter (fun ep => (chOf (finishSending 30 s) ep).engine.isNone) = [] := by
      rw [List.filter_eq_nil_iff]
      intro ep hep
      simpa [← Option.isSome_iff_ne_none] using List.all_eq_true.1 served ep hep
    rw [if_neg (fun h => waits.1 h now), if_neg (mt (gwBad_iff f).1 fine), none, List.foldl_nil]
    obtain ⟨only, given⟩ := gwGive_all (editedBytes s 30 f) f.srcEp (frameChannels f) (List.range 4) List.nodup_range (finishSending 30 s)
    refine ⟨_, rfl, only, fun n => ?_⟩
    rw [given n.val, if_pos (List.mem_range.2 n.isLt)]
    rfl

/-! An engine serves the next event (R254), or faults (R272). -/

theorem seamEventServe_of_idle {n : Fin 4} {s : State} (runs : (engineOf s n.val).stopped = false)
    (free : (engineOf s n.val).run = none) (leg : legRuns s = true) :
    exec (.seamEventServe n) s = .next (match (engineOf s n.val).jobs with
      | j :: rest =>
        if jobReady s j then beginJob n.val j (updEngine n.val (fun e => { e with jobs := rest }) s) else serveNext n.val s
      | [] => serveNext n.val s) := by
  show execSeamEventServe n s = _
  rw [execSeamEventServe, if_neg (by simp [runs, free, leg])] <;> rfl

theorem countCh_keeps (ep k inc : Nat) (s : State) :
    (countCh ep k inc s).leg.engines = s.leg.engines ∧ ∀ e : Nat, (chOf (countCh ep k inc s) e).engine = (chOf s e).engine := by
  have counted : ∀ counts : Tab Word64, (setCh ep { chOf s ep with counts := counts } s).leg.engines = s.leg.engines
      ∧ ∀ e : Nat, (chOf (setCh ep { chOf s ep with counts := counts } s) e).engine = (chOf s e).engine := by
    refine fun counts => ⟨rfl, fun e => ?_⟩
    rw [chOf_setCh]
    split
    · rw [‹e = ep›]
    · rfl
  unfold countCh
  dsimp only
  split
  · exact ⟨rfl, fun _ => rfl⟩
  · split
    · rw [countSource_counters]
      exact counted _
    · exact counted _

/-- A channel of an engine that faulted moves to its fallback or loses its engine. -/
def moveChannel (lost : List GwItem) (s : State) (ep : Nat) : State :=
  let f := chFallback s ep
  let ok := decide (f < 4) && !(engineOf s f).stopped
  let waiting := sumBy (fun (g : GwItem) => b2n (bit g.mask (ep - 48))) lost
  let s := if ok then s else countCh ep 11 (chOf s ep).routes.length (countCh ep 7 waiting s)
  setCh ep { chOf s ep with engine := if ok then some f else none
                            routes := if ok then (chOf s ep).routes else [] } s

/-- The frames an engine that faulted held go to the engines its channels moved to. -/
def giveAgain (mine : List Nat) (s : State) (g : GwItem) : State :=
  (List.range 4).foldl (fun s m =>
    let mask := sumBy (fun ep => if bit g.mask (ep - 48) ∧ (chOf s ep).engine = some m then 2 ^ (ep - 48) else 0) mine
    if mask = 0 then s else updEngine m (fun x => { x with gwIn := x.gwIn ++ [{ g with mask := mask }] }) s) s

/-- Engine `n` as it stops. -/
def engineStopped (n : Nat) (s : State) : State :=
  record 0x0705 [BitVec.ofNat 8 n] (updEngine n (fun e => { e with
    stopped := true, run := none, jobs := [], gwIn := []
    lost := if (engineOf s n).run.isSome || !(engineOf s n).jobs.isEmpty then (engineOf s n).lost + 1 else (engineOf s n).lost }) s)

/-- The channels that engine `n` serves. -/
def channelsOf (n : Nat) (s : State) : List Nat := ((List.range 25).map (48 + ·)).filter (fun ep => (chOf s ep).engine == some n)

theorem legEngineFault_of_running {n : Fin 4} {s : State} (h : (engineOf s n.val).stopped = false) :
    let u := engineStopped n.val s
    exec (.legEngineFault n) s = .next ((engineOf s n.val).gwIn.foldl (giveAgain (channelsOf n.val u))
      ((channelsOf n.val u).foldl (moveChannel (engineOf s n.val).gwIn) u)) := by
  intro u
  exact congrArg _ (if_neg (by simp [h]))

/-- Engine `n` is stopped and runs nothing. -/
def EngineDead (n : Nat) (s : State) : Prop := (engineOf s n).stopped = true ∧ (engineOf s n).run = none

theorem engineStopped_dead (n : Nat) (s : State) : EngineDead n (engineStopped n s) := by
  have stopped : engineOf (engineStopped n s) n = { engineOf s n with
      stopped := true, run := none, jobs := [], gwIn := []
      lost := if (engineOf s n).run.isSome || !(engineOf s n).jobs.isEmpty then (engineOf s n).lost + 1 else (engineOf s n).lost } := by
    rw [engineStopped, record_recorder]
    exact (engineOf_updEngine ..).trans (if_pos rfl)
  rw [EngineDead, stopped]
  exact ⟨rfl, rfl⟩

/-- A channel that moves from a dead engine does not return to it, and no other channel moves. -/
theorem moveChannel_spec {n : Nat} {lost : List GwItem} {s : State} (dead : EngineDead n s) (ep : Nat) :
    EngineDead n (moveChannel lost s ep) ∧ (chOf (moveChannel lost s ep) ep).engine ≠ some n
      ∧ ∀ e : Nat, e ≠ ep → (chOf (moveChannel lost s ep) e).engine = (chOf s e).engine := by
  obtain ⟨stopped, idle⟩ := dead
  have counted : ∀ ok : Bool, ∀ k : Nat,
      let u := if ok then s else countCh ep 11 (chOf s ep).routes.length (countCh ep 7 k s)
      u.leg.engines = s.leg.engines ∧ ∀ e : Nat, (chOf u e).engine = (chOf s e).engine := by
    intro ok k
    cases ok with
    | true => exact ⟨rfl, fun _ => rfl⟩
    | false =>
      obtain ⟨engines, channels⟩ := countCh_keeps ep 7 k s
      obtain ⟨engines', channels'⟩ := countCh_keeps ep 11 (chOf s ep).routes.length (countCh ep 7 k s)
      exact ⟨engines'.trans engines, fun e => (channels' e).trans (channels e)⟩
  unfold moveChannel
  extract_lets f ok waiting u
  obtain ⟨engines, channels⟩ := counted ok waiting
  refine ⟨?_, ?_, fun e he => ?_⟩
  · have same : engineOf (setCh ep { chOf u ep with engine := if ok then some f else none
                                                    routes := if ok then (chOf u ep).routes else [] } u) n = engineOf s n :=
      engineOf_of_engines engines n
    rw [EngineDead, same]
    exact ⟨stopped, idle⟩
  · rw [chOf_setCh, if_pos rfl]
    by_cases hf : f = n
    · have barred : ok = false := by simp [ok, hf, stopped]
      simp [barred]
    · cases ok with
      | true => simpa using hf
      | false => simp
  · rw [chOf_setCh, if_neg he]
    exact channels e

theorem moveChannels_spec {n : Nat} {lost : List GwItem} (l : List Nat) {s : State} (dead : EngineDead n s) :
    EngineDead n (l.foldl (moveChannel lost) s)
      ∧ ∀ e : Nat, (chOf (l.foldl (moveChannel lost) s) e).engine = some n → e ∉ l ∧ (chOf s e).engine = some n := by
  induction l generalizing s with
  | nil => exact ⟨dead, fun e he => ⟨List.not_mem_nil, he⟩⟩
  | cons ep l ih =>
    obtain ⟨still, moved, others⟩ := moveChannel_spec (lost := lost) dead ep
    obtain ⟨after, rest⟩ := ih still
    refine ⟨after, fun e he => ?_⟩
    obtain ⟨fresh, kept⟩ := rest e he
    have other : e ≠ ep := fun same => moved (same ▸ kept)
    exact ⟨by simp [other, fresh], (others e other).symm.trans kept⟩

/-- Frames that are given again leave channels and dead engines as they are. -/
theorem giveAgain_keeps (mine : List Nat) (g : GwItem) (s : State) :
    (giveAgain mine s g).leg.chs = s.leg.chs ∧ ∀ n : Nat, EngineDead n s → EngineDead n (giveAgain mine s g) := by
  unfold giveAgain
  refine List.foldlRecOn (motive := fun u : State => u.leg.chs = s.leg.chs ∧ ∀ n : Nat, EngineDead n s → EngineDead n u)
    _ _ ⟨rfl, fun _ h => h⟩ fun u ⟨chs, dead⟩ m _ => ?_
  dsimp only
  split
  · exact ⟨chs, dead⟩
  · refine ⟨chs, fun n h => ?_⟩
    rw [EngineDead, engineOf_updEngine]
    split
    · rw [← ‹n = m›]
      exact dead n h
    · exact dead n h

theorem giveAllAgain_keeps (mine : List Nat) (l : List GwItem) (s : State) :
    (l.foldl (giveAgain mine) s).leg.chs = s.leg.chs ∧ ∀ n : Nat, EngineDead n s → EngineDead n (l.foldl (giveAgain mine) s) :=
  List.foldlRecOn (motive := fun u : State => u.leg.chs = s.leg.chs ∧ ∀ n : Nat, EngineDead n s → EngineDead n u)
    _ _ ⟨rfl, fun _ h => h⟩ fun u ⟨chs, dead⟩ g _ =>
      ⟨(giveAgain_keeps mine g u).1.trans chs, fun n h => (giveAgain_keeps mine g u).2 n (dead n h)⟩

theorem legEngineFault_stops {n : Fin 4} {s : State} (h : (engineOf s n.val).stopped = false) :
    ∃ u : State, exec (.legEngineFault n) s = .next u ∧ (engineOf u n.val).stopped = true ∧ (engineOf u n.val).run = none
      ∧ ∀ ep : Nat, 48 ≤ ep → ep ≤ 72 → (chOf u ep).engine ≠ some n.val := by
  obtain ⟨dead, moved⟩ := moveChannels_spec (lost := (engineOf s n.val).gwIn) (channelsOf n.val (engineStopped n.val s))
    (engineStopped_dead n.val s)
  obtain ⟨chs, kept⟩ := giveAllAgain_keeps (channelsOf n.val (engineStopped n.val s)) (engineOf s n.val).gwIn
    ((channelsOf n.val (engineStopped n.val s)).foldl (moveChannel (engineOf s n.val).gwIn) (engineStopped n.val s))
  obtain ⟨stopped, idle⟩ := kept n.val dead
  refine ⟨_, legEngineFault_of_running h, stopped, idle, fun ep low high served => ?_⟩
  rw [chOf, chs] at served
  obtain ⟨absent, before⟩ := moved ep served
  refine absent (List.mem_filter.2 ⟨List.mem_map.2 ⟨ep - 48, List.mem_range.2 (by omega), by omega⟩, by simpa using before⟩)

/-- Settles O43: an age by the place of its item, a frame by its channels' engines, an engine by what it holds. -/
theorem gatewayEvents : Obligations.GatewayEvents := by
  unfold Obligations.GatewayEvents
  refine ⟨?_, fun i s => ⟨fun b x hx => ?_, fun none => ?_⟩, ?_, fun k x f s hx hf => gwFrameToSeam_rows hx hf, fun k s h => ?_, ?_,
    fun n s => ⟨legEngineFault_stops, fun stopped => congrArg _ (if_pos stopped)⟩⟩
  · intro c i s hc ep ch
    refine ⟨fun x hx => ?_, legacyAgeExpiry_of_none hc⟩
    intro u
    rw [legacyAgeExpiry_of_item hc hx]
    refine ⟨fun stored => ?_, fun queued => ?_⟩
    · rw [if_pos stored]
    · rw [if_neg (Nat.not_lt.mpr queued)]
  · rw [legacyAgeExpiry_of_buffer, hx]
  · rw [legacyAgeExpiry_of_buffer, none]
  · intro m s b
    refine ⟨fun full low => congrArg _ (if_neg ?_), fun waits => congrArg _ (if_pos ?_)⟩
    · rintro (empty | held)
      · exact full (List.isEmpty_iff.1 empty)
      · exact Bool.eq_false_iff.1 low held
    · exact waits.imp_left List.isEmpty_iff.2
  · show execGwFrameToSeam k s = _
    unfold execGwFrameToSeam
    split
    · simp_all
    · rfl
  · intro n s e idle
    refine ⟨fun j rest ⟨runs, free, leg⟩ hj hr => ?_, fun ⟨runs, free, leg⟩ waits => ?_, fun busy => congrArg _ (if_pos ?_)⟩
    · rw [seamEventServe_of_idle runs free leg, show (engineOf s n.val).jobs = j :: rest from hj]
      exact congrArg _ (if_pos hr)
    · rw [seamEventServe_of_idle runs free leg]
      cases hj : (engineOf s n.val).jobs with
      | nil => rfl
      | cons j rest => exact congrArg _ (if_neg (Bool.eq_false_iff.1 (waits j (by simp [e, hj]))))
    · by_contra free
      simp only [not_or, Bool.not_eq_true, Bool.not_eq_true', Bool.not_eq_false, Option.isSome_eq_false_iff,
        Option.isNone_iff_eq_none] at free
      exact busy free

end Sys2Proof.Machine

/-!
PROOFS. Wake sources, pins and requests, and the Dusk ring (R324–R331, R335, R336, R343, R344).
-/
namespace Sys2Proof.Machine

/-! One bit of a number is exchanged. -/

/-- `v` with bit `n` exchanged for `h`. -/
def putBit (v n : Nat) (h : Bool) : Nat := v - (if bit v n then 2 ^ n else 0) + flagBit h n

/-- A bit of a number that is taken apart at bit `n`. -/
theorem bit_two_pow_mul_add {n r c : Nat} (hr : r < 2 ^ n) (hc : c < 2) (q m : Nat) :
    bit (2 ^ n * (2 * q + c) + r) m = if m < n then bit r m else if m = n then c == 1 else bit q (m - n - 1) := by
  simp only [bit_eq_testBit]
  rw [Nat.testBit_two_pow_mul_add _ hr]
  split
  · rfl
  · split
    · subst m
      rw [Nat.sub_self, Nat.testBit_zero]
      interval_cases c <;> simp
    · obtain ⟨k, hk⟩ : ∃ k, m - n = k + 1 := ⟨m - n - 1, by omega⟩
      rw [hk, Nat.testBit_succ, Nat.add_sub_cancel, show (2 * q + c) / 2 = q by omega]

theorem putBit_eq (v n : Nat) (h : Bool) : putBit v n h = 2 ^ n * (2 * (v / 2 ^ n / 2) + b2n h) + v % 2 ^ n := by
  have parts : v = 2 ^ n * (2 * (v / 2 ^ n / 2)) + 2 ^ n * (v / 2 ^ n % 2) + v % 2 ^ n := by
    rw [← Nat.mul_add, Nat.div_add_mod, Nat.div_add_mod]
  rw [Nat.mul_add]
  unfold putBit flagBit bit b2n
  rcases Nat.mod_two_eq_zero_or_one (v / 2 ^ n) with even | odd
  · rw [even] at parts ⊢
    cases h <;> simp <;> omega
  · rw [odd] at parts ⊢
    cases h <;> simp <;> omega

theorem bit_putBit (v n : Nat) (h : Bool) (m : Nat) : bit (putBit v n h) m = if m = n then h else bit v m := by
  have hr : v % 2 ^ n < 2 ^ n := Nat.mod_lt _ (Nat.two_pow_pos n)
  have whole : v = 2 ^ n * (2 * (v / 2 ^ n / 2) + v / 2 ^ n % 2) + v % 2 ^ n := by
    rw [Nat.div_add_mod, Nat.div_add_mod]
  have old := bit_two_pow_mul_add hr (Nat.mod_lt (v / 2 ^ n) (by decide)) (v / 2 ^ n / 2) m
  rw [← whole] at old
  rw [putBit_eq, bit_two_pow_mul_add hr (by cases h <;> decide), old]
  by_cases hm : m = n
  · subst m
    cases h <;> simp [b2n]
  · simp [hm]

/-! Wake sources (R324, R325). -/

/-- LWAKE `n` at its new level. -/
def lwakeSeen (n : Nat) (h : Bool) (s : State) : State :=
  updWake (fun w => { w with lwake := putBit s.wake.lwake n h, idleFrom := s.clk }) s

theorem lwakeDetect_eq (n : Fin 4) (h : Bool) (s : State) :
    let u := lwakeSeen n.val h s
    exec (.lwakeDetect n h) s = .next (
      if h && bit (wakeEn u) (n.val + 1) then detect (2 ^ (n.val + 1)) u
      else if h && bit (lwakeKeep u) n.val && u.sys.mode != .standby && u.sys.mode != .backup then wakeRequest 0 u
      else u) := rfl

theorem lwakeDetect_rows (n : Fin 4) (h : Bool) (s : State) :
    let u := lwakeSeen n.val h s
    let runs := bit (lwakeKeep u) n.val = true ∧ s.sys.mode ≠ .standby ∧ s.sys.mode ≠ .backup
    (h = true → bit (wakeEn u) (n.val + 1) = true → exec (.lwakeDetect n h) s = .next (detect (2 ^ (n.val + 1)) u))
    ∧ (h = true → bit (wakeEn u) (n.val + 1) = false → runs → exec (.lwakeDetect n h) s = .next (wakeRequest 0 u))
    ∧ (h = true → bit (wakeEn u) (n.val + 1) = false → ¬runs → exec (.lwakeDetect n h) s = .next u)
    ∧ (h = false → exec (.lwakeDetect n h) s = .next u) := by
  intro u runs
  have keeps : (true && bit (lwakeKeep u) n.val && u.sys.mode != .standby && u.sys.mode != .backup) = true ↔ runs := by
    rw [Bool.true_and, Bool.and_eq_true, Bool.and_eq_true, bne_iff_ne, bne_iff_ne, and_assoc]
    rfl
  rw [lwakeDetect_eq]
  refine ⟨fun high admitted => ?_, fun high barred kept => ?_, fun high barred free => ?_, fun low => ?_⟩
  · subst high
    exact congrArg _ (if_pos (by simpa using admitted))
  · subst high
    exact congrArg _ ((if_neg (by simpa using barred)).trans (if_pos (keeps.2 kept)))
  · subst high
    exact congrArg _ ((if_neg (by simpa using barred)).trans (if_neg (mt keeps.1 free)))
  · subst low
    rfl

/-! Pulses, requests and holds (R330, R336, R343). -/

theorem wakeOutEnd_of_high {s : State} (h : s.wake.wakeOut = true) :
    exec .wakeOutEnd s = .next (emit (.pin "WAKE_OUT" false) (updWake (fun w => { w with wakeOut := false })
      (reachClock (s.wake.wakeOutAt + wakeOutMs s * 1000000) s))) :=
  congrArg _ (if_pos h)

theorem wakeRequestExpiry_of_request {s : State} {t : Nat} (h : s.wake.requestAt = some t) :
    let u := reachClock (t + sleepField s 10 2 * 1000000) s
    exec .wakeRequestExpiry s = .next (updWake (fun w => { w with requestAt := none, idleFrom := u.clk }) u) := by
  intro u
  show execWakeRequestExpiry s = _
  rw [execWakeRequestExpiry, h]

theorem holdExpiry_of_device {s : State} {t : Nat} (h : s.wake.hold = some t) :
    let u := reachClock t s
    exec (.holdExpiry none) s = .next (updWake (fun w => { w with hold := none, idleFrom := u.clk }) u) := by
  intro u
  show execHoldExpiry none s = _
  rw [execHoldExpiry, h]

/-- Settles O44: a source by its level and WAKE_EN, a pulse, a request or a hold by whether it is under way. -/
theorem wakeEvents : Obligations.WakeEvents := by
  unfold Obligations.WakeEvents
  refine ⟨?_, fun n h s => ⟨lwakeSeen n.val h s, (bit_putBit ..).trans (if_pos rfl), fun m hm => (bit_putBit ..).trans (if_neg hm), rfl,
      lwakeDetect_rows n h s⟩,
    fun s => ⟨fun high => ⟨_, wakeOutEnd_of_high high, rfl, rfl, rfl⟩, fun low => congrArg _ (if_neg (Bool.eq_false_iff.1 low))⟩,
    fun s => ⟨fun t h => ⟨_, wakeRequestExpiry_of_request h, rfl, rfl, rfl⟩, fun none => ?_⟩,
    fun i s => ⟨fun t h => ?_, fun none => ?_⟩,
    fun s => ⟨fun t h => ⟨_, holdExpiry_of_device h, rfl, rfl, rfl⟩, fun none => ?_⟩⟩
  · intro h s u
    refine ⟨fun high admitted => congrArg _ (if_pos ?_), fun idle => congrArg _ (if_neg ?_)⟩
    · rw [high]
      exact admitted
    · rcases idle with low | barred
      · simp [low]
      · simpa using fun _ => barred
  · show execWakeRequestExpiry s = _
    rw [execWakeRequestExpiry, none]
  · show execHoldExpiry (some i) s = _
    simp only [execHoldExpiry, h]
    rfl
  · show execHoldExpiry (some i) s = _
    simp only [execHoldExpiry, none]
  · show execHoldExpiry Option.none s = _
    simp only [execHoldExpiry, none]

end Sys2Proof.Machine

/-!
PROOFS. The Dusk ring (R328–R331, R335, R344).
-/
namespace Sys2Proof.Machine

/-! A frame of the ring: taken, rejected or left alone (R328). -/

/-- A frame that is looked at: of the ring's length and type, where Dusk is served at a member. -/
def DuskComes (ty : Nat) (b : Bytes) (s : State) : Prop :=
  (b.length = 48 ∧ duskServed s = true ∧ ringMember s = true) ∧ byteAt b 1 = ty

section
variable {ty : Nat} {b : Bytes} {s : State}

theorem duskFrame_of_taken (comes : DuskComes ty b s) (ok : duskAccepted s b = true) (g : State → State) :
    duskFrame ty b g s = g s := by
  obtain ⟨⟨long, served, member⟩, kind⟩ := comes
  rw [duskFrame, if_neg (by simp [long, served, member, kind]), if_pos ok]

theorem duskFrame_of_rejected (comes : DuskComes ty b s) (bad : ¬duskAccepted s b = true) (g : State → State) :
    duskFrame ty b g s = duskReject s := by
  obtain ⟨⟨long, served, member⟩, kind⟩ := comes
  rw [duskFrame, if_neg (by simp [long, served, member, kind]), if_neg bad]

theorem duskFrame_of_other (h : ¬(b.length = 48 ∧ duskServed s = true ∧ ringMember s = true) ∨ byteAt b 1 ≠ ty) (g : State → State) :
    duskFrame ty b g s = s := by
  refine if_pos ?_
  by_contra comes
  simp only [not_or, not_not, Bool.not_eq_true', Bool.not_eq_false] at comes
  obtain ⟨long, kind, served, member⟩ := comes
  exact h.elim (· ⟨long, served, member⟩) (· kind)

end

/-! A NAK and a COMMIT. -/

/-- The greatest pair seen has ended once its NAK or COMMIT comes. -/
def duskMark (b : Bytes) (u : State) : State :=
  if duskPair b = u.wake.greatest then updWake (fun w => { w with ended := true }) u else u

/-- What a NAK that is taken does. -/
def nakTaken (b : Bytes) (s : State) : State :=
  let u := duskMark b (updWake (fun w => { w with naks := w.naks + 1 }) s)
  if duskPair b ≠ u.wake.round then u
  else
    match u.wake.ring with
    | .initiating => ringAwake (replyRound 1 (byteAt b 11) (fieldBe b 22 2) u)
    | .consented => ringAwake u
    | _ => u

theorem duskMark_wake (b : Bytes) (u : State) : (duskMark b u).wake.round = u.wake.round ∧ (duskMark b u).wake.ring = u.wake.ring := by
  unfold duskMark
  split <;> exact ⟨rfl, rfl⟩

theorem duskNak_eq (b : Bytes) (s : State) : exec (.duskNak b) s = .next (duskFrame 2 b (nakTaken b) s) := rfl

section
variable {b : Bytes} {s : State}

theorem nakTaken_of_consented (round : duskPair b = s.wake.round) (ring : s.wake.ring = .consented) :
    nakTaken b s = ringAwake (duskMark b (updWake (fun w => { w with naks := w.naks + 1 }) s)) := by
  obtain ⟨sameRound, sameRing⟩ := duskMark_wake b (updWake (fun w => { w with naks := w.naks + 1 }) s)
  unfold nakTaken
  dsimp only
  rw [if_neg (not_not.2 (round.trans sameRound.symm)), sameRing.trans ring]

theorem nakTaken_of_initiating (round : duskPair b = s.wake.round) (ring : s.wake.ring = .initiating) :
    nakTaken b s = ringAwake (replyRound 1 (byteAt b 11) (fieldBe b 22 2)
      (duskMark b (updWake (fun w => { w with naks := w.naks + 1 }) s))) := by
  obtain ⟨sameRound, sameRing⟩ := duskMark_wake b (updWake (fun w => { w with naks := w.naks + 1 }) s)
  unfold nakTaken
  dsimp only
  rw [if_neg (not_not.2 (round.trans sameRound.symm)), sameRing.trans ring]

theorem nakTaken_of_other (h : duskPair b ≠ s.wake.round ∨ (s.wake.ring ≠ .consented ∧ s.wake.ring ≠ .initiating)) :
    nakTaken b s = duskMark b (updWake (fun w => { w with naks := w.naks + 1 }) s) := by
  obtain ⟨sameRound, sameRing⟩ := duskMark_wake b (updWake (fun w => { w with naks := w.naks + 1 }) s)
  unfold nakTaken
  dsimp only
  by_cases round : duskPair b = s.wake.round
  · rw [if_neg (not_not.2 (round.trans sameRound.symm)), sameRing]
    have other := h.resolve_left (not_not.2 round)
    cases hr : s.wake.ring with
    | consented => exact absurd hr other.1
    | initiating => exact absurd hr other.2
    | _ => simp [updWake, hr]
  · rw [if_pos fun same => round (same.trans sameRound)]

/-- What a COMMIT that is taken does. -/
def commitTaken (b : Bytes) (s : State) : State :=
  if duskPair b = (duskMark b s).wake.round ∧ (duskMark b s).wake.ring = .consented then
    enterQuiet (fieldBe b 20 2) (duskMark b s)
  else duskMark b s

theorem duskCommit_eq (main : s.sys.mode ≠ .autonomous) :
    exec (.duskCommit b) s = .next (duskFrame 3 b (commitTaken b) s) :=
  congrArg _ (if_neg main)

theorem commitTaken_of_consented (round : duskPair b = s.wake.round) (ring : s.wake.ring = .consented) :
    commitTaken b s = enterQuiet (fieldBe b 20 2) (duskMark b s) := by
  obtain ⟨sameRound, sameRing⟩ := duskMark_wake b s
  exact if_pos ⟨round.trans sameRound.symm, sameRing.trans ring⟩

theorem commitTaken_of_other (h : duskPair b ≠ s.wake.round ∨ s.wake.ring ≠ .consented) : commitTaken b s = duskMark b s := by
  obtain ⟨sameRound, sameRing⟩ := duskMark_wake b s
  exact if_neg fun ⟨round, ring⟩ => h.elim (· (round.trans sameRound)) (· (sameRing.symm.trans ring))

theorem dawn_eq (main : s.sys.mode ≠ .autonomous) : exec (.dawn b) s = .next (duskFrame 4 b dawnRx s) :=
  congrArg _ (if_neg main)

theorem dawn_of_autonomous (auto : s.sys.mode = .autonomous) :
    exec (.dawn b) s = .next (
      if b.length = 48 ∧ byteAt b 0 = 1 ∧ byteAt b 1 = 4 ∧ duskServed s ∧ s.wake.ring = .quiet then dawnRx s else s) :=
  congrArg _ (if_pos auto)

end

/-! Time-outs, initiation and the quiet window (R329, R330, R335). -/

theorem ringTimeout_rows (s : State) :
    let u := reachClock (s.wake.timeoutAt + s.wake.timeoutMs * 1000000) s
    (s.wake.ring = .consented → exec .ringTimeout s = .next (ringAwake u))
    ∧ (s.wake.ring = .initiating → exec .ringTimeout s = .next (ringAwake (replyRound 2 0xFF 3 (sendNak s.wake.round 3 u))))
    ∧ (s.wake.ring ≠ .consented → s.wake.ring ≠ .initiating → exec .ringTimeout s = .next s) := by
  intro u
  refine ⟨fun consented => ?_, fun initiating => ?_, fun notConsented notInitiating => ?_⟩ <;> show execRingTimeout s = _ <;>
    unfold execRingTimeout <;> dsimp only
  · rw [consented]
  · rw [initiating]
  · cases hr : s.wake.ring with
    | consented => exact absurd hr notConsented
    | initiating => exact absurd hr notInitiating
    | _ => rfl

theorem idleInitiate_rows (s : State) :
    let goes := sleepField s 28 4 ≠ 0 ∧ ringMember s = true ∧ duskServed s = true ∧ bit (sleepField s 5 1) 1 = true
      ∧ s.wake.ring = .awake ∧ frozen s = false ∧ stayAwake s = none
    (goes → exec .idleInitiate s = .next (initiate (reachClock (s.wake.idleFrom + sleepField s 28 4 * 1000000000) s)))
    ∧ (¬goes → exec .idleInitiate s = .next s) := by
  intro goes
  have waits : (sleepField s 28 4 = 0 ∨ (!ringMember s) = true ∨ (!duskServed s) = true ∨ (!bit (sleepField s 5 1) 1) = true
      ∨ s.wake.ring ≠ .awake ∨ frozen s = true ∨ (stayAwake s).isSome = true) ↔ ¬goes := by
    simp only [goes, not_and_or, not_not, Bool.not_eq_true', Bool.not_eq_true, Bool.not_eq_false, ne_eq,
      Option.isSome_iff_ne_none]
  refine ⟨fun now => ?_, fun stays => ?_⟩ <;> show execIdleInitiate s = _ <;> unfold execIdleInitiate <;> dsimp only
  · rw [if_neg fun h => waits.1 h now]
  · rw [if_pos (waits.2 stays)]

theorem quietWindowEnd_rows (s : State) :
    let ends := s.wake.ring = .quiet ∧ s.wake.down = false ∧ s.rst.episode = none
    (ends → exec .quietWindowEnd s = .next (powerDown (reachClock (s.wake.quietAt + s.wake.quietMs * 1000000) s)))
    ∧ (¬ends → exec .quietWindowEnd s = .next s) := by
  intro ends
  have now : (s.wake.ring = .quiet ∧ (!s.wake.down) = true ∧ s.rst.episode.isNone = true) ↔ ends := by
    simp only [ends, Bool.not_eq_true', Option.isNone_iff_eq_none]
  refine ⟨fun h => ?_, fun h => ?_⟩ <;> show execQuietWindowEnd s = _ <;> unfold execQuietWindowEnd
  · rw [if_pos (now.2 h)]
  · rw [if_neg (mt now.1 h)]

/-- Settles O45: a frame by what R328 says of it and by the round it names, the ring by its state. -/
theorem duskRing : Obligations.DuskRing := by
  unfold Obligations.DuskRing
  refine ⟨?_, ringTimeout_rows, idleInitiate_rows, quietWindowEnd_rows⟩
  intro b s on ok mark naked main
  have auto : ¬main → s.sys.mode = .autonomous := not_not.1
  refine ⟨fun h kind fine => congrArg _ (duskFrame_of_taken ⟨h, kind⟩ fine _),
    fun h kind bad => congrArg _ (duskFrame_of_rejected ⟨h, kind⟩ bad _), fun h => congrArg _ (duskFrame_of_other h _),
    fun h kind fine round ring => ?_, fun h kind fine round ring => ?_, fun h kind fine other => ?_,
    fun h kind bad => ?_, fun h => ?_,
    fun m h kind fine round ring => ?_, fun m h kind fine other => ?_, fun m h kind bad => ?_, fun m h => ?_,
    fun a => congrArg _ (if_pos (auto a)),
    fun m h kind fine => ?_, fun m h kind bad => ?_, fun m h => ?_, ?_⟩
  · rw [duskNak_eq, duskFrame_of_taken ⟨h, kind⟩ fine, nakTaken_of_consented round ring]
    rfl
  · rw [duskNak_eq, duskFrame_of_taken ⟨h, kind⟩ fine, nakTaken_of_initiating round ring]
    rfl
  · rw [duskNak_eq, duskFrame_of_taken ⟨h, kind⟩ fine, nakTaken_of_other other]
    rfl
  · rw [duskNak_eq, duskFrame_of_rejected ⟨h, kind⟩ bad]
  · rw [duskNak_eq, duskFrame_of_other h]
  · rw [duskCommit_eq m, duskFrame_of_taken ⟨h, kind⟩ fine, commitTaken_of_consented round ring]
    rfl
  · rw [duskCommit_eq m, duskFrame_of_taken ⟨h, kind⟩ fine, commitTaken_of_other other]
    rfl
  · rw [duskCommit_eq m, duskFrame_of_rejected ⟨h, kind⟩ bad]
  · rw [duskCommit_eq m, duskFrame_of_other h]
  · rw [dawn_eq m, duskFrame_of_taken ⟨h, kind⟩ fine]
  · rw [dawn_eq m, duskFrame_of_rejected ⟨h, kind⟩ bad]
  · rw [dawn_eq m, duskFrame_of_other h]
  · intro wakes
    refine ⟨fun a now => ?_, fun a stays => ?_⟩
    · rw [dawn_of_autonomous (auto a), if_pos now]
    · rw [dawn_of_autonomous (auto a), if_neg stays]

end Sys2Proof.Machine

/-!
PROOFS. TC10 and the segments of partial networking (R285, R324, R337, R338, R341, R342).
-/
namespace Sys2Proof.Machine

/-! TC10 sleep (R285). -/

theorem tc10SleepRequestRx_of_off {p : Port} {s : State}
    (h : ¬((port s p.val).st = .up ∧ p.val < 28 ∧ bit (portCfg s p.val).flags 4 = true)) :
    exec (.tc10SleepRequestRx p) s = .next s := by
  refine congrArg _ (if_pos ?_)
  by_contra on
  simp only [not_or, not_not, Nat.not_le, Bool.not_eq_true', Bool.not_eq_false] at on
  exact h on

theorem tc10SleepRequestRx_of_on {p : Port} {s : State} (st : (port s p.val).st = .up) (low : p.val < 28)
    (tc10 : bit (portCfg s p.val).flags 4 = true) :
    let u := setPort p.val { port s p.val with tc10Count := (port s p.val).tc10Count + 1 } s
    let v := takeDown p.val .asleep (emit (.tc10 p.val 1) u)
    exec (.tc10SleepRequestRx p) s = .next (
      if bit (portCfg s p.val).flags 5 && (egress s p.val).queues.all (fun q => q.2.isEmpty) then
        setPort p.val { port v p.val with tc10 := 1 } v
      else emit (.tc10 p.val 2) u) :=
  congrArg _ (if_neg (by simp [st, low, tc10]))

/-- The state after the answer to a port's own sleep request, before its segment hears of it. -/
def tc10Answered (p : Port) (a : Bool) (s : State) : State :=
  let u := setPort p.val { port s p.val with tc10 := 0, tc10Count := (port s p.val).tc10Count + 1 } s
  if a then takeDown p.val .asleep u else record 0x0802 [BitVec.ofNat 8 p.val] u

/-- What the answer does beyond the port. -/
def tc10Passed (p : Port) (a : Bool) (v : State) : State :=
  if v.wake.down then v
  else
    match segOfPort v p.val with
    | some i =>
      if (segOf v i).st = .asking then segAnswer i p.val a v
      else if a ∧ (segOf v i).st = .awake then wakePort p.val v else v
    | none => if a then wakePort p.val v else v

theorem tc10SleepResponseRx_of_asked {p : Port} {s : State} (h : (port s p.val).tc10 = 2) (a : Bool) :
    exec (.tc10SleepResponseRx p a) s = .next (tc10Passed p a (tc10Answered p a s)) :=
  congrArg _ (if_neg (not_not.2 h))

section
variable {p : Port} {a : Bool} {v : State}

theorem tc10Passed_of_down (h : v.wake.down = true) : tc10Passed p a v = v := if_pos h

theorem tc10Passed_of_no_segment (h : v.wake.down = false) (hs : segOfPort v p.val = none) :
    tc10Passed p a v = if a then wakePort p.val v else v := by
  rw [tc10Passed, if_neg (Bool.eq_false_iff.1 h), hs]

theorem tc10Passed_of_segment {i : Nat} (h : v.wake.down = false) (hs : segOfPort v p.val = some i) :
    tc10Passed p a v = if (segOf v i).st = .asking then segAnswer i p.val a v
      else if a ∧ (segOf v i).st = .awake then wakePort p.val v else v := by
  rw [tc10Passed, if_neg (Bool.eq_false_iff.1 h), hs]

end

/-! Wakes (R324, R337, R341). -/

theorem tc10Wake_of_off {p : Port} {s : State} (hp : p.val < 28) (off : s.sys.mode = .standby ∨ s.wake.down = true) :
    exec (.tc10Wake p) s = .next (
      if bit (tc10WakeMask s) p.val ∧ bit s.wake.tc10Ports p.val ∧ bit (wakeEn s) 6 ∧ portType p.val ≠ 1 then
        detect 0x40 (updWake (fun w => { w with tc10Latched := w.tc10Latched ||| 2 ^ p.val }) s)
      else s) :=
  congrArg _ ((if_neg (Nat.not_le.mpr hp)).trans (if_pos off))

/-- The wake of a sleeping port: its segment decides, and a port without one comes up. -/
def tc10Woken (p : Port) (u : State) : State :=
  match segOfPort u p.val with
  | some i =>
    if (segOf u i).st = .awake then bringUp p.val u
    else if !bit (segField u i 8 1) 1 then u
    else wakeSegment i u
  | none => bringUp p.val u

section
variable {p : Port} {s : State} (hp : p.val < 28) (on : ¬(s.sys.mode = .standby ∨ s.wake.down = true))
include hp on

theorem tc10Wake_of_asleep (runs : (port s p.val).st = .asleep ∧ s.sys.mode ≠ .backup) :
    exec (.tc10Wake p) s = .next (tc10Woken p (if bit (wakeEn s) 6 then wakeRequest 0x40 s else s)) :=
  congrArg _ ((if_neg (Nat.not_le.mpr hp)).trans ((if_neg on).trans (if_neg (by simpa using runs))))

theorem tc10Wake_of_awake (h : ¬((port s p.val).st = .asleep ∧ s.sys.mode ≠ .backup)) : exec (.tc10Wake p) s = .next s :=
  congrArg _ ((if_neg (Nat.not_le.mpr hp)).trans ((if_neg on).trans (if_pos ((not_and_or.1 h).imp_right not_not.1))))

end

theorem tc10Woken_of_segment {p : Port} {u : State} {i : Nat} (h : segOfPort u p.val = some i) :
    tc10Woken p u = if (segOf u i).st = .awake then bringUp p.val u else if bit (segField u i 8 1) 1 = true then wakeSegment i u else u := by
  rw [tc10Woken, h]
  dsimp only
  cases bit (segField u i 8 1) 1 <;> rfl

theorem tc10Woken_of_no_segment {p : Port} {u : State} (h : segOfPort u p.val = none) : tc10Woken p u = bringUp p.val u := by
  rw [tc10Woken, h]

theorem canWakePattern_of_segment {c : Fin 16} {s : State} {i : Nat} (on : ¬(s.sys.mode = .standby ∨ s.wake.down = true))
    (h : segOfChannel s (48 + c.val) = some i) :
    exec (.canWakePattern c) s = .next (if (segOf s i).st = .asleep ∧ bit (segField s i 8 1) 0 then
      wakeSegment i (if bit (wakeEn s) 5 then wakeRequest 0x20 s else s) else s) := by
  show execCanWakePattern c s = _
  rw [execCanWakePattern, if_neg on, h]

theorem canWakePattern_of_no_segment {c : Fin 16} {s : State} (on : ¬(s.sys.mode = .standby ∨ s.wake.down = true))
    (h : segOfChannel s (48 + c.val) = none) : exec (.canWakePattern c) s = .next s := by
  show execCanWakePattern c s = _
  rw [execCanWakePattern, if_neg on, h]

/-! A segment begins to sleep or its drain ends (R338, R342). -/

theorem segmentIdle_rows (i : Fin 32) (s : State) :
    let goes := i.val < segCount s ∧ segField s i.val 12 4 ≠ 0 ∧ imageMode s.sys.mode = true ∧ (segOf s i.val).st = .awake
      ∧ segHeld s i.val = false
    (goes → exec (.segmentIdle i) s
      = .next (segBegin i.val none (reachClock ((segOf s i.val).traffic + segField s i.val 12 4 * 1000000000) s)))
    ∧ (¬goes → exec (.segmentIdle i) s = .next s) := by
  intro goes
  have waits : (segCount s ≤ i.val ∨ segField s i.val 12 4 = 0 ∨ (!imageMode s.sys.mode) = true ∨ (segOf s i.val).st ≠ .awake
      ∨ segHeld s i.val = true) ↔ ¬goes := by
    simp only [goes, not_and_or, not_not, Bool.not_eq_true', Bool.not_eq_true, Bool.not_eq_false, ne_eq, Nat.not_lt]
  exact ⟨fun now => congrArg _ (if_neg fun h => waits.1 h now), fun stays => congrArg _ (if_pos (waits.2 stays))⟩

/-- Settles O46: a port by its state and its segment, a segment by its state. -/
theorem segmentEvents : Obligations.SegmentEvents := by
  unfold Obligations.SegmentEvents
  refine ⟨?_, ?_, ?_, fun p s hp => congrArg _ (if_pos hp), ?_, segmentIdle_rows, ?_⟩
  · intro p s c e on takes u v
    refine ⟨fun ⟨st, low, tc10⟩ quiet => ?_, fun ⟨st, low, tc10⟩ busy => ?_, tc10SleepRequestRx_of_off⟩
    · exact (tc10SleepRequestRx_of_on st low tc10).trans (congrArg _ (if_pos (Bool.and_eq_true_iff.2 quiet)))
    · exact (tc10SleepRequestRx_of_on st low tc10).trans (congrArg _ (if_neg fun h => busy (Bool.and_eq_true_iff.1 h)))
  · intro p a s e u v
    refine ⟨fun asked down => ?_, fun asked up none => ?_, fun i asked up some => ?_, fun other => congrArg _ (if_pos other)⟩
    · exact (tc10SleepResponseRx_of_asked asked a).trans (congrArg _ (tc10Passed_of_down down))
    · exact (tc10SleepResponseRx_of_asked asked a).trans (congrArg _ (tc10Passed_of_no_segment up none))
    · exact (tc10SleepResponseRx_of_asked asked a).trans (congrArg _ (tc10Passed_of_segment up some))
  · intro p s hp off admits runs u
    refine ⟨fun sleeps admitted => ?_, fun sleeps barred => ?_, fun on asleep none => ?_, fun i on asleep some => ?_, fun on awake => ?_⟩
    · exact (tc10Wake_of_off hp sleeps).trans (congrArg _ (if_pos admitted))
    · exact (tc10Wake_of_off hp sleeps).trans (congrArg _ (if_neg barred))
    · exact (tc10Wake_of_asleep hp on asleep).trans (congrArg _ (tc10Woken_of_no_segment none))
    · exact (tc10Wake_of_asleep hp on asleep).trans (congrArg _ (tc10Woken_of_segment some))
    · exact tc10Wake_of_awake hp on awake
  · intro c s off admits
    refine ⟨fun sleeps admitted => congrArg _ ((if_pos sleeps).trans (if_pos admitted)),
      fun sleeps barred => congrArg _ ((if_pos sleeps).trans (if_neg barred)), fun i on some => ⟨fun asleep wakes => ?_, fun stays => ?_⟩,
      fun on none => canWakePattern_of_no_segment on none⟩
    · exact (canWakePattern_of_segment on some).trans (congrArg _ (if_pos ⟨asleep, wakes⟩))
    · exact (canWakePattern_of_segment on some).trans
        (congrArg _ (if_neg fun ⟨asleep, wakes⟩ => stays.elim (· asleep) (Bool.eq_false_iff.1 · wakes)))
  · intro i s t u
    exact ⟨fun inside draining => congrArg _ (if_neg fun h => h.elim (Nat.not_le.mpr inside) (· draining)),
      fun other => congrArg _ (if_pos other)⟩

end Sys2Proof.Machine

/-!
PROOFS. Bring-up, loss and search of the Ethernet ports, MDIO polls and PLCA (R168, R282–R284, R286, R287, R294).
-/
namespace Sys2Proof.Machine

/-! Links and their loss (R282–R284). -/

section
variable {p : Port} {c : Byte} {s : State}

theorem linkUp_of_training {r : Nat} (low : p.val < 28) (st : (port s p.val).st = .training)
    (rate : reportedRate (port s p.val).mode c.toNat = some r) :
    let u := setPort p.val { port s p.val with pcsLock := true, rate := r } s
    exec (.linkUp p c) s = .next (if hasPhy u p.val ∧ !(port s p.val).phyLink then u else becomeUp p.val u) := by
  intro u
  show execLinkUp p c s = _
  unfold execLinkUp
  dsimp only
  split
  · next k _ hk =>
    obtain rfl : k = r := Option.some.inj (hk.symm.trans rate)
    rw [if_neg (Nat.not_le.mpr low)]
  · next other => exact (other r st rate).elim

theorem linkUp_of_other (h : 28 ≤ p.val ∨ (port s p.val).st ≠ .training ∨ reportedRate (port s p.val).mode c.toNat = none) :
    exec (.linkUp p c) s = .next s := by
  show execLinkUp p c s = _
  unfold execLinkUp
  dsimp only
  split
  · rcases h with inner | other | none
    · rw [if_pos inner]
    · exact absurd ‹(port s p.val).st = .training› other
    · simp_all
  · rfl

theorem phyCoeffStale_of_due (kind : portType p.val = 0) (st : (port s p.val).st = .training) (coeff : (port s p.val).coeff = 1) :
    exec (.phyCoeffStale p) s = .next (record 0x0801 [BitVec.ofNat 8 p.val]
      (setPort p.val (dropCoeffs (port s p.val)) (reachClock ((port s p.val).enabledAt + 30000000) s))) :=
  congrArg _ (if_pos ⟨kind, st, coeff⟩)

theorem xsModeSearch_eq :
    exec (.xsModeSearch p) s = .next (
      if portType p.val = 1 ∧ s.img.live.isNone ∧ s.sys.mode = .autonomous ∧ (port s p.val).st = .training
          ∧ !(port s p.val).searchDone then
        bringUp p.val (setPort p.val { port s p.val with search := (port s p.val).search + 1 }
          (reachClock ((port s p.val).enabledAt + 500000000) s))
      else s) := rfl

end

/-! Polls of an external PHY (R286, R287). -/

/-- The local clock at a poll: 10 ms after the last one. -/
def pollClock (p : Port) (s : State) : State :=
  match (port s p.val).polledAt with
  | some l => reachClock (l + 10000000) s
  | none => s

/-- The state as a poll reads the PHY. -/
def pollRead (p : Port) (l : Option Bool) (s : State) : State :=
  let t := reachClock (((port s p.val).polledAt.map (· + 10000000)).getD s.clk) s
  if l = none then noTurnaround p.val t else t

/-- The poll written out and its link kept. -/
def pollKept (p : Port) (up : Bool) (u : State) : State :=
  emit (.mdio p.val (portCfg u p.val).mdioAddr (linkReg (portCfg u p.val)) none)
    (setPort p.val { port u p.val with phyLink := up, polledAt := some u.clk } u)

/-- What the link that was read does to the port as it was. -/
def pollJudged (p : Port) (up : Bool) (e : EthPort) (v : State) : State :=
  if up ∧ e.st = .training ∧ e.pcsLock then becomeUp p.val v
  else if !up ∧ e.st = .up then
    let w := takeDown p.val .training v
    setPort p.val { port w p.val with pcsLock := true, rate := e.rate, enabledAt := w.clk } w
  else v

def pollDone (p : Port) (l : Option Bool) (u : State) : State :=
  pollJudged p (l.getD true) (port u p.val) (pollKept p (l.getD true) u)

section
variable {p : Port} {l : Option Bool} {s : State}

theorem reachClock_self (s : State) : reachClock s.clk s = s := by
  unfold reachClock
  rw [show Nat.max s.clk s.clk = s.clk from Nat.max_self _]

theorem pollClock_eq (p : Port) (s : State) :
    pollClock p s = reachClock (((port s p.val).polledAt.map (· + 10000000)).getD s.clk) s := by
  unfold pollClock
  cases (port s p.val).polledAt with
  | none => exact (reachClock_self s).symm
  | some k => rfl

theorem mdioPoll_of_on (phy : hasPhy s p.val = true) (serves : clusterServes s = true) (free : blockHeld 4 0 s = false) :
    let u := pollRead p l s
    exec (.mdioPoll p l) s = .next (pollDone p l u) := by
  intro u
  have row : exec (.mdioPoll p l) s = .next (if !hasPhy s p.val ∨ !clusterServes s ∨ blockHeld 4 0 s then s
      else pollDone p l (if l.isNone then noTurnaround p.val (pollClock p s) else pollClock p s)) := rfl
  rw [row, if_neg (by simp [phy, serves, free]), pollClock_eq]
  cases l with
  | none => rfl
  | some b => rfl

theorem mdioPoll_of_off (h : ¬(hasPhy s p.val = true ∧ clusterServes s = true ∧ blockHeld 4 0 s = false)) :
    exec (.mdioPoll p l) s = .next s := by
  refine congrArg _ (if_pos ?_)
  by_contra on
  simp only [not_or, Bool.not_eq_true', Bool.not_eq_true, Bool.not_eq_false] at on
  exact h on

variable {up : Bool} {e : EthPort} {v : State}

theorem pollJudged_of_trained (hu : up = true) (st : e.st = .training) (pcs : e.pcsLock = true) :
    pollJudged p up e v = becomeUp p.val v := if_pos ⟨hu, st, pcs⟩

theorem pollJudged_of_linked (hu : up = true) (h : e.st ≠ .training ∨ e.pcsLock = false) : pollJudged p up e v = v := by
  unfold pollJudged
  rw [if_neg fun ⟨_, st, pcs⟩ => h.elim (· st) (Bool.eq_false_iff.1 · pcs), if_neg (by simp [hu])]

theorem pollJudged_of_lost (hu : up = false) (st : e.st = .up) :
    let w := takeDown p.val .training v
    pollJudged p up e v = setPort p.val { port w p.val with pcsLock := true, rate := e.rate, enabledAt := w.clk } w := by
  intro w
  unfold pollJudged
  rw [if_neg (by simp [hu]), if_pos ⟨by simp [hu], st⟩]

theorem pollJudged_of_down (hu : up = false) (st : e.st ≠ .up) : pollJudged p up e v = v := by
  unfold pollJudged
  rw [if_neg (by simp [hu]), if_neg fun h => st h.2]

end

/-! PLCA (R168, R294). -/

theorem plcaBeaconRx_of_off {p : Port} {s : State} (h : ¬(portType p.val = 3 ∧ (port s p.val).st = .up)) :
    exec (.plcaBeaconRx p) s = .next s :=
  congrArg _ (if_pos (not_and_or.1 h))

theorem plcaBeaconRx_of_on {p : Port} {s : State} (h : portType p.val = 3 ∧ (port s p.val).st = .up) :
    exec (.plcaBeaconRx p) s = .next (
      if (port s p.val).plca = 1 then
        recordLimited 0x0803 p.val (fun n => [BitVec.ofNat 8 p.val] ++ leBytes 8 n)
          (setPort p.val { port s p.val with plcaDup := (port s p.val).plcaDup + 1 } s)
      else if (port s p.val).plca = 0 then s
      else setPort p.val { port s p.val with plca := 2, beaconAt := s.clk, plcaUsed := false, burstLeft := 0 } s) :=
  congrArg _ (if_neg (by simp [h]))

theorem plcaLost_of_node {p : Port} {s : State} (kind : portType p.val = 3) (st : (port s p.val).st = .up)
    (node : (port s p.val).plca = 2) :
    exec (.plcaLost p) s = .next (record 0x0804 [BitVec.ofNat 8 p.val]
      (setPort p.val { port s p.val with plca := 3 } (reachClock ((port s p.val).beaconAt + 4000000) s))) :=
  congrArg _ (if_pos ⟨kind, st, node⟩)

/-- Settles O47: a port by its state and its PCS, a poll by the link it reads, a PLCA node by its part. -/
theorem portEvents : Obligations.PortEvents := by
  unfold Obligations.PortEvents
  refine ⟨?_, ?_, ?_, ?_, ?_, ?_⟩
  · intro p c s e
    refine ⟨fun r low st rate => ?_, linkUp_of_other⟩
    intro u
    rw [linkUp_of_training low st rate]
    refine ⟨fun linked => congrArg _ (if_neg fun ⟨phy, unlinked⟩ => ?_), fun phy unlinked => congrArg _ (if_pos ⟨phy, by simpa using unlinked⟩)⟩
    exact linked.elim (Bool.eq_false_iff.1 · phy) fun link => by simp_all [e]
  · intro p s e had
    exact ⟨fun link => congrArg _ (if_pos link), fun none => congrArg _ (if_neg none)⟩
  · intro p s e due
    exact ⟨fun ⟨kind, st, coeff⟩ => phyCoeffStale_of_due kind st coeff, fun idle => congrArg _ (if_neg idle)⟩
  · intro p s e on
    have searches : (portType p.val = 1 ∧ s.img.live.isNone = true ∧ s.sys.mode = .autonomous ∧ (port s p.val).st = .training
        ∧ (!(port s p.val).searchDone) = true) ↔ on := by
      simp only [on, e, Option.isNone_iff_eq_none, Bool.not_eq_true']
    rw [xsModeSearch_eq]
    exact ⟨fun h => by rw [if_pos (searches.2 h)], fun h => by rw [if_neg (mt searches.1 h)]⟩
  · intro p l s on t u e c up v w
    refine ⟨fun ⟨phy, serves, free⟩ linked st pcs => ?_, fun ⟨phy, serves, free⟩ linked h => ?_, fun ⟨phy, serves, free⟩ lost st => ?_,
      fun ⟨phy, serves, free⟩ lost st => ?_, mdioPoll_of_off⟩
    · exact (mdioPoll_of_on phy serves free).trans (congrArg _ (pollJudged_of_trained linked st pcs))
    · exact (mdioPoll_of_on phy serves free).trans (congrArg _ (pollJudged_of_linked linked h))
    · exact (mdioPoll_of_on phy serves free).trans (congrArg _ (pollJudged_of_lost lost st))
    · exact (mdioPoll_of_on phy serves free).trans (congrArg _ (pollJudged_of_down lost st))
  · intro p s e on
    refine ⟨fun h h0 h1 => ?_, fun h h1 => ?_, fun idle => ?_, fun ⟨kind, st⟩ node => plcaLost_of_node kind st node,
      fun idle => congrArg _ (if_neg fun ⟨kind, st, node⟩ => idle.elim (· ⟨kind, st⟩) (· node))⟩
    · exact (plcaBeaconRx_of_on h).trans (congrArg _ ((if_neg h1).trans (if_neg h0)))
    · exact (plcaBeaconRx_of_on h).trans (congrArg _ (if_pos h1))
    · by_cases h : on
      · have h0 : (port s p.val).plca = 0 := idle.resolve_left (not_not.2 h)
        exact (plcaBeaconRx_of_on h).trans (congrArg _ ((if_neg (by simp [h0])).trans (if_pos h0)))
      · exact plcaBeaconRx_of_off h

end Sys2Proof.Machine
/-!
PROOFS. Reset sources (R347–R353): how a source begins an episode, the filters of the balls, what a release drops, and that the
work at the end of an episode leaves the episode's own record as it is.
-/
namespace Sys2Proof.Machine

/-! A source that begins an episode (R352). -/

theorem assertSource_of_no_reach {src : Nat} {s : State} (h : sourceReach src s = none) : assertSource src s = s := by
  simp only [assertSource, h]

/-- The reach of a new episode covers the last one's where its exit is not complete. -/
theorem assertSource_episode_of_none {src r : Nat} {s : State} (h : sourceReach src s = some r) (he : s.rst.episode = none) :
    (assertSource src s).rst.episode
      = some { reach := (s.rst.exit.map (fun x => coverReach x r)).getD r, sources := BitVec.ofNat 16 (2 ^ src) } := by
  simp only [assertSource, h, he]
  rw [applyReach_episode, sendGoingDown_rst]
  cases s.rst.exit <;> rfl

/-! The filter of the balls (R349). -/

theorem ballLow_short {src n : Nat} (h : n < 100) (s : State) : ballLow src n s = s := by
  simp [ballLow, filterAccepts, h]

theorem ballLow_long {src n : Nat} (h : 1000 < n) (s : State) : ballLow src n s = assertSource src s := by
  simp [ballLow, filterAccepts, h, show ¬n < 100 by omega]

theorem ballLow_between {src n : Nat} (h : 100 ≤ n) (h' : n ≤ 1000) (s : State) :
    ballLow src n s = if (drawNat s).1 % 2 = 1 then assertSource src (drawNat s).2 else (drawNat s).2 := by
  simp [ballLow, filterAccepts, show ¬n < 100 by omega, show ¬1000 < n by omega]

/-! A source that is released (R353). -/

/-- Beyond VBKP_POR and MAIN_POR a source may be released as soon as it is asserted, and only its bit falls. -/
theorem release_of_plain_source {src : Nat} {s : State} (h : 5 < src) (ha : sourceAsserted src s = true) :
    (if mayRelease src s = true then dropSource src s else s)
      = { s with rst := { s.rst with asserted := s.rst.asserted &&& ~~~(BitVec.ofNat 16 (2 ^ src)) } } := by
  have h4 : src ≠ 4 := by omega
  have h5 : src ≠ 5 := by omega
  simp [mayRelease, dropSource, ha, h4, h5]

/-- What follows a release: the episode ends where no source is left and STANDBY has its INH. -/
def afterRelease (x : Straps) (l : List Nat) (s : State) : State :=
  match s.rst.episode with
  | some e => if s.rst.asserted ≠ 0 ∨ (s.sys.mode = .standby ∧ ¬s.wake.inh) then s else endEpisode e x l s
  | none => s

theorem exec_resetSourceRelease (src : Fin 16) (x : Straps) (l : List (Fin 36)) (s : State) :
    exec (.resetSourceRelease src x l) s
      = .next (afterRelease x (l.map Fin.val) (if mayRelease src.val s = true then dropSource src.val s else s)) := rfl

theorem afterRelease_ends {x : Straps} {l : List Nat} {e : Episode} {s : State} (he : s.rst.episode = some e)
    (ha : s.rst.asserted = 0) (hm : s.sys.mode ≠ .standby ∨ s.wake.inh = true) : afterRelease x l s = endEpisode e x l s := by
  have on : ¬(s.rst.asserted ≠ 0 ∨ (s.sys.mode = .standby ∧ ¬s.wake.inh)) := by
    simpa [ha, ← imp_iff_not_or] using hm
  simp only [afterRelease, he]
  exact if_neg on

theorem afterRelease_waits {x : Straps} {l : List Nat} {s : State}
    (h : s.rst.episode = none ∨ s.rst.asserted ≠ 0 ∨ (s.sys.mode = .standby ∧ s.wake.inh = false)) : afterRelease x l s = s := by
  unfold afterRelease
  cases he : s.rst.episode with
  | none => rfl
  | some e => exact if_pos (by simpa [he] using h)

/-! What the end of an episode does beside closing it leaves the reset block's record of it alone (R355). -/

@[simp] theorem readFuses_rst (s : State) : (readFuses s).rst = s.rst := rfl

@[simp] theorem startClock_rst (s : State) : (startClock s).rst = s.rst := rfl

@[simp] theorem testAllCores_rst (s : State) : (testAllCores s).rst = s.rst := by
  unfold testAllCores
  refine List.foldlRecOn (motive := fun u : State => u.rst = s.rst) _ _ rfl fun u hu n _ => ?_
  split
  · exact hu
  · exact hu

@[simp] theorem bootPort_rst (w : Bool) (c : PortCfg) (p : Nat) (s : State) : (bootPort w c p s).rst = s.rst := by
  unfold bootPort
  dsimp only
  split <;> rfl

@[simp] theorem bootPorts_rst (w : Bool) (s : State) : (bootPorts w s).rst = s.rst := by
  unfold bootPorts
  refine List.foldlRecOn (motive := fun u : State => u.rst = s.rst) _ _ rfl fun u hu p _ => ?_
  rw [bootPort_rst, hu]

@[simp] theorem sendDeferred_rst (s : State) : (sendDeferred s).rst = s.rst := by
  unfold sendDeferred
  refine List.foldlRecOn (motive := fun u : State => u.rst = s.rst) _ _ rfl fun u hu src _ => ?_
  rw [signalSource_rst, hu]

@[simp] theorem loadImage_rst (i : RunImage) (s : State) : (loadImage i s).rst = s.rst := by
  unfold loadImage
  dsimp only
  split
  · rw [record_rst]
  · rfl

@[simp] theorem reloadImage_rst (s : State) : (reloadImage s).rst = s.rst := by
  unfold reloadImage
  split
  · rw [loadImage_rst]
  · rfl

theorem resetRecord_keeps (s : State) :
    (resetRecord s).rst.episode = s.rst.episode ∧ (resetRecord s).rst.exit = s.rst.exit := by
  unfold resetRecord
  split
  · rw [record_rst]
    exact ⟨rfl, rfl⟩
  · exact ⟨rfl, rfl⟩

theorem endEpisode_rst (e : Episode) (x : Straps) (l : List Nat) (s : State) :
    (endEpisode e x l s).rst.episode = none ∧ (endEpisode e x l s).rst.exit = some e.reach := by
  unfold endEpisode
  extract_lets r wake s1 _ s2 _ s3 s4 s5
  have closed : s3.rst.episode = none ∧ s3.rst.exit = some e.reach := by
    have kept : s3.rst = s2.rst := by simp only [s3]; split <;> rfl
    rw [kept]
    exact ⟨rfl, rfl⟩
  split
  · rw [testAllCores_rst, bootPorts_rst]
    have kept : s5.rst = s3.rst := by simp only [s5]; split <;> rfl
    show s5.rst.episode = none ∧ s5.rst.exit = some e.reach
    rwa [kept]
  · split
    · rw [sendDeferred_rst, reloadImage_rst, (resetRecord_keeps s3).1, (resetRecord_keeps s3).2]
      exact closed
    · rwa [sendDeferred_rst]

/-- Settles O49: the episode a source begins is read off `assertSource`, each ball's row is the filter of R349 in its three
ranges, a release is dropped and then closes the episode or leaves it, and closing it stands at the end of all that follows. -/
theorem resetSources : Obligations.ResetSources := by
  unfold Obligations.ResetSources
  refine ⟨fun src s => ⟨rfl, assertSource_of_no_reach, fun r h he => assertSource_episode_of_none h he⟩, ?_, fun s => ⟨?_, ?_⟩, ?_,
    fun e x l s _ => endEpisode_rst e x l s⟩
  · intro x hx n s
    have row : exec (x.2 n) s = .next (ballLow x.1 n s) := by
      simp only [List.mem_cons, List.not_mem_nil, or_false] at hx
      obtain rfl | rfl | rfl := hx <;> rfl
    rw [row]
    exact ⟨fun h => congrArg _ (ballLow_short h s), fun h => congrArg _ (ballLow_long h s),
      fun h h' => congrArg _ (ballLow_between h h' s)⟩
  · exact fun hu hh => congrArg _ (if_pos ⟨hu, by simp [hh]⟩)
  · intro h
    refine congrArg _ (if_neg ?_)
    obtain h | h := h <;> simp [h]
  · intro src x l s u
    rw [exec_resetSourceRelease]
    exact ⟨fun e he ha hm => congrArg _ (afterRelease_ends he ha hm), fun h => congrArg _ (afterRelease_waits h),
      release_of_plain_source⟩

end Sys2Proof.Machine
/-!
PROOFS. Start and activation (R355, R362), and the cores (R378–R382): the rows by the exit of the last episode, and by what the
voting cores say.
-/
namespace Sys2Proof.Machine

/-! Start and activation (R355). -/

theorem exec_firmwareStart (s : State) : exec .firmwareStart s = .next (takeWaiting (startFirmware s)) := rfl

theorem startFirmware_idle {s : State}
    (h : s.rst.episode.isSome = true ∨ s.sys.clusterUp = true ∨ s.rst.exit = some 3 ∨ s.rst.exit = none) :
    startFirmware s = s := by
  unfold startFirmware
  split
  · rfl
  next hn =>
    obtain ⟨he, hu⟩ := not_or.1 hn
    obtain h | h | h | h := h
    · exact absurd h he
    · exact absurd h hu
    · simp only [h]
    · simp only [h]

/-- The exit of the last episode, whose reach is `x`, is being completed while the cluster is down. -/
def Exiting (x : Nat) (s : State) : Prop := s.rst.episode = none ∧ s.sys.clusterUp = false ∧ s.rst.exit = some x

theorem startFirmware_of_exiting {x : Nat} {s : State} (h : Exiting x s) :
    startFirmware s = if x = 4 then restartFirmware s else if x = 3 then s else boot s := by
  obtain ⟨he, hu, hx⟩ := h
  simp only [startFirmware, he, hu, hx, Option.isSome_none, Bool.false_eq_true, or_self, if_false]
  split
  next h => cases h; rfl
  next h => cases h; rfl
  next y h4 h3 h =>
    cases h
    rw [if_neg h4, if_neg h3]
  next h => cases h

/-- What the activation of the loaded image does once no episode is under way. -/
def activateLoaded (s : State) : State :=
  match s.rst.exit with
  | some 3 => resumeDataPath s
  | some 4 => s
  | some _ => if s.sys.clusterUp ∧ s.sys.mode = .boot then leaveBoot s else s
  | none => s

theorem exec_bootActivation (s : State) :
    exec .bootActivation s = .next (if s.rst.episode.isSome then s else activateLoaded s) := rfl

theorem activateLoaded_of_exit {x : Nat} {s : State} (hx : s.rst.exit = some x) (h3 : x ≠ 3) (h4 : x ≠ 4) :
    activateLoaded s = if s.sys.clusterUp ∧ s.sys.mode = .boot then leaveBoot s else s := by
  unfold activateLoaded
  rw [hx]
  split
  next h => exact absurd (Option.some.inj h) h3
  next h => exact absurd (Option.some.inj h) h4
  · rfl
  next h => cases h

theorem activateLoaded_idle {s : State} (h3 : s.rst.exit ≠ some 3) (h : s.sys.clusterUp = false ∨ s.sys.mode ≠ .boot) :
    activateLoaded s = s := by
  unfold activateLoaded
  split
  next hx => exact absurd hx h3
  · rfl
  · refine if_neg fun ⟨hu, hm⟩ => ?_
    obtain h | h := h
    · simp [hu] at h
    · exact h hm
  · rfl

/-- Settles O50: the three rows by the exit that is being completed and by the orders that stand. -/
theorem startAndActivation : Obligations.StartAndActivation := by
  unfold Obligations.StartAndActivation
  refine ⟨fun s => ⟨fun x he hu hx h3 h4 => ?_, fun he hu hx => ?_, fun h => ?_⟩,
    fun s => ⟨fun he hx => ?_, fun x he hx h3 h4 hu hm => ?_, fun h => ?_, fun h3 h => ?_⟩,
    fun s => ⟨fun h => congrArg _ (if_pos h), fun h => congrArg _ (if_neg (by simp [h])),
      fun h => congrArg _ (if_pos h), fun h => congrArg _ (if_neg (by simp [h]))⟩⟩
  · rw [exec_firmwareStart, startFirmware_of_exiting ⟨he, hu, hx⟩, if_neg h4, if_neg h3]
  · rw [exec_firmwareStart, startFirmware_of_exiting ⟨he, hu, hx⟩, if_pos rfl]
  · rw [exec_firmwareStart, startFirmware_idle h]
  · rw [exec_bootActivation, if_neg (by simp [he])]
    simp only [activateLoaded, hx]
  · rw [exec_bootActivation, if_neg (by simp [he]), activateLoaded_of_exit hx h3 h4, if_pos ⟨hu, hm⟩]
  · rw [exec_bootActivation]
    obtain h | h | h := h
    · rw [if_pos h]
    · simp [activateLoaded, h]
    · simp [activateLoaded, h]
  · rw [exec_bootActivation, activateLoaded_idle h3 h, ite_self]

/-! The vote of the cores (R378, R379). -/

theorem exec_voterDisagreement_some (n : Fin 3) (s : State) :
    exec (.voterDisagreement (some n)) s = .next (if votes s then coreDisagrees n.val s else s) := by
  show execVoterDisagreement (some n) s = _
  unfold execVoterDisagreement
  cases votes s <;> rfl

theorem exec_voterDisagreement_none (s : State) :
    exec (.voterDisagreement none) s
      = .next (if votes s = true ∧ 2 ≤ (votingCores s).length then voterFault (record 0x0C03 [] s) else s) := by
  show execVoterDisagreement none s = _
  unfold execVoterDisagreement
  cases votes s <;> simp [noMajority]

/-- A copy counts as wrong only where it votes and two others, or one, vote beside it. -/
theorem coreDisagrees_eq (n : Nat) (s : State) :
    coreDisagrees n s = if (votingCores s).contains n = true then
      (if (votingCores s).length = 3 then setCore n { coreUnit s n with masked := true, testing := true } s
       else if (votingCores s).length = 2 then voterFault (record 0x0C03 [] s) else s) else s := rfl

theorem coreDisagrees_idle {n : Nat} {s : State} (h : (votingCores s).contains n = false ∨ (votingCores s).length < 2) :
    coreDisagrees n s = s := by
  rw [coreDisagrees_eq]
  split
  next hc =>
    have hl : (votingCores s).length < 2 := h.resolve_left (by rw [hc]; decide)
    rw [if_neg (by omega), if_neg (by omega)]
  · rfl

theorem mem_votingCores {n : Nat} {s : State} (h : n ∈ votingCores s) :
    (coreUnit s n).masked = false ∧ (coreUnit s n).retired = false := by
  simpa using (List.mem_filter.1 h).2

/-! The signature window (R379). -/

/-- The cores that a passed test lets back at the window's end. -/
def returningCores (s : State) : List Nat :=
  [0, 1, 2].filter (fun n => (coreUnit s n).masked && !(coreUnit s n).testing && !(coreUnit s n).retired)

/-- The cores of a list return to the vote. -/
def unmaskCores (l : List Nat) (s : State) : State :=
  l.foldl (fun s n => setCore n { coreUnit s n with masked := false } s) s

/-- The signature of each core by its number. -/
def signatureOf (a b c : Word64) (n : Nat) : Word64 := if n = 0 then a else if n = 1 then b else c

/-- What a window's end does while the cores vote. -/
def closeWindow (a b c : Word64) (s : State) : State :=
  if (compareSignatures (signatureOf a b c) s).rst.episode.isSome then compareSignatures (signatureOf a b c) s
  else unmaskCores (returningCores s) (compareSignatures (signatureOf a b c) s)

theorem exec_signatureWindowEnd (a b c : Word64) (s : State) :
    exec (.signatureWindowEnd a b c) s = .next (if votes s then closeWindow a b c s else s) := by
  show execSignatureWindowEnd a b c s = _
  unfold execSignatureWindowEnd
  cases votes s <;> rfl

theorem closeWindow_quiet {a b c : Word64} {s : State} (h : (compareSignatures (signatureOf a b c) s).rst.episode = none) :
    closeWindow a b c s = unmaskCores (returningCores s) (compareSignatures (signatureOf a b c) s) :=
  if_neg (by simp [h])

theorem returningCores_of_all_voting {s : State} (h : votingCores s = [0, 1, 2]) : returningCores s = [] := by
  refine List.filter_eq_nil_iff.2 fun n hn => ?_
  rw [← h] at hn
  simp [(mem_votingCores hn).1]

theorem compareSignatures_third_differs {a b : Word64} {s : State} (h : votingCores s = [0, 1, 2]) (hab : a ≠ b) :
    compareSignatures (signatureOf a a b) s = maskCore 2 s := by
  simp [compareSignatures, h, signatureOf, hab.symm]

theorem compareSignatures_pair_agrees {a : Word64} {s : State} (h : votingCores s = [0, 1]) :
    compareSignatures (signatureOf a a a) s = s := by
  simp [compareSignatures, h, signatureOf]

theorem closeWindow_third_differs {a b : Word64} {s : State} (h : votingCores s = [0, 1, 2]) (hab : a ≠ b)
    (he : s.rst.episode = none) : closeWindow a a b s = maskCore 2 s := by
  have differs := compareSignatures_third_differs h hab
  rw [closeWindow_quiet (by rw [differs]; exact he), differs, returningCores_of_all_voting h]
  rfl

theorem closeWindow_third_returns {a : Word64} {s : State} (h : votingCores s = [0, 1]) (hm : (coreUnit s 2).masked = true)
    (ht : (coreUnit s 2).testing = false) (hr : (coreUnit s 2).retired = false) (he : s.rst.episode = none) :
    closeWindow a a a s = setCore 2 { coreUnit s 2 with masked := false } s := by
  have agrees := compareSignatures_pair_agrees (a := a) h
  have h0 := mem_votingCores (n := 0) (s := s) (by rw [h]; decide)
  have h1 := mem_votingCores (n := 1) (s := s) (by rw [h]; decide)
  have back : returningCores s = [2] := by simp [returningCores, h0, h1, hm, ht, hr]
  rw [closeWindow_quiet (by rw [agrees]; exact he), agrees, back]
  rfl

/-! Self-tests and heartbeats (R380–R382). -/

theorem exec_coreSelfTestDone (n : Fin 3) (pass : Bool) (s : State) :
    exec (.coreSelfTestDone n pass) s = .next (
      if (coreUnit s n.val).testing = true ∧ s.sys.split = false then
        (if pass = false then retireCore n.val s
         else if (coreUnit s n.val).masked = true then alignFault n.val s
         else setCore n.val { coreUnit s n.val with testing := false } s)
      else s) := by
  show execCoreSelfTestDone n pass s = _
  unfold execCoreSelfTestDone
  dsimp only
  cases (coreUnit s n.val).testing <;> cases s.sys.split <;> cases pass <;> rfl

/-- The cluster runs in SPLIT and is not halted. -/
def RunsSplit (s : State) : Prop := s.sys.split = true ∧ s.sys.clusterUp = true ∧ s.sys.halted = false

theorem runsSplit_iff (s : State) : RunsSplit s ↔ (s.sys.split = true ∧ s.sys.clusterUp = true ∧ ¬s.sys.halted = true) := by
  simp [RunsSplit]

theorem exec_heartbeatMissed_running {n : Fin 2} {s : State} (h : RunsSplit s) :
    exec (.heartbeatMissed n) s = .next (splitFault (setCore n.val { coreUnit s n.val with silent := true } s)) :=
  congrArg _ (if_pos ((runsSplit_iff s).1 h))

theorem exec_heartbeatMissed_idle {n : Fin 2} {s : State} (h : ¬RunsSplit s) : exec (.heartbeatMissed n) s = .next s :=
  congrArg _ (if_neg fun hn => h ((runsSplit_iff s).2 hn))

theorem exec_splitSelfTest_running {s : State} (h : RunsSplit s) : exec (.splitSelfTest false) s = .next (splitFault s) := by
  obtain ⟨hs, hu, hh⟩ := (runsSplit_iff s).1 h
  exact congrArg _ (if_pos ⟨hs, hu, hh, Bool.false_ne_true⟩)

theorem exec_splitSelfTest_idle {s : State} (h : ¬RunsSplit s) : exec (.splitSelfTest false) s = .next s :=
  congrArg _ (if_neg fun ⟨hs, hu, hh, _⟩ => h ((runsSplit_iff s).2 ⟨hs, hu, hh⟩))

theorem exec_splitSelfTest_passed (s : State) : exec (.splitSelfTest true) s = .next s :=
  congrArg _ (if_neg fun ⟨_, _, _, hp⟩ => hp rfl)

/-- Settles O51: each row by whether the cores vote, or run in SPLIT, and then by the number of voting cores, by what their
signatures say, or by the outcome of the test. -/
theorem coreEvents : Obligations.CoreEvents := by
  unfold Obligations.CoreEvents
  refine ⟨fun n s => ?_, fun s => ?_, ?_, ?_, ?_, ?_, ?_, ?_⟩
  · rw [exec_voterDisagreement_some]
    refine ⟨fun hv h => ?_, fun hv hl hc => ?_, fun hv h => ?_, fun hv => ?_⟩
    · have hn : (votingCores s).contains n.val = true := by
        rw [h]
        revert n
        decide
      rw [if_pos hv, coreDisagrees_eq, if_pos hn, if_pos (by rw [h]; rfl)]
    · rw [if_pos hv, coreDisagrees_eq, if_pos hc, if_neg (by omega), if_pos hl]
    · rw [if_pos hv, coreDisagrees_idle h]
    · rw [if_neg (by simp [hv])]
  · rw [exec_voterDisagreement_none]
    refine ⟨fun hv hl => congrArg _ (if_pos ⟨hv, hl⟩), fun h => congrArg _ (if_neg fun ⟨hv, hl⟩ => ?_)⟩
    obtain h | h := h
    · simp [hv] at h
    · omega
  · intro a b c s back u
    rw [exec_signatureWindowEnd]
    exact ⟨fun hv he => congrArg _ ((if_pos hv).trans (closeWindow_quiet he)),
      fun hv he => congrArg _ ((if_pos hv).trans (if_pos he)), fun hv => congrArg _ (if_neg (by simp [hv]))⟩
  · intro a b s hv h hab he
    rw [exec_signatureWindowEnd, if_pos hv, closeWindow_third_differs h hab he]
  · intro a s hv h hm ht hr he
    rw [exec_signatureWindowEnd, if_pos hv, closeWindow_third_returns h hm ht hr he]
  · intro n s c recent on
    refine ⟨fun h => ?_, fun h hm => ?_, fun h hm hl => ?_, fun h hm hl => ?_, fun h b => ?_⟩ <;> rw [exec_coreSelfTestDone]
    · rw [if_pos h, if_pos rfl]
    · rw [if_pos h, if_neg (by decide), if_neg (Bool.eq_false_iff.1 hm)]
    · rw [if_pos h, if_neg (by decide), if_pos hm]
      exact congrArg _ (if_neg (Nat.not_le.2 hl))
    · rw [if_pos h, if_neg (by decide), if_pos hm]
      exact congrArg _ (if_pos hl)
    · rw [if_neg h]
  · exact fun s => ⟨fun h => congrArg _ (if_pos h), fun h => congrArg _ (if_neg (by simp [h]))⟩
  · exact fun s => ⟨fun h => ⟨fun n => exec_heartbeatMissed_running h, exec_splitSelfTest_running h⟩,
      fun h => ⟨fun n => exec_heartbeatMissed_idle h, exec_splitSelfTest_idle h⟩, exec_splitSelfTest_passed s⟩

end Sys2Proof.Machine
/-!
PROOFS. The safety watchdog and the pins of the safety functions (R33, R323, R388, R389, R393).
-/
namespace Sys2Proof.Machine

/-! What driving a pin or entering a mode leaves alone. -/

@[simp] theorem setFault_sys (low : Bool) (s : State) : (setFault low s).sys = s.sys := by
  unfold setFault
  split <;> rfl

@[simp] theorem hlthLow_sys (s : State) : (hlthLow s).sys = s.sys := by
  unfold hlthLow
  split <;> rfl

@[simp] theorem hlthLow_wake (s : State) : (hlthLow s).wake = s.wake := by
  unfold hlthLow
  split <;> rfl

@[simp] theorem setEsmAck_rst (high : Bool) (s : State) : (setEsmAck high s).rst = s.rst := by
  unfold setEsmAck
  split <;> rfl

@[simp] theorem setEsmAck_sys (high : Bool) (s : State) : (setEsmAck high s).sys = s.sys := by
  unfold setEsmAck
  split <;> rfl

@[simp] theorem setEsmAck_wake (high : Bool) (s : State) : (setEsmAck high s).wake = s.wake := by
  unfold setEsmAck
  split <;> rfl

theorem record_sys (ty : Nat) (body : Bytes) (s : State) : (record ty body s).sys = s.sys := by rw [record_recorder ty body s]

theorem enterMode_mode (m : Mode) (s : State) : (enterMode m s).sys.mode = m := by
  unfold enterMode
  split
  next h => exact h
  · rw [record_sys]

theorem enterSafe_mode {s : State} (run : runMode s.sys.mode = true) (he : s.rst.episode = none) :
    (enterSafe s).sys.mode = .safe := by
  unfold enterSafe
  rw [if_pos ⟨run, by rw [he]; rfl⟩, hlthLow_sys, setFault_sys, enterMode_mode]

theorem liveBytes_record (ty : Nat) (body : Bytes) (s : State) (id : Nat) :
    liveBytes (record ty body s) id = liveBytes s id := by
  simp only [liveBytes, liveSection, record_img]

/-! The safety watchdog (R389). -/

theorem exec_safWdtKick (v : Word16) (s : State) : exec (.safWdtKick v) s = .next (
    if mayKick s = true then
      (if kickInTime s = true ∧ v = kickValue s then
        { s with saf := { s.saf with wdtFirst := !s.saf.wdtFirst, wdtFresh := false, wdtAt := s.clk } }
       else expireWdt s)
    else s) := by
  show Host.Outcome.next (kickWdt v s) = _
  unfold kickWdt
  cases mayKick s <;> rfl

theorem kickInTime_iff (s : State) : kickInTime s = true ↔
    (if s.saf.wdtFresh = true then s.clk - s.saf.wdtAt ≤ 200000000
     else 1000000 ≤ s.clk - s.saf.wdtAt ∧ s.clk - s.saf.wdtAt ≤ 20000000) := by
  unfold kickInTime
  cases s.saf.wdtFresh <;> simp

/-- The watchdog runs out where the cluster is up and not halted (R389). -/
theorem exec_safetyWdt (s : State) : exec .safetyWdt s = .next (
    if s.saf.wdtRuns = true ∧ s.sys.clusterUp = true ∧ s.sys.halted = false then
      expireWdt (reachClock (s.saf.wdtAt + (if s.saf.wdtFresh then 200000000 else 20000000)) s)
    else s) := by
  show execSafetyWdt s = _
  unfold execSafetyWdt
  simp only [Bool.not_eq_true]

/-! The pins of the safety functions. -/

theorem exec_faultIn_held {n : Nat} {s : State} (h : 2000 ≤ n) : exec (.faultIn n) s = .next (
    if forwarding s.sys.mode = true ∧ byteAt (liveBytes s 0x0012) 7 = 1 then
      escalate 7 (record 0x0C06 [] { s with saf := { s.saf with faultIn := true } })
    else record 0x0C06 [] { s with saf := { s.saf with faultIn := true } }) := by
  show execFaultIn n s = _
  unfold execFaultIn
  rw [if_pos h]
  dsimp only
  rw [record_sys, liveBytes_record]
  rfl

theorem exec_peerIntPulse (n : Nat) (s : State) : exec (.peerIntPulse n) s = .next (
    if 1000 ≤ n ∧ n ≤ 10000 then raiseInt 5 { s with pair := { s.pair with intClass := 1 } }
    else if 80000 ≤ n then assertSource 15 { s with pair := { s.pair with intClass := 2 } }
    else { s with pair := { s.pair with intClass := 3, glitches := satAdd 16 s.pair.glitches 1 } }) := rfl

/-- Settles O52: the watchdog's rows by the value due and its bounds, the pins' rows by the level or the length they name; that
SAFE is entered follows from the mode being written last. -/
theorem safetyMonitors : Obligations.SafetyMonitors := by
  unfold Obligations.SafetyMonitors
  refine ⟨⟨?_, ?_⟩, fun s => ⟨fun hg ha => ?_, fun h => ?_, fun ha => ?_, fun ha => ?_⟩, ?_, ?_, fun s => ?_, ?_⟩
  · intro v s d due inTime
    have timely : kickInTime s = true ↔ inTime := kickInTime_iff s
    rw [exec_safWdtKick]
    refine ⟨fun hk hv ht => ?_, fun hk h => ?_, fun hk => ?_⟩
    · rw [if_pos hk, if_pos ⟨timely.2 ht, hv⟩]
    · rw [if_pos hk, if_neg fun ⟨ht, hv⟩ => h.elim (fun n => n hv) (fun n => n (timely.1 ht))]
    · rw [if_neg (by simp [hk])]
  · intro s on
    rw [exec_safetyWdt]
    refine ⟨fun h hf => ?_, fun h hf => ?_, fun h => congrArg _ (if_neg h)⟩
    · rw [if_pos h, if_pos hf]
    · rw [if_pos h, if_neg (by simp [hf])]
  · exact congrArg _ ((if_pos hg).trans (if_neg (by simp [ha])))
  · obtain hg | ha := h
    · exact congrArg _ (if_neg (by simp [hg]))
    · exact congrArg _ ((congrArg (fun t => if healthGood s = true then t else s) (if_pos ha)).trans (ite_self _))
  · exact congrArg _ (if_neg (by simp [ha]))
  · exact congrArg _ (if_pos ha)
  · exact fun n s => ⟨fun h => congrArg _ (if_pos h), enterSafe_mode, fun h => congrArg _ (if_neg (by omega))⟩
  · intro n s u reacts
    refine ⟨fun h hr => ?_, fun h hr => ?_, fun h => congrArg _ (if_neg (by omega))⟩
    · rw [exec_faultIn_held h, if_neg hr]
    · rw [exec_faultIn_held h, if_pos hr]
  · exact ⟨fun h => congrArg _ (if_pos h), fun h => congrArg _ (if_neg (by simp [h]))⟩
  · intro n s
    rw [exec_peerIntPulse]
    refine ⟨fun h h' => congrArg _ (if_pos ⟨h, h'⟩), fun h => ?_, fun h => ?_⟩
    · rw [if_neg (by omega), if_pos h]
    · rw [if_neg (by omega), if_neg (by omega)]

end Sys2Proof.Machine

/-!
PROOFS. The supplies, VMON_OK and the end of power-down (R33, R335, R348, R464): what an episode leaves of the supplies' own
record, and the mode in which a lost supply leaves the device.
-/
namespace Sys2Proof.Machine

/-! An episode leaves the list of invalid supplies alone. -/

theorem invalid_ite {c : Prop} [Decidable c] {t u : State} {l : List Supply} (ht : t.rst.invalid = l)
    (hu : u.rst.invalid = l) : (if c then t else u).rst.invalid = l := by
  split
  · exact ht
  · exact hu

theorem episodePins_invalid (r : Nat) (s : State) : (episodePins r s).rst.invalid = s.rst.invalid := by
  unfold episodePins
  extract_lets s1 _ s2 _ s3 s4 s5 _ s6 _ s7 _ s8
  have h1 : s1.rst.invalid = s.rst.invalid := by rw [setFault_rst]
  have h2 : s2.rst.invalid = s.rst.invalid := invalid_ite h1 h1
  have h3 : s3.rst.invalid = s.rst.invalid := invalid_ite h2 h2
  have h4 : s4.rst.invalid = s.rst.invalid := invalid_ite (by rw [hlthLow_rst, h3]) h3
  have h5 : s5.rst.invalid = s.rst.invalid := by
    refine invalid_ite (List.foldlRecOn (motive := fun u : State => u.rst.invalid = s.rst.invalid) _ _ h4 fun u hu i _ => ?_) h4
    exact invalid_ite (by rw [setStb_rst, hu]) hu
  refine invalid_ite h5 ?_
  have h8 : s8.rst.invalid = s.rst.invalid := by
    have h6 : s6.rst.invalid = s.rst.invalid := invalid_ite h5 h5
    have h7 : s7.rst.invalid = s.rst.invalid := invalid_ite h6 h6
    exact invalid_ite h7 h7
  exact List.foldlRecOn (motive := fun u : State => u.rst.invalid = s.rst.invalid) _ _ h8 fun u hu n _ => invalid_ite hu hu

theorem applyReach_invalid (r : Nat) (s : State) : (applyReach r s).rst.invalid = s.rst.invalid := by
  unfold applyReach
  rw [episodePins_invalid]
  split
  · rfl
  · rfl
  · rfl
  · rw [resetL3_rst]
  · exact congrArg Rst.invalid (leaveRound_rst s)

theorem assertSource_invalid (src : Nat) (s : State) : (assertSource src s).rst.invalid = s.rst.invalid := by
  unfold assertSource
  split
  · rfl
  · dsimp only
    split
    · refine invalid_ite rfl ?_
      rw [applyReach_invalid]
      exact invalid_ite (by rw [sendGoingDown_rst]) rfl
    · rw [applyReach_invalid, sendGoingDown_rst]

/-! PWR_GOOD (R464). -/

/-- PWR_GOOD stands in the reset block beside the episode and the supplies. -/
theorem followPwrGood_keeps (s : State) :
    (followPwrGood s).sys = s.sys ∧ (followPwrGood s).wake = s.wake
      ∧ (followPwrGood s).rst = { s.rst with pwrGood := mainValid s } := by
  unfold followPwrGood
  split
  next h => exact ⟨rfl, rfl, by rw [← h]⟩
  · exact ⟨rfl, rfl, rfl⟩

/-! A supply that is lost (R348). -/

/-- The pins that a supply takes with it, before its source is asserted. -/
def supplyPins (x : Supply) (s : State) : State :=
  hlthLow (followPwrGood (
    if x = .vddCore then setEsmAck false { s with rst := { s.rst with invalid := s.rst.invalid ++ [x] } }
    else { s with rst := { s.rst with invalid := s.rst.invalid ++ [x] } }))

theorem supplyPins_keeps (x : Supply) (s : State) :
    (supplyPins x s).sys = s.sys ∧ (supplyPins x s).wake = s.wake ∧ (supplyPins x s).rst.invalid = s.rst.invalid ++ [x]
      ∧ (supplyPins x s).rst.episode = s.rst.episode ∧ (supplyPins x s).rst.exit = s.rst.exit := by
  have fell : ∀ u : State, u.sys = s.sys → u.wake = s.wake → u.rst = { s.rst with invalid := s.rst.invalid ++ [x] } →
      (hlthLow (followPwrGood u)).sys = s.sys ∧ (hlthLow (followPwrGood u)).wake = s.wake
        ∧ (hlthLow (followPwrGood u)).rst.invalid = s.rst.invalid ++ [x]
        ∧ (hlthLow (followPwrGood u)).rst.episode = s.rst.episode ∧ (hlthLow (followPwrGood u)).rst.exit = s.rst.exit := by
    intro u hs hw hr
    obtain ⟨ks, kw, kr⟩ := followPwrGood_keeps u
    rw [hlthLow_sys, hlthLow_wake, hlthLow_rst, ks, kw, kr, hr]
    exact ⟨hs, hw, rfl, rfl, rfl⟩
  unfold supplyPins
  split
  · exact fell _ (setEsmAck_sys ..) (setEsmAck_wake ..) (setEsmAck_rst ..)
  · exact fell _ rfl rfl rfl

theorem exec_supplyInvalid {x : Supply} {s : State} (h : s.rst.invalid.contains x = false) :
    exec (.supplyInvalid x) s
      = .next (if x = .vbkp then assertSource 4 (supplyPins x s) else mainLost (supplyPins x s)) :=
  congrArg _ (if_neg (by rw [h]; decide))

theorem driveInh_sys (s : State) : (driveInh s).sys = s.sys := by
  unfold driveInh
  split <;> rfl

theorem reachStandby_sys (s : State) : (reachStandby s).sys = { s.sys with mode := .standby, clusterUp := false } := by
  unfold reachStandby
  dsimp only
  split
  · rw [driveInh_sys]
  · rfl

/-- With the backup supply there, a lost main supply leaves the device in STANDBY where it slept and in BACKUP else. -/
theorem mainLost_mode {s : State} (hv : s.rst.invalid.contains .vbkp = false) :
    (mainLost s).sys.mode = if s.wake.down = true ∨ s.sys.mode = .standby then .standby else .backup := by
  unfold mainLost
  dsimp only
  by_cases hs : s.wake.down = true ∨ s.sys.mode = .standby
  · rw [if_pos hs, if_pos (by simpa using hs), reachStandby_sys]
  · rw [if_neg hs, if_neg (by simpa using hs), assertSource_invalid, if_neg (by rw [hv]; decide)]

theorem standbyTimeout_due {s : State} (down : s.wake.down = true) (he : s.rst.episode = none) :
    exec .standbyTimeout s
      = .next (reachStandby (applyReach 1 { reachClock (s.wake.inhAt + 50000000) s with
          rst := { (reachClock (s.wake.inhAt + 50000000) s).rst with
            episode := some { reach := 1, sources := 0 }, exit := none } })) := by
  show execStandbyTimeout s = _
  unfold execStandbyTimeout
  rw [if_pos ⟨down, by rw [he]; rfl⟩]

/-- Settles O53: each row by the supply or the level it names; the mode and the episode of a lost supply follow from what the
pins, and then the episode, leave alone. -/
theorem supplyEvents : Obligations.SupplyEvents := by
  unfold Obligations.SupplyEvents
  refine ⟨fun x s h => congrArg _ (if_pos h), ?_, fun s h he hx => ?_,
    fun x s hx hn hv => ?_, fun x s => rfl, fun s => ?_, fun s => ⟨rfl, rfl⟩, ?_⟩
  · intro x s h t u
    exact exec_supplyInvalid h
  · obtain ⟨_, _, _, ke, kx⟩ := supplyPins_keeps .vbkp s
    refine ⟨_, (exec_supplyInvalid h).trans (congrArg _ (if_pos rfl)), ?_⟩
    refine (assertSource_episode_of_none (s := supplyPins .vbkp s) (src := 4) (r := 0) rfl (ke.trans he)).trans ?_
    rw [kx, hx]
    rfl
  · obtain ⟨ks, kw, ki, _, _⟩ := supplyPins_keeps x s
    refine ⟨mainLost (supplyPins x s), (exec_supplyInvalid hn).trans (congrArg _ (if_neg hx)), ?_⟩
    have present : (supplyPins x s).rst.invalid.contains .vbkp = false := by
      simpa [ki, hx.symm] using hv
    rw [mainLost_mode present, kw, ks]
  · obtain ⟨_, _, kr⟩ := followPwrGood_keeps s
    rw [kr]
    exact ⟨rfl, rfl⟩
  · intro s u on
    refine ⟨fun ⟨hd, he⟩ => standbyTimeout_due hd he, fun ⟨hd, he⟩ => ⟨_, standbyTimeout_due hd he, ?_, ?_⟩, fun h => ?_⟩
    · rw [reachStandby_sys]
    · rw [reachStandby_sys]
    · exact congrArg _ (if_neg fun ⟨hd, he⟩ => h ⟨hd, Option.isNone_iff_eq_none.1 he⟩)

end Sys2Proof.Machine
/-!
PROOFS. The peer bridge and the JTAG halt (R318–R322, R457): the near side's judgement of an access, what ends one, the lock of
an inbound request, and the requests that are sent again.
-/
namespace Sys2Proof.Machine

/-! An access of the cluster (R318). -/

theorem exec_pbRequest_open {r : PbAccess} {s : State} (serves : clusterServes s = true) (room : openCount s < 64) :
    exec (.pbRequest r) s = .next (issuePb none r s) :=
  congrArg _ (if_neg (by simp [serves, Nat.not_le.2 room]))

theorem exec_pbRequest_waits {r : PbAccess} {s : State} (h : ¬(clusterServes s = true ∧ openCount s < 64)) :
    exec (.pbRequest r) s = .next s := by
  refine congrArg _ (if_pos ?_)
  rw [Bool.not_eq_true', ← Bool.not_eq_true, ← Nat.not_lt]
  exact not_and_or.1 h

/-- The open entry of an access of the cluster through window `n`. -/
def clusterAccess (r : PbAccess) (n : Nat) (s : State) : PbOpen :=
  { id := s.pb.next, window := n, access := r, far := (pbWindow s n).far + (r.addr - (pbWindow s n).near)
    posted := (pbWindow s n).posted && r.kind == .write, tag := none, sentAt := s.clk }

/-- The state in which that entry is open and its request is sent. -/
def openAccess (r : PbAccess) (n : Nat) (s : State) : State :=
  sendRequest (clusterAccess r n s)
    { s with pb := { s.pb with open_ := s.pb.open_ ++ [clusterAccess r n s], next := (s.pb.next + 1) % 65536 } }

theorem issuePb_of_window {r : PbAccess} {n : Nat} {s : State} (h : nearJudge r s = .ok n) :
    issuePb none r s = if ((pbWindow s n).posted && r.kind == .write) = true then
        { openAccess r n s with pb := { (openAccess r n s).pb with last := some (0, []) } }
      else openAccess r n s := by
  simp only [issuePb, h, ite_self]
  rfl

theorem issuePb_of_error {r : PbAccess} {code : Nat} {s : State} (h : nearJudge r s = .error code) :
    issuePb none r s = { s with pb := { s.pb with last := some (code, []) } } := by
  simp only [issuePb, h, completePb]

/-! What ends an open access (R319). -/

/-- The three rows that name an open access do what its entry says, and nothing where none is open. -/
theorem exec_openAccess_rows {id : Nat} {o : PbOpen} {s : State} (h : findOpen id s = some o) (code : Fin 8) (d : Bytes) :
    exec (.pbResponseRx id code d) s
        = .next (if o.posted = true then closeOpen id s else if o.withdrawn = true then s else endOpen o code.val d s)
      ∧ exec (.pbPostedErr id code) s = .next (if o.posted = true then
          raiseInt 4 (record 0x0902 ([BitVec.ofNat 8 o.window] ++ leBytes 8 o.far
            ++ [BitVec.ofNat 8 o.access.size, BitVec.ofNat 8 code.val]) (closeOpen id s)) else s)
      ∧ exec (.pbTimeout id) s
        = .next (if o.posted = true ∨ o.withdrawn = true then s else endOpen o 7 [] (reachClock (o.sentAt + 100000) s)) := by
  refine ⟨?_, ?_, ?_⟩
  · show execPbResponseRx id code d s = _
    simp only [execPbResponseRx, h]
  · show execPbPostedErr id code s = _
    simp only [execPbPostedErr, h]
  · show execPbTimeout id s = _
    simp only [execPbTimeout, h]

theorem exec_noOpenAccess_rows {id : Nat} {s : State} (h : findOpen id s = none) (code : Fin 8) (d : Bytes) :
    exec (.pbResponseRx id code d) s = .next s ∧ exec (.pbPostedErr id code) s = .next s
      ∧ exec (.pbTimeout id) s = .next s := by
  refine ⟨?_, ?_, ?_⟩
  · show execPbResponseRx id code d s = _
    simp only [execPbResponseRx, h]
  · show execPbPostedErr id code s = _
    simp only [execPbPostedErr, h]
  · show execPbTimeout id s = _
    simp only [execPbTimeout, h]

/-! Inbound requests and the lock (R320, R321). -/

theorem exec_pbInboundRequest_down {r : PbInbound} {s : State} (h : ¬(s.pair.mlUp = true ∧ s.pb.disabled = false)) :
    exec (.pbInboundRequest r) s = .next s := by
  refine congrArg _ (if_pos ?_)
  rw [Bool.not_eq_true', ← Bool.not_eq_true, ← Bool.not_eq_false s.pb.disabled]
  exact not_and_or.1 h

theorem exec_pbInboundRequest_up {r : PbInbound} {s : State} (up : s.pair.mlUp = true) (on : s.pb.disabled = false) :
    exec (.pbInboundRequest r) s = .next (
      if collides r s = true then
        if s.sys.straps.secondary = true then serveWaiting (inbound r (backOff (lockCollision r s) s))
        else if r.kind = .lockingRead then s
        else serveWaiting (inbound r s)
      else serveWaiting (inbound r s)) :=
  congrArg _ (if_neg (by simp [up, on]))

theorem inbound_without_lock {r : PbInbound} {s : State} (free : s.pb.lock = none) (whole : s.pb.broken = none)
    (kind : r.kind = .read ∨ r.kind = .write) :
    inbound r s = respond r (serveInbound r s).1 (serveInbound r s).2.1 (serveInbound r s).2.2 := by
  have plain : r.kind ≠ .lockingRead ∧ r.kind ≠ .unlockingWrite := by
    obtain h | h := kind <;> simp [h]
  simp only [inbound, free, whole, plain, if_false, reduceCtorEq]

theorem inbound_waits {r : PbInbound} {l : PbLock} {s : State} (held : s.pb.lock = some l) (out : inSequence r l = false)
    (meets : spansMeet r.addr r.size l.base l.size = true) :
    inbound r s = { s with pb := { s.pb with waiting := s.pb.waiting ++ [r] } } := by
  simp only [inbound, held, out, meets, Bool.false_eq_true, if_false, true_or, if_true]

theorem exec_pbLockBroken_held {l : PbLock} {s : State} (h : s.pb.lock = some l) :
    exec .pbLockBroken s = .next (serveWaiting (record 0x0903 [] { reachClock (l.since + 10000) s with
      pb := { (reachClock (l.since + 10000) s).pb with lock := none, broken := some (l.base, l.size) } })) := by
  show execPbLockBroken s = _
  simp only [execPbLockBroken, h]

theorem exec_pbLockBroken_free {s : State} (h : s.pb.lock = none) : exec .pbLockBroken s = .next s := by
  show execPbLockBroken s = _
  simp only [execPbLockBroken, h]

/-! Requests that are sent again (R322). -/

/-- Requests that are sent put one transfer each on ML and touch nothing else. -/
theorem sendRequests_only_wire (l : List PbOpen) (s : State) :
    ∃ w : List Out, w.length = s.wire.length + l.length
      ∧ l.foldl (fun s (o : PbOpen) => sendRequest o s) s = { s with wire := w } := by
  induction l generalizing s with
  | nil => exact ⟨s.wire, rfl, rfl⟩
  | cons o l ih =>
    obtain ⟨w, hw, hu⟩ := ih (sendRequest o s)
    refine ⟨w, ?_, hu⟩
    have sent : (sendRequest o s).wire.length = s.wire.length + 1 := List.length_append
    rw [hw, sent, List.length_cons, Nat.add_assoc, Nat.add_comm 1]

/-- The clock at which withdrawn requests are sent again. -/
def resendClock (s : State) : State := if s.pb.backoffLock then s else reachClock (s.pb.backoffAt + 5000) s

theorem resendClock_eq (s : State) :
    resendClock s = { s with clk := if s.pb.backoffLock = true then s.clk else Nat.max s.clk (s.pb.backoffAt + 5000) } := by
  unfold resendClock
  split <;> rfl

/-- An open access once the withdrawn ones are sent again at `clk`. -/
def resentAt (clk : Nat) (o : PbOpen) : PbOpen := if o.withdrawn then { o with withdrawn := false, sentAt := clk } else o

theorem exec_pbBackoffResend (s : State) :
    exec .pbBackoffResend s = .next (
      if (s.pb.open_.filter (fun (o : PbOpen) => o.withdrawn)).isEmpty = true ∨ s.pb.lock.isSome = true ∨ (!s.pair.mlUp) = true then s
      else
        let u := (s.pb.open_.filter (fun (o : PbOpen) => o.withdrawn)).foldl (fun s (o : PbOpen) => sendRequest o s) (resendClock s)
        { u with pb := { u.pb with open_ := u.pb.open_.map (resentAt u.clk) } }) := rfl

theorem exec_jtagHaltRequest (s : State) : exec .jtagHaltRequest s = .next (
    if (s.otp.lcState = .test ∨ s.otp.lcState = .service) ∧ s.sys.clusterUp = true then
      { s with sys := { s.sys with halted := true } } else s) := by
  show execJtagHaltRequest s = _
  unfold execJtagHaltRequest
  cases s.otp.lcState <;> simp only [reduceCtorEq, or_self, false_or, true_or, false_and, true_and, if_false] <;> rfl

/-- Settles O56: each row by the condition it names; that requests sent again are told on ML and nowhere else is an induction over
them. -/
theorem bridgeEvents : Obligations.BridgeEvents := by
  unfold Obligations.BridgeEvents
  refine ⟨?_, fun id code d s => ⟨fun o h => ?_, fun h => exec_noOpenAccess_rows h code d⟩, ?_,
    fun s => ⟨fun l h => exec_pbLockBroken_held h, exec_pbLockBroken_free⟩, ?_, ?_⟩
  · intro r s on
    refine ⟨fun code ⟨hs, hl⟩ h => ?_, ?_, exec_pbRequest_waits⟩
    · rw [exec_pbRequest_open hs hl, issuePb_of_error h]
    · intro n ⟨hs, hl⟩ h w posted o u
      rw [exec_pbRequest_open hs hl, issuePb_of_window h]
      rfl
  · obtain ⟨response, posted, timeout⟩ := exec_openAccess_rows h code d
    rw [response, posted, timeout]
    refine ⟨fun hp => ?_, fun hp hw => ?_, fun hp hw => ?_, fun hp => ?_, fun hp => ?_, fun hp hw => ?_, fun hw => ?_⟩
    · rw [if_pos hp]
    · rw [if_neg (Bool.eq_false_iff.1 hp), if_neg (Bool.eq_false_iff.1 hw)]
    · rw [if_neg (Bool.eq_false_iff.1 hp), if_pos hw]
    · rw [if_pos hp]
    · rw [if_neg (Bool.eq_false_iff.1 hp)]
    · rw [if_neg (by simp [hp, hw])]
    · rw [if_pos hw]
  · intro r s on
    refine ⟨fun ⟨hu, hd⟩ hc => ?_, fun ⟨hu, hd⟩ hc hs => ?_, fun ⟨hu, hd⟩ hc hs hk => ?_, fun h => ?_, inbound_without_lock,
      fun l => inbound_waits⟩
    · rw [exec_pbInboundRequest_up hu hd, if_neg (Bool.eq_false_iff.1 hc)]
    · rw [exec_pbInboundRequest_up hu hd, if_pos hc, if_pos hs]
    · rw [exec_pbInboundRequest_up hu hd, if_pos hc, if_neg (Bool.eq_false_iff.1 hs), if_neg hk]
    · by_cases up : on
      · obtain ⟨hc, hs, hk⟩ := h.resolve_left (not_not.2 up)
        rw [exec_pbInboundRequest_up up.1 up.2, if_pos hc, if_neg (Bool.eq_false_iff.1 hs), if_pos hk]
      · exact exec_pbInboundRequest_down up
  · intro s held on
    have waits : (held.isEmpty = true ∨ s.pb.lock.isSome = true ∨ (!s.pair.mlUp) = true) ↔ ¬on := by
      simp only [on, not_and_or, not_not, List.isEmpty_iff, ne_eq, Option.isSome_iff_ne_none, Bool.not_eq_true', Bool.not_eq_true]
    rw [exec_pbBackoffResend]
    refine ⟨fun h => ?_, fun h => congrArg _ (if_pos (waits.2 h))⟩
    obtain ⟨w, hw, hu⟩ := sendRequests_only_wire held (resendClock s)
    refine ⟨_, congrArg _ (if_neg (mt waits.1 (not_not.2 h))), ?_⟩
    show (held.foldl (fun s (o : PbOpen) => sendRequest o s) (resendClock s)).clk = _ ∧ _
    rw [hu, resendClock_eq] at *
    exact ⟨rfl, rfl, hw⟩
  · intro s on
    rw [exec_jtagHaltRequest]
    exact ⟨fun h => congrArg _ (if_pos h), fun h => congrArg _ (if_neg h)⟩

end Sys2Proof.Machine
/-!
PROOFS. Counters, snapshots and the recorder (R427, R431, R432, R437, R441, R442) and the identity key (R420).
-/
namespace Sys2Proof.Machine

/-! An increment under the counter's mode (R427). -/

theorem counterAdd_wraps {c : Counter} {n : Nat} (h : (counterConf c).2 = 0) :
    counterAdd c n = ({ c with value := (c.value + n) % 2 ^ 48 }, false) := by
  simp only [counterAdd, h]

theorem counterAdd_saturated {c : Counter} {n : Nat} (h : (counterConf c).2 = 1) (hs : c.sat = true) :
    counterAdd c n = (c, false) := by
  simp only [counterAdd, h, hs, if_true]

theorem counterAdd_saturates {c : Counter} {n : Nat} (h : (counterConf c).2 = 1) (hs : c.sat = false) :
    (counterAdd c n).1.value = Nat.min (c.value + n) (2 ^ 48 - 1)
      ∧ (counterAdd c n).1.sat = decide (2 ^ 48 - 1 < c.value + n) ∧ (counterAdd c n).2 = false := by
  simp only [counterAdd, h, hs, Bool.false_eq_true, if_false]
  split
  next above =>
    have cap : 2 ^ 48 - 1 ≤ c.value + n := by omega
    exact ⟨(Nat.min_eq_right cap).symm, (decide_eq_true (show 2 ^ 48 - 1 < c.value + n by omega)).symm, rfl⟩
  next within =>
    have cap : c.value + n ≤ 2 ^ 48 - 1 := by omega
    exact ⟨(Nat.min_eq_left cap).symm, (decide_eq_false (not_lt.2 cap)).symm, rfl⟩

theorem counterAdd_flags {c : Counter} {n : Nat} (h : (counterConf c).2 = 2) :
    (counterAdd c n).1.value = (c.value + n) % 2 ^ 48
      ∧ (counterAdd c n).1.ovf = (c.ovf || decide (2 ^ 48 ≤ c.value + n))
      ∧ (counterAdd c n).2 = (!c.ovf && decide (2 ^ 48 ≤ c.value + n)) := by
  simp only [counterAdd, h]
  split
  next above => simp only [decide_eq_true above, Bool.or_true, Bool.and_true, and_self]
  next within =>
    simp only [decide_eq_false within, Bool.or_false, Bool.and_false, and_self, and_true]
    exact (Nat.mod_eq_of_lt (not_le.1 within)).symm

/-! The snapshot whose instant comes first (R431). -/

/-- The armed snapshot that comes first; among equal instants the one armed first. -/
def soonerOf (m b : Snapshot) : Snapshot := if b.instant < m.instant then b else m

theorem foldl_soonerOf_keeps {x : Snapshot} {r : List Snapshot} (h : ∀ y ∈ r, x.instant ≤ y.instant) : r.foldl soonerOf x = x := by
  induction r with
  | nil => rfl
  | cons y r ih =>
    obtain ⟨hy, hr⟩ := List.forall_mem_cons.1 h
    rw [List.foldl_cons, soonerOf, if_neg (not_lt.2 hy), ih hr]

theorem foldl_soonerOf_finds {x : Snapshot} {r : List Snapshot} (h : ∀ y ∈ r, x.instant ≤ y.instant) (l : List Snapshot)
    (m : Snapshot) (hm : x.instant < m.instant) (hl : ∀ y ∈ l, x.instant < y.instant) : (l ++ x :: r).foldl soonerOf m = x := by
  induction l generalizing m with
  | nil => rw [List.nil_append, List.foldl_cons, soonerOf, if_pos hm, foldl_soonerOf_keeps h]
  | cons y l ih =>
    obtain ⟨hy, hl⟩ := List.forall_mem_cons.1 hl
    rw [List.cons_append, List.foldl_cons]
    refine ih _ ?_ hl
    unfold soonerOf
    split
    · exact hy
    · exact hm

/-- What the row does with the snapshot `x` that comes first. -/
def latchArmed (x : Snapshot) (s : State) : State :=
  let auto := isAutoInstant x.instant s && decide (wNow s ≤ x.instant)
  let u := reachW x.instant s
  latchSnapshot { x with automatic := auto }
    (if auto then { u with cnt := { u.cnt with lastAuto := some (autoIndex x.instant u) } } else u)

theorem exec_snapshotLatch_cons {a : Snapshot} {rest : List Snapshot} {s : State} (h : s.cnt.armed = a :: rest) :
    exec .snapshotLatch s = .next (latchArmed (rest.foldl soonerOf a) s) := by
  show execSnapshotLatch s = _
  simp only [execSnapshotLatch, h]
  rfl

theorem exec_snapshotLatch_first {x : Snapshot} {l r : List Snapshot} {s : State} (h : s.cnt.armed = l ++ x :: r)
    (hl : ∀ y ∈ l, x.instant < y.instant) (hr : ∀ y ∈ r, x.instant ≤ y.instant) :
    exec .snapshotLatch s = .next (latchArmed x s) := by
  cases l with
  | nil => rw [exec_snapshotLatch_cons h, foldl_soonerOf_keeps hr]
  | cons y l =>
    obtain ⟨hy, hl⟩ := List.forall_mem_cons.1 hl
    exact (exec_snapshotLatch_cons h).trans (congrArg (fun x => Host.Outcome.next (latchArmed x s)) (foldl_soonerOf_finds hr l y hy hl))

theorem exec_snapshotLatch_nil {s : State} (h : s.cnt.armed = []) : exec .snapshotLatch s = .next s := by
  show execSnapshotLatch s = _
  simp only [execSnapshotLatch, h]

theorem latchArmed_commanded {x : Snapshot} {s : State} (h : ¬(isAutoInstant x.instant s = true ∧ wNow s ≤ x.instant)) :
    latchArmed x s = latchSnapshot { x with automatic := false } (reachW x.instant s) := by
  have off : (isAutoInstant x.instant s && decide (wNow s ≤ x.instant)) = false := by
    rw [← Bool.not_eq_true, Bool.and_eq_true, decide_eq_true_eq]
    exact h
  simp only [latchArmed, off, Bool.false_eq_true, if_false]

theorem latchArmed_automatic {x : Snapshot} {s : State} (h : isAutoInstant x.instant s = true ∧ wNow s ≤ x.instant) :
    latchArmed x s = latchSnapshot { x with automatic := true } { reachW x.instant s with
      cnt := { (reachW x.instant s).cnt with lastAuto := some (autoIndex x.instant (reachW x.instant s)) } } := by
  have on : (isAutoInstant x.instant s && decide (wNow s ≤ x.instant)) = true := by
    rw [Bool.and_eq_true, decide_eq_true_eq]
    exact h
  simp only [latchArmed, on, if_true]

/-! A snapshot that is being written (R432). -/

/-- Where none is being written, the latch takes the counters as they stand into the bank of the next number. -/
theorem latchSnapshot_bank {x : Snapshot} {s : State} (h : s.cnt.writing = none) :
    (latchSnapshot x s).cnt.writing = some x
      ∧ (snapBank (latchSnapshot x s) (s.cnt.nextSeq % 2 ^ 32 % 2)).state = 1
      ∧ (snapBank (latchSnapshot x s) (s.cnt.nextSeq % 2 ^ 32 % 2)).seq = s.cnt.nextSeq % 2 ^ 32
      ∧ (snapBank (latchSnapshot x s) (s.cnt.nextSeq % 2 ^ 32 % 2)).counters = s.cnt.units
      ∧ (snapBank (latchSnapshot x s) (s.cnt.nextSeq % 2 ^ 32 % 2)).stats = s.cnt.stats
      ∧ (latchSnapshot x s).cnt.nextSeq = (s.cnt.nextSeq % 2 ^ 32 + 1) % 2 ^ 32 := by
  have idle : completeSnapshot s = s := by simp only [completeSnapshot, h]
  simp only [latchSnapshot, snapBank, idle, Tab.get_set, if_true, and_self]

/-- The bank of the snapshot in writing is complete and told (R432). -/
def tellSnapshot (s : State) : State :=
  if (snapBank s (writingBank s)).state = 2 then s
  else raiseInt 7 { s with cnt := { s.cnt with
    banks := Tab.set s.cnt.banks (writingBank s) { snapBank s (writingBank s) with state := 2 }
    snapSeq := BitVec.ofNat 32 (snapBank s (writingBank s)).seq, snapAny := true, snapBank := writingBank s } }

theorem clusterServes_of_signals {s t : State} (h : OnlySignals s t) : clusterServes t = clusterServes s := by
  rw [h]
  rfl

theorem clusterServes_tellSnapshot (s : State) : clusterServes (tellSnapshot s) = clusterServes s := by
  unfold tellSnapshot
  split
  · rfl
  · exact (clusterServes_of_signals (raiseInt_signals ..)).trans rfl

theorem completeSnapshot_of_writing {x : Snapshot} {s : State} (h : s.cnt.writing = some x) :
    completeSnapshot s = if clusterServes s = true then
        { x.tags.foldl (fun s t => snapReply t s) (tellSnapshot s) with
          cnt := { (x.tags.foldl (fun s t => snapReply t s) (tellSnapshot s)).cnt with writing := none } }
      else tellSnapshot s := by
  have told : completeSnapshot s = if (!clusterServes (tellSnapshot s)) = true then tellSnapshot s else
      { x.tags.foldl (fun s t => snapReply t s) (tellSnapshot s) with
        cnt := { (x.tags.foldl (fun s t => snapReply t s) (tellSnapshot s)).cnt with writing := none } } := by
    unfold completeSnapshot
    rw [h]
    rfl
  rw [told, clusterServes_tellSnapshot]
  cases clusterServes s <;> rfl

/-! The recorder (R437, R441, R442). -/

theorem exec_evrRecordWrite_oldest {ty : Nat} {b : Bytes} {rest : List (Nat × Bytes)} {s : State}
    (serves : clusterServes s = true) (clear : clearPending s = false) (h : s.evr.queue = (ty, b) :: rest) :
    exec .evrRecordWrite s = .next (recordNow ty b { s with evr := { s.evr with queue := rest } }) := by
  show execEvrRecordWrite s = _
  simp only [execEvrRecordWrite, serves, clear, h, Bool.not_true, Bool.false_eq_true, or_self, if_false]

theorem exec_evrRecordWrite_held {s : State} (h : clusterServes s = false ∨ clearPending s = true ∨ s.evr.queue = []) :
    exec .evrRecordWrite s = .next s := by
  show execEvrRecordWrite s = _
  unfold execEvrRecordWrite
  split
  · rfl
  next on =>
    obtain ⟨serves, clear⟩ := not_or.1 on
    have empty : s.evr.queue = [] := by
      obtain h | h | h := h
      · simp [h] at serves
      · exact absurd h clear
      · exact h
    simp only [empty]

/-- The log stands with its descriptor and no clear is under way. -/
def clearSettled (s : State) : State := { settleClear s with evr := { (settleClear s).evr with clearing := none } }

theorem clearSettled_recorder (s : State) : OnlyRecorder s (clearSettled s) :=
  .trans (settleClear_recorder s) (.of_evr _ _)

theorem completeClear_unasked {b : Bytes} {seq n : Nat} {s : State} (h : s.evr.clearing = some (b, seq, n, none)) :
    completeClear s = clearSettled s := by
  simp only [completeClear, h]
  rfl

theorem completeClear_asked {b : Bytes} {seq n : Nat} {k : Word16} {s : State} (h : s.evr.clearing = some (b, seq, n, some k)) :
    completeClear s = finalReply k stOk 0 (leBytes 4 seq ++ leBytes 4 n) (clearSettled s) := by
  simp only [completeClear, h]
  rfl

theorem completeClear_of_none {s : State} (h : s.evr.clearing = none) : completeClear s = s := by
  simp only [completeClear, h]

theorem exec_clearNonceExpiry_live {n : Bytes} {t : Nat} {s : State} (h : s.evr.nonce = some (n, t)) :
    exec .clearNonceExpiry s = .next { s with
      clk := Nat.max s.clk (t + 600000000000), evr := { s.evr with nonce := none } } := by
  show execClearNonceExpiry s = _
  simp only [execClearNonceExpiry, h]
  rfl

theorem exec_clearNonceExpiry_none {s : State} (h : s.evr.nonce = none) : exec .clearNonceExpiry s = .next s := by
  show execClearNonceExpiry s = _
  simp only [execClearNonceExpiry, h]

/-- Settles O57: the modes of a counter, the fold that finds the first armed snapshot, the snapshot in writing, and the recorder's
rows by what is queued, clearing or live. -/
theorem counterAndRecorderEvents : Obligations.CounterAndRecorderEvents := by
  unfold Obligations.CounterAndRecorderEvents
  refine ⟨fun c n _ _ => ⟨counterAdd_wraps, counterAdd_saturated, counterAdd_saturates, counterAdd_flags⟩, ?_,
    fun s => exec_snapshotLatch_nil, ?_, fun s => ⟨rfl, fun h => ?_, fun x h => ?_⟩, ?_,
    fun s => ⟨fun ty b rest => exec_evrRecordWrite_oldest, exec_evrRecordWrite_held⟩, fun s => ⟨fun b seq n t hs h => ?_, fun h => ?_⟩,
    fun s => ⟨fun n t => exec_clearNonceExpiry_live, exec_clearNonceExpiry_none⟩, ?_⟩
  · intro x l r s h hl hr auto u
    rw [exec_snapshotLatch_first h hl hr]
    exact ⟨fun ha => congrArg _ (latchArmed_commanded ha), fun ha => congrArg _ (latchArmed_automatic ha)⟩
  · intro x s h u b
    exact latchSnapshot_bank h
  · simp only [completeSnapshot, h]
  · intro k b u
    have row := completeSnapshot_of_writing h
    refine ⟨fun hs => ?_, fun hs ht => ?_, fun hs => ?_⟩
    · rw [row, if_neg (Bool.eq_false_iff.1 hs)]
      rfl
    · rw [row, if_pos hs, ht]
      rfl
    · rw [row, if_pos hs]
  · intro s due i0 i u
    have waits : (s.cnt.autoPeriod = 0 ∨ s.img.live.isNone = true) ↔ ¬due := by
      simp only [due, not_and_or, not_not, ne_eq, Option.isNone_iff_eq_none, Option.not_isSome_iff_eq_none]
    exact ⟨fun h => congrArg _ (if_neg (mt waits.1 (not_not.2 h))), fun h => congrArg _ (if_pos (waits.2 h))⟩
  · refine ⟨clearSettled s, rfl, clearSettled_recorder s, fun ht => ?_, fun k ht => ?_⟩
    · exact congrArg _ ((if_pos hs).trans (completeClear_unasked (by rw [h, ht])))
    · exact congrArg _ ((if_pos hs).trans (completeClear_asked (by rw [h, ht])))
  · obtain h | h := h
    · exact congrArg _ (if_neg (by simp [h]))
    · show Host.Outcome.next (if clusterServes s then completeClear s else s) = _
      rw [completeClear_of_none h, ite_self]
  · intro s may
    exact ⟨fun h => congrArg _ (if_pos h), fun h => congrArg _ (if_neg h)⟩

end Sys2Proof.Machine
/-!
PROOFS. What an event row leaves alone: for each group of rows the part of the state it touches, as a relation that composes,
and what the operations of that part do to it.
-/
namespace Sys2Proof.Machine

/-! The parts, beside the clock. -/

/-- Only the egress block and the clock differ. -/
def OnlyEgress (s t : State) : Prop := t = { s with egr := t.egr, clk := t.clk }

/-- Only the egress block, the clock, what leaves and what a record changes differ. -/
def OnlyVerification (s t : State) : Prop := OnlyRecorder { s with egr := t.egr, clk := t.clk, wire := t.wire } t

/-- Only the ports, the clock and what a record changes differ. -/
def OnlyPorts (s t : State) : Prop := OnlyRecorder { s with ports := t.ports, clk := t.clk } t

/-- Only the time block, the clock and what leaves differ. -/
def OnlyTimePins (s t : State) : Prop := t = { s with time := t.time, clk := t.clk, wire := t.wire }

/-- Only the time block, the clock, the frames with the blocks they enter and what a record changes differ. -/
def OnlyGptp (s t : State) : Prop :=
  OnlyRecorder { s with
    time := t.time, clk := t.clk, frames := t.frames, nextFrame := t.nextFrame, bsn := t.bsn, egr := t.egr
    cnt := t.cnt, wire := t.wire } t

/-- Only the bridge, the clock and what a record or a reply changes differ. -/
def OnlyBridge (s t : State) : Prop := OnlyRecorder { s with pb := t.pb, clk := t.clk } t

/-- Only the clock and what a record or a reply changes differ. -/
def OnlyLog (s t : State) : Prop := OnlyRecorder { s with clk := t.clk } t

/-- Only the counter block, the clock and what a reply changes differ. -/
def OnlySnapshots (s t : State) : Prop := OnlyTransports { s with cnt := t.cnt, clk := t.clk } t

section
variable {s t u : State}

theorem OnlyEgress.trans (h : OnlyEgress s t) (k : OnlyEgress t u) : OnlyEgress s u := by
  unfold OnlyEgress
  rw [k, h]

theorem OnlyVerification.trans (h : OnlyVerification s t) (k : OnlyVerification t u) : OnlyVerification s u := by
  unfold OnlyVerification OnlyRecorder
  rw [k, h]

theorem OnlyVerification.of_recorder (h : OnlyRecorder s t) : OnlyVerification s t := by
  unfold OnlyVerification OnlyRecorder
  rw [h]

theorem OnlyPorts.trans (h : OnlyPorts s t) (k : OnlyPorts t u) : OnlyPorts s u := by
  unfold OnlyPorts OnlyRecorder
  rw [k, h]

theorem OnlyPorts.of_recorder (h : OnlyRecorder s t) : OnlyPorts s t := by
  unfold OnlyPorts OnlyRecorder
  rw [h]

theorem OnlyTimePins.trans (h : OnlyTimePins s t) (k : OnlyTimePins t u) : OnlyTimePins s u := by
  unfold OnlyTimePins
  rw [k, h]

theorem OnlyGptp.trans (h : OnlyGptp s t) (k : OnlyGptp t u) : OnlyGptp s u := by
  unfold OnlyGptp OnlyRecorder
  rw [k, h]

theorem OnlyGptp.of_recorder (h : OnlyRecorder s t) : OnlyGptp s t := by
  unfold OnlyGptp OnlyRecorder
  rw [h]

theorem OnlyGptp.of_counters (h : OnlyCounters s t) : OnlyGptp s t := by
  unfold OnlyGptp OnlyRecorder
  rw [h]

theorem OnlyGptp.of_egress (h : OnlyEgress s t) : OnlyGptp s t := by
  unfold OnlyGptp OnlyRecorder
  rw [h]

theorem OnlyGptp.of_bsn (s : State) (b : Bsn) : OnlyGptp s { s with bsn := b } := rfl

theorem OnlyGptp.of_frames (s : State) (f : Tab Frame) (n : Nat) : OnlyGptp s { s with frames := f, nextFrame := n } := rfl

theorem OnlyBridge.of_pb (s : State) (x : Pb) : OnlyBridge s { s with pb := x } := rfl

theorem OnlySnapshots.of_cnt (s : State) (c : Cnt) : OnlySnapshots s { s with cnt := c } := rfl

theorem OnlyBridge.trans (h : OnlyBridge s t) (k : OnlyBridge t u) : OnlyBridge s u := by
  unfold OnlyBridge OnlyRecorder
  rw [k, h]

theorem OnlyBridge.of_recorder (h : OnlyRecorder s t) : OnlyBridge s t := by
  unfold OnlyBridge OnlyRecorder
  rw [h]

theorem OnlyLog.of_recorder (h : OnlyRecorder s t) : OnlyLog s t := by
  unfold OnlyLog OnlyRecorder
  rw [h]

theorem OnlySnapshots.trans (h : OnlySnapshots s t) (k : OnlySnapshots t u) : OnlySnapshots s u := by
  unfold OnlySnapshots OnlyTransports
  rw [k, h]

theorem OnlySnapshots.of_transports (h : OnlyTransports s t) : OnlySnapshots s t := by
  unfold OnlySnapshots OnlyTransports
  rw [h]

end

/-! The egress block. -/

theorem settle_egress (p : Nat) (s : State) : OnlyEgress s (settle p s) := by
  unfold settle
  dsimp only
  split <;> rfl

theorem wakeLpi_egress (p : Nat) (s : State) : OnlyEgress s (wakeLpi p s) := by
  unfold wakeLpi
  dsimp only
  split <;> rfl

/-! Frames that are sent from the cluster, with the counters and queues they enter. -/

theorem countReceived_counters (p len : Nat) (c : Bytes) (s : State) : OnlyCounters s (countReceived p len c s) := by
  unfold countReceived
  dsimp only
  have counted : OnlyCounters s (stat p 1 len (stat p 0 1 s)) := (stat_counters ..).trans (stat_counters ..)
  split_ifs
  · exact counted.trans (stat_counters ..)
  · exact counted.trans (stat_counters ..)
  · exact counted

theorem updDest_gptp (n p : Nat) (g : Dest → Dest) (s : State) : OnlyGptp s (updDest n p g s) := by
  unfold updDest
  split <;> rfl

theorem dispatchOne_gptp (p : Nat) (s : State) (n : Nat) : OnlyGptp s (dispatchOne p s n) := by
  unfold dispatchOne
  split
  · rfl
  · split
    · rfl
    · split
      · rfl
      · exact .trans (updDest_gptp ..) rfl

theorem dispatch_gptp (p : Nat) (s : State) : OnlyGptp s (dispatch p s) :=
  List.foldlRecOn (motive := fun u : State => OnlyGptp s u) _ _ rfl fun u hu n _ => hu.trans (dispatchOne_gptp p u n)

theorem enterQueue_gptp (n p : Nat) (s : State) : OnlyGptp s (enterQueue n p s) := by
  unfold enterQueue
  split
  · rfl
  next f _ =>
    have queued : OnlyGptp s { s with bsn := { s.bsn with
      queues := Tab.upd s.bsn.queues (8 * p + f.res.queue) [] (· ++ [n]) } } := rfl
    exact (queued.trans (.of_counters (countSource_counters ..))).trans (dispatch_gptp ..)

theorem assignSeqs_gptp (n : Nat) (rinsed : Bool) (l : List Nat) (s : State) : OnlyGptp s (assignSeqs n rinsed l s) := by
  induction l generalizing s with
  | nil => rfl
  | cons q qs ih =>
    unfold assignSeqs
    split
    · rfl
    next f _ =>
      extract_lets s1 k v d _ s2 s3 s4
      have numbered : OnlyGptp s s3 := .trans (.of_egress (settle_egress q s)) rfl
      have queued : OnlyGptp s s4 := by
        simp only [s4]
        split
        · exact numbered.trans (enterQueue_gptp ..)
        · exact numbered
      exact queued.trans (ih s4)

/-- A count of raisings, or none. -/
theorem bpAct_gptp (p old new : Nat) (s : State) : OnlyGptp s (bpAct p old new s) := by
  unfold bpAct
  extract_lets s1 s2 e
  have woken : OnlyGptp s s1 := by
    simp only [s1]
    split
    · exact .of_egress (wakeLpi_egress p s)
    · rfl
  have counted : OnlyGptp s s2 := by
    refine List.foldlRecOn (motive := fun u : State => OnlyGptp s u) _ _ woken fun u hu c _ => ?_
    split
    · have raised : OnlyGptp u { u with bsn := { u.bsn with raisings := Tab.upd u.bsn.raisings p 0 (· + 1) } } := rfl
      exact hu.trans (raised.trans (.of_counters (countSource_counters ..)))
    · exact hu
  refine counted.trans ?_
  split
  · split <;> rfl
  · rfl
  · split_ifs <;> rfl
  · rfl

theorem refreshBp_gptp (s : State) : OnlyGptp s (refreshBp s) := by
  unfold refreshBp
  refine List.foldlRecOn (motive := fun u : State => OnlyGptp s u) _ _ rfl fun u hu p _ => ?_
  dsimp only
  split
  · exact hu
  · exact hu.trans (.trans (.of_bsn u _) (bpAct_gptp ..))

theorem chargeFrame_gptp (n c : Nat) (s : State) : OnlyGptp s (chargeFrame n c s) := by
  unfold chargeFrame
  split
  · rfl
  next f _ =>
    extract_lets bp sched mp r
    split
    next a b d h _ =>
      extract_lets s1 overs s2 _ s3
      refine .trans ?_ (refreshBp_gptp s3)
      have charged : OnlyGptp s s1 := rfl
      have counted : OnlyGptp s s2 := charged.trans (.of_counters (countSource_counters ..))
      simp only [s3]
      split_ifs
      · exact charged
      · exact counted
      · exact (counted.trans (.of_bsn s2 _)).trans (.of_recorder (record_recorder ..))

theorem sendGptp_gptp (p : Nat) (m : GptpTx) (s : State) : OnlyGptp s (sendGptp p m s) := by
  unfold sendGptp
  split
  · rfl
  · dsimp only
    refine .trans ?_ (refreshBp_gptp _)
    refine .trans ?_ (assignSeqs_gptp ..)
    refine .trans ?_ (chargeFrame_gptp ..)
    exact .trans (.of_frames s _ _) (.of_counters (countReceived_counters ..))

theorem sendEach_gptp (ports : List Nat) (m : GptpTx) (s : State) : OnlyGptp s (sendEach ports m s) :=
  List.foldlRecOn (motive := fun u : State => OnlyGptp s u) _ _ rfl fun u hu p _ => hu.trans (sendGptp_gptp p m u)

/-! Bridge accesses. -/

theorem sendRequest_bridge (o : PbOpen) (s : State) : OnlyBridge s (sendRequest o s) := rfl

theorem completePb_bridge (tag : Option Word16) (code : Nat) (data : Bytes) (s : State) :
    OnlyBridge s (completePb tag code data s) := by
  unfold completePb
  dsimp only
  split
  · exact .trans (.of_pb s _) (.of_recorder (.of_transports (finalReply_transports ..)))
  · rfl

theorem endOpen_bridge (o : PbOpen) (code : Nat) (data : Bytes) (s : State) : OnlyBridge s (endOpen o code data s) :=
  (OnlyBridge.trans (.of_pb s _) (.of_pb _ _)).trans (completePb_bridge ..)

theorem issuePb_bridge (tag : Option Word16) (r : PbAccess) (s : State) : OnlyBridge s (issuePb tag r s) := by
  unfold issuePb
  split
  · exact completePb_bridge ..
  · dsimp only
    split
    · exact (OnlyBridge.trans (.of_pb s _) (sendRequest_bridge ..)).trans (completePb_bridge ..)
    · rfl

/-! Snapshots. -/

theorem snapReply_transports (t : Word16) (s : State) : OnlyTransports s (snapReply t s) := by
  unfold snapReply
  split
  · rfl
  · dsimp only
    refine .trans ?_ (finalReply_transports ..)
    split <;> rfl

theorem completeSnapshot_snapshots (s : State) : OnlySnapshots s (completeSnapshot s) := by
  cases h : s.cnt.writing with
  | none =>
    rw [show completeSnapshot s = s by simp only [completeSnapshot, h]]
    rfl
  | some x =>
    have told : OnlySnapshots s (tellSnapshot s) := by
      unfold tellSnapshot
      split
      · rfl
      · exact .trans (.of_cnt s _) (.of_transports (.of_signals (raiseInt_signals ..)))
    rw [completeSnapshot_of_writing h]
    split
    · have replied : OnlySnapshots s (x.tags.foldl (fun s t => snapReply t s) (tellSnapshot s)) :=
        List.foldlRecOn (motive := fun u : State => OnlySnapshots s u) _ _ told
          fun u hu t _ => hu.trans (.of_transports (snapReply_transports t u))
      exact replied.trans rfl
    · exact told

theorem latchSnapshot_snapshots (x : Snapshot) (s : State) : OnlySnapshots s (latchSnapshot x s) :=
  (completeSnapshot_snapshots s).trans rfl

end Sys2Proof.Machine
/-!
PROOFS. The frames of the event rows (O58): each row by the branches of its definition, through what its operations leave alone.
-/
namespace Sys2Proof.Machine

section
variable {s t : State}

/-! Pause, gate and verification rows. -/

theorem pauseExpiry_frame {p : Port} {c : Option (Fin 8)} (h : exec (.pauseExpiry p c) s = .next t) : OnlyEgress s t := by
  obtain rfl := Host.Outcome.next.inj h
  dsimp only
  split
  next at_ _ => exact (OnlyEgress.trans (t := reachClock at_ s) rfl (settle_egress ..)).trans rfl
  · rfl

theorem pfcRefresh_frame {p : Port} {k : Fin 8} (h : exec (.pfcRefresh p k) s = .next t) : OnlyEgress s t := by
  obtain rfl := Host.Outcome.next.inj h
  extract_lets mode raised
  split
  · exact (OnlyEgress.trans (t := reachClock _ s) rfl (wakeLpi_egress ..)).trans rfl
  · rfl

theorem plcaHoldExpiry_frame {p : Port} (h : exec (.plcaHoldExpiry p) s = .next t) : OnlyEgress s t := by
  obtain rfl := Host.Outcome.next.inj h
  dsimp only
  split_ifs <;> rfl

theorem gateEntryChange_frame {p : Port} (h : exec (.gateEntryChange p) s = .next t) : OnlyEgress s t := by
  obtain rfl := Host.Outcome.next.inj h
  dsimp only
  split
  · have settled : ∀ i : Int, OnlyEgress s (settle p.val (reachW i s)) := fun i => .trans (t := reachW i s) rfl (settle_egress ..)
    split_ifs
    · exact (settled _).trans rfl
    · exact (settled _).trans rfl
    · exact settled _
  · rfl

theorem preemptResponseRx_frame {p : Port} (h : exec (.preemptResponseRx p) s = .next t) : OnlyEgress s t := by
  obtain rfl := Host.Outcome.next.inj h
  split <;> rfl

theorem pfcStuck_frame {p : Port} {c : Option (Fin 8)} (h : exec (.pfcStuck p c) s = .next t) : OnlyVerification s t := by
  obtain rfl := Host.Outcome.next.inj h
  dsimp only
  split
  · exact (OnlyVerification.trans (t := reachClock _ s) rfl (.of_recorder (record_recorder ..))).trans rfl
  · rfl

theorem preemptVerify_frame {p : Port} (h : exec (.preemptVerify p) s = .next t) : OnlyVerification s t := by
  obtain rfl := Host.Outcome.next.inj h
  dsimp only
  split_ifs
  · rfl
  · rfl
  · exact .trans (t := setEgress _ _ (reachClock _ s)) rfl (.of_recorder (record_recorder ..))

/-! Ports. -/

theorem recordLimited_recorder (ty obj : Nat) (body : Nat → Bytes) (s : State) : OnlyRecorder s (recordLimited ty obj body s) := by
  unfold recordLimited
  dsimp only
  split
  · rfl
  · exact .trans (.of_evr s _) (record_recorder ..)

theorem phyCoeffStale_frame {p : Port} (h : exec (.phyCoeffStale p) s = .next t) : OnlyPorts s t := by
  obtain rfl := Host.Outcome.next.inj h
  dsimp only
  split
  · exact .trans (t := setPort _ _ (reachClock _ s)) rfl (.of_recorder (record_recorder ..))
  · rfl

theorem plcaBeaconRx_frame {p : Port} (h : exec (.plcaBeaconRx p) s = .next t) : OnlyPorts s t := by
  obtain rfl := Host.Outcome.next.inj h
  dsimp only
  split_ifs
  · rfl
  · exact .trans (t := setPort _ _ s) rfl (.of_recorder (recordLimited_recorder ..))
  · rfl
  · rfl

theorem plcaLost_frame {p : Port} (h : exec (.plcaLost p) s = .next t) : OnlyPorts s t := by
  obtain rfl := Host.Outcome.next.inj h
  dsimp only
  split
  · exact .trans (t := setPort _ _ (reachClock _ s)) rfl (.of_recorder (record_recorder ..))
  · rfl

/-! The time pins and the gPTP rows. -/

theorem reachTimeline_pins (n : Nat) (v : Int) (s : State) : OnlyTimePins s (reachTimeline n v s) := by
  unfold reachTimeline
  split <;> rfl

theorem ppsOutEdge_frame {b : Bool} (h : exec (.ppsOutEdge b) s = .next t) : OnlyTimePins s t := by
  obtain rfl := Host.Outcome.next.inj h
  dsimp only
  split_ifs
  · exact (reachTimeline_pins ..).trans rfl
  · rfl
  · exact (reachTimeline_pins ..).trans rfl
  · rfl

theorem tsyncOutputEdge_frame {n : Fin 4} {b : Bool} (h : exec (.tsyncOutputEdge n b) s = .next t) : OnlyTimePins s t := by
  obtain rfl := Host.Outcome.next.inj h
  dsimp only
  split_ifs
  · rfl
  · rfl
  · exact (reachTimeline_pins ..).trans rfl
  · exact (reachTimeline_pins ..).trans rfl
  · rfl

theorem announceTimer_frame (h : exec .announceTimer s = .next t) : OnlyGptp s t := by
  obtain rfl := Host.Outcome.next.inj h
  split
  · rfl
  · refine List.foldlRecOn (motive := fun u : State => OnlyGptp s u) _ _ rfl fun u hu d _ => ?_
    dsimp only
    split
    · exact hu
    · exact hu.trans (.trans (t := setDom d _ u) rfl (sendEach_gptp ..))

theorem pdelayTimer_frame (h : exec .pdelayTimer s = .next t) : OnlyGptp s t := by
  obtain rfl := Host.Outcome.next.inj h
  split
  · rfl
  · exact List.foldlRecOn (motive := fun u : State => OnlyGptp s u) _ _ rfl
      fun u hu p _ => hu.trans (.trans (t := setDelay p _ u) rfl (sendGptp_gptp ..))

theorem pdelayMessageRx_frame {p : Port} {m : PdelayMessage} (h : exec (.pdelayMessageRx p m) s = .next t) : OnlyGptp s t := by
  obtain rfl := Host.Outcome.next.inj h
  split
  · rfl
  · dsimp only
    split
    · exact sendGptp_gptp ..
    · split <;> rfl
    · split
      · split <;> rfl
      · rfl

theorem syncOriginate_frame {d : Fin 4} (h : exec (.syncOriginate d) s = .next t) : OnlyGptp s t := by
  obtain rfl := Host.Outcome.next.inj h
  dsimp only
  split_ifs
  · rfl
  · exact .trans (t := takeSyncSeq _ (setDom _ _ (reachClock _ s))) rfl (sendEach_gptp ..)
  · rfl

/-! Bridge accesses. -/

theorem pbRequest_frame {r : PbAccess} (h : exec (.pbRequest r) s = .next t) : OnlyBridge s t := by
  obtain rfl := Host.Outcome.next.inj h
  split
  · rfl
  · exact issuePb_bridge ..

theorem pbResponseRx_frame {id : Nat} {code : Fin 8} {b : Bytes} (h : exec (.pbResponseRx id code b) s = .next t) :
    OnlyBridge s t := by
  obtain rfl := Host.Outcome.next.inj h
  split
  · split_ifs
    · rfl
    · rfl
    · exact endOpen_bridge ..
  · rfl

theorem pbPostedErr_frame {id : Nat} {code : Fin 8} (h : exec (.pbPostedErr id code) s = .next t) : OnlyBridge s t := by
  obtain rfl := Host.Outcome.next.inj h
  split
  · split
    · exact (OnlyBridge.trans (t := closeOpen id s) rfl (.of_recorder (record_recorder ..))).trans
        (.of_recorder (.of_transports (.of_signals (raiseInt_signals ..))))
    · rfl
  · rfl

theorem pbTimeout_frame {id : Nat} (h : exec (.pbTimeout id) s = .next t) : OnlyBridge s t := by
  obtain rfl := Host.Outcome.next.inj h
  split
  · split
    · rfl
    · exact .trans (t := reachClock _ s) rfl (endOpen_bridge ..)
  · rfl

theorem pbBackoffResend_frame (h : exec .pbBackoffResend s = .next t) : OnlyBridge s t := by
  rw [exec_pbBackoffResend] at h
  obtain rfl := Host.Outcome.next.inj h
  split
  · rfl
  · have reached : OnlyBridge s (resendClock s) := by
      rw [resendClock_eq]
      rfl
    have sent := List.foldlRecOn (motive := fun u : State => OnlyBridge s u)
      (s.pb.open_.filter (fun (o : PbOpen) => o.withdrawn)) (fun s (o : PbOpen) => sendRequest o s) reached
      fun u hu o _ => hu.trans (sendRequest_bridge o u)
    exact sent.trans rfl

/-! The recorder. -/

theorem countUnrecorded_recorder (n : Nat) (s : State) : OnlyRecorder s (countUnrecorded n s) := rfl

theorem recordNow_recorder (ty : Nat) (body : Bytes) (s : State) : OnlyRecorder s (recordNow ty body s) := by
  unfold recordNow
  split
  · exact (writeRecord_recorder ..).trans (countUnrecorded_recorder ..)
  · exact writeRecord_recorder ..

theorem completeClear_recorder (s : State) : OnlyRecorder s (completeClear s) := by
  cases h : s.evr.clearing with
  | none => rw [completeClear_of_none h]; rfl
  | some x =>
    obtain ⟨b, seq, n, asked⟩ := x
    cases asked with
    | none =>
      rw [completeClear_unasked h]
      exact clearSettled_recorder s
    | some k =>
      rw [completeClear_asked h]
      exact (clearSettled_recorder s).trans (.of_transports (finalReply_transports ..))

theorem evrRecordWrite_frame (h : exec .evrRecordWrite s = .next t) : OnlyLog s t := by
  obtain rfl := Host.Outcome.next.inj h
  split
  · rfl
  · split
    · rfl
    · exact .of_recorder (.trans (.of_evr s _) (recordNow_recorder ..))

theorem evrClearComplete_frame (h : exec .evrClearComplete s = .next t) : OnlyLog s t := by
  obtain rfl := Host.Outcome.next.inj h
  split
  · exact .of_recorder (completeClear_recorder s)
  · rfl

theorem clearNonceExpiry_frame (h : exec .clearNonceExpiry s = .next t) : OnlyLog s t := by
  obtain rfl := Host.Outcome.next.inj h
  split <;> rfl

/-! Pins of the safety functions and the pair. -/

/-- Only ESM_ACK, the pair, the clock and what leaves differ. -/
def OnlyPairPins (s t : State) : Prop :=
  t = { s with saf := { s.saf with esmAck := t.saf.esmAck }, pair := t.pair, clk := t.clk, wire := t.wire }

theorem setEsmAck_pins (high : Bool) (s : State) : OnlyPairPins s (setEsmAck high s) := by
  unfold setEsmAck
  split <;> rfl

theorem esmReqRise_frame (h : exec .esmReqRise s = .next t) : OnlyPairPins s t := by
  obtain rfl := Host.Outcome.next.inj h
  split
  · exact setEsmAck_pins ..
  · rfl

theorem esmReqFall_frame (h : exec .esmReqFall s = .next t) : OnlyPairPins s t := by
  obtain rfl := Host.Outcome.next.inj h
  exact setEsmAck_pins ..

theorem peerHlthToggle_frame (h : exec .peerHlthToggle s = .next t) : OnlyPairPins s t := by
  obtain rfl := Host.Outcome.next.inj h
  split
  · rfl
  · unfold hlthLow
    split <;> rfl

theorem mlGoingDownRx_frame (h : exec .mlGoingDownRx s = .next t) : OnlyPairPins s t := by
  obtain rfl := Host.Outcome.next.inj h
  split <;> rfl

theorem controlTx_frame (h : exec .controlTx s = .next t) : OnlyPairPins s t := by
  obtain rfl := Host.Outcome.next.inj h
  split <;> rfl

theorem mlRoleRx_frame {m : RoleFrame} (h : exec (.mlRoleRx m) s = .next t) : t = { s with pair := t.pair, wire := t.wire } := by
  obtain rfl := Host.Outcome.next.inj h
  split
  · rfl
  · dsimp only
    split
    · rfl
    · split <;> split <;> rfl

/-! Learned addresses, snapshots and FRER timers. -/

theorem learnAgeing_frame {vid mac : Nat} (h : exec (.learnAgeing vid mac) s = .next t) :
    t = { s with bsn := { s.bsn with learned := t.bsn.learned }, clk := t.clk } := by
  obtain rfl := Host.Outcome.next.inj h
  split <;> rfl

theorem snapshotComplete_frame (h : exec .snapshotComplete s = .next t) : OnlySnapshots s t := by
  obtain rfl := Host.Outcome.next.inj h
  exact completeSnapshot_snapshots s

theorem latchArmed_snapshots (x : Snapshot) (s : State) : OnlySnapshots s (latchArmed x s) := by
  unfold latchArmed
  dsimp only
  refine .trans ?_ (latchSnapshot_snapshots ..)
  split <;> rfl

theorem snapshotLatch_frame (h : exec .snapshotLatch s = .next t) : OnlySnapshots s t := by
  cases ha : s.cnt.armed with
  | nil =>
    rw [exec_snapshotLatch_nil ha] at h
    obtain rfl := Host.Outcome.next.inj h
    rfl
  | cons a rest =>
    rw [exec_snapshotLatch_cons ha] at h
    obtain rfl := Host.Outcome.next.inj h
    exact latchArmed_snapshots ..

theorem autoSnapshot_frame (h : exec .autoSnapshot s = .next t) : OnlySnapshots s t := by
  obtain rfl := Host.Outcome.next.inj h
  dsimp only
  split
  · rfl
  · exact .trans (.trans (t := reachW _ s) rfl (.of_cnt _ _)) (latchSnapshot_snapshots ..)

/-- Only the egress block, the clock and what a count changes differ. -/
def OnlyFrer (s t : State) : Prop := OnlyCounters { s with egr := t.egr, clk := t.clk } t

theorem setRecovery_egress (e p : Nat) (r : Recovery) (s : State) : OnlyEgress s (setRecovery e p r s) := rfl

theorem countFrer_frer (e p k n : Nat) (s u : State) (h : OnlyEgress s u) : OnlyFrer s (countFrer e p k n u) := by
  have counted : ∀ v : State, OnlyEgress s v → ∀ w : State, OnlyCounters v w → OnlyFrer s w := by
    intro v hv w hw
    unfold OnlyFrer OnlyCounters
    rw [hw, hv]
  unfold countFrer
  split
  · exact counted u h u rfl
  · exact counted _ (h.trans (setRecovery_egress ..)) _ (countSource_counters ..)

theorem frerResetTimer_frame {e : Nat} {p : Port} (h : exec (.frerResetTimer e p) s = .next t) : OnlyFrer s t := by
  obtain rfl := Host.Outcome.next.inj h
  split
  · split
    · exact countFrer_frer _ _ _ _ _ _ rfl
    · rfl
  · rfl

end

/-- Settles O58: each row's frame, from the branches of its definition. -/
theorem eventFrames : Obligations.EventFrames := by
  unfold Obligations.EventFrames
  intro s t
  simp only [List.forall_mem_cons, List.not_mem_nil, false_implies, implies_true, and_true]
  exact ⟨fun p c k => ⟨pauseExpiry_frame, pfcRefresh_frame, plcaHoldExpiry_frame, gateEntryChange_frame, preemptResponseRx_frame⟩,
    fun p c => ⟨pfcStuck_frame, preemptVerify_frame⟩,
    fun p => ⟨phyCoeffStale_frame, plcaBeaconRx_frame, plcaLost_frame⟩,
    fun b n => ⟨ppsOutEdge_frame, tsyncOutputEdge_frame⟩,
    fun d p m => ⟨announceTimer_frame, pdelayTimer_frame, pdelayMessageRx_frame, syncOriginate_frame⟩,
    fun r id code b => ⟨pbRequest_frame, pbResponseRx_frame, pbPostedErr_frame, pbTimeout_frame, pbBackoffResend_frame⟩,
    ⟨evrRecordWrite_frame, evrClearComplete_frame, clearNonceExpiry_frame⟩,
    ⟨esmReqRise_frame, esmReqFall_frame, peerHlthToggle_frame, mlGoingDownRx_frame, controlTx_frame⟩,
    fun m => mlRoleRx_frame, fun vid mac => learnAgeing_frame,
    ⟨snapshotComplete_frame, snapshotLatch_frame, autoSnapshot_frame⟩, fun e p => frerResetTimer_frame⟩

end Sys2Proof.Machine
